-- ==== Sys2Proof/Word.lean ====
section
/-! DEFINITION. The word types of the block and the shape of every sparse table of its state. -/

namespace Sys2Proof

/-- One byte. -/
abbrev Byte := BitVec 8

/-- One 32-bit register word of window 0 (R445). -/
abbrev Word := BitVec 32

/-- A 64-bit scalar (R116). -/
abbrev Dword := BitVec 64

/-- A sparse table: pairs of a key and a value, keys strictly rising, no entry equal to what an unlisted key
reads as.  Every register file, queue table and memory of the block is one. -/
abbrev Tab (α : Type) := List (Nat × α)

end Sys2Proof
end

