-- ==== Sys2Proof/Config.lean ====
section
/-! DEFINITION. What an implementation fixes and the spec leaves open: free values, opaque constants that nothing can
evaluate.  Each is applied to the count of free values taken so far, so that every use is a fresh value. -/

namespace Sys2Proof.Config

/-- The code of one column conversion before the bound of R77 is applied; 1,024 or more stands for the over-range
decision (R43).  Arguments: free count, conversion, physical column. -/
opaque freeAdc : Nat → Nat → Nat → Nat

/-- When a conversion falls within its product: which of the temperatures of the product's run it meets, and how far its
start lies behind it (R77, R82).  Arguments: free count, twice the conversion or one more. -/
opaque freeMoment : Nat → Nat → Nat

/-- How far an engine's command has come when something else acts on the cluster.  Argument: free count. -/
opaque freeProgress : Nat → Nat

/-- The 64-bit checksum of a save image (R132), whose function the spec does not give. -/
opaque checksum : List (BitVec 8) → BitVec 64

/-- An FP32 pattern offered for a function that R76 and R215 bound within 2 ulp (exp, ln, reciprocal). -/
opaque freeUlp : Nat → Nat → BitVec 32

/-- An inverse RFFT divides by n (R163). -/
opaque fftScaled : Bool

/-- The exponential of the sampler, a function of its FP32 argument (R215). -/
opaque fpExp : BitVec 32 → BitVec 32

/-- The logarithm of the sampler on an FP32 argument, and its inner one on the exact u of a noise word (R215). -/
opaque fpLn : BitVec 32 → BitVec 32
opaque fpLnU : BitVec 32 → BitVec 32

/-- The 1,024 raw bits of the noise source that boot instantiates a generator from (R203, R206).  Arguments: free count, generator. -/
opaque freeRaw : Nat → Nat → BitVec 1024

/-- A digest, signature, certificate or other byte string whose content the spec does not give.  Arguments: free count,
number of bytes, position. -/
opaque freeByte : Nat → Nat → BitVec 8

/-- A model's step needs an input frame that no earlier step has consumed (R28), which its program alone tells.  Arguments: the module's digest,
the model, the step index, frames consumed. -/
opaque needsFrame : Nat → Nat → Nat → Nat → Bool

/-- An unstated 64-bit result. -/
opaque freeWord : Nat → BitVec 64

/-- The fused energy coefficients of R260 by activity, in femtojoules. -/
opaque energyCoef : Nat → Nat

/-- The device serial of the fuses (R384), 16 bytes. -/
opaque serial : BitVec 128

/-- The SHA-384 of the device identity public key, the digest of the boot ROM and the lifecycle fuses (R384, R386). -/
opaque keyHash : BitVec 384
opaque romDigest : BitVec 384
opaque lifecycle : BitVec 8

/-- Subsystem vendor and subsystem ID of the boot flash image, where it holds them (R301). -/
opaque subsystem : Option (Nat × Nat)

/-- Byte 0x0100 of the boot flash's configuration area (R483). -/
opaque slewByte : BitVec 8

/-- The certificate chain of the boot flash (R379). -/
opaque certChain : List (BitVec 8)

end Sys2Proof.Config
end

