-- ==== Sys2Proof/Machine/Tab.lean ====
section
/-! DEFINITION. Reading and writing the sparse tables of State, in their one canonical form. -/

namespace Sys2Proof.Machine
open Sys2Proof

/-- The entry listed for key `k`. -/
def tabFind {α : Type} : Tab α → Nat → Option α
  | [], _ => none
  | (j, v) :: t, k => if j = k then some v else tabFind t k

/-- What key `k` reads as: the listed value, or `d` where none is listed. -/
def tabGet {α : Type} (d : α) (t : Tab α) (k : Nat) : α :=
  (tabFind t k).getD d

/-- The table with no entry for `k`. -/
def tabErase {α : Type} : Tab α → Nat → Tab α
  | [], _ => []
  | (j, v) :: t, k => if j = k then tabErase t k else (j, v) :: tabErase t k

/-- The table with `v` listed at `k`, keys kept rising. -/
def tabPut {α : Type} : Tab α → Nat → α → Tab α
  | [], k, v => [(k, v)]
  | (j, w) :: t, k, v =>
    if k < j then (k, v) :: (j, w) :: t
    else if k = j then (k, v) :: t
    else (j, w) :: tabPut t k v

/-- The table with key `k` reading `v`; writing what an unlisted key reads as removes the entry. -/
def tabSet {α : Type} [DecidableEq α] (d : α) (t : Tab α) (k : Nat) (v : α) : Tab α :=
  if v = d then tabErase t k else tabPut t k v

/-- The table with key `k` changed by `f`. -/
def tabMod {α : Type} [DecidableEq α] (d : α) (t : Tab α) (k : Nat) (f : α → α) : Tab α :=
  tabSet d t k (f (tabGet d t k))

/-- Keys strictly rising. -/
def tabRising {α : Type} : Tab α → Bool
  | [] => true
  | [_] => true
  | (j, _) :: (k, w) :: t => decide (j < k) && tabRising ((k, w) :: t)

/-- The canonical form: keys strictly rising and no listed entry equal to the default. -/
def tabWf {α : Type} [DecidableEq α] (d : α) (t : Tab α) : Bool :=
  tabRising t && t.all (fun e => decide (e.2 ≠ d))

/-- A byte memory reads 0 where nothing is listed. -/
def memByte (m : List (Nat × BitVec 8)) (a : Nat) : BitVec 8 := tabGet 0 m a

/-- Write one byte. -/
def memPut (m : List (Nat × BitVec 8)) (a : Nat) (b : BitVec 8) : List (Nat × BitVec 8) := tabSet 0 m a b

/-- The canonical form of a byte memory. -/
def memWf (m : List (Nat × BitVec 8)) : Bool := tabWf (0 : BitVec 8) m

/-- `n` bytes from address `a` up, lowest address first. -/
def memBytes (m : List (Nat × BitVec 8)) (a : Nat) : Nat → List (BitVec 8)
  | 0 => []
  | n + 1 => memByte m a :: memBytes m (a + 1) n

/-- Write bytes from address `a` up. -/
def memPutBytes (m : List (Nat × BitVec 8)) (a : Nat) : List (BitVec 8) → List (Nat × BitVec 8)
  | [] => m
  | b :: bs => memPutBytes (memPut m a b) (a + 1) bs

/-- The number that bytes spell, lowest byte first (every multi-byte value of the device is little-endian). -/
def leNat : List (BitVec 8) → Nat
  | [] => 0
  | b :: bs => b.toNat + 256 * leNat bs

/-- The `n` bytes of a number, lowest first. -/
def natLe (v : Nat) : Nat → List (BitVec 8)
  | 0 => []
  | n + 1 => BitVec.ofNat 8 v :: natLe (v / 256) n

/-- An `n`-byte little-endian value. -/
def memLe (m : List (Nat × BitVec 8)) (a n : Nat) : Nat := leNat (memBytes m a n)

/-- Every byte of `[lo, lo + n)` set to zero. -/
def memZero (m : List (Nat × BitVec 8)) (lo n : Nat) : List (Nat × BitVec 8) :=
  m.filter (fun c => !(decide (lo ≤ c.1) && decide (c.1 < lo + n)))

/-- Bits `[hi:lo]` of a number. -/
def bitsOf (v hi lo : Nat) : Nat := v / 2 ^ lo % 2 ^ (hi - lo + 1)

/-- A number of `w` bits read as two's complement. -/
def signedOf (w v : Nat) : Int := if v < 2 ^ (w - 1) then (v : Int) else (v : Int) - (2 ^ w : Nat)

/-- The low `w` bits of an integer, as a number. -/
def wrapOf (w : Nat) (i : Int) : Nat := (i % ((2 ^ w : Nat) : Int)).toNat

/-- An integer clamped to `[lo, hi]`. -/
def clampInt (lo hi i : Int) : Int := if i < lo then lo else if hi < i then hi else i

/-- A number clamped to `[lo, hi]`. -/
def clampNat (lo hi n : Nat) : Nat := if n < lo then lo else if hi < n then hi else n

/-- `⌈a / b⌉`. -/
def ceilDiv (a b : Nat) : Nat := (a + b - 1) / b

/-- `0, 1, …, n - 1`. -/
def upTo (n : Nat) : List Nat := List.range n

end Sys2Proof.Machine
end

