-- ==== Sys2Proof/Machine/Float.lean ====
section
/-! DEFINITION. The number formats of R64 and the arithmetic of R76: exact values, one rounding to nearest even. -/

namespace Sys2Proof.Machine
open Sys2Proof

/-- A float read exactly: not a number, an infinity, or plus or minus `m × 2^e`. -/
inductive Fl where
  | nan
  | inf (neg : Bool)
  | fin (neg : Bool) (m : Nat) (e : Int)
deriving DecidableEq, Repr

/-- The element formats of a vector handle (R117), by their codes 0–6. -/
inductive Fmt where
  | int4 | int8 | int16 | int32 | bf16 | fp16 | fp32
deriving DecidableEq, Repr

/-- The format a handle's `fmt` code names; codes 7–15 are reserved. -/
def fmtOfCode : Nat → Option Fmt
  | 0 => some .int4 | 1 => some .int8 | 2 => some .int16 | 3 => some .int32
  | 4 => some .bf16 | 5 => some .fp16 | 6 => some .fp32 | _ => none

/-- Bits of one element. -/
def fmtBits : Fmt → Nat
  | .int4 => 4 | .int8 => 8 | .int16 => 16 | .int32 => 32 | .bf16 => 16 | .fp16 => 16 | .fp32 => 32

/-- BF16, FP16 and FP32 are the float formats. -/
def fmtIsFloat : Fmt → Bool
  | .bf16 | .fp16 | .fp32 => true
  | _ => false

/-- Exponent bits of a float format. -/
def fmtExpBits : Fmt → Nat
  | .fp16 => 5 | _ => 8

/-- Fraction bits of a float format. -/
def fmtFracBits : Fmt → Nat
  | .bf16 => 7 | .fp16 => 10 | _ => 23

/-- Exponent bias. -/
def fmtBias (f : Fmt) : Nat := 2 ^ (fmtExpBits f - 1) - 1

/-- FP16 keeps subnormals; BF16 and FP32 read and write them as zero (R76). -/
def fmtKeepsSub : Fmt → Bool
  | .fp16 => true | _ => false

/-- Round a quotient to the nearest integer, a tie to the even one. -/
def rneDiv (n d : Nat) : Nat :=
  let q := n / d
  let r := n % d
  if 2 * r < d then q else if 2 * r > d then q + 1 else q + q % 2

/-- Round a signed quotient to the nearest integer, a tie to the even one. -/
def rneDivInt (n : Int) (d : Nat) : Int :=
  if n < 0 then - (rneDiv n.natAbs d : Int) else (rneDiv n.natAbs d : Int)

/-- `2^i` as a numerator. -/
def pow2Num (i : Int) : Nat := 2 ^ i.toNat

/-- `2^(-i)` as a denominator. -/
def pow2Den (i : Int) : Nat := 2 ^ (-i).toNat

/-- Read the bits of a float (R76: BF16 and FP32 subnormals read as zero of the same sign). -/
def flOfBits (f : Fmt) (w : Nat) : Fl :=
  let fb := fmtFracBits f
  let eb := fmtExpBits f
  let neg := bitsOf w (fb + eb) (fb + eb) = 1
  let ex := bitsOf w (fb + eb - 1) fb
  let fr := w % 2 ^ fb
  if ex = 2 ^ eb - 1 then (if fr = 0 then .inf neg else .nan)
  else if ex = 0 then
    if fmtKeepsSub f then .fin neg fr (1 - (fmtBias f : Int) - fb) else .fin neg 0 0
  else .fin neg (2 ^ fb + fr) ((ex : Int) - fmtBias f - fb)

/-- The canonical quiet NaN of a format (R76). -/
def nanBits : Fmt → Nat
  | .bf16 => 0x7FC0 | .fp16 => 0x7E00 | _ => 0x7FC00000

/-- The bits of an infinity. -/
def infBits (f : Fmt) (neg : Bool) : Nat :=
  (if neg then 2 ^ (fmtFracBits f + fmtExpBits f) else 0) + (2 ^ fmtExpBits f - 1) * 2 ^ fmtFracBits f

/-- The bits of a zero. -/
def zeroBits (f : Fmt) (neg : Bool) : Nat := if neg then 2 ^ (fmtFracBits f + fmtExpBits f) else 0

/-- `⌊log2 (n / d)⌋` for positive `n` and `d`. -/
def floorLog2 (n d : Nat) : Int :=
  let l : Int := (Nat.log2 n : Int) - (Nat.log2 d : Int)
  if n * pow2Den l < d * pow2Num l then l - 1 else l

/-- A rounded float: its bits, and whether a finite value overflowed to an infinity. -/
structure Rounded where
  bits : Nat
  ovf : Bool
deriving DecidableEq, Repr

/-- Round plus or minus `n / d` to nearest even into a format: overflow goes to an infinity, and a subnormal result
is flushed to zero of its sign unless `sub` keeps it. -/
def roundRatBy (sub : Bool) (f : Fmt) (neg : Bool) (n d : Nat) : Rounded :=
  if n = 0 then ⟨zeroBits f neg, false⟩ else
  let fb := fmtFracBits f
  let emin : Int := 1 - (fmtBias f : Int)
  let q0 : Int := floorLog2 n d - fb
  let q : Int := if q0 < emin - fb then emin - fb else q0
  let m0 := rneDiv (n * pow2Den q) (d * pow2Num q)
  let carry := decide (m0 = 2 ^ (fb + 1))
  let m := if carry then 2 ^ fb else m0
  let q' : Int := if carry then q + 1 else q
  if m < 2 ^ fb then
    (if sub then ⟨zeroBits f neg + m, false⟩ else ⟨zeroBits f neg, false⟩)
  else
    let ex : Int := q' + fb + fmtBias f
    if ex ≥ (2 ^ fmtExpBits f - 1 : Nat) then ⟨infBits f neg, true⟩
    else ⟨zeroBits f neg + ex.toNat * 2 ^ fb + (m - 2 ^ fb), false⟩

/-- Rounding by R76: only FP16 keeps subnormals. -/
def roundRat (f : Fmt) (neg : Bool) (n d : Nat) : Rounded := roundRatBy (fmtKeepsSub f) f neg n d

/-- Round an exact value into a format. -/
def roundFl (f : Fmt) : Fl → Rounded
  | .nan => ⟨nanBits f, false⟩
  | .inf neg => ⟨infBits f neg, false⟩
  | .fin neg m e => roundRat f neg (m * pow2Num e) (pow2Den e)

/-- The value after one FP32 rounding. -/
def fp32Of (x : Fl) : Fl := flOfBits .fp32 (roundFl .fp32 x).bits

/-- The exact value of an integer. -/
def flOfInt (i : Int) : Fl := .fin (decide (i < 0)) i.natAbs 0

/-- The same value with its sign changed. -/
def flNeg : Fl → Fl
  | .nan => .nan
  | .inf n => .inf (!n)
  | .fin n m e => .fin (!n) m e

/-- Magnitude. -/
def flAbs : Fl → Fl
  | .nan => .nan
  | .inf _ => .inf false
  | .fin _ m e => .fin false m e

/-- A finite value as an integer numerator over `2^k` with the common exponent `e0`. -/
def flScaled (neg : Bool) (m : Nat) (e e0 : Int) : Int :=
  let v : Int := (m * 2 ^ (e - e0).toNat : Nat)
  if neg then -v else v

/-- Exact sum (IEEE 754 signs of zero under rounding to nearest). -/
def flAdd : Fl → Fl → Fl
  | .nan, _ => .nan
  | _, .nan => .nan
  | .inf a, .inf b => if a = b then .inf a else .nan
  | .inf a, .fin _ _ _ => .inf a
  | .fin _ _ _, .inf b => .inf b
  | .fin a m e, .fin b n g =>
    let e0 := if e < g then e else g
    let s := flScaled a m e e0 + flScaled b n g e0
    if s = 0 then .fin (if m = 0 ∧ n = 0 then a && b else false) 0 0
    else .fin (decide (s < 0)) s.natAbs e0

/-- Exact product. -/
def flMul : Fl → Fl → Fl
  | .nan, _ => .nan
  | _, .nan => .nan
  | .inf a, .inf b => .inf (a != b)
  | .inf a, .fin b n _ => if n = 0 then .nan else .inf (a != b)
  | .fin a m _, .inf b => if m = 0 then .nan else .inf (a != b)
  | .fin a m e, .fin b n g => .fin (a != b) (m * n) (e + g)

/-- Difference. -/
def flSub (x y : Fl) : Fl := flAdd x (flNeg y)

/-- Exact quotient rounded once to FP32 (IEEE 754 division). -/
def flDiv32 : Fl → Fl → Fl
  | .nan, _ => .nan
  | _, .nan => .nan
  | .inf _, .inf _ => .nan
  | .inf a, .fin b _ _ => .inf (a != b)
  | .fin a _ _, .inf b => .fin (a != b) 0 0
  | .fin a m e, .fin b n g =>
    if n = 0 then (if m = 0 then .nan else .inf (a != b))
    else flOfBits .fp32 (roundRat .fp32 (a != b) (m * pow2Num (e - g)) (n * pow2Den (e - g))).bits

/-- `x < y` of two values that are not NaN; the two zeros are equal. -/
def flLt : Fl → Fl → Bool
  | .nan, _ => false
  | _, .nan => false
  | .inf a, .inf b => a && !b
  | .inf a, .fin _ _ _ => a
  | .fin _ _ _, .inf b => !b
  | .fin a m e, .fin b n g =>
    let e0 := if e < g then e else g
    decide (flScaled a m e e0 < flScaled b n g e0)

/-- `x = y`; a NaN equals nothing. -/
def flEq (x y : Fl) : Bool :=
  match x, y with
  | .nan, _ => false
  | _, .nan => false
  | x, y => !flLt x y && !flLt y x

/-- Is the value a NaN? -/
def flIsNan : Fl → Bool
  | .nan => true | _ => false

/-- Negative zero lies below positive zero in a maximum or a minimum (R76). -/
def flBelow (x y : Fl) : Bool :=
  flLt x y || (flEq x y && (match x, y with | .fin true 0 _, .fin false 0 _ => true | _, _ => false))

/-- Maximum of R76. -/
def flMax (x y : Fl) : Fl := if flIsNan x || flIsNan y then .nan else if flBelow x y then y else x

/-- Minimum of R76. -/
def flMin (x y : Fl) : Fl := if flIsNan x || flIsNan y then .nan else if flBelow y x then y else x

/-- Round a value to the nearest integer, a tie to even (NaN reads as 0, an infinity as none). -/
def flRne : Fl → Option Int
  | .nan => some 0
  | .inf _ => none
  | .fin neg m e => some (rneDivInt (if neg then - (m * pow2Num e : Nat) else (m * pow2Num e : Nat)) (pow2Den e))

/-- Float to integer: nearest even, then saturation to `[lo, hi]`; NaN gives 0 (R76). -/
def flToIntSat (lo hi : Int) (x : Fl) : Int :=
  match x with
  | .nan => 0
  | .inf neg => if neg then lo else hi
  | .fin n m e => clampInt lo hi ((flRne (.fin n m e)).getD 0)

/-- The fixed pairwise tree of R76: neighbours combine in ascending lane order, an odd last one passes up. -/
def treePairs {α : Type} (f : α → α → α) : List α → List α
  | a :: b :: t => f a b :: treePairs f t
  | [a] => [a]
  | [] => []

/-- Reduce by `n` levels of the pairwise tree. -/
def treeLevels {α : Type} (f : α → α → α) : Nat → List α → List α
  | 0, l => l
  | n + 1, l => treeLevels f n (treePairs f l)

/-- The tree reduction of a list (its length bounds the levels needed). -/
def treeReduce {α : Type} (f : α → α → α) (d : α) (l : List α) : α :=
  match treeLevels f (Nat.log2 l.length + 1) l with
  | [] => d
  | a :: _ => a

/-- FP32 sum with one rounding. -/
def fp32Add (x y : Fl) : Fl := fp32Of (flAdd x y)

/-- FP32 product with one rounding. -/
def fp32Mul (x y : Fl) : Fl := fp32Of (flMul x y)

/-- The distance between two FP32 patterns in units of the last place (patterns ordered by value). -/
def fp32Ord (w : Nat) : Int := if w < 2 ^ 31 then (w : Int) else - ((w - 2 ^ 31 : Nat) : Int)

/-- Two FP32 patterns no more than two units in the last place apart. -/
def within2ulp (a b : Nat) : Bool := decide ((fp32Ord a - fp32Ord b).natAbs ≤ 2)

/-- A free FP32 pattern taken where it lies within 2 ulp of the exact one, and the exact one elsewhere (R76). -/
def near2ulp (free exact : Nat) : Nat := if within2ulp free exact then free else exact

/-- `⌊√n⌋` bit by bit, from bit `b - 1` down, above the root `r` found so far. -/
def sqrtBits (n : Nat) : Nat → Nat → Nat
  | 0, r => r
  | b + 1, r => sqrtBits n b (if (r + 2 ^ b) * (r + 2 ^ b) ≤ n then r + 2 ^ b else r)

/-- `⌊√n⌋`. -/
def natSqrt (n : Nat) : Nat := sqrtBits n (Nat.log2 n / 2 + 1) 0

/-- Square root rounded to FP32 to nearest: 30 extra fraction bits and a sticky bit make the rounding exact. -/
def flSqrt32 : Fl → Fl
  | .nan => .nan
  | .inf neg => if neg then .nan else .inf false
  | .fin neg m e =>
    if m = 0 then .fin neg 0 0
    else if neg then .nan
    else
      let odd : Bool := decide (e % 2 ≠ 0)
      let m1 := if odd then 2 * m else m
      let e1 := if odd then e - 1 else e
      let big := m1 * 2 ^ 120
      let r := natSqrt big
      let st := if r * r = big then 0 else 1
      fp32Of (.fin false (2 * r + st) (e1 / 2 - 61))

/-- Reciprocal square root rounded to FP32 to nearest: 1/√(m × 2^e) by an integer root with a sticky bit. -/
def flRsqrt32 : Fl → Fl
  | .nan => .nan
  | .inf neg => if neg then .nan else .fin false 0 0
  | .fin neg m e =>
    if m = 0 then .inf neg
    else if neg then .nan
    else
      let odd : Bool := decide (e % 2 ≠ 0)
      let m1 := if odd then 2 * m else m
      let e1 := if odd then e - 1 else e
      let k := 64 + Nat.log2 m1
      let big := 2 ^ (2 * k) / m1
      let r := natSqrt big
      let st := if r * r * m1 = 2 ^ (2 * k) then 0 else 1
      fp32Of (.fin false (2 * r + st) (- (k : Int) - 1 - e1 / 2))

/-- Reciprocal rounded to FP32. -/
def flRecip32 (x : Fl) : Fl := flDiv32 (.fin false 1 0) x

/-! ## FP32 of the sampler (R215): the flush of R76 is the vector unit's, so subnormals are read and written as they are -/

/-- Read the bits of a float, subnormals exactly. -/
def ieeeOf (f : Fmt) (w : Nat) : Fl :=
  let fb := fmtFracBits f
  if bitsOf w (fb + fmtExpBits f - 1) fb = 0 then
    .fin (bitsOf w (fb + fmtExpBits f) (fb + fmtExpBits f) = 1) (w % 2 ^ fb) (1 - (fmtBias f : Int) - fb)
  else flOfBits f w

/-- The FP32 pattern of an exact value, rounded to nearest even. -/
def ieeeBits : Fl → Nat
  | .fin neg m e => (roundRatBy true .fp32 neg (m * pow2Num e) (pow2Den e)).bits
  | x => (roundFl .fp32 x).bits

/-- The value after one rounding to FP32. -/
def ieee32 (x : Fl) : Fl := ieeeOf .fp32 (ieeeBits x)
def ieeeAdd (x y : Fl) : Fl := ieee32 (flAdd x y)
def ieeeSub (x y : Fl) : Fl := ieee32 (flSub x y)
def ieeeMul (x y : Fl) : Fl := ieee32 (flMul x y)

/-- 1 / x rounded once. -/
def ieeeRecip : Fl → Fl
  | .fin a m e =>
    if m = 0 then .inf a else ieeeOf .fp32 (roundRatBy true .fp32 a (pow2Num (-e)) (m * pow2Den (-e))).bits
  | x => flRecip32 x

/-- A sum by the pairwise tree. -/
def ieeeSum (xs : List Fl) : Fl := treeReduce ieeeAdd (.fin false 0 0) xs

/-! ## FP32 formulas of several operations (R76): one rounding each, with the overflow of any of them -/

/-- A value on its way through a formula, and whether an operation before it overflowed. -/
structure Tr where
  v : Fl
  ovf : Bool := false
deriving DecidableEq, Repr

/-- One FP32 rounding of an exact result. -/
def trRound (x : Fl) (o : Bool) : Tr :=
  let r := roundFl .fp32 x
  ⟨flOfBits .fp32 r.bits, o || r.ovf⟩

def trAdd (a b : Tr) : Tr := trRound (flAdd a.v b.v) (a.ovf || b.ovf)
def trSub (a b : Tr) : Tr := trRound (flSub a.v b.v) (a.ovf || b.ovf)
def trMul (a b : Tr) : Tr := trRound (flMul a.v b.v) (a.ovf || b.ovf)

/-- A quotient of finite values overflows where its rounding does; a division by zero is none. -/
def trDiv (a b : Tr) : Tr :=
  let o := match a.v, b.v with
    | .fin s m e, .fin t n g => decide (n ≠ 0) && (roundRat .fp32 (s != t) (m * pow2Num (e - g)) (n * pow2Den (e - g))).ovf
    | _, _ => false
  ⟨flDiv32 a.v b.v, a.ovf || b.ovf || o⟩

def trSqrt (a : Tr) : Tr := ⟨flSqrt32 a.v, a.ovf⟩

/-- An FP32 sum by the pairwise tree. -/
def trSum (xs : List Tr) : Tr := treeReduce trAdd ⟨.fin false 0 0, false⟩ xs

end Sys2Proof.Machine
end

