-- ==== Sys2Proof/Syntax.lean ====
section
/-! DEFINITION. The commands of the block: one constructor for each row of the opcode table, with its operands. -/

namespace Sys2Proof

/-- The operand fields of a cluster instruction word (R145): everything but its opcode. -/
structure Fields where
  d : BitVec 5 := 0
  x : BitVec 5 := 0
  y : BitVec 5 := 0
  z : BitVec 5 := 0
  pg : BitVec 3 := 0
  pn : Bool := false
  imm : BitVec 32 := 0
deriving DecidableEq, Repr

/-- What a calibration slot measured (R84, R87): the tile's junction temperature in sensor units; trims needed, by physical column and
`adc_range`, offset ones in 1/8 LSB and gain ones in 1/1,024; residuals after trim by column and ladder tap, in thousandths of an LSB;
deviations of the measured cell charge from 15 × Cw by column, in thousandths of a unit of Q; and the largest deviation of a ladder's
taps from the other ladders', in millionths of full scale.  What is not listed is as it was, and in tolerance.  A slot uses those of its
own measurement. -/
structure CalMeas where
  temp : Int := 0
  off : List (Nat × Nat × Int) := []
  gain : List (Nat × Nat × Int) := []
  resid : List (Nat × Nat × Nat) := []
  drift : List (Nat × Int) := []
  ladders : List (Nat × Nat) := []
deriving DecidableEq, Repr

/-- One frame period of a receiver (R336, R349): coding, preambles and parity are good; the period is more than 12.5 % from
nominal; a Z preamble; validity bits; port words; channel-status and user bits; the frame rate against the nominal of the configured rate in
0.01 ppm as the block mean has it; and the rate code that the block mean matches, 7 for none. -/
structure RxFrame where
  good : Bool := true
  off : Bool := false
  z : Bool := false
  inv0 : Bool := false
  inv1 : Bool := false
  w0 : BitVec 32 := 0
  w1 : BitVec 32 := 0
  c0 : Bool := false
  c1 : Bool := false
  u0 : Bool := false
  u1 : Bool := false
  ppm : Int := 0
  mean : BitVec 3 := 7
deriving DecidableEq, Repr

/-- What a negotiation found (R357): the partner's device ID, port, highest rate and lane mask, and the lanes that pass the test at
rates 0, 1 and 2. -/
structure Negotiated where
  partner : BitVec 13 := 0
  pport : BitVec 2 := 0
  prate : Nat := 0
  plane : BitVec 9 := 511
  pass0 : BitVec 9 := 511
  pass1 : BitVec 9 := 511
  pass2 : BitVec 9 := 511
deriving DecidableEq, Repr

/-- The three link events that reset every enabled client (R304). -/
inductive LinkReset where
  | functionLevel | hot | linkDown
deriving DecidableEq, Repr

/-- One layer record of a model with what the loader programs for it (R50, R52): `tile` counts the copy's slots; `lambda` is the
accumulator unit λ that the loader chose for the record (R67), as BF16. -/
structure RecDesc where
  tile : Nat := 0
  recIx : Nat := 0
  raw : BitVec 128 := 0
  streamed : Bool := false
  codes : List (BitVec 8) := []
  params : List (BitVec 32) := []
  lambda : BitVec 16 := 0
deriving DecidableEq, Repr

/-- An attention layer's declaration (R200); the cache format is BF16 or INT8. -/
structure AttnDecl where
  heads : Nat := 1
  dk : Nat := 16
  dv : Nat := 16
  positions : Nat := 64
  int8 : Bool := false
deriving DecidableEq, Repr

/-- A model of a module: the 64 bytes of its declaration (R269) and the parts of the module that the loader reads for it. `winInit` is
the content of the module window, `template` the berth template of R180; `quants`, `layers` and `convs` are the addresses in it of the
descriptors that the module lists. -/
structure ModelDecl where
  decl : List (BitVec 8) := []
  shadow : List Nat := []
  recs : List RecDesc := []
  winInit : List (BitVec 8) := []
  template : List (BitVec 8) := []
  quants : List Nat := []
  layers : List Nat := []
  convs : List Nat := []
  gates : List (Nat × List (BitVec 8)) := []
  attn : List AttnDecl := []
  scores : Nat := 0
deriving DecidableEq, Repr

/-- A weight bundle of a module: the key it names and whether its tag verifies (R391). -/
structure BundleDesc where
  keyId : BitVec 32 := 0
  tagOk : Bool := true
deriving DecidableEq, Repr

/-- What a Gerun module holds.  The spec gives no layout for the module file beyond its model declarations, so a load names its content;
`code` is the code section as far as the load gives its words. -/
structure ModuleDesc where
  headerOk : Bool := true
  codeLen : Nat := 8
  code : List (BitVec 8) := []
  digest : BitVec 384 := 0
  image : List (BitVec 8) := []
  imageLen : Nat := 64
  bundles : List BundleDesc := []
  models : List ModelDecl := []
deriving DecidableEq, Repr

/-- An object of Cewieb (R403): a register field of host window 0, or a unit by kind (0 cluster, 1 tile, 2 control core, 3 chain
lane) and physical numbers. -/
inductive CwObject where
  | field (off hi lo : Nat)
  | unit (kind n t : Nat)
deriving DecidableEq, Repr

/-- What the JTAG instruction DBG_ACCESS reads (R502): a word of window 0, of a physical cluster's store, or of package memory. -/
inductive DbgTarget where
  | reg (off : Nat)
  | store (n a : Nat)
  | package (a : Nat)
deriving DecidableEq, Repr

/-- A firmware image as read (R434): its 256 header bytes, its body, and whether its signature verifies under a key in force, which is
the row's to say (log 191). -/
structure FwFile where
  header : List (BitVec 8) := []
  body : List (BitVec 8) := []
  sigOk : Bool := true
deriving DecidableEq, Repr

/-- Trims that the boot calibration measured on a tile 17 n + t, as the slots of a pass give them (R84, R433). -/
structure BootTrims where
  tile : Nat := 0
  off : List (Nat × Nat × Int) := []
  gain : List (Nat × Nat × Int) := []
deriving DecidableEq, Repr

/-- What boot found (R433): clusters, tiles (17 n + t), control cores and generators (18 the hub's) that failed their tests, the
junction temperatures at the boot calibration by tile, the trims it measured, columns and ladders that it found out of tolerance by tile,
the stacks trained, their spare pseudo-channels in use, and the host link's rate code and width. -/
structure BootResult where
  failClu : List Nat := []
  failTile : List Nat := []
  failCore : List Nat := []
  failKat : List Nat := []
  temps : List (Nat × Int) := []
  trims : List BootTrims := []
  badCols : List (Nat × List Nat) := []
  badLadders : List (Nat × List Nat) := []
  trained : BitVec 8 := 255
  spared : List (Nat × Nat) := []
  rate : BitVec 3 := 3
  width : BitVec 5 := 16
deriving DecidableEq, Repr

/-- One temperature sample of a compute die (R478, R479), in 0.125 °C: the hottest of the die's own sensors and of the hub's that
report, the stacks on the die's side, sensors that failed to report, and tile sensors by 17 n + t. -/
structure ThermSample where
  own : Option Int := none
  hub : Option Int := none
  stk : List Int := []
  fails : Nat := 0
  tiles : List (Nat × Int) := []
deriving DecidableEq, Repr

/-- The commands of the block, one constructor for each row of the opcode table, those with operands first. -/
inductive Instr where
  /-- NOP (R154): Control instruction that has no effect. -/
  | nop (lt : BitVec 12) (f : Fields)
  /-- ADD (R154): Scalar add of two registers into a destination register, wrapping. -/
  | add (lt : BitVec 12) (f : Fields)
  /-- SUB (R154): Scalar subtract of two registers, wrapping. -/
  | sub (lt : BitVec 12) (f : Fields)
  /-- MUL (R154): Scalar multiply that keeps the low 64 bits and marks its destination pending. -/
  | mul (lt : BitVec 12) (f : Fields)
  /-- AND (R154): Scalar bitwise AND of two registers. -/
  | and (lt : BitVec 12) (f : Fields)
  /-- OR (R154): Scalar bitwise OR of two registers. -/
  | or (lt : BitVec 12) (f : Fields)
  /-- XOR (R154): Scalar bitwise XOR of two registers. -/
  | xor (lt : BitVec 12) (f : Fields)
  /-- SHL (R154): Scalar shift left by s_y[5:0]. -/
  | shl (lt : BitVec 12) (f : Fields)
  /-- SHR (R154): Scalar logical shift right, filling with zeros. -/
  | shr (lt : BitVec 12) (f : Fields)
  /-- SRA (R154): Scalar arithmetic shift right, filling with the sign. -/
  | sra (lt : BitVec 12) (f : Fields)
  /-- MIN (R154): Signed scalar minimum of two registers. -/
  | min (lt : BitVec 12) (f : Fields)
  /-- MAX (R154): Signed scalar maximum of two registers. -/
  | max (lt : BitVec 12) (f : Fields)
  /-- ADDI (R154): Adds a sign-extended immediate to a scalar register. -/
  | addi (lt : BitVec 12) (f : Fields)
  /-- MOVI (R154): Loads a sign-extended immediate into a scalar register. -/
  | movi (lt : BitVec 12) (f : Fields)
  /-- MOVHI (R154): Writes the immediate into bits [63:32] of a scalar register and keeps the low bits. -/
  | movhi (lt : BitVec 12) (f : Fields)
  /-- CMP (R154): Compares two scalars, or a scalar and an immediate, and writes the result into every bit of a predicate. -/
  | cmp (lt : BitVec 12) (f : Fields)
  /-- PLOG (R154): Lane-wise logic operation on predicates. -/
  | plog (lt : BitVec 12) (f : Fields)
  /-- LD (R154): Scalar load of 1, 2, 4 or 8 bytes from the cluster store into a register, marked pending. -/
  | ld (lt : BitVec 12) (f : Fields) (ecc : Nat)
  /-- ST (R154): Scalar store of 1, 2, 4 or 8 bytes into the berth window. -/
  | st (lt : BitVec 12) (f : Fields)
  /-- BR (R154): Relative branch taken when the guard is 1. -/
  | br (lt : BitVec 12) (f : Fields)
  /-- JAL (R154): Jump and link to a relative target. -/
  | jal (lt : BitVec 12) (f : Fields)
  /-- JR (R154): Jump to the address held in a scalar register. -/
  | jr (lt : BitVec 12) (f : Fields)
  /-- HSET (R154): Builds a vector or array handle from two scalar registers. -/
  | hset (lt : BitVec 12) (f : Fields)
  /-- HGET (R154): Copies one half of a handle into a scalar register. -/
  | hget (lt : BitVec 12) (f : Fields)
  /-- HLD (R154): Loads a 16-byte handle from the cluster store, marked pending. -/
  | hld (lt : BitVec 12) (f : Fields)
  /-- HST (R154): Stores a 16-byte handle into the cluster store. -/
  | hst (lt : BitVec 12) (f : Fields)
  /-- HADV (R154): Copies a handle and advances one of its address fields. -/
  | hadv (lt : BitVec 12) (f : Fields)
  /-- WAIT (R154): Holds the thread until the handles in its mask are no longer pending. -/
  | wait (lt : BitVec 12) (f : Fields)
  /-- FENCE (R168): Holds the thread until its earlier commands to the masked engines have completed. -/
  | fence (lt : BitVec 12) (f : Fields)
  /-- FSIG (R170): Waits on a release mask, then adds an increment to a fence counter indivisibly. -/
  | fsig (lt : BitVec 12) (f : Fields)
  /-- FWAIT (R171): Waits until a fence counter reaches a value, or until a timeout expires, and sets a predicate. -/
  | fwait (lt : BitVec 12) (f : Fields)
  /-- FWAIT_TIMEOUT (R171): FWAIT's timeout expires, clears the predicate and increments fw_tmo. -/
  | fwaitTimeout (lt : BitVec 12) (met : Bool)
  /-- ARR (R156): Starts one array product on every tile slot named by an array handle. -/
  | arr (lt : BitVec 12) (f : Fields)
  /-- APROG (R159): Places a program request for a streamed record on the named tiles and in the stream-mover queue. -/
  | aprog (lt : BitVec 12) (f : Fields)
  /-- PRODUCT_START (R47): A tile takes the next product from its queue once its interval and programming allow it. -/
  | productStart (n t : Nat)
  /-- PRODUCT_COMPLETE (R45): A tile's drain commits and the tile signals completion to the issuing thread. -/
  | productComplete (n t : Nat)
  /-- DRAIN_FENCE_RELEASE (R158): A held drain begins once every earlier product of the thread has completed. -/
  | drainFenceRelease (n t : Nat) (cycles : BitVec 48)
  /-- PROGRAM_REQUEST_START (R58): A tile starts a program request once the products ahead of it have drained. -/
  | programRequestStart (n t : Nat)
  /-- PROGRAM_READY (R56): Programmed rows have settled and the tile can start the next product. -/
  | programReady (n t : Nat)
  /-- VADD (R160): Elementwise vector add. -/
  | vadd (lt : BitVec 12) (f : Fields)
  /-- VSUB (R160): Elementwise vector subtract. -/
  | vsub (lt : BitVec 12) (f : Fields)
  /-- VMUL (R160): Elementwise vector multiply. -/
  | vmul (lt : BitVec 12) (f : Fields)
  /-- VFMA (R160): Elementwise fused multiply-add into FP32. -/
  | vfma (lt : BitVec 12) (f : Fields)
  /-- VMIN (R160): Elementwise vector minimum. -/
  | vmin (lt : BitVec 12) (f : Fields)
  /-- VMAX (R160): Elementwise vector maximum. -/
  | vmax (lt : BitVec 12) (f : Fields)
  /-- VABS (R160): Elementwise absolute value. -/
  | vabs (lt : BitVec 12) (f : Fields)
  /-- VCVT (R160): Elementwise format conversion. -/
  | vcvt (lt : BitVec 12) (f : Fields)
  /-- VSEL (R160): Elementwise select by a predicate. -/
  | vsel (lt : BitVec 12) (f : Fields)
  /-- VCMP (R160): Elementwise compare into a predicate. -/
  | vcmp (lt : BitVec 12) (f : Fields)
  /-- VFILL (R160): Fills every element with a scalar value. -/
  | vfill (lt : BitVec 12) (f : Fields)
  /-- VRED (R160): Reduces a vector to a scalar by sum, maximum, minimum or index. -/
  | vred (lt : BitVec 12) (f : Fields)
  /-- VREDR (R160): Reduces each row of a vector block separately. -/
  | vredr (lt : BitVec 12) (f : Fields)
  /-- VMV (R160): Matrix-vector product in the vector unit. -/
  | vmv (lt : BitVec 12) (f : Fields)
  /-- VNORM (R160): Normalises each row to zero mean and unit variance, then scales and shifts it. -/
  | vnorm (lt : BitVec 12) (f : Fields)
  /-- VRMS (R160): Divides each row by its root mean square, then scales it. -/
  | vrms (lt : BitVec 12) (f : Fields)
  /-- VPWL (R160): Evaluates a gate table elementwise. -/
  | vpwl (lt : BitVec 12) (f : Fields)
  /-- VRECIP (R160): Elementwise reciprocal or reciprocal square root. -/
  | vrecip (lt : BitVec 12) (f : Fields)
  /-- VQUANT (R162): Quantises an activation for an array product and writes its scale word, in one of three modes. -/
  | vquant (lt : BitVec 12) (f : Fields)
  /-- VLUT (R160): Copies one row of a table into the destination. -/
  | vlut (lt : BitVec 12) (f : Fields)
  /-- VGRU (R188): GRU cell update. -/
  | vgru (lt : BitVec 12) (f : Fields)
  /-- VLSTM (R189): LSTM cell update. -/
  | vlstm (lt : BitVec 12) (f : Fields)
  /-- VECTOR_CMD_COMPLETE (R160): A vector command completes after its occupancy plus its fixed latency. -/
  | vectorCmdComplete (l : BitVec 4)
  /-- RSTEP (R181): One step of a diagonal recurrence layer. -/
  | rstep (lt : BitVec 12) (f : Fields)
  /-- RPREFILL (R185): Absorbs the next chunks of a known prefix in chunked convolution form. -/
  | rprefill (lt : BitVec 12) (f : Fields)
  /-- RFFT (R163): FFT or inverse FFT of complex FP32 values. -/
  | rfft (lt : BitVec 12) (f : Fields)
  /-- RECURRENCE_CMD_COMPLETE (R163): A recurrence-unit command completes. -/
  | recurrenceCmdComplete (l : BitVec 4)
  /-- SDRAW (R215): Draws one index from a row of scores. -/
  | sdraw (lt : BitVec 12) (f : Fields)
  /-- SSORT (R217): Writes the k largest scores with their indices. -/
  | ssort (lt : BitVec 12) (f : Fields)
  /-- SRAND (R217): Fills a vector with words from the berth's random substream. -/
  | srand (lt : BitVec 12) (f : Fields)
  /-- SAMPLER_CMD_COMPLETE (R163): A sampler command completes. -/
  | samplerCmdComplete (l : BitVec 4)
  /-- CONV (R234): Runs a convolution over a feature map through the front end. -/
  | conv (lt : BitVec 12) (f : Fields)
  /-- CONV_CMD_COMPLETE (R234): A CONV completes when its last output, or its last spilled stripe, is written. -/
  | convCmdComplete (l : BitVec 4)
  /-- MLD (R165): Reads package memory into the cluster store. -/
  | mld (lt : BitVec 12) (f : Fields) (ecc : List (Nat × Nat))
  /-- MST (R165): Writes the cluster store to package memory. -/
  | mst (lt : BitVec 12) (f : Fields)
  /-- MGATH (R285): Delivers the next blocks of a gather stream into a ring, with run-ahead. -/
  | mgath (lt : BitVec 12) (f : Fields)
  /-- MCPY (R165): Copies data within the cluster store. -/
  | mcpy (lt : BitVec 12) (f : Fields)
  /-- MFRAME (R165): Moves the next visible frames of the berth's input into the store and marks them consumed. -/
  | mframe (lt : BitVec 12) (f : Fields)
  /-- MEMIT (R166): Stages output values of the present step. -/
  | memit (lt : BitVec 12) (f : Fields)
  /-- MOVER_CMD_COMPLETE (R165): A stream-mover command completes in queue order. -/
  | moverCmdComplete (l : BitVec 4) (cycles : BitVec 48)
  /-- BEND (R167): Waits for the thread's commands, then retires with a commit request. -/
  | bend (lt : BitVec 12) (f : Fields)
  /-- BLAST (R167): As BEND, and also marks the end of the stream. -/
  | blast (lt : BitVec 12) (f : Fields)
  /-- BINFO (R167): Reads a berth information field into a scalar register. -/
  | binfo (lt : BitVec 12) (f : Fields)
  /-- STEP_DEADLINE (R262): The step deadline expires before the step completes, and late berths are counted. -/
  | stepDeadline (met : Bool)
  /-- CAL_SLOT (R85): A background-calibration slot falls due and runs its measurements in a gap between products. -/
  | calSlot (n t : Nat) (meas : CalMeas)
  /-- SLOT_DEFER_LIMIT (R61): A slot deferred for 1,024 array cycles starts before any further product. -/
  | slotDeferLimit (n t : Nat) (meas : CalMeas)
  /-- SPOKE_CELLS_WRITTEN (R99): A spare spoke's cells have settled, and its forced check slots begin. -/
  | spokeCellsWritten (n t : Nat)
  /-- TILE_DRAINED (R101): The old tile completes its queued products and goes out of service for test. -/
  | tileDrained (n t : Nat)
  /-- UNIT_TEST_DONE (R98): A unit's test ends, and the unit goes to SPARE or QUARANTINED. -/
  | unitTestDone (n t : Nat) (cluster pass : Bool)
  /-- CAL_REQ_MIGRATE_TILE (R110): CAL_REQ action 1 migrates a tile. -/
  | calReqMigrateTile (w : BitVec 32)
  /-- CAL_REQ_MIGRATE_CLUSTER (R110): CAL_REQ action 2 migrates a cluster. -/
  | calReqMigrateCluster (w : BitVec 32)
  /-- CAL_REQ_RETEST (R110): CAL_REQ action 3 retests a QUARANTINED unit. -/
  | calReqRetest (w : BitVec 32)
  /-- CAL_REQ_RETIRE (R110): CAL_REQ action 4 retires a QUARANTINED unit and writes its repair fuse. -/
  | calReqRetire (w : BitVec 32)
  /-- CAL_REQ_OUT_OF_SERVICE (R110): CAL_REQ action 5 takes a cluster out of service by migration. -/
  | calReqOutOfService (w : BitVec 32)
  /-- UNCORRECTABLE_FAULT (R141): An uncorrectable fault stops every sequencer and engine, writes the report and ends every item with DEVICE_LOST. -/
  | uncorrectableFault (cls : Nat) (unit detail : Nat)
  /-- CORE_WATCHDOG_EXPIRY (R105): A control core's watchdog is not served for 1 ms, and the spare core takes its duties. -/
  | coreWatchdogExpiry (core : Nat) (met : Bool)
  /-- PC_COPY_DONE (R105): A pseudo-channel copy completes and the map switches. -/
  | pcCopyDone (stack pch : Nat)
  /-- SAVE_COMPLETE (R133): A pre-emption save commits, the cluster is vacated and PREEMPTED records are written. -/
  | saveComplete (l : BitVec 4)
  /-- RESTORE_START (R135): Restore starts once every berth of the pre-empting work has left the cluster. -/
  | restoreStart (l : BitVec 4)
  /-- RESTORE_COMPLETE (R135): The checksum is compared, the threads go SLEEPING and the slot is released. -/
  | restoreComplete (l : BitVec 4)
  /-- NOISE_BLOCK_READY (R203): The noise source conditions 1,024 raw bits into a block and runs its continuous health tests. -/
  | noiseBlockReady (lo hi : BitVec 512)
  /-- STARTUP_TEST_END (R205): The noise source's start-up test ends, and the source goes to OK or ERROR. -/
  | startupTestEnd (lo hi : BitVec 2048)
  /-- RETEST (R221): A write of retest in ERROR starts the start-up test. -/
  | retest (w : BitVec 32)
  /-- NT_EN (R205): A write of nt_en stops or starts the noise source. -/
  | ntEn (w : BitVec 32)
  /-- TAP_EN (R221): A key-guarded write of tap_en routes raw bits to the raw buffer, or stops that. -/
  | tapEn (w : BitVec 32)
  /-- ENTROPY_WAIT_TIMEOUT (R207): A generator request that has waited 1 ms for entropy is refused. -/
  | entropyWaitTimeout (gen : Nat) (met : Bool)
  /-- LOAD (R270): Item that checks and loads a Gerun module and places its copies. -/
  | loadItem (c : BitVec 10) (m : ModuleDesc)
  /-- LOAD_RESIDENT (R271): Every copy of a loading module is resident, and the load completes. -/
  | loadResident (slot : BitVec 8)
  /-- UNLOAD (R271): Item that sets a module unloading; it completes when the module's last berth is FREE. -/
  | unloadItem (c : BitVec 10)
  /-- ADMIT (R249): Item that checks an admission and places a new berth. -/
  | admitItem (c : BitVec 10)
  /-- FRAME (R27): Item that moves frames, from host memory or inline, into a berth's input range. -/
  | frameItem (c : BitVec 10)
  /-- OUT_RET (R317): Item that returns output blocks to a berth as free. -/
  | outRetItem (c : BitVec 10)
  /-- LEAVE (R245): Item that makes a berth leave at the next boundary. -/
  | leaveItem (c : BitVec 10)
  /-- PARK (R194): Item that parks a RUNNING berth at the next boundary. -/
  | parkItem (c : BitVec 10)
  /-- PARK_COPY_DONE (R194): A berth window's copy to its swap area completes. -/
  | parkCopyDone (b : BitVec 12)
  /-- UNPARK (R194): Item that unparks a berth by copying its window back. -/
  | unparkItem (c : BitVec 10)
  /-- UNPARK_COPY_DONE (R194): The copy back completes, and the berth joins the next manifest. -/
  | unparkCopyDone (b : BitVec 12)
  /-- MIGRATE (R267): Item that moves a berth to another logical cluster. -/
  | migrateItem (c : BitVec 10)
  /-- BERTH_MOVE_COPY_DONE (R267): A moving berth's context and window copy completes, and its handles are adjusted. -/
  | berthMoveCopyDone (b : BitVec 12)
  /-- LOCK (R264): Item that acquires a berth lock, or waits for one. -/
  | lockItem (c : BitVec 10)
  /-- UNLOCK (R264): Item that releases a lock and serves the waiters. -/
  | unlockItem (c : BitVec 10)
  /-- LEASE_EXPIRY (R265): A lock's lease expires and the lock is abandoned. -/
  | leaseExpiry (b : BitVec 12) (met : Bool)
  /-- READ_STATE (R317): Item that reads a section of a berth's state into host memory. -/
  | readStateItem (c : BitVec 10)
  /-- WRITE_STATE (R317): Item that writes a section of a locked berth's state. -/
  | writeStateItem (c : BitVec 10)
  /-- SET_LIMIT (R263): Item that changes step_last of a locked berth. -/
  | setLimitItem (c : BitVec 10)
  /-- EXPORT (R195): Item that writes a parked berth as a sealed blob to host memory. -/
  | exportItem (c : BitVec 10)
  /-- IMPORT (R198): Item that checks a sealed blob and makes a new parked berth from it. -/
  | importItem (c : BitVec 10)
  /-- PREEMPT (R130): Item that pre-empts the named logical clusters. -/
  | preemptItem (c : BitVec 10)
  /-- SNAPSHOT (R261): Item that writes accounting records to host memory as they stood at one boundary. -/
  | snapshotItem (c : BitVec 10)
  /-- NOP_ITEM (R314): Item that completes when every earlier item of the client has completed. -/
  | nopItem (c : BitVec 10)
  /-- DB_SQ_TAIL (R310): Doorbell write that advances a client's submission tail. -/
  | dbSqTail (c : BitVec 10) (w : BitVec 32)
  /-- DESCRIPTOR_FETCH (R311): The device fetches and assembles descriptors from the clients whose tails lie ahead of their heads. -/
  | descriptorFetch (c : BitVec 10) (descs : List (List (BitVec 8)))
  /-- DB_CQ_HEAD (R310): Doorbell write that advances the completion head. -/
  | dbCqHead (c : BitVec 10) (w : BitVec 32)
  /-- SPILL_DRAIN (R294): Spilled records move in order into a host ring that has gained room. -/
  | spillDrain (c : BitVec 10)
  /-- DB_IRQ (R327): A write of arm or mask, which tests the interrupt conditions at once. -/
  | dbIrq (c : BitVec 10) (w : BitVec 32)
  /-- COAL_TIMEOUT (R327): The oldest unsignalled record reaches coal_us, and the interrupt is raised. -/
  | coalTimeout (c : BitVec 10) (met : Bool)
  /-- DB_H2F_TAIL (R310): Doorbell write that advances the host-to-firmware tail. -/
  | dbH2fTail (c : BitVec 10) (w : BitVec 32)
  /-- DB_F2H_HEAD (R310): Doorbell write that frees firmware-to-host slots. -/
  | dbF2hHead (c : BitVec 10) (w : BitVec 32)
  /-- F2H_DELIVER (R324): Firmware writes an outbox message into a free F2H slot. -/
  | f2hDeliver (c : BitVec 10)
  /-- DB_FLUSH (R321): A write of flush clears the client's submission path and writes FLUSH_DONE. -/
  | dbFlush (c : BitVec 10) (w : BitVec 32)
  /-- ITEM_TIMEOUT (R322): An item that waits expires and completes with TIMEOUT. -/
  | itemTimeout (c : BitVec 10) (ix : Nat) (met : Bool)
  /-- CLIENT_ENABLE (R308): A write of 1 to en enables a client whose ring bases are set. -/
  | clientEnable (c : BitVec 10)
  /-- CLIENT_RESET (R323): A write of 0 to en starts a client reset. -/
  | clientReset (c : BitVec 10)
  /-- CLIENT_RESET_DONE (R323): Once the client's begun items have ended, the epochs increment and the client is DISABLED. -/
  | clientResetDone (c : BitVec 10)
  /-- HOST_LINK_RESET (R304): A function-level reset, hot reset or link down resets every enabled client. -/
  | hostLinkReset (kind : LinkReset)
  /-- ECHO (R326): H2F message answered with its payload. -/
  | echo (c : BitVec 10) (slot : List (BitVec 8))
  /-- FIRMWARE_INFORMATION (R326): H2F message answered with the image digests and fw_epoch. -/
  | firmwareInformation (c : BitVec 10) (slot : List (BitVec 8))
  /-- REPORT_REQUEST (R388): H2F message answered with the attestation report in five fragments. -/
  | reportRequest (c : BitVec 10) (slot : List (BitVec 8))
  /-- AUD_ENABLE (R334): A write of aud_en locks the audio PLLs. -/
  | audEnable (w : BitVec 32)
  /-- AUDIO_PLL_LOCK (R426): An audio PLL's lock is confirmed, and its outputs start. -/
  | audioPllLock (b : Bool)
  /-- AUDIO_PLL_UNLOCK (R334): An audio PLL loses lock and its transmitters drive low. -/
  | audioPllUnlock (b : Bool)
  /-- STREAM_ENABLE (R347): A write of a stream's en starts a transmitter or a receiver, or stops it. -/
  | streamEnable (st : Nat) (w : BitVec 32)
  /-- STREAM_STOP (R347): A write of stop begins a silent stop. -/
  | streamStop (st : Nat) (w : BitVec 32)
  /-- GO (R348): A write of go fires the common start trigger. -/
  | go (w : BitVec 32)
  /-- TX_FRAME (R344): At a transmitter frame boundary, the frame is sent from the buffer, or under the underrun policy. -/
  | txFrame (st : Nat)
  /-- RX_FRAME (R336): A receiver takes one frame and writes it to its routes. -/
  | rxFrame (st : Nat) (f : RxFrame)
  /-- LOSS_DECLARED (R349): Four frame periods pass with no good frame, and the receiver freewheels. -/
  | lossDeclared (st : Nat) (met : Bool)
  /-- ROUTE_WRITE (R342): A write of an input route binds a receiver's slots to a berth, or is refused. -/
  | routeWrite (r k : Nat) (w : BitVec 32)
  /-- PORT_ENABLE (R357): A write of port_en starts negotiation of a chain port. -/
  | portEnable (k : Nat) (w : BitVec 32)
  /-- NEGOTIATION_DONE (R357): A chain port's negotiation ends, with the port UP, HELD or DOWN. -/
  | negotiationDone (k : Nat) (r : Negotiated)
  /-- NEGOTIATION_RETRY (R357): A DOWN port tries negotiation again after 100 ms. -/
  | negotiationRetry (k : Nat)
  /-- LANE_FAIL (R359): A lane exceeds its error limit or loses signal and is switched for the spare. -/
  | laneFail (k lane : Nat)
  /-- LINK_DOWN (R358): Eight failed replays of one flit take a chain link down. -/
  | linkDown (k : Nat)
  /-- CONTROL_FRAME (R359): A control frame acts on the link it crosses. -/
  | controlFrame (k lane : Nat)
  /-- DATA_FRAME (R369): A received DATA frame is delivered to a receive route, forwarded or dropped. -/
  | dataFrame (k : Nat) (bytes : List (BitVec 8))
  /-- CREDIT_FRAME (R368): A received CREDIT frame returns credits to a send route. -/
  | creditFrame (k : Nat) (bytes : List (BitVec 8))
  /-- ROUTE_TIMEOUT (R370): No credit returns within rt_tmo_ms, and the route faults. -/
  | routeTimeout (rt : BitVec 12) (met : Bool)
  /-- GET_MEASUREMENTS (R388): SPDM request answered with the signed report. -/
  | getMeasurements (ix : BitVec 8) (nonce : BitVec 256)
  /-- FINISH (R390): SPDM request that completes session set-up. -/
  | finish (sn : Nat) (pub : Option (BitVec 384))
  /-- END_SESSION (R383): SPDM request that ends a session; the tenant stays BOUND. -/
  | endSession (sn : Nat)
  /-- HEARTBEAT_LAPSE (R383): A session's heartbeat lapses and the session ends. -/
  | heartbeatLapse (sn : Nat) (met : Bool)
  /-- KEY_PROG (R393): IDE_KM message that programs an IDE key. -/
  | keyProg (sn st : Nat) (set : Bool)
  /-- K_SET_GO (R393): IDE_KM message that starts an IDE key set. -/
  | kSetGo (sn st : Nat) (set : Bool)
  /-- K_SET_STOP (R393): IDE_KM message that stops an IDE key set. -/
  | kSetStop (sn st : Nat) (set : Bool)
  /-- QUERY (R393): IDE_KM query message. -/
  | query (sn st : Nat)
  /-- LOCK_INTERFACE_REQUEST (R394): TDISP message that locks the TDI configuration. -/
  | lockInterfaceRequest (sn st : Nat)
  /-- START_INTERFACE_REQUEST (R394): TDISP message that moves the TDI to RUN. -/
  | startInterfaceRequest (sn : Nat)
  /-- STOP_INTERFACE_REQUEST (R394): TDISP message that stops the TDI and tears down the tenant. -/
  | stopInterfaceRequest (sn : Nat)
  /-- TENANT_BIND (R383): Tenant message that binds a tenant to a VACANT device. -/
  | tenantBind (sn : Nat) (resv : BitVec 24) (id flags : BitVec 32)
  /-- TENANT_RESUME (R383): Tenant message that makes a session the tenant session again. -/
  | tenantResume (sn : Nat) (resv : BitVec 24) (id : BitVec 32)
  /-- TENANT_RELEASE (R396): Tenant message that starts teardown. -/
  | tenantRelease (sn : Nat) (resv : BitVec 24)
  /-- KEY_PUT (R382): Tenant message that installs a state, bundle or job key. -/
  | keyPut (sn : Nat) (resv : BitVec 24) (kind : BitVec 8) (id : BitVec 32) (epoch : BitVec 8) (key : BitVec 256)
  /-- KEY_ROLL (R382): Tenant message that increments t_epoch and zeroises keys two epochs old. -/
  | keyRoll (sn : Nat) (resv : BitVec 24)
  /-- KEY_RETIRE (R392): Tenant message that retires one epoch of a job. -/
  | keyRetire (sn : Nat) (resv : BitVec 24) (job : BitVec 16) (epoch : BitVec 8)
  /-- KEY_STATUS (R382): Tenant message that returns the slot counts and t_epoch. -/
  | keyStatus (sn : Nat) (resv : BitVec 24)
  /-- READ_OBJ (R403): Cewieb operation that reads an object. -/
  | readObj (o : CwObject)
  /-- WRITE_OBJ (R403): Cewieb operation that writes a policy field, checking the view. -/
  | writeObj (v : BitVec 64) (o : CwObject) (val : BitVec 64)
  /-- UNIT_ACTION (R403): Cewieb operation that carries out a CAL_REQ action. -/
  | unitAction (v : BitVec 64) (action n t : Nat)
  /-- POLICY_LOCK (R405): Cewieb operation that sets or clears pol_lock. -/
  | policyLock (v : BitVec 64) (on : Bool)
  /-- REPORT (R388): Cewieb operation that returns the attestation report. -/
  | report (nonce : BitVec 256)
  /-- DEBUG (R407): Cewieb operation that opens or closes debug levels. -/
  | debugLevels (v : BitVec 64) (on : Bool) (levels : BitVec 5)
  /-- BIND_POLICY (R403): Cewieb operation that sets bind_mutual and tdisp_req. -/
  | bindPolicy (v : BitVec 64) (mutualAuth tdisp : Bool)
  /-- READ_CTRS (R495): Cewieb operation that reads a block of counters, optionally after a snapshot. -/
  | readCtrs (first count : BitVec 16) (flags : BitVec 8)
  /-- ANCHOR_SET (R403): Cewieb operation that fuses the operator anchor once. -/
  | anchorSet (hash : BitVec 384) (i3c : Bool)
  /-- STAGE_CHUNK (R439): Cewieb FW sub-operation that writes a chunk of an image being staged. -/
  | stageChunk (v : BitVec 64) (kind off : Nat) (data : List (BitVec 8))
  /-- COMMIT (R439): Cewieb FW sub-operation that commits a staged image. -/
  | commitImage (v : BitVec 64) (kind : Nat)
  /-- CANCEL (R439): Cewieb FW sub-operation that cancels a staged image. -/
  | cancelImage (v : BitVec 64) (kind : Nat)
  /-- RAISE_FLOOR (R442): Cewieb FW sub-operation that fuses the running security version as the floor. -/
  | raiseFloor (v : BitVec 64) (kind : Nat)
  /-- BOOT_IMAGE (R437): Cewieb FW sub-operation that supplies a boot image to the boot ROM. -/
  | bootImage (v : BitVec 64) (kind : Nat) (file : FwFile)
  /-- IMG_BOOT_LOAD (R437): img_cmd 1 loads a boot bundle from host memory. -/
  | imgBootLoad (w : BitVec 32) (files : Option (FwFile × FwFile))
  /-- IMG_STAGE (R438): img_cmd 2 stages an image from host memory. -/
  | imgStage (w : BitVec 32)
  /-- IMG_COMMIT (R438): img_cmd 3 commits the staged image of the kind named. -/
  | imgCommit (w : BitVec 32)
  /-- IMG_CANCEL (R438): img_cmd 4 cancels a staged image. -/
  | imgCancel (w : BitVec 32)
  /-- STAGE_DONE (R438): The last byte of a staged image is written and checked. -/
  | stageDone (wd : Bool) (file : Option FwFile)
  /-- HM_WINDOW_DONE (R440): A harbourmaster commit window completes its core moves, or aborts, and closes. -/
  | hmWindowDone (ok : Bool)
  /-- WD_WINDOW_DONE (R441): A warden commit window reloads and checks the warden, then closes. -/
  | wdWindowDone (ok : Bool)
  /-- PERSIST_DONE (R438): The flash state bytes of a commit are programmed, and the phase returns to IDLE. -/
  | persistDone (wd : Bool)
  /-- GEAR_CHANGE (R418): At an alignment edge, the die's dividers load the gear in force. -/
  | gearChange (die : Nat)
  /-- ROOT_UNLOCK (R423): A root loses lock, and its outputs move to a fallback source. -/
  | rootUnlock (root : Nat)
  /-- ROOT_LOCK_CONFIRMED (R423): A re-locking root's lock is confirmed, and its outputs return. -/
  | rootLockConfirmed (root : Nat)
  /-- ROOT_LOCK_TIMEOUT (R425): A root not locked within 1 ms restarts, and fails after three attempts. -/
  | rootLockTimeout (root : Nat) (met : Bool)
  /-- RESET_N_RELEASE (R428): RESET_N is taken as released, the straps are sampled and boot begins. -/
  | resetNRelease (boot clk : BitVec 2)
  /-- POWER_ON_RESET_RELEASE (R474): Power-on reset releases 2 ms after the last rail comes into range. -/
  | powerOnResetRelease (boot clk : BitVec 2)
  /-- BOOT_COMPLETE (R433): Boot ends, ready is set and MSI-X entry 0 is raised. -/
  | bootComplete (r : BootResult)
  /-- RAIL_FAULT (R476): A rail stays out of range for 2 µs, and the device is lost. -/
  | railFault (rail : Nat) (met : Bool)
  /-- SENSOR_SAMPLE (R479): A temperature sample updates the thermal state and the alarm. -/
  | sensorSample (die : Nat) (m : ThermSample)
  /-- THROTTLE_DWELL (R479): A THROTTLE or TRIP dwell time expires, and the thermal gear steps. -/
  | throttleDwell (die : Nat) (up : Bool)
  /-- SENSOR_TIMEOUT (R479): No sensor of a die reports for 1 ms, and the die enters CRITICAL. -/
  | sensorTimeout (die : Nat) (met : Bool)
  /-- AVS_RESPONSE_TIMEOUT (R473): An AVSBus command receives no valid response within 100 µs. -/
  | avsResponseTimeout (die : Nat) (met : Bool)
  /-- AVS_RETRY (R473): A failed AVSBus is retried after 1 ms. -/
  | avsRetry (die : Nat)
  /-- GLB_UNLOCK (R451): A write of the key opens the guard; any other value closes it. -/
  | glbUnlock (w : BitVec 32)
  /-- GUARD_EXPIRY (R451): The guard closes 1 ms after it opened if no key-guarded write arrived. -/
  | guardExpiry (met : Bool)
  /-- PARITY_CHECK (R450): At a slow-clock edge, the configuration registers' parity is checked and a mismatch is reloaded. -/
  | parityCheck (bad : Option Nat)
  /-- BERTH_CAPTURE (R463): A write of BTH_BSEL captures a berth-table entry. -/
  | berthCapture (w : BitVec 32)
  /-- RET_ADDR_WRITE (R498): A posted write of DBG_RET_ADDR fetches a word of retained SRAM. -/
  | retAddrWrite (w : BitVec 32)
  /-- BACKUP_WRITE (R432): A posted write of a retained backup register. -/
  | backupWrite (k : Nat) (w : BitVec 32)
  /-- REGISTER_WRITE (R449): A write to a window-0 register that has no row of its own, applied or ignored under the conventions. -/
  | registerWrite (off : Nat) (w : BitVec 64) (width : Nat) (tbit : Bool)
  /-- RESPONSE (R502): JTAG instruction that shifts in a signed unlock for debug levels. -/
  | response (mask : BitVec 8) (ok : Bool)
  /-- DBG_ACCESS (R502): JTAG instruction that gives debug access to registers and memory. -/
  | dbgAccess (o : DbgTarget)
  /-- PATROL_READ (R279): Patrol reads a line of package memory and zeroes an uncorrectable free line. -/
  | patrolRead (a row : Nat) (err : BitVec 2)
  /-- RUN_AHEAD_LANDED (R285): A run-ahead block of a live gather stream lands in its ring slot. -/
  | runAheadLanded (l : BitVec 4) (ix : Nat)
  /-- HOST_READ_COMPLETION (R305): A read of host memory by the device ends with data, or with an error or completion timeout, which halts a client or ends an item with reason 7. -/
  | hostReadCompletion (c : BitVec 10) (target : Option Nat) (data : Option (List (BitVec 8)))
  /-- MARGIN_MONITOR_SAMPLE (R108): The on-die margin monitors drive the AVS loop's target and, beyond avs_max_mv, the minimum-voltage guard's rise and gear. -/
  | marginMonitorSample (die need : Nat)
  /-- AVSBUS_RESPONSE (R473): A regulator answers an AVSBus command, which acknowledges a target or reports a fault. -/
  | avsbusResponse (die : Nat) (fault : Bool)
  /-- FLASH_WRITE_DONE (R438): An SPI flash program or erase of an image slot or state byte completes or fails, which enables a commit or sets img_err 8. -/
  | flashWriteDone (wd ok : Bool)
  /-- CORE_SRAM_ERROR (R105): A control core's SRAM reports an uncorrectable error, and the spare core takes its duties. -/
  | coreSramError (core : Nat)
  /-- MEMORY_ROW_REPAIR_DONE (R105): A memory row's copy to a spare row completes, and accesses that waited on it proceed. -/
  | memoryRowRepairDone (stack pch : Nat)
  /-- CEWIEB_CONNECTION (R401): A management client opens a TLS 1.3 connection to Cewieb, which is accepted or refused and counted in tls_fail. -/
  | cewiebConnection (ok : Bool) (others : Nat)
  /-- NEGOTIATE_ALGORITHMS (R381): SPDM request that fixes the algorithm set. -/
  | negotiateAlgorithms (ok : Bool)
  /-- GET_CERTIFICATE (R379): SPDM request answered with the certificate chain of slot 0. -/
  | getCertificate (slot : Nat)
  /-- SPDM_CHALLENGE (R381): SPDM CHAL request answered with a signed challenge response. -/
  | spdmChallenge (nonce : BitVec 256)
  /-- HEARTBEAT (R381): SPDM HBEAT message that keeps a session alive. -/
  | heartbeat (sn : Nat)
  /-- KEY_UPDATE (R381): SPDM KEY_UPD request that updates a session's keys. -/
  | keyUpdate (sn : Nat)
  /-- GET_DEVICE_INTERFACE_REPORT (R394): TDISP request answered with the interface report that lists windows 0 and 2. -/
  | getDeviceInterfaceReport (sn : Nat)
  /-- FREEWHEEL_FRAME (R349): At each family-PLL frame boundary of a receiver in FREEWHEEL or RELOCK, zero samples are delivered to its routes, or nothing when rx_fw is 1. -/
  | freewheelFrame (st : Nat)
  /-- TEARDOWN_RECORD_TIMEOUT (R396): At 1 ms into teardown step 3, records not yet written are discarded and counted in td_rec_drop. -/
  | teardownRecordTimeout (met : Bool)
  /-- ENGINE_PROGRESS_TIMEOUT (R140): An engine has made no progress on an accepted command for 1 ms, and the device is lost. -/
  | engineProgressTimeout (n eng : Nat) (met : Bool)
  /-- STEP_BOUNDARY (R252): The last commit request of a step starts the boundary that commits berths and builds the next manifests. -/
  | stepBoundary
  /-- REBALANCE_PERIOD (R268): At the end of each rebalancing period, proposes berth migrations between clusters. -/
  | rebalancePeriod
  /-- COMMIT_INTERVAL (R90): commit_ms, or hold_ms under hold, expires and a commit falls due at the next boundary. -/
  | commitInterval
  /-- COMMIT_NOW (R90): Firmware or software writes commit_now, which requests a commit. -/
  | commitNow
  /-- TILE_MIGR_COPY_DONE (R101): The spare tile holds the records and cells, and the switch waits for a boundary. -/
  | tileMigrCopyDone
  /-- CLUSTER_COPY_DONE (R102): The repair-copy path has moved the cluster's state, and the switch waits for a boundary. -/
  | clusterCopyDone
  /-- DEVICE_LOST_SCRUB (R141): Once every engine reports idle, keys are destroyed and the device scrubs. -/
  | deviceLostScrub
  /-- RAW_DATA_READ (R221): A read of RNG_RAW_DATA takes the next 32 raw bits from the buffer. -/
  | rawDataRead
  /-- SYNC_IN (R348): A rising edge on AUD_SYNC_IN fires the start trigger. -/
  | syncIn
  /-- ROUTE_ENABLE (R367): CHN_RT_CMD 1 enables a route entry from DATA_0 to DATA_3. -/
  | routeEnable
  /-- ROUTE_DISABLE (R370): CHN_RT_CMD 2 disables a route entry. -/
  | routeDisable
  /-- ROUTE_READ (R373): CHN_RT_CMD 3 reads a route entry into DATA_0 to DATA_3. -/
  | routeRead
  /-- KEY_EXCHANGE (R390): SPDM request that opens a session. -/
  | keyExchange
  /-- RESPOND_IF_READY (R389): SPDM request that collects a report held over a commit window. -/
  | respondIfReady
  /-- TEARDOWN_KEYS_ZEROISE (R396): Once every engine is idle, tenant keys are zeroised and the scrub begins. -/
  | teardownKeysZeroise
  /-- SCRUB_DONE (R398): The scrub ends, and the device becomes VACANT. -/
  | scrubDone
  /-- TD_REQ (R408): A key-guarded write of td_req starts teardown. -/
  | tdReq
  /-- EVICT (R403): Cewieb operation that tears down the bound tenant. -/
  | evict
  /-- REFCLK_LOSS (R414): The reference monitor finds REFCLK lost; in service the device is lost. -/
  | refclkLoss
  /-- RESET_N_ASSERT (R428): RESET_N is taken as asserted, and the internal reset asserts. -/
  | resetNAssert
  /-- VDD_AO_LOW (R476): VDD_AO falls below 0.740 V and power-on reset asserts. -/
  | vddAoLow
  /-- SNAP (R465): A write of snap copies every counter into the snapshot bank. -/
  | snap
  /-- CDATA_HI_AUTO_READ (R465): A read of TEL_CDATA_HI with auto set advances cidx. -/
  | cdataHiAutoRead
  /-- EXTEST (R502): JTAG instruction that drives boundary scan and stops the device's I/O. -/
  | extest
  /-- IDCODE (R502): JTAG instruction that returns the IDCODE. -/
  | idcode
  /-- SAMPLE_PRELOAD (R502): JTAG boundary-scan sample and preload. -/
  | samplePreload
  /-- CHALLENGE (R502): JTAG instruction that shifts out a nonce and the serial. -/
  | challenge
  /-- JTAG_LOCK (R502): JTAG instruction that closes every level opened through JTAG. -/
  | jtagLock
  /-- BYPASS (R502): JTAG bypass instruction. -/
  | bypass
  /-- REFCLK_VALID (R414): The reference monitor finds REFCLK valid, and a boot that waits at hub-root lock goes on. -/
  | refclkValid
  /-- FUSE_PULSE_DONE (R430): A fuse programming pulse completes, which lets a delayed reset assert and records a retire, a floor or an anchor. -/
  | fusePulseDone
  /-- GET_VERSION (R390): SPDM request that negotiates the version. -/
  | getVersion
  /-- GET_CAPABILITIES (R381): SPDM request answered with the warden's capabilities. -/
  | getCapabilities
  /-- TRACE_RECORD_SEND (R501): The trace port sends the next record from its FIFO, or an OVERFLOW record after a drop. -/
  | traceRecordSend
deriving DecidableEq, Repr

end Sys2Proof
end

