-- ==== Sys2Proof/Machine/ModelDecl.lean ====
section
/-! DEFINITION. The 64-byte model declaration of a Gerun module, field by field (R269), and its attention caches (R200). -/

namespace Sys2Proof.Machine
open Sys2Proof

/-- A field of a byte string. -/
def leAt (bs : List (BitVec 8)) (a n : Nat) : Nat := leNat ((bs.drop a).take n)

/-- Every byte of a range is 0. -/
def zeroAt (bs : List (BitVec 8)) (a n : Nat) : Bool := ((bs.drop a).take n).all (fun b => decide (b = 0))

end Sys2Proof.Machine

namespace Sys2Proof
open Sys2Proof.Machine

/-! ## Fields (R269) -/

def ModelDecl.winBytes (m : ModelDecl) : Nat := leAt m.decl 0 4
def ModelDecl.modWin (m : ModelDecl) : Nat := leAt m.decl 4 4
def ModelDecl.pmBerth (m : ModelDecl) : Nat := leAt m.decl 8 8
def ModelDecl.tiles (m : ModelDecl) : Nat := leAt m.decl 16 2
def ModelDecl.stepCost (m : ModelDecl) : Nat := leAt m.decl 18 2
def ModelDecl.critNs (m : ModelDecl) : Nat := leAt m.decl 20 4
def ModelDecl.stepBudget (m : ModelDecl) : Nat := leAt m.decl 24 4
def ModelDecl.entryPc (m : ModelDecl) : Nat := leAt m.decl 28 4
def ModelDecl.frameBytes (m : ModelDecl) : Nat := leAt m.decl 32 2
def ModelDecl.startFrames (m : ModelDecl) : Nat := leAt m.decl 34 1
def ModelDecl.outFmt (m : ModelDecl) : Nat := leAt m.decl 35 1
def ModelDecl.outRate (m : ModelDecl) : Nat := leAt m.decl 36 4
def ModelDecl.outPerStep (m : ModelDecl) : Nat := leAt m.decl 40 2
def ModelDecl.chargeEst (m : ModelDecl) : Nat := leAt m.decl 44 4

/-- The declaration has its 64 bytes, and its reserved ones are 0. -/
def ModelDecl.formOk (m : ModelDecl) : Bool := decide (m.decl.length = 64) && zeroAt m.decl 42 2 && zeroAt m.decl 48 16

/-! ## Attention caches (R200) -/

/-- Bytes of one cache row of a side: its slot's elements padded to a multiple of 64. -/
def attnRow (a : AttnDecl) (width : Nat) : Nat := ceilDiv (width * (if a.int8 then 1 else 2)) 64 * 64

/-- Bytes of the scale array after an INT8 block: one BF16 for each position. -/
def attnScales (a : AttnDecl) : Nat := if a.int8 then 2 * a.positions else 0

/-- Bytes of one block, the rows of a head's side with its scale array. -/
def attnBlock (a : AttnDecl) (width : Nat) : Nat := a.positions * attnRow a width + attnScales a

/-- Bytes of a layer's cache. -/
def attnBytes (a : AttnDecl) : Nat := a.heads * (attnBlock a a.dk + attnBlock a a.dv)

/-- Offset within a layer's cache of the row that position t of a head has, K (`v` false) before V. -/
def attnRowAt (a : AttnDecl) (head : Nat) (v : Bool) (t : Nat) : Nat :=
  head * (attnBlock a a.dk + attnBlock a a.dv) + (if v then attnBlock a a.dk + t % a.positions * attnRow a a.dv
    else t % a.positions * attnRow a a.dk)

/-- Offset within the model's declared areas of layer k's cache: the layers lie one after another in the order of their declarations
(DESIGN CHOICE, log 174). -/
def attnBase (m : ModelDecl) (k : Nat) : Nat := ((m.attn.take k).map attnBytes).foldl (· + ·) 0

/-- Bytes that the model declares in region 0: `pm_berth`, which holds the attention caches; admission reserves the whole of them. -/
def declaredAreas (m : ModelDecl) : Nat := Nat.max m.pmBerth (attnBase m m.attn.length)

end Sys2Proof
end

