-- ==== Sys2Proof/Machine/Types.lean ====
section
/-! DEFINITION. The parts State is built of: threads, tiles, berths, modules and the other units, as plain data. -/

namespace Sys2Proof.Machine
open Sys2Proof

/-! ## The cluster machine (chapters 5 and 6) -/

/-- A window of the cluster store or a range of memory, in bytes (R122). -/
structure Win where
  base : Nat := 0
  len : Nat := 0
deriving DecidableEq, Repr

/-- Thread states, coded 0–5 (R115). -/
inductive TState where
  | idle | sleeping | ready | waiting | stopped | faulted
deriving DecidableEq, Repr

/-- What a WAITING thread waits for (R114, R126, R168–R171, R167). -/
inductive WaitOn where
  | operands (sm : BitVec 32) (vm am : BitVec 16) (pm : BitVec 8)
  | room (eng : Nat) (tiles : BitVec 16)
  | engines (mask : BitVec 6)
  | counter (d : BitVec 5) (f : BitVec 4) (target : BitVec 32)
  | finish
deriving DecidableEq, Repr

/-- One hardware thread with its context (R112–R119). -/
structure Thread where
  st : TState := .idle
  sreg : Tab (BitVec 64) := []
  vreg : Tab (BitVec 128) := []
  areg : Tab (BitVec 128) := []
  preg : Tab (BitVec 1024) := []
  pc : BitVec 32 := 0
  entryPc : BitVec 32 := 0
  bw : Win := {}
  mw : Win := {}
  berth : BitVec 12 := 0
  client : BitVec 10 := 0
  modSlot : BitVec 8 := 0
  exc : BitVec 8 := 0
  excPc : BitVec 32 := 0
  issued : Nat := 0
  pendS : BitVec 32 := 0
  pendV : BitVec 16 := 0
  pendA : BitVec 16 := 0
  pendP : BitVec 8 := 0
  /-- outstanding commands per engine, keyed as FENCE's mask numbers them (R119, R168) -/
  outst : Tab Nat := []
  /-- named tiles of the command that marked a`k` which have not completed yet (R153) -/
  aleft : Tab Nat := []
  /-- array commands issued, which orders the products of the thread for the drain fence (R158) -/
  aseq : Nat := 0
  wait : Option WaitOn := none
  /-- BINFO fields 4–7, fixed when the manifest is built (R167) -/
  rank : Nat := 0
  count : Nat := 0
  frames : Nat := 0
  room : Nat := 0
  /-- the model of the module that the thread's berth runs (R269) -/
  model : Nat := 0
  /-- when the thread last became READY: 4,096 times the device tick, plus its place in the manifest (R124) -/
  since : Nat := 0
deriving DecidableEq, Repr

/-- How far a CONV has come (R235): output positions, or Winograd output tiles, computed; stripes fetched; the results of positions not
yet spilled to package memory, as bits of their elements by position; array cycles by tile; window bytes; the largest product's C + D;
and output and package-memory bytes. -/
structure CvProg where
  done : Nat := 0
  stripes : Nat := 0
  outs : Tab (List Nat) := []
  busy : Tab Nat := []
  bytes : Nat := 0
  fill : Nat := 0
  outB : Nat := 0
  pmB : Nat := 0
deriving DecidableEq, Repr

/-- An engine command with the operands it took at issue (R127). `op` is its opcode (R148). -/
structure Cmd where
  op : Nat := 0
  lt : BitVec 12 := 0
  fld : Fields := {}
  lanes : BitVec 1024 := 0
  hd : BitVec 128 := 0
  hx : BitVec 128 := 0
  hy : BitVec 128 := 0
  hz : BitVec 128 := 0
  sy : BitVec 64 := 0
  sz : BitVec 64 := 0
  pz : BitVec 1024 := 0
  step : Nat := 0
  ord : Nat := 0
  /-- what every engine command carries beside its thread (R127): berth, client, module slot and model -/
  berth : BitVec 12 := 0
  client : BitVec 10 := 0
  modSlot : BitVec 8 := 0
  model : Nat := 0
  /-- the stream descriptor of an MGATH and its blocks already landed, or the first frame of an MFRAME -/
  aux : Nat := 0
  aux2 : Nat := 0
  /-- package addresses that the mover found at issue: of the transfer or the data area, and of an index stream (R164, R284) -/
  pa : Nat := 0
  pi : Nat := 0
  cv : CvProg := {}
deriving DecidableEq, Repr

/-! ## Tiles (chapters 2, 3 and 4) -/

/-- One array product in a tile (R54, R118, R127). -/
structure Product where
  lt : BitVec 12 := 0
  reg : Nat := 0
  seq : Nat := 0
  recIx : Nat := 0
  inAddr : Nat := 0
  outAddr : Nat := 0
  scaleAddr : Nat := 0
  dfence : Bool := false
  /-- the berth and the client of the command (R127) -/
  berth : BitVec 12 := 0
  client : BitVec 10 := 0
  /-- the activation vector once the store has read it for every tile that the command names (R54) -/
  vec : Option (List (BitVec 8)) := none
deriving DecidableEq, Repr

/-- A program request in a tile (R56, R159): `src` is the package address of this tile's block. -/
structure ProgReq where
  lt : BitVec 12 := 0
  reg : Nat := 0
  recIx : Nat := 0
  src : Nat := 0
  berth : BitVec 12 := 0
  client : BitVec 10 := 0
  /-- the device tick of its start -/
  tick : Nat := 0
deriving DecidableEq, Repr

/-- An entry of a tile's queue, in arrival order (R47, R58). -/
inductive TileJob where
  | product (p : Product)
  | program (q : ProgReq)
deriving DecidableEq, Repr

/-- Trims of a tile's column ADCs (R84): offset in 1/8 LSB and gain in 1/1,024, keyed 4 × physical column + `adc_range`. -/
structure Trims where
  off : Tab Int := []
  gain : Tab Int := []
deriving DecidableEq, Repr

/-- When a tile's columns were last calibrated: device tick and junction temperature (R77). -/
structure ColCal where
  tick : Nat := 0
  temp : Int := 0
deriving DecidableEq, Repr

/-- What a pass found out of tolerance on a tile: a physical column or a reference ladder (R86, R87). -/
inductive BadUnit where
  | col (c : Nat)
  | ladder (ld : Nat)
deriving DecidableEq, Repr

/-- A product that the tile has taken from its queue: its accumulator bank, which is its entry of the row registers too, the
scale word that it read, whether a drain fence holds its drain (R45, R47, R68, R158), and what its conversions see: the calibration,
the spoke map, the ladders and the columns out of tolerance in force at its start, the device tick of the start, and the temperatures
of the tile's sensor since, oldest first (R61, R82). -/
structure Active where
  p : Product := {}
  bank : Nat := 0
  eps : BitVec 64 := 0
  delta : BitVec 16 := 0
  za : Int := 0
  held : Bool := false
  cal : ColCal := {}
  spokes : Tab Nat := []
  ladders : Tab Nat := []
  bad : List BadUnit := []
  tick : Nat := 0
  temps : List Int := []
  /-- the count of free values at its start, which names its conversions' free codes and moments -/
  free : Nat := 0
deriving DecidableEq, Repr

/-- A layer record of a tile with the module and model it belongs to; `streamed` marks a record that APROG may
program (R50, R156, R159). -/
structure LayerRec where
  raw : BitVec 128 := 0
  modSlot : BitVec 8 := 0
  streamed : Bool := false
deriving DecidableEq, Repr

/-- States of a physical unit, cluster or tile (R97). -/
inductive UnitState where
  | active | spare | draining | outOfService | quarantined | retired
deriving DecidableEq, Repr

/-- A logical column that moves to a spare spoke (R99): the cells of resident records are written, the next program request has
routed the column, and forced slots still to take, 4 until the first. -/
structure SpokeMove where
  col : Nat := 0
  spoke : Nat := 0
  written : Bool := false
  routed : Bool := false
  left : Nat := 4
deriving DecidableEq, Repr

/-- One physical tile (R36): records, parameter memory, cells, accumulator banks, queue, products and program requests in
progress, its spokes and ladders, and its calibration state. -/
structure Tile where
  shadow : Bool := false
  recs : Tab LayerRec := []
  params : Tab (BitVec 32) := []
  /-- cell codes, keyed row × 1056 + physical column -/
  cells : Tab (BitVec 4) := []
  /-- accumulators, keyed bank × 1024 + logical output -/
  banks : Tab (BitVec 32) := []
  /-- row input registers, two entries for each row, keyed entry × 512 + row: the raw activation (R36, R41) -/
  rowIn : Tab (BitVec 8) := []
  queue : List TileJob := []
  actives : List Active := []
  progs : List ProgReq := []
  nextBank : Nat := 0
  /-- junction temperature at the tile's sensor, in 0.125 °C (R77) -/
  temp : Int := 0
  /-- logical column + 1 that spare spoke k serves, 0 for none (R94) -/
  spokes : Tab Nat := []
  spokeFailed : Tab Bool := []
  /-- ladder that serves quarter q is q unless listed (R94, R100) -/
  ladders : Tab Nat := []
  ladderFailed : Tab Bool := []
  /-- committed calibration of the physical columns, which take part in every slot together (R84, R89) -/
  cal : ColCal := {}
  /-- trims in force, those that the present pass has measured so far, and temperature and trims of the latest pass since the last
  commit (R84, R89) -/
  trims : Trims := {}
  trimWork : Trims := {}
  pend : Option (Int × Trims) := none
  /-- next slot of the pass, 0–11 (R84) -/
  passSlot : Nat := 0
  passes : Nat := 0
  /-- columns and ladders found out of tolerance and not yet repaired, in the order found (R86, R87) -/
  bad : List BadUnit := []
  /-- row ranges whose cells await a refresh, each with the column that drifted, and the pass count of each column's last refresh
  plus one (R88) -/
  refreshDue : List (Nat × Win) := []
  refreshed : Tab Nat := []
  /-- the spoke move in progress (R99) -/
  move : Option SpokeMove := none
  /-- a trim of the present pass was held at its bound (R107) -/
  pinSeen : Bool := false
  /-- array cycles at which forced slots of the last 2^20 array cycles were taken (R86) -/
  forced : List Nat := []
deriving DecidableEq, Repr

/-! ## Berths (chapter 10) -/

/-- Berth states, coded 0–6 (R243). -/
inductive BState where
  | free | admitted | running | parked | locked | abandoned | draining
deriving DecidableEq, Repr

/-- A substream state (R212). -/
structure Substream where
  key : BitVec 256 := 0
  ord : BitVec 24 := 0
  replay : Bool := false
  fromSeed : Bool := false
  blocks : BitVec 64 := 0
  fragile : BitVec 64 := 0
  margin : BitVec 16 := 0
deriving DecidableEq, Repr

/-- A request that waits on a berth's lock: client and the item's number within the client (R264). -/
structure Waiter where
  client : BitVec 10 := 0
  item : Nat := 0
deriving DecidableEq, Repr

/-- Why a berth ended, the reasons of BERTH_END (R320), or a LEAVE item. -/
inductive EndCause where
  | none | stream | exception | outOfService | teardown | leave
deriving DecidableEq, Repr

/-- One entry of the berth table (R243) with the destination, input and step data that belong to it. -/
structure Berth where
  st : BState := .free
  heldFrom : BState := .admitted
  replay : Bool := false
  destAudio : Bool := false
  preempted : Bool := false
  moving : Bool := false
  autoPk : Bool := false
  client : BitVec 10 := 0
  modSlot : BitVec 8 := 0
  model : Nat := 0
  lthread : BitVec 12 := 0
  /-- step index, 0–16,777,216: `step_hi` and `step` of R243 together -/
  step : Nat := 0
  stepLast : BitVec 24 := 0
  lkOwner : BitVec 10 := 0
  lkEpoch : BitVec 16 := 0
  lkSeq : BitVec 14 := 0
  outRun : BitVec 16 := 0
  outCause : Nat := 0
  waiters : List Waiter := []
  lastDstep : BitVec 32 := 0
  /-- store reservation in 64-byte units, region-0 reservation in 4 KiB units, and its place -/
  stRes : Nat := 0
  pmRes : Nat := 0
  pmBase : Nat := 0
  pmDie : Nat := 0
  winBase : Nat := 0
  tag : BitVec 32 := 0
  lease : Nat := 0
  leaseFrom : Nat := 0
  /-- output ring and its positions (R315, R317) -/
  obBase : BitVec 64 := 0
  obBlocks : Nat := 0
  blkVals : Nat := 1
  returned : Nat := 0
  filled : Nat := 0
  inBlock : List Nat := []
  audStream : Nat := 0
  /-- input frames: depth, accepted, visible to the present step, consumed (R27) -/
  inDepth : Nat := 1
  framesIn : Nat := 0
  framesVis : Nat := 0
  framesTaken : Nat := 0
  /-- frames whose move into the store has completed, which frees their place in the input range -/
  framesFreed : Nat := 0
  /-- frames whose read of host memory is under way -/
  framesDue : Nat := 0
  /-- output values staged in the present step (R166) -/
  staged : List Nat := []
  emitting : Nat := 0
  /-- offsets within the window of the state blocks that have taken their seed, and whether every block counts as one (R73, R180) -/
  seeded : List Nat := []
  seedDone : Bool := false
  sub : Substream := {}
  inStep : Bool := false
  committed : Bool := false
  lastStep : Bool := false
  /-- the largest P of the RPREFILLs that the present step has run (R187) -/
  prefill : Option Nat := none
  /-- charges of the present step: tile-ns in thirds of a nanosecond, and core cycles of the engines (R255) -/
  tile3 : Nat := 0
  engCyc : Nat := 0
  vecCyc : Nat := 0
  parkDue : Bool := false
  leaveDue : Bool := false
  moveThr : Option (BitVec 12 × Nat) := none
  lockDue : Option Waiter := none
  /-- it was told to leave while its cluster was being saved: the context that the image holds is void (R138) -/
  void : Bool := false
  /-- a copy of R194 is under way, and it is the copy back -/
  copying : Bool := false
  copyBack : Bool := false
  unparkDue : Bool := false
  ended : EndCause := .none
  endExc : BitVec 8 := 0
  endPc : BitVec 32 := 0
  /-- its own client was reset while it was locked or abandoned, so it leaves at the next release (R265, R266) -/
  orphanLeave : Bool := false
  underruns : Nat := 0
deriving DecidableEq, Repr

/-- A copy of a model loaded in a logical cluster (R271): its module window and the tile slots it took. -/
structure Copy where
  model : Nat := 0
  lclu : BitVec 4 := 0
  mw : Win := {}
  slots : List Nat := []
deriving DecidableEq, Repr

/-- State of a module slot. -/
inductive ModState where
  | free | loading | loaded | unloading
deriving DecidableEq, Repr

/-- A module slot: what it holds, where its images lie (offset in each die's module pool, die by die) and its copies. -/
structure Module where
  st : ModState := .free
  desc : ModuleDesc := {}
  client : BitVec 10 := 0
  images : List (Nat × Nat) := []
  copies : List Copy := []
  item : Nat := 0
deriving DecidableEq, Repr

/-- A live gather stream of the stream mover (R288). -/
structure Stream where
  berth : BitVec 12 := 0
  client : BitVec 10 := 0
  desc : Nat := 0
  /-- the descriptor's 64 bytes as the latest MGATH read them, and the package addresses of its data area and index stream -/
  word : Nat := 0
  pa : Nat := 0
  pi : Nat := 0
  pos : Nat := 0
  ahead : Nat := 0
  ring : BitVec 128 := 0
deriving DecidableEq, Repr

/-! ## Clients (chapter 12) -/

/-- Client states, coded 0–4 (R308, R309). -/
inductive CState where
  | disabled | active | flushing | halted | resetting
deriving DecidableEq, Repr

/-- An item that the device has accepted and that has not completed (R312, R313). -/
structure Item where
  seq : Nat := 0
  op : Nat := 0
  tag : BitVec 32 := 0
  fep : BitVec 8 := 0
  berth : BitVec 12 := 0
  irq : Bool := false
  ord : Bool := false
  begun : Bool := false
  /-- taken up and waiting for a lock, a berth state, room, a restore or a key (R321, R322) -/
  held : Bool := false
  parts : List (List (BitVec 8)) := []
  tmo : Nat := 0
  tmoMs : Bool := false
  at0 : Nat := 0
  /-- bytes that its read of host memory returned -/
  data : Option (List (BitVec 8)) := none
  aux : Nat := 0
  /-- of a FRAME that has begun, the number of its first frame within the berth (R27) -/
  slot : Nat := 0
  /-- it has been counted as one that needed store compaction (R283) -/
  compacted : Bool := false
deriving DecidableEq, Repr

/-- A completion record (R318). -/
structure Record where
  status : Nat := 0
  op : Nat := 0
  phase : Bool := false
  unsol : Bool := false
  spilled : Bool := false
  irq : Bool := false
  fep : BitVec 8 := 0
  tag : BitVec 32 := 0
  detail : List (BitVec 8) := []
  tick : BitVec 64 := 0
deriving DecidableEq, Repr

/-- A mailbox message (R324). -/
structure Message where
  type : Nat := 0
  orphan : Bool := false
  reply : Bool := false
  sndEpoch : BitVec 16 := 0
  orphEpoch : BitVec 16 := 0
  reSeq : BitVec 32 := 0
  status : Nat := 0
  payload : List (BitVec 8) := []
deriving DecidableEq, Repr

/-- A client context with its rings (R306–R309). -/
structure Client where
  st : CState := .disabled
  fepoch : BitVec 8 := 0
  cepoch : BitVec 16 := 0
  sqTail : BitVec 32 := 0
  sqHead : BitVec 32 := 0
  cqHead : BitVec 32 := 0
  cqTail : BitVec 32 := 0
  h2fTail : BitVec 32 := 0
  h2fHead : BitVec 32 := 0
  f2hHead : BitVec 32 := 0
  f2hTail : BitVec 32 := 0
  arm : Bool := true
  mask : Bool := false
  /-- descriptors of the item in assembly, and the part that made it malformed (R313) -/
  asm : List (List (BitVec 8)) := []
  asmBad : Option Nat := none
  items : List Item := []
  itemSeq : Nat := 0
  spill : List Record := []
  /-- place of the oldest spilled record in the spill ring of 2,048 (R294) -/
  spillAt : Nat := 0
  outbox : List Message := []
  f2hSeq : BitVec 32 := 0
  /-- records and messages written since the last interrupt, whether one asks for it at once, and the tick of the oldest -/
  unsig : Nat := 0
  unsigNow : Bool := false
  unsigAt : Nat := 0
  /-- H2F messages left unread by resets of the client, each with the epoch in which it was sent (R325) -/
  orph : List (BitVec 16) := []
  /-- step 4 of a client reset waits for a boundary (R323) -/
  resetBoundary : Bool := false
deriving DecidableEq, Repr

/-- The accounting record of a client (R259). -/
structure Acct where
  tileNs : BitVec 64 := 0
  vecCycles : BitVec 64 := 0
  auxCycles : BitVec 64 := 0
  pmRd : BitVec 64 := 0
  pmWr : BitVec 64 := 0
  hostBytes : BitVec 64 := 0
  chainBytes : BitVec 64 := 0
  energy : BitVec 64 := 0
  energyRem : Nat := 0
  berthSteps : BitVec 64 := 0
  deferred : BitVec 64 := 0
  lateSteps : BitVec 64 := 0
  vtime : BitVec 64 := 0
  running : BitVec 16 := 0
  held : BitVec 16 := 0
  weight : BitVec 16 := 1
  /-- V of R256 now; `vtime` shows it as the latest boundary left it (R261) -/
  v : BitVec 64 := 0
deriving DecidableEq, Repr

/-- An entry of a manifest: thread within the cluster, berth, rank and count (R253). -/
structure MfEntry where
  thread : Nat := 0
  berth : BitVec 12 := 0
  rank : Nat := 0
  count : Nat := 0
deriving DecidableEq, Repr

/-- A proposed move: berth, its cluster, the target, and whether the berth has left or moved since (R268). -/
structure Proposal where
  berth : BitVec 12 := 0
  hi : Nat := 0
  lo : Nat := 0
  void : Bool := false
deriving DecidableEq, Repr

/-- Activity of a client since the last boundary, which the next boundary adds to its record (R259, R261). -/
structure Activity where
  /-- tile-ns of steps and of the tiles that a load programs (R255, R271) -/
  tileNs : Nat := 0
  vecCyc : Nat := 0
  auxCyc : Nat := 0
  steps : Nat := 0
  pmRd : Nat := 0
  pmWr : Nat := 0
  hostBytes : Nat := 0
  chainBytes : Nat := 0
  laneOps : Nat := 0
  /-- bytes that commands read from and wrote to cluster stores (R260) -/
  storeB : Nat := 0
  deferred : Nat := 0
  late : Nat := 0
deriving DecidableEq, Repr

/-! ## Pre-emption and cluster migration (chapters 4 and 5) -/


/-- Where a logical cluster is in a pre-emption (R133, R135). -/
inductive SavePhase where
  | none | stopping | saved | restoring
deriving DecidableEq, Repr

/-- The working state of a CTR_DRBG (R206): the key, its first byte lowest, and V as a number. -/
structure DrbgKey where
  key : BitVec 256 := 0
  v : BitVec 128 := 0
deriving DecidableEq, Repr

/-- A DRBG (R206, R207): not instantiated, READY, WAIT, FAILED, coded 0–3, whether it is instantiated, and its request count. -/
structure Drbg where
  state : Nat := 0
  inst : Bool := false
  katOk : Bool := false
  since : BitVec 21 := 0
  key : DrbgKey := {}
  /-- requests that wait for entropy, oldest first: of an admission, an import or an export by client and item, `none` of a CHALLENGE
  (R207, R502) -/
  waiting : List (Option Waiter) := []
deriving DecidableEq, Repr

/-- What a save image holds (R132). -/
structure Image where
  threads : Tab Thread := []
  store : List (Nat × BitVec 8) := []
  tiles : Tab Tile := []
  queues : Tab (List Cmd) := []
  streams : List Stream := []
  gen : Drbg := {}
  /-- store ranges saved -/
  wins : List Win := []
  /-- its bytes in the save slot, check word included -/
  size : Nat := 0
deriving DecidableEq, Repr

/-- States of the noise source, coded 0–3 (R205). -/
inductive NtState where
  | startup | ok | error | tap
deriving DecidableEq, Repr

end Sys2Proof.Machine
end

