-- ==== Sys2Proof/Machine/Handles.lean ====
section
/-! DEFINITION. Vector and array handles (R117, R118), and reading and writing the elements a handle describes. -/

namespace Sys2Proof.Machine
open Sys2Proof

/-- A vector handle, field by field (R117). -/
structure VH where
  addr : Nat
  len : Nat
  rows : Nat
  stride : Nat
  fmtCode : Nat
  sgn : Bool
  resv : Bool
deriving DecidableEq, Repr

/-- The fields of a vector handle; `len` and `rows` are the counts, not less one. -/
def vhOf (h : BitVec 128) : VH :=
  let w := h.toNat
  { addr := bitsOf w 24 0, len := bitsOf w 47 32 + 1, rows := bitsOf w 79 64 + 1, stride := bitsOf w 104 80,
    fmtCode := bitsOf w 51 48, sgn := decide (bitsOf w 52 52 = 1),
    resv := decide (bitsOf w 31 25 ≠ 0 ∨ bitsOf w 63 53 ≠ 0 ∨ bitsOf w 127 105 ≠ 0) }

/-- Element count: elements per row times rows (R160). -/
def vhCount (h : VH) : Nat := h.len * h.rows

/-- The element format; a reserved code counts as INT4 after BAD_HANDLE has been ruled out. -/
def vhFmt (h : VH) : Fmt := (fmtOfCode h.fmtCode).getD .int4

/-- No reserved value (R117). -/
def vhOk (h : VH) : Bool := !h.resv && decide (h.fmtCode ≤ 6)

/-- Bytes of one row. -/
def vhRowBytes (h : VH) : Nat := ceilDiv (h.len * fmtBits (vhFmt h)) 8

/-- Distance from one row to the next; ignored when there is one row (R117). -/
def vhStride (h : VH) : Nat := if h.rows = 1 then 0 else h.stride

/-- The bytes a handle covers, first to last. -/
def vhSpan (h : VH) : Win := ⟨h.addr, (h.rows - 1) * vhStride h + vhRowBytes h⟩

/-- Bytes that a handle's elements fill, row after row. -/
def vhBytes (h : VH) : Nat := h.rows * vhRowBytes h

/-- `addr` is a multiple of the element size, or of one byte for INT4 (R117). -/
def vhAligned (h : VH) : Bool :=
  let b := fmtBits (vhFmt h) / 8
  decide (b ≤ 1 ∨ h.addr % b = 0)

/-- The byte address of element `i`, rows taken in order (R160). -/
def vhElemAddr (h : VH) (i : Nat) : Nat :=
  h.addr + (i / h.len) * vhStride h + (i % h.len) * fmtBits (vhFmt h) / 8

/-- The raw bits of element `i`; an INT4 element with an odd index in its row lies in the high half (R117). -/
def vhRead (m : List (Nat × BitVec 8)) (base : Nat) (h : VH) (i : Nat) : Nat :=
  let a := base + vhElemAddr h i
  match vhFmt h with
  | .int4 =>
    let b := (memByte m a).toNat
    if (i % h.len) % 2 = 0 then b % 16 else b / 16
  | f => memLe m a (fmtBits f / 8)

/-- Write the raw bits of element `i`. -/
def vhWrite (m : List (Nat × BitVec 8)) (base : Nat) (h : VH) (i v : Nat) : List (Nat × BitVec 8) :=
  let a := base + vhElemAddr h i
  match vhFmt h with
  | .int4 =>
    let b := (memByte m a).toNat
    let n := if (i % h.len) % 2 = 0 then b / 16 * 16 + v % 16 else v % 16 * 16 + b % 16
    memPut m a (BitVec.ofNat 8 n)
  | f => memPutBytes m a (natLe v (fmtBits f / 8))

/-- Write a list of elements, from index `i` up; `none` leaves its element unchanged (R147). -/
def vhWriteAll (m : List (Nat × BitVec 8)) (base : Nat) (h : VH) (i : Nat) : List (Option Nat) → List (Nat × BitVec 8)
  | [] => m
  | none :: t => vhWriteAll m base h (i + 1) t
  | some v :: t => vhWriteAll (vhWrite m base h i v) base h (i + 1) t

/-- An element value: an exact float or an integer. -/
inductive El where
  | f (x : Fl)
  | i (v : Int)
deriving DecidableEq, Repr

/-- The value of raw bits in a format. -/
def elOfBits (f : Fmt) (sgn : Bool) (w : Nat) : El :=
  if fmtIsFloat f then .f (flOfBits f w)
  else .i (if sgn then signedOf (fmtBits f) w else (w : Int))

/-- Least and greatest value of an integer format. -/
def intLo (f : Fmt) (sgn : Bool) : Int := if sgn then - (2 ^ (fmtBits f - 1) : Nat) else 0
/-- Greatest value of an integer format. -/
def intHi (f : Fmt) (sgn : Bool) : Int := if sgn then (2 ^ (fmtBits f - 1) : Nat) - 1 else (2 ^ fmtBits f : Nat) - 1

/-- A lane result: its bits, and whether it is a NaN event or an overflow (R76). -/
structure Lane where
  bits : Nat := 0
  nan : Bool := false
  ovf : Bool := false
deriving DecidableEq, Repr

/-- Store an integer in an integer format: saturate or wrap (R160). -/
def laneInt (f : Fmt) (sgn sat : Bool) (v : Int) : Lane :=
  ⟨wrapOf (fmtBits f) (if sat then clampInt (intLo f sgn) (intHi f sgn) v else v), false, false⟩

/-- Store an exact float in a float format with one rounding (R76). -/
def laneFl (f : Fmt) (x : Fl) : Lane :=
  let r := roundFl f x
  ⟨r.bits, flIsNan x, r.ovf⟩

/-- Store a value in a handle's format by the conversion rules of R76: float to integer rounds to nearest even and
saturates, integers narrow by `sat`. -/
def laneOf (f : Fmt) (sgn sat : Bool) (x : El) : Lane :=
  match x with
  | .f v => if fmtIsFloat f then laneFl f v
            else ⟨wrapOf (fmtBits f) (flToIntSat (intLo f sgn) (intHi f sgn) v), flIsNan v, false⟩
  | .i v => if fmtIsFloat f then laneFl f (flOfInt v) else laneInt f sgn sat v

/-- A value read as a float. -/
def elFl : El → Fl
  | .f x => x
  | .i v => flOfInt v

/-- A value read as an integer (floats are not met where this is used). -/
def elInt : El → Int
  | .f x => flToIntSat (- (2 ^ 63 : Nat)) ((2 ^ 63 : Nat) - 1) x
  | .i v => v

/-- An array handle, field by field (R118). -/
structure AH where
  tiles : Nat
  recIx : Nat
  inAddr : Nat
  outStride : Nat
  outAddr : Nat
  scaleAddr : Nat
  resv : Bool
deriving DecidableEq, Repr

/-- The fields of an array handle. -/
def ahOf (h : BitVec 128) : AH :=
  let w := h.toNat
  { tiles := bitsOf w 15 0, recIx := bitsOf w 18 16, inAddr := bitsOf w 48 24, outStride := bitsOf w 63 49,
    outAddr := bitsOf w 88 64, scaleAddr := bitsOf w 120 96,
    resv := decide (bitsOf w 23 19 ≠ 0 ∨ bitsOf w 95 89 ≠ 0 ∨ bitsOf w 127 121 ≠ 0) }

/-- The tile slots a mask names, ascending. -/
def slotsOf (mask : Nat) : List Nat := (upTo 16).filter (fun j => decide (mask / 2 ^ j % 2 = 1))

/-- The end of a range lies inside a window and its start too. -/
def inWin (w r : Win) : Bool := decide (w.base ≤ r.base ∧ r.base + r.len ≤ w.base + w.len)

/-! ## Layer records (R50) -/

/-- A layer record, field by field. -/
structure LR where
  rowBase : Nat
  rows : Nat
  colBase : Nat
  cols : Nat
  groupCode : Nat
  wInt8 : Bool
  wSigned : Bool
  aInt8 : Bool
  aSigned : Bool
  adcRange : Nat
  drainFmt : Nat
  drainAdd : Bool
  half : Nat
  wAsym : Bool
  aAsym : Bool
  paramBase : Nat
  layerId : Nat
  resv : Bool
deriving DecidableEq, Repr

/-- The fields of a layer record (R50). -/
def lrOf (r : BitVec 128) : LR :=
  let w := r.toNat
  let bit (i : Nat) : Bool := decide (bitsOf w i i = 1)
  { rowBase := bitsOf w 8 0, rows := bitsOf w 18 9, colBase := bitsOf w 28 19, cols := bitsOf w 39 29,
    groupCode := bitsOf w 41 40, wInt8 := bit 42, wSigned := bit 43, aInt8 := bit 44, aSigned := bit 45,
    adcRange := bitsOf w 47 46, drainFmt := bitsOf w 49 48, drainAdd := bit 50, half := bitsOf w 51 51,
    wAsym := bit 52, aAsym := bit 53, paramBase := bitsOf w 77 64, layerId := bitsOf w 95 80,
    resv := decide (bitsOf w 63 54 ≠ 0 ∨ bitsOf w 79 78 ≠ 0 ∨ bitsOf w 127 96 ≠ 0 ∨ bitsOf w 41 40 = 3) }

/-- Group size G. -/
def lrG (r : LR) : Nat := 32 * 2 ^ r.groupCode

/-- Groups of the record. -/
def lrGroups (r : LR) : Nat := ceilDiv r.rows (lrG r)

/-- Outputs of the record (R48). -/
def lrOuts (r : LR) : Nat := if r.wInt8 then r.cols / 2 else r.cols

/-- Passes of an activation (R44). -/
def lrPasses (r : LR) : Nat := if r.aInt8 then 2 else 1

/-- Conversions of a product, C. -/
def lrConvs (r : LR) : Nat := lrGroups r * lrPasses r

/-- Input bytes of a product (R41). -/
def lrInBytes (r : LR) : Nat := if r.aInt8 then r.rows else ceilDiv r.rows 2

/-- Output bytes of a product (R48). -/
def lrOutBytes (r : LR) : Nat :=
  match r.drainFmt with
  | 0 => 4 * lrOuts r
  | 1 => 2 * lrOuts r
  | 2 => lrOuts r
  | _ => ceilDiv (lrOuts r) 2

/-- Drain beats, D. -/
def lrBeats (r : LR) : Nat := ceilDiv (lrOutBytes r) 128

/-- The start interval of R47, in array cycles: the largest of C, Din and D. -/
def lrInterval (r : LR) : Nat := Nat.max (lrConvs r) (Nat.max (ceilDiv (lrInBytes r) 64) (lrBeats r))

/-- Parameter entries of the record (R52). -/
def lrEntries (r : LR) : Nat := lrGroups r * r.cols

/-- A layer record is valid only when all of R51 holds. -/
def lrValid (shadow : Bool) (r : LR) : Bool :=
  !r.resv && decide (1 ≤ r.rows ∧ r.rows ≤ 512 ∧ 1 ≤ r.cols ∧ r.cols ≤ 1024)
  && decide (r.rowBase % lrG r = 0)
  && (if shadow then decide (256 * r.half ≤ r.rowBase ∧ r.rowBase + r.rows ≤ 256 * r.half + 256)
      else decide (r.rowBase + r.rows ≤ 512 ∧ r.half = 0))
  && decide (r.colBase + r.cols ≤ 1024)
  && (!r.wInt8 || decide (r.colBase % 2 = 0 ∧ r.cols % 2 = 0))
  && (!r.drainAdd || decide (r.drainFmt = 0))

end Sys2Proof.Machine
end

