-- ==== Sys2Proof/Machine/Units.lean ====
section
/-! DEFINITION. The device-wide units of State: repair map, calibration, scheduling, pre-emption, random bits, host link,
memory, audio, chain, security, clocks, firmware, thermal and debug. -/

namespace Sys2Proof.Machine
open Sys2Proof

/-- A change of the repair map that takes effect at the next boundary (R90, R96): a unit state, a column on a spoke, a failed spoke,
a ladder, or a logical cluster taken out of service. -/
inductive MapChange where
  | cluster (n : Nat) (u : UnitState)
  | tile (n t : Nat) (u : UnitState)
  | spoke (n t col k : Nat)
  | spokeFail (n t k : Nat)
  | ladder (n t ld : Nat)
  | ladderFail (n t ld : Nat)
  | cluOut (l : Nat)
deriving DecidableEq, Repr

/-- The repair map (R94) with the unit states it holds (R97). -/
structure RepairMap where
  /-- physical cluster that serves logical cluster l; 31 means none -/
  clu : Tab Nat := []
  /-- physical tile that serves slot j of physical cluster n, keyed 16 n + j; 31 means none -/
  tile : Tab Nat := []
  /-- unit states of physical clusters, and of tiles keyed 17 n + t -/
  cluState : Tab UnitState := []
  tileState : Tab UnitState := []
  /-- repair fuses: retired clusters and tiles (R98, R430) -/
  cluFuse : Tab Bool := []
  tileFuse : Tab Bool := []
  seq : BitVec 32 := 0
  /-- changes that take effect at the next boundary, in order -/
  due : List MapChange := []
deriving DecidableEq, Repr

/-- A tile migration under way (R101). -/
structure TileMigr where
  clu : Nat := 0
  old : Nat := 0
  new : Nat := 0
  slot : Nat := 0
  copied : Bool := false
  switched : Bool := false
deriving DecidableEq, Repr

/-- A cluster migration under way (R102): steps 1–2, 3–4 and 5. -/
structure CluMigr where
  lclu : BitVec 4 := 0
  old : Nat := 0
  new : Nat := 0
  copied : Bool := false
  stopped : Bool := false
  moved : Bool := false
deriving DecidableEq, Repr

/-- Calibration epochs and repair (chapter 4). -/
structure CalUnit where
  epoch : BitVec 32 := 0
  epochTick : BitVec 64 := 0
  /-- causes of a commit that are due (R90) -/
  dueTime : Bool := false
  dueForced : Bool := false
  tileMigr : List TileMigr := []
  cluMigr : List CluMigr := []
  /-- repairs that wait to begin: tiles by key, and clusters (R109, R138) -/
  owedTiles : List Nat := []
  owedClus : List Nat := []
  /-- tiles whose spoke moves and ladder swaps wait for a commit window to close (R109) -/
  owedRepairs : List Nat := []
  /-- PINNED states of R107 (that of the AVS loops stands with their dies): keys of the tiles whose trims are held at a bound -/
  pinTrim : List Nat := []
  pinTide : Bool := false
  pinPlace : Bool := false
deriving DecidableEq, Repr

/-- The step machinery (chapter 10). -/
structure Sched where
  dstep : BitVec 64 := 0
  running : Bool := false
  /-- the latest manifest of each physical cluster and its E (R253, R466) -/
  mf : Tab (List MfEntry) := []
  mfE : Tab Nat := []
  /-- sum of E over the present rebalancing period by logical cluster, steps and manifests in it (R268) -/
  rbSum : Tab Nat := []
  rbCnt : Tab Nat := []
  rbSteps : Nat := 0
  /-- energy of work charged to no client below 1 µJ, in fJ (R491) -/
  sysRem : Nat := 0
  dlMissed : Bool := false
  /-- clusters whose berth windows are being compacted, with the range needed (R283) -/
  compact : Tab Nat := []
  /-- the berth-table capture (R463) -/
  capBerth : BitVec 12 := 0
  capSeq : BitVec 20 := 0
  capData : List (BitVec 8) := []
  /-- code, berth and pc of each physical cluster's latest exception (R466) -/
  excReg : Tab (Nat × Nat × Nat) := []
  /-- the proposals of the latest rebalancing period (R268) -/
  proposals : List Proposal := []
  /-- the policy words in force since the latest boundary (R272) -/
  pol : Tab (BitVec 32) := []
deriving DecidableEq, Repr

/-- Pre-emption (R130–R136). -/
structure Preempt where
  phase : Tab SavePhase := []
  image : List (Nat × Image) := []
  /-- the PREEMPT item each cluster's save answers: client and item number -/
  item : Tab (Nat × Nat) := []
  /-- client whose pre-empting work may use the vacated cluster (R250) -/
  owner : Tab Nat := []
deriving DecidableEq, Repr

/-- The noise source and the generators (chapter 8). -/
structure Rng where
  nt : NtState := .startup
  /-- raw bits since the last health-test failure, saturating above 2^20 (R205) -/
  sinceFail : Nat := 1048577
  /-- the latest raw bit and how many identical ones end with it (R204) -/
  last : Bool := false
  run : Nat := 0
  /-- the latest good block that no generator has taken (R203) -/
  block : Option (BitVec 384) := none
  gens : Tab Drbg := []
  raw : List (BitVec 32) := []
deriving DecidableEq, Repr

/-- The host link (R301–R305) and the mailbox end of the firmware. -/
structure HostLink where
  linkUp : Bool := false
  rate : BitVec 3 := 0
  width : BitVec 5 := 0
  fwEpoch : BitVec 16 := 0
deriving DecidableEq, Repr

/-- Package memory's own state (chapter 11). -/
structure MemUnit where
  trained : BitVec 8 := 0
  pcSpared : Tab Nat := []
  rowsSpared : Tab Nat := []
  /-- corrected errors of a row since power-on, keyed by pseudo-channel × 2^32 + row, and rows spared by pseudo-channel (R105) -/
  rowErrs : Tab Nat := []
  pcRows : Tab Nat := []
  /-- pseudo-channels with a row copy, and with a copy of the whole pseudo-channel, under way -/
  rowCopies : List Nat := []
  pcCopies : List Nat := []
deriving DecidableEq, Repr

/-- Transmitter phases, coded 0–5 (R347). -/
inductive TxPhase where
  | idle | armed | lead | run | fade | tail
deriving DecidableEq, Repr

/-- Receiver lock states, coded 0–4 (R349). -/
inductive RxLock where
  | disabled | acquire | locked | freewheel | relock
deriving DecidableEq, Repr

/-- One slot of an audio stream (R341–R344): the berth that feeds it, queued values, the number of the next value to arrive, the
last value sent or received, the run of missing values, and block bits latched or gathered. -/
structure Slot where
  bound : Option (BitVec 12) := none
  q : List Int := []
  nextIx : Nat := 0
  last : Int := 0
  missing : Nat := 0
  cs : BitVec 192 := 0
  ub : BitVec 192 := 0
deriving DecidableEq, Repr

/-- One audio stream (chapter 13). -/
structure AStream where
  phase : TxPhase := .idle
  lock : RxLock := .disabled
  rateMeas : Nat := 7
  nonaudio : Bool := false
  frame : BitVec 64 := 0
  /-- frame within the block, 0–191, and frames sent in the present phase -/
  blk : Nat := 0
  inPhase : Nat := 0
  /-- number of the value that the present frame sends (R343) -/
  cur : Nat := 0
  udrBlock : Bool := false
  /-- consecutive good frames, bad frames, frames off their period, and whether a Z preamble was seen (R349) -/
  good : Nat := 0
  bad : Nat := 0
  off : Nat := 0
  zSeen : Bool := false
  /-- a receiver that waits for the trigger delivers nothing (R347) -/
  waitTrig : Bool := false
  s0 : Slot := {}
  s1 : Slot := {}
  /-- the two values of the latest frame that a transmitter sent (R339) -/
  sent : Int × Int := (0, 0)
deriving DecidableEq, Repr

/-- The audio block: streams by number, the oscillator's pull in 0.01 ppm, and the PLLs (chapter 13). -/
structure Audio where
  str : Tab AStream := []
  pull : Int := 0
  lockA : Bool := false
  lockB : Bool := false
  /-- VDDIO_AUD is sensed at 1.8 V (R353) -/
  io18 : Bool := false
deriving DecidableEq, Repr

/-- A chain port (R356–R358): link 0 DOWN, 1 TRAIN, 2 UP, 3 HELD; frames that wait to leave, own ones, transit ones in hub SRAM and
spilled ones, with the place of the first of these in the spill area (R365, R368). -/
structure Port where
  link : Nat := 0
  rate : Nat := 0
  x4 : Bool := false
  partner : BitVec 13 := 0
  pport : BitVec 2 := 0
  egress : List (List (BitVec 8)) := []
  transit : List (List (BitVec 8)) := []
  spill : List (List (BitVec 8)) := []
  spillAt : Nat := 0
deriving DecidableEq, Repr

/-- A route entry (R367, R370): state 0 OFF, 1 UP, 2 FAULT; `avail` counts the credits held, `credited` the frames of the berth
for which credits have been returned. -/
structure Route where
  recv : Bool := false
  berth : BitVec 12 := 0
  job : BitVec 16 := 0
  peerId : BitVec 13 := 0
  peerRt : BitVec 12 := 0
  area : Nat := 0
  len : Nat := 0
  credits : Nat := 0
  hopLim : BitVec 13 := 0
  st : Nat := 0
  avail : Nat := 0
  quiet : Bool := false
  cause : Nat := 0
  credited : Nat := 0
  /-- the disable takes effect at the next boundary (R370) -/
  offDue : Bool := false
deriving DecidableEq, Repr

/-- The chain (chapter 14): ports, lane states keyed 9 k + j, routes, and the next sequence numbers by entry, direction, job and epoch. -/
structure Chain where
  ports : Tab Port := []
  lanes : Tab UnitState := []
  routes : Tab Route := []
  seqs : Tab Nat := []
deriving DecidableEq, Repr
/-- Tenancy states, coded 0–2 (R376). -/
inductive Tenancy where
  | vacant | bound | teardown
deriving DecidableEq, Repr

/-- States of the TDI, coded 0–3 (R394). -/
inductive Tdi where
  | unlocked | locked | run | error
deriving DecidableEq, Repr

/-- A tenant key (R380): kind 1 state, 2 bundle, 3 job; `epoch` is the tenant epoch of its put, or the job epoch. -/
structure TKey where
  kind : Nat := 1
  id : BitVec 32 := 0
  epoch : BitVec 32 := 0
  key : BitVec 256 := 0
deriving DecidableEq, Repr

/-- An SPDM session (R381, R383). -/
structure Session where
  finished : Bool := false
  mutualAuth : Bool := false
  pub : BitVec 384 := 0
deriving DecidableEq, Repr

/-- A selective IDE stream (R393): key sets 0 and 1 programmed, and the one in use plus one. -/
structure Ide where
  keyed0 : Bool := false
  keyed1 : Bool := false
  go : Nat := 0
deriving DecidableEq, Repr

/-- A report held over a commit window or not yet fetched (R389): path 0 SPDM, 1 mailbox of a client, 2 Cewieb. -/
structure HeldReport where
  path : Nat := 0
  who : Nat := 0
  seq : BitVec 32 := 0
  orph : Option (BitVec 16) := none
  nonce : BitVec 256 := 0
deriving DecidableEq, Repr

/-- Tenancy, keys and management (chapter 15). -/
structure Sec where
  tenancy : Tenancy := .vacant
  tenantId : BitVec 32 := 0
  tEpoch : BitVec 32 := 0
  tdisp : Bool := false
  dbgTeardown : Bool := false
  /-- public-key digest of the binding session, when it was mutually authenticated -/
  bindPub : Option (BitVec 384) := none
  tsess : Option Nat := none
  keys : List TKey := []
  tdi : Tdi := .unlocked
  /-- the IDE stream that the TDI is bound to (R394) -/
  tdiStream : Nat := 0
  ide : Tab Ide := []
  /-- negotiation of the SPDM connection: 0 none, 1 version, 2 capabilities, 3 algorithms -/
  spdm : Nat := 0
  sessions : Tab Session := []
  /-- sessions whose KEY_UPDATE changed keys, by count -/
  keyUpdates : Nat := 0
  polLock : Bool := false
  bindMutual : Bool := false
  tdispReq : Bool := false
  mview : BitVec 64 := 0
  levels : BitVec 5 := 0
  /-- a level that counts as open was in force since the bind (R386) -/
  openSince : Bool := false
  /-- levels that open when VACANT is reached (R407) -/
  levelsDue : BitVec 5 := 0
  tdStep : Nat := 0
  tdTick : BitVec 64 := 0
  tdStart : BitVec 64 := 0
  /-- STOP_INTERFACE_REQUEST waits for the end of the teardown (R394) -/
  tdiStop : Bool := false
  /-- a teardown cause accepted during the commit window (R409) -/
  tdDue : Bool := false
  held : List HeldReport := []
  /-- Cewieb operations and JTAG responses held over a commit window of the warden (R441, R505) -/
  cwHeld : List Instr := []
  anchor : Option (BitVec 384) := none
deriving DecidableEq, Repr
/-- The clocks, straps and resets (R411–R433): a die's gear, its guard gear, its root's lock and attempts, roots that failed;
`inReset` while the internal reset is asserted, `stopped` once CRITICAL has stopped the clocks. -/
structure Clk where
  ready : Bool := false
  inReset : Bool := false
  porHeld : Bool := false
  refValid : Bool := true
  stopped : Bool := false
  gear : Tab Nat := []
  /-- twelfths of array cycles that each die had run at its latest change of gear, and the tick of that change (R416, R420) -/
  arr : Tab Nat := []
  arrAt : Tab Nat := []
  /-- the tick from which each die may next change to a faster gear (R418) -/
  climbAt : Tab Nat := []
  guardGear : Tab Nat := []
  lock : Tab Bool := []
  attempts : Tab Nat := []
  rootDown : Tab Bool := []
  /-- an assertion of RESET_N waits for a fuse pulse or a flash transfer (R430) -/
  rstWaits : Bool := false
  rstDelayed : Bool := false
  /-- RESET_N is taken as low -/
  rstLow : Bool := false
  /-- `slew_mgt`, the edge-rate code of the management pins (R483) -/
  slewMgt : BitVec 2 := 1
deriving DecidableEq, Repr

/-- Phases of an update, coded 0–4 (R438). -/
inductive FwPhase where
  | idle | staging | staged | window | persist
deriving DecidableEq, Repr

/-- What names a firmware image (R434). -/
structure FwImage where
  ver : BitVec 16 := 0
  seq : BitVec 32 := 0
  digest : BitVec 384 := 0
deriving DecidableEq, Repr

/-- One image slot of the boot flash and its state sector (R435). -/
structure FlashSlot where
  image : Option FwImage := none
  staged : Bool := false
  active : Bool := false
  retired : Bool := false
deriving DecidableEq, Repr

/-- One kind of firmware (R438): the running image, the flash slot it booted from, the staged image, the bytes of a stage still to
come, the path of the stage, and whether the STAGED byte is programmed and the SPARE core has loaded the image. -/
structure FwKind where
  phase : FwPhase := .idle
  running : FwImage := {}
  slotB : Bool := false
  pending : Option FwImage := none
  len : Nat := 0
  chunks : List (Nat × List (BitVec 8)) := []
  byCewieb : Bool := false
  flashed : Bool := false
  coreLoaded : Bool := false
deriving DecidableEq, Repr

/-- A fuse record that waits for its programming pulse (R430). -/
inductive FuseJob where
  | retireCluster (n : Nat)
  | retireTile (n t : Nat)
  | retireCore (n : Nat)
  | retireLane (p j : Nat)
  | floor (wd : Bool) (ver : BitVec 16)
  | anchor (hash : BitVec 384)
deriving DecidableEq, Repr

/-- Firmware, flash and fuses (R433–R442). -/
structure Fw where
  hm : FwKind := {}
  wd : FwKind := {}
  /-- harbourmaster slots A and B, warden slots A and B -/
  slots : Tab FlashSlot := []
  cores : Tab UnitState := []
  fuseQ : List FuseJob := []
  floorHm : BitVec 16 := 0
  floorWd : BitVec 16 := 0
  dbgDisable : Bool := false
  imgErr : Nat := 0
  /-- the boot ROM waits for a boot bundle (R436), and the images supplied to it (R437) -/
  waitBundle : Bool := false
  bootHm : Option FwImage := none
  bootWd : Option FwImage := none
  /-- repair fuses of control cores, and of chain lanes keyed 9 × port + lane (R97, R105) -/
  coreFuse : Tab Bool := []
  laneFuse : Tab Bool := []
  boots : Nat := 0
deriving DecidableEq, Repr

/-- Thermal states, coded 0–3 (R479). -/
inductive ThState where
  | normal | throttle | trip | critical
deriving DecidableEq, Repr

/-- The thermal state of a compute die: its thermal gear, its latest T and its hottest own sensor, in 0.125 °C. -/
structure DieTherm where
  st : ThState := .normal
  gt : Nat := 0
  temp : Int := 0
  own : Int := 0
deriving DecidableEq, Repr

/-- Temperature and supply (chapter 18): the dies, the hub and the stacks, the pin THERMTRIP_N asserted, and each die's
acknowledged AVS target in mV, the target under way, whether its bus is failing, whether its loop is pinned (R107), and whether its
minimum-voltage guard overrides a bound (R108). -/
structure Thermal where
  dies : Tab DieTherm := []
  hub : Int := 0
  tripPin : Bool := false
  avs : Tab Nat := []
  avsWant : Tab Nat := []
  avsBad : Tab Bool := []
  pinned : Tab Bool := []
  overriding : Tab Bool := []
deriving DecidableEq, Repr

/-- Telemetry and debug (R465, R495–R503): the snapshot bank with its tick and count, temperature alarms disarmed by TEL_TEMP
number, the tick of the latest parity mismatch, the trace FIFO with the records dropped since its last OVERFLOW, and the JTAG unlock. -/
structure Dbg where
  bank : Tab (BitVec 48) := []
  snapTick : BitVec 64 := 0
  snapSeq : BitVec 32 := 0
  alarmOff : Tab Bool := []
  parTick : Option Nat := none
  trc : List (List (BitVec 8)) := []
  trcLost : Nat := 0
  /-- the nonce of the last CHALLENGE, until a RESPONSE uses it -/
  nonce : Option (BitVec 256) := none
  refusals : Nat := 0
  byJtag : BitVec 5 := 0
  /-- EXTEST has stopped the device's I/O -/
  ioStopped : Bool := false
deriving DecidableEq, Repr

/-- The device-lost state and the report kept in the retained SRAM (R141, R497). -/
structure Loss where
  lost : Bool := false
  cls : Nat := 0
  unit : Nat := 0
  detail : Nat := 0
  tick : BitVec 64 := 0
  valid : Bool := false
  scrubbed : Bool := false
deriving DecidableEq, Repr

/-- The responses of the SPDM responder, its IDE_KM and its TDISP services (R381, R389, R393, R394). -/
inductive SpdmAnswer where
  | ok
  | error
  | notReady
  | version
  | capabilities
  | certificate (bytes : List (BitVec 8))
  | challenge (nonce : BitVec 256)
  | measurements (ix : BitVec 8) (nonce : BitVec 256) (bytes : List (BitVec 8))
  | session (sn : Nat)
  | keyStatus (stream : Nat) (k0 k1 : Bool) (go : Nat)
  | interfaceReport (windows : List Nat)
deriving DecidableEq, Repr

/-- What leaves the device. -/
inductive Emit where
  /-- one frame of a transmitter: port words, validity, channel-status and user bits of both slots, and frame 0 of a block -/
  | txFrame (st : Nat) (w0 w1 : BitVec 32) (v0 v1 c0 c1 u0 u1 z : Bool)
  /-- a transmitter's line is low -/
  | lineLow (st : Nat)
  | record (c : BitVec 10) (r : Record)
  | f2h (c : BitVec 10) (m : Message) (seq : BitVec 32) (phase : Bool)
  | hostWrite (a : BitVec 64) (bytes : List (BitVec 8))
  | msix (entry : Nat)
  /-- a chain frame leaves on a port -/
  | chainTx (port : Nat) (bytes : List (BitVec 8))
  /-- the answer to a read that changes state, by window-0 offset -/
  | readData (off : Nat) (w : BitVec 32)
  /-- the response to a tenant message: code, status, `t_epoch` and body (R382) -/
  | tenant (code status : Nat) (epoch : BitVec 32) (body : List (BitVec 8))
  /-- an SPDM response -/
  | spdm (a : SpdmAnswer)
  /-- a Cewieb response: operation, status, `mview` and body (R402) -/
  | cewieb (op status : Nat) (view : BitVec 64) (body : List (BitVec 8))
  /-- a record leaves the trace port -/
  | trace (r : List (BitVec 8))
  /-- what a JTAG instruction shifts out -/
  | jtag (bytes : List (BitVec 8))
  /-- an AVSBus voltage write of a die, in mV -/
  | avs (die mv : Nat)
deriving DecidableEq, Repr

end Sys2Proof.Machine
end

