-- ==== Sys2Proof/Machine/State.lean ====
section
/-! DEFINITION. The whole state of the block as plain data, the reasons a step can stop, and the state right after reset. -/

namespace Sys2Proof.Machine
open Sys2Proof

/-- Why the block stops: no command of the table makes it stop, every fault the spec describes is itself an effect. -/
inductive Fault where
  /-- A package address past the 96 GiB of R275; raised by nothing that passes the checks of R164. Safe. -/
  | noSuchAddress
deriving DecidableEq, Repr

/-- Why a command is refused. -/
inductive Refusal where
  /-- The command has no meaning in the model yet; raised only by an arm of `exec`. Safe. -/
  | notModelled (mnemonic : String)
  /-- The command names a unit that the device does not have (a cluster above 17, a tile above 16, a port above 3, …): raised
  by every meaning whose operand numbers a unit. Safe: no such command can reach the hardware. -/
  | noSuchUnit
deriving DecidableEq, Repr

/-- The block's state. -/
structure State where
  /-- commands waiting, first in first out (the MODEL's own queue of the block's inputs) -/
  pending : List Instr := []
  /-- what has left the device, newest first (the MODEL's own record of the block's outputs) -/
  emitted : List Emit := []
  /-- how many free values have been taken (the MODEL's own field; no statement rests on its value) -/
  free : Nat := 0
  /-- the device tick (R415) -/
  tick : BitVec 64 := 0
  /-- every counter of the device by its index (R488, R489) -/
  ctrs : Tab (BitVec 48) := []
  /-- register words of window 0 that software writes or the device flags, by offset; unlisted reads its reset word -/
  regs : Tab (BitVec 32) := []
  /-- the key guard of window 0 (R451) -/
  guardOpen : Bool := false
  /-- cluster stores, keyed physical cluster × 2^25 + store address (R120) -/
  store : List Host.Cell := []
  /-- package memory by package address (R276) -/
  pm : List Host.Cell := []
  /-- the retained SRAM (R432) -/
  ret : List Host.Cell := []
  threads : Tab Thread := []
  tiles : Tab Tile := []
  /-- engine queues, keyed logical cluster × 8 + engine as FENCE numbers them (R126) -/
  queues : Tab (List Cmd) := []
  /-- live gather streams of each logical cluster, least recently named first (R288) -/
  streams : Tab (List Stream) := []
  berths : Tab Berth := []
  mods : Tab Module := []
  clients : Tab Client := []
  acct : Tab Acct := []
  act : Tab Activity := []
  map : RepairMap := {}
  cal : CalUnit := {}
  sched : Sched := {}
  pre : Preempt := {}
  rng : Rng := {}
  host : HostLink := {}
  mem : MemUnit := {}
  aud : Audio := {}
  chn : Chain := {}
  sec : Sec := {}
  clk : Clk := {}
  fw : Fw := {}
  thm : Thermal := {}
  dbg : Dbg := {}
  lost : Loss := {}
deriving DecidableEq, Repr

/-- The state right after reset: every field at its reset value, nothing listed in any table (the reset values that the
spec does not give are named in the assumption log). -/
def State.reset : State := {}

end Sys2Proof.Machine
end

