-- ==== Sys2Proof/Machine/Ops.lean ====
section
/-! DEFINITION. The named operations over State: counters, outputs, free values, the tables of units, the cluster stores. -/

namespace Sys2Proof.Machine
open Sys2Proof

/-- Answer a next state when the command names a unit that exists, and refuse it otherwise. -/
def onUnit (ok : Bool) (t : State) : Host.Outcome State Fault Refusal :=
  if ok then .next t else .refused .noSuchUnit

/-! ## Counters (R488–R490): 48 bits each, they wrap by themselves -/

/-- A counter's value. -/
def ctr (s : State) (i : Nat) : BitVec 48 := tabGet 0 s.ctrs i

/-- Add to a counter, modulo 2^48. -/
def addCtr (s : State) (i n : Nat) : State :=
  { s with ctrs := tabMod 0 s.ctrs i (fun v => v + BitVec.ofNat 48 n) }

/-- Add one to a counter. -/
def bump (s : State) (i : Nat) : State := addCtr s i 1

/-- Indices of the per-cluster counters (R489): set base 0x400 + 64 n plus the place within the set. -/
def cluCtr (n k : Nat) : Nat := 0x400 + 64 * n + k
def cActClip (n : Nat) : Nat := cluCtr n 0
def cAccSat (n : Nat) : Nat := cluCtr n 1
def cDrainSat (n : Nat) : Nat := cluCtr n 2
def cBadScale (n : Nat) : Nat := cluCtr n 3
def cStaleConv (n : Nat) : Nat := cluCtr n 4
def cVecNan (n : Nat) : Nat := cluCtr n 5
def cVecOvf (n : Nat) : Nat := cluCtr n 6
/-- Sequencer counters of R144, in the order of its table from place 8. -/
def cIssued (n : Nat) : Nat := cluCtr n 8
def cEccCorr (n : Nat) : Nat := cluCtr n 17
def cExceptions (n : Nat) : Nat := cluCtr n 18
def cStepOverrun (n : Nat) : Nat := cluCtr n 19
def cSaves (n : Nat) : Nat := cluCtr n 20
def cRestores (n : Nat) : Nat := cluCtr n 21
def cSaveBytes (n : Nat) : Nat := cluCtr n 22
/-- Instruction counters of R176 from place 24. -/
def cFwTmo (n : Nat) : Nat := cluCtr n 25
def cFwNear (n : Nat) : Nat := cluCtr n 26
def cDrainHold (n : Nat) : Nat := cluCtr n 27
def cVecLaneOps (n : Nat) : Nat := cluCtr n 28
def cSmpDraws (n : Nat) : Nat := cluCtr n 29
/-- Sequence-layer counters of R202 from place 32. -/
def cRstepCmds (n : Nat) : Nat := cluCtr n 32
def cStClip (n : Nat) : Nat := cluCtr n 33
def cPrefillPos (n : Nat) : Nat := cluCtr n 34
def cPwlEmpty (n : Nat) : Nat := cluCtr n 35
/-- Sampling counters of R223 from place 36. -/
def cSsBlocks (n : Nat) : Nat := cluCtr n 36
def cRpFragile (n : Nat) : Nat := cluCtr n 37
def cSmpNan (n : Nat) : Nat := cluCtr n 38
def cSmpDegen (n : Nat) : Nat := cluCtr n 39
def cToppCap (n : Nat) : Nat := cluCtr n 40
/-- Convolution counters of R242 from place 41. -/
def cCvCmds (n : Nat) : Nat := cluCtr n 41
def cCvProducts (n : Nat) : Nat := cluCtr n 42
def cCvSat (n : Nat) : Nat := cluCtr n 43
def cWinoTiles (n : Nat) : Nat := cluCtr n 44
def cHaloBytes (n : Nat) : Nat := cluCtr n 45
def cZrcRaw (n : Nat) : Nat := cluCtr n 46
def cZrcCoded (n : Nat) : Nat := cluCtr n 47
def cZrcDec (n : Nat) : Nat := cluCtr n 48
/-- Streaming counters of R300's cluster group from place 49: seven stall causes, then the stream counters. -/
def cGathBlocks (n : Nat) : Nat := cluCtr n 56
def cAheadBlocks (n : Nat) : Nat := cluCtr n 57
def cIdxOob (n : Nat) : Nat := cluCtr n 58
def cNoSlot (n : Nat) : Nat := cluCtr n 59
def cStreamRestart (n : Nat) : Nat := cluCtr n 60
/-- Tile counters of R62: 0x2000 + 16 × (17 n + t), in the order of its table. -/
def tileCtr (n t k : Nat) : Nat := 0x2000 + 16 * (17 * n + t) + k
/-- Device-wide counters: set base plus place. -/
def calCtr (k : Nat) : Nat := 0x000 + k
def seqDevCtr (k : Nat) : Nat := 0x020 + k
def rngCtr (k : Nat) : Nat := 0x040 + k
def bthCtr (k : Nat) : Nat := 0x060 + k
def memCtr (k : Nat) : Nat := 0x080 + k
def hifCtr (k : Nat) : Nat := 0x0A0 + k
def audDevCtr (k : Nat) : Nat := 0x0C0 + k
def chnDevCtr (k : Nat) : Nat := 0x0E0 + k
def secCtr (k : Nat) : Nat := 0x100 + k
def clkCtr (k : Nat) : Nat := 0x120 + k
def thmCtr (k : Nat) : Nat := 0x140 + k
def obsCtr (k : Nat) : Nat := 0x160 + k
/-- Leave-outs by cause for each logical cluster (R490). -/
def lcluCtr (l k : Nat) : Nat := 0x900 + 8 * l + k
/-- Stack counters (R300). -/
def stackCtr (st k : Nat) : Nat := 0xA00 + 8 * st + k
/-- Chain-port and audio-stream counters. -/
def portCtr (p k : Nat) : Nat := 0xB00 + 16 * p + k
def audCtr (st k : Nat) : Nat := 0xC00 + 32 * st + k
/-- The event counter of the flag of number j (R492). -/
def flagCtr (j : Nat) : Nat := 0x8000 + j

/-! ## Outputs and free values -/

/-- Something leaves the device. -/
def emit (s : State) (e : Emit) : State := { s with emitted := e :: s.emitted }

/-- A free value has been taken. -/
def useFree (s : State) : State := { s with free := s.free + 1 }

/-- `n` bytes whose content the spec does not give. -/
def freeBytes (s : State) (n : Nat) : List (BitVec 8) := (upTo n).map (fun i => Config.freeByte s.free i)

/-! ## Time -/

/-- Microseconds and milliseconds of device time from the tick (R415: a tick is 10 ns). -/
def usOf (s : State) : Nat := s.tick.toNat / 100
def msOf (s : State) : Nat := s.tick.toNat / 100000

/-- Twelfths of an array cycle in one tick at a gear: a tick of 10 ns is 60 root cycles, the array divider 12 at gear 0 and up to 48 at
gear 5 (R416).  The spread of R421 is left out. -/
def arrayRate (g : Nat) : Nat :=
  match g with | 0 => 60 | 1 => 48 | 2 => 40 | 3 => 30 | 4 => 20 | _ => 15

/-- Twelfths of array cycles that a die has run, and whole array cycles (R420). -/
def arrayTwelfths (s : State) (d : Nat) : Nat :=
  tabGet 0 s.clk.arr d + (s.tick.toNat - tabGet 0 s.clk.arrAt d) * arrayRate (tabGet 5 s.clk.gear d)
def arrayNow (s : State) (d : Nat) : Nat := arrayTwelfths s d / 12

/-! ## Units -/

def thread (s : State) (lt : BitVec 12) : Thread := tabGet {} s.threads lt.toNat
def setThread (s : State) (lt : BitVec 12) (t : Thread) : State := { s with threads := tabSet {} s.threads lt.toNat t }
def berth (s : State) (b : BitVec 12) : Berth := tabGet {} s.berths b.toNat
def setBerth (s : State) (b : BitVec 12) (v : Berth) : State := { s with berths := tabSet {} s.berths b.toNat v }
def modBerth (s : State) (b : BitVec 12) (f : Berth → Berth) : State := setBerth s b (f (berth s b))
def module (s : State) (m : BitVec 8) : Module := tabGet {} s.mods m.toNat
def setModule (s : State) (m : BitVec 8) (v : Module) : State := { s with mods := tabSet {} s.mods m.toNat v }
def client (s : State) (c : BitVec 10) : Client := tabGet {} s.clients c.toNat
def setClient (s : State) (c : BitVec 10) (v : Client) : State := { s with clients := tabSet {} s.clients c.toNat v }
def modClient (s : State) (c : BitVec 10) (f : Client → Client) : State := setClient s c (f (client s c))
def acctOf (s : State) (c : BitVec 10) : Acct := tabGet {} s.acct c.toNat
def setAcct (s : State) (c : BitVec 10) (v : Acct) : State := { s with acct := tabSet {} s.acct c.toNat v }
def activity (s : State) (c : BitVec 10) : Activity := tabGet {} s.act c.toNat
def modAct (s : State) (c : BitVec 10) (f : Activity → Activity) : State :=
  { s with act := tabSet {} s.act c.toNat (f (activity s c)) }

/-- Key of physical tile t of physical cluster n. -/
def tileKey (n t : Nat) : Nat := 17 * n + t
def tileAt (s : State) (k : Nat) : Tile := tabGet {} s.tiles k
def setTile (s : State) (k : Nat) (t : Tile) : State := { s with tiles := tabSet {} s.tiles k t }
def modTile (s : State) (k : Nat) (f : Tile → Tile) : State := setTile s k (f (tileAt s k))

/-- The logical cluster and the thread number of a logical thread (R112). -/
def lcluOf (lt : BitVec 12) : Nat := lt.toNat / 256

/-- The physical cluster that serves a logical cluster; 31 means none (R94, R110). -/
def physOf (s : State) (l : Nat) : Nat := tabGet 31 s.map.clu l

/-- The physical tile that serves a slot of a physical cluster; 31 means none. -/
def slotTile (s : State) (n j : Nat) : Nat := tabGet 31 s.map.tile (16 * n + j)

/-- The key of the physical tile that serves slot j of logical cluster l. -/
def tileOfSlot (s : State) (l j : Nat) : Nat := tileKey (physOf s l) (slotTile s (physOf s l) j)

def cluState (s : State) (n : Nat) : UnitState := tabGet .outOfService s.map.cluState n
def tileState (s : State) (n t : Nat) : UnitState := tabGet .outOfService s.map.tileState (tileKey n t)

/-- `mview` counts a change that management sees (R404). -/
def bumpView (s : State) : State := { s with sec := { s.sec with mview := s.sec.mview + 1 } }

/-- Write an entry of the event log in the retained SRAM (R496); unit 0xFFFF is none. -/
def logEvent (s : State) (code unit arg : Nat) : State :=
  let n := memLe s.ret 0x4000 4
  let e := natLe s.tick.toNat 8 ++ natLe code 2 ++ natLe unit 2 ++ natLe arg 4
  let r := memPutBytes s.ret (0x4010 + 16 * (n % 3071)) e
  bump { s with ret := memPutBytes r 0x4000 (natLe (n + 1) 4) } (obsCtr 7)

/-- Work that no client is charged for: tile-ns and package-memory bytes, with their energy (R259, R491). -/
def sysWork (s : State) (ns bytes : Nat) : State :=
  let fj := s.sched.sysRem + ns * Config.energyCoef 0 + bytes * Config.energyCoef 4
  let s1 := addCtr (addCtr (addCtr s (obsCtr 2) ns) (obsCtr 3) bytes) (obsCtr 4) (fj / 10 ^ 9)
  { s1 with sched := { s1.sched with sysRem := fj % 10 ^ 9 } }

/-- The codes of R97. -/
def stateCode : UnitState → Nat
  | .active => 0 | .draining => 1 | .quarantined => 2 | .spare => 3 | .retired => 4 | .outOfService => 5

/-- Unit numbers of the log and of the device-lost report (R496). -/
def unitClu (n : Nat) : Nat := n
def unitTile (n t : Nat) : Nat := 18 + 17 * n + t
def unitCore (k : Nat) : Nat := 324 + k
def unitLane (p j : Nat) : Nat := 329 + 9 * p + j

/-- A unit has changed state: the log, the view, and a count for an entry into QUARANTINED (R98, R404, R432). -/
def unitChanged (s : State) (unit : Nat) (was now : UnitState) : State :=
  if was = now then s
  else
    let s1 := bumpView (logEvent s 2 unit (stateCode was + 16 * stateCode now))
    if now = .quarantined then
      let a := 0x1040 + unit
      bump { s1 with ret := memPut s1.ret a (BitVec.ofNat 8 (Nat.min 255 ((memByte s1.ret a).toNat + 1))) } (calCtr 10)
    else s1

/-- Entries of a unit into QUARANTINED since power-on. -/
def quarCount (s : State) (unit : Nat) : Nat := (memByte s.ret (0x1040 + unit)).toNat

def setCluState (s : State) (n : Nat) (u : UnitState) : State :=
  { s with map := { s.map with cluState := tabSet .outOfService s.map.cluState n u } }
def setTileState (s : State) (n t : Nat) (u : UnitState) : State :=
  { s with map := { s.map with tileState := tabSet .outOfService s.map.tileState (tileKey n t) u } }

def savePhase (s : State) (l : Nat) : SavePhase := tabGet .none s.pre.phase l
def setSavePhase (s : State) (l : Nat) (p : SavePhase) : State :=
  { s with pre := { s.pre with phase := tabSet .none s.pre.phase l p } }

/-- A save of the cluster is under way: it stops, and its image is not written yet (R133 steps 1–5). -/
def stopping (s : State) (l : Nat) : Bool := decide (savePhase s l = .stopping)

/-- The save slot of a logical cluster holds an image (R134, R136). -/
def slotHolds (s : State) (l : Nat) : Bool := s.pre.image.any (fun e => decide (e.1 = l))

/-- The cluster is being migrated, between steps 3 and 5 of R102. -/
def migrating (s : State) (l : Nat) : Bool :=
  s.cal.cluMigr.any (fun m => m.stopped && decide (m.lclu.toNat = l))

/-! ## The cluster store (R120): 32 MiB for each physical cluster -/

/-- The bank that holds the 64-byte line of a store address, the row within the bank, and the byte within the line. -/
def storeBank (a : Nat) : Nat := bitsOf a 11 6 ^^^ bitsOf a 17 12
def storeRow (a : Nat) : Nat := bitsOf a 24 12
def storeByte (a : Nat) : Nat := bitsOf a 5 0

/-- Where address 0 of a physical cluster's store lies in the store table. -/
def storeBase (n : Nat) : Nat := n * 2 ^ 25

/-- `n` bytes of the store of logical cluster l. -/
def storeBytes (s : State) (l a n : Nat) : List (BitVec 8) := memBytes s.store (storeBase (physOf s l) + a) n

/-- A little-endian value of the store of logical cluster l. -/
def storeLe (s : State) (l a n : Nat) : Nat := memLe s.store (storeBase (physOf s l) + a) n

/-- Write bytes into the store of logical cluster l. -/
def storePut (s : State) (l a : Nat) (bs : List (BitVec 8)) : State :=
  { s with store := memPutBytes s.store (storeBase (physOf s l) + a) bs }

/-! ## Package memory (R276, R280) -/

def pmBytes (s : State) (a n : Nat) : List (BitVec 8) := memBytes s.pm a n
def pmLe (s : State) (a n : Nat) : Nat := memLe s.pm a n
def pmPut (s : State) (a : Nat) (bs : List (BitVec 8)) : State := { s with pm := memPutBytes s.pm a bs }

/-- The stack that serves a package address (R276): channel bits [1:0] within the die. -/
def stackOf (a : Nat) : Nat :=
  let o := a % 2 ^ 36
  4 * (a / 2 ^ 36) + (bitsOf o 9 8 ^^^ bitsOf o 16 15)

/-- Count bytes read from or written to package memory, granule by granule, on the stacks that hold them (R276, R300). -/
def countPm (s : State) (wr : Bool) (a n : Nat) : State :=
  if n = 0 then s
  else
    (upTo ((a + n - 1) / 256 - a / 256 + 1)).foldl (fun s g =>
      let lo := Nat.max a (256 * (a / 256 + g))
      let hi := Nat.min (a + n) (256 * (a / 256 + g + 1))
      addCtr s (stackCtr (stackOf lo) (if wr then 1 else 0)) (hi - lo)) s

/-- Package address of a die-local offset. -/
def paOf (die off : Nat) : Nat := die * 2 ^ 36 + off

/-- The pseudo-channel of a package address: 32 times its stack plus c[6:2] (R276). -/
def pcOf (a : Nat) : Nat := 32 * stackOf a + (bitsOf (a % 2 ^ 36) 14 10 ^^^ bitsOf (a % 2 ^ 36) 21 17)

/-- A sector of package memory was read with a corrected error in a row of its pseudo-channel, and is written back; the fourth in one row
since power-on starts the copy of the row to a spare one (R105, R279). -/
def pmCorrected (s : State) (a row : Nat) : State :=
  let k := pcOf a * 2 ^ 32 + row
  let n := tabGet 0 s.mem.rowErrs k + 1
  let m := { s.mem with rowErrs := tabSet 0 s.mem.rowErrs k n,
                        rowCopies := if n = 4 then s.mem.rowCopies ++ [pcOf a] else s.mem.rowCopies }
  countPm (bump { s with mem := m } (stackCtr (stackOf a) 2)) true (a / 32 * 32) 32

/-- Bytes that the hub moves to or from package memory for a client (R259). -/
def hubPm (s : State) (c : BitVec 10) (wr : Bool) (a n : Nat) : State :=
  modAct (countPm s wr a n) c (fun v => if wr then { v with pmWr := v.pmWr + n } else { v with pmRd := v.pmRd + n })

/-- Start of the module pool of a die (R280). -/
def modPoolBase : Nat := 0x21000000

/-- Bytes that client c's berth on physical cluster n moves: counted on the stacks, on the bridge when the address lies on the
other die, and for the client's record (R259, R278, R300). -/
def movePm (s : State) (n : Nat) (c : BitVec 10) (wr : Bool) (a len : Nat) : State :=
  let s1 := countPm s wr a len
  let own := if n ≤ 8 then 0 else 1
  let s2 := if a / 2 ^ 36 = own then s1
    else addCtr s1 (memCtr (if (own = 0) = wr then 0 else 1)) len
  modAct s2 c (fun v => if wr then { v with pmWr := v.pmWr + len } else { v with pmRd := v.pmRd + len })

/-- Bytes that a command of client c reads from or writes to a cluster store (R260). -/
def storeMoved (s : State) (c : BitVec 10) (n : Nat) : State := modAct s c (fun v => { v with storeB := v.storeB + n })

/-- The die of a physical cluster: 0–8 port, 9–17 starboard (R466). -/
def dieOf (n : Nat) : Nat := if n ≤ 8 then 0 else 1

/-- The die of a logical cluster (R95). -/
def lcluDie (l : Nat) : Nat := if l < 8 then 0 else 1

end Sys2Proof.Machine
end

