-- ==== Sys2Proof/Machine/Flags.lean ====
section
/-! DEFINITION. The W1C flags of host window 0 and their event counters (R455, R492). -/

namespace Sys2Proof.Machine
open Sys2Proof

/-- A W1C flag: the window-0 offset of its register, its bit, and the index of its event counter. -/
structure Flag where
  off : Nat
  bit : Nat
  ctr : Nat
deriving DecidableEq, Repr

/-- The device sets a flag: the bit reads 1 and the counter increments at every set (R455). -/
def setFlag (s : State) (f : Flag) : State :=
  let s1 := { s with regs := tabMod 0 s.regs f.off (fun w => w ||| BitVec.ofNat 32 (2 ^ f.bit)) }
  addCtr s1 f.ctr 1

/-- The value of a flag. -/
def flagOn (s : State) (f : Flag) : Bool := (tabGet 0 s.regs f.off).getLsbD f.bit

/-- Offsets of the blocks of window 0 (R459). -/
def glbOff : Nat := 0x000000
def clkOff : Nat := 0x010000
def secOff : Nat := 0x020000
def hifOff : Nat := 0x030000
def bthOff : Nat := 0x040000
def memOff : Nat := 0x050000
def rngOff : Nat := 0x060000
def calOff : Nat := 0x070000
def audOff : Nat := 0x080000
def chnOff : Nat := 0x090000
def telOff : Nat := 0x0A0000
def dbgOff : Nat := 0x0B0000
def cluOff (n : Nat) : Nat := 0x100000 + n * 0x10000

/-- Flags of GLB (R460). -/
def fGlbWign : Flag := ⟨glbOff + 4, 0, flagCtr 0⟩
def fCfgPar : Flag := ⟨glbOff + 4, 2, obsCtr 0⟩
def fKgMiss : Flag := ⟨glbOff + 4, 3, flagCtr 2⟩
def fNarrowWr : Flag := ⟨glbOff + 4, 4, flagCtr 3⟩
def fUnmapWr : Flag := ⟨glbOff + 4, 5, flagCtr 4⟩
/-- Flags of CLK (R461). -/
def fClkWign : Flag := ⟨clkOff + 4, 0, flagCtr 5⟩
/-- `root_fail` with the counter `root_fail_cnt` of R444. -/
def fRootFail : Flag := ⟨clkOff + 4, 4, clkCtr 2⟩
def fStrapBad : Flag := ⟨clkOff + 4, 5, flagCtr 7⟩
/-- Flags of HIF (R462): the block's `wign`, and three for each client. -/
def fHifWign : Flag := ⟨hifOff, 0, flagCtr 10⟩
def hifStat (c : BitVec 10) : Nat := hifOff + 0x4000 + 0x30 * c.toNat + 0x2C
def fCfgBad (c : BitVec 10) : Flag := ⟨hifStat c, 3, hifCtr 10⟩
def fDbBad (c : BitVec 10) : Flag := ⟨hifStat c, 4, hifCtr 8⟩
def fCresetDone (c : BitVec 10) : Flag := ⟨hifStat c, 5, flagCtr (13 + 3 * c.toNat)⟩
def fBthWign : Flag := ⟨bthOff, 0, flagCtr 3083⟩
def fMemWign : Flag := ⟨memOff, 0, flagCtr 3084⟩
/-- Flags of RNG (R221). -/
def fRngWign : Flag := ⟨rngOff + 4, 0, flagCtr 3085⟩
def fRctFail : Flag := ⟨rngOff + 4, 3, flagCtr 3086⟩
def fAptFail : Flag := ⟨rngOff + 4, 4, flagCtr 3087⟩
def fKatFail : Flag := ⟨rngOff + 4, 5, flagCtr 3088⟩
/-- Flags of CAL (R110), with the counters of R111 where it names one. -/
def fCalWign : Flag := ⟨calOff + 0x20, 0, calCtr 17⟩
def fHoldBrk : Flag := ⟨calOff + 0x20, 2, calCtr 3⟩
def fPinAvs : Flag := ⟨calOff + 0x20, 4, calCtr 11⟩
def fPinTrim : Flag := ⟨calOff + 0x20, 5, calCtr 12⟩
def fPinTide : Flag := ⟨calOff + 0x20, 6, calCtr 13⟩
def fPinPlace : Flag := ⟨calOff + 0x20, 7, calCtr 14⟩
def fMvgOvr : Flag := ⟨calOff + 0x20, 8, calCtr 15⟩
def fThermOvr : Flag := ⟨calOff + 0x20, 9, calCtr 16⟩
def fReqRefused : Flag := ⟨calOff + 0x20, 10, flagCtr 3097⟩
/-- Flags of TEL (R465). -/
def fTelWign : Flag := ⟨telOff, 0, flagCtr 3669⟩
def fTAlarm : Flag := ⟨telOff, 1, flagCtr 3670⟩
/-- Flags of DBG (R504), with the counter `unlock_fail_cnt` of R491. -/
def fDbgWign : Flag := ⟨dbgOff, 0, flagCtr 3671⟩
def fTrcOvf : Flag := ⟨dbgOff, 1, flagCtr 3672⟩
def fUnlockFail : Flag := ⟨dbgOff, 2, obsCtr 8⟩
/-- Flags of SEC (R408). -/
def fSecWign : Flag := ⟨secOff, 9, flagCtr 8⟩
def fTdDone : Flag := ⟨secOff, 10, flagCtr 9⟩
/-- Flags of each CLU block (R466). -/
def fCluWign (n : Nat) : Flag := ⟨cluOff n + 8, 0, flagCtr (3674 + 3 * n)⟩
def fExcEv (n : Nat) : Flag := ⟨cluOff n + 8, 1, flagCtr (3675 + 3 * n)⟩
def fEccEv (n : Nat) : Flag := ⟨cluOff n + 8, 2, flagCtr (3676 + 3 * n)⟩

/-- MSI-X entry 0: device-wide events (R328, R460). -/
def msix0 (s : State) : State := addCtr (emit s (.msix 0)) (hifCtr 19) 1

/-- Set one of the flags that GLB_IRQ_STAT collects: MSI-X entry 0 is sent at each set (R460). -/
def setIrqFlag (s : State) (f : Flag) : State := msix0 (setFlag s f)

end Sys2Proof.Machine
end

