-- ==== Sys2Proof/Machine/Operands.lean ====
section
/-! DEFINITION. Operands of the cluster instructions: field kinds, reserved fields, registers, windows and exceptions
(R116, R122, R139, R145–R150). -/

namespace Sys2Proof.Machine
open Sys2Proof

/-- What UNIT_TEST_DONE may name: a tile or cluster, control core t for n = 18, or lane t of chain port n − 19 (DESIGN CHOICE, log 176). -/
def testUnit (n t : Nat) : Bool := decide ((n < 18 ∧ t < 17) ∨ (n = 18 ∧ t < 5) ∨ (19 ≤ n ∧ n ≤ 22 ∧ t < 9))

/-! ## The instruction word (R145, R148) -/

/-- The fields of an instruction word. -/
def fieldsOf (w : BitVec 64) : Fields :=
  { d := w.extractLsb' 8 5, x := w.extractLsb' 13 5, y := w.extractLsb' 18 5, z := w.extractLsb' 23 5,
    pg := w.extractLsb' 28 3, pn := w.getLsbD 31, imm := w.extractLsb' 32 32 }

/-- The opcode of an instruction word. -/
def opcodeOf (w : BitVec 64) : Nat := (w.extractLsb' 0 8).toNat

/-- The opcodes that R148 assigns. -/
def opAssigned (op : Nat) : Bool :=
  decide (op ≤ 0x1E ∨ (0x20 ≤ op ∧ op ≤ 0x21) ∨ (0x40 ≤ op ∧ op ≤ 0x55) ∨ (0x60 ≤ op ∧ op ≤ 0x62) ∨ (0x80 ≤ op ∧ op ≤ 0x82)
    ∨ op = 0xA0 ∨ (0xC0 ≤ op ∧ op ≤ 0xC5) ∨ (0xE0 ≤ op ∧ op ≤ 0xE2))

/-! ## Operand kinds -/

/-- The kind a table of chapter 6 gives an operand field (R146). `va` and `vs` are settled by `imm`. -/
inductive Kind where
  | none | s | v | a | p | va | vs | size
deriving DecidableEq, Repr

/-- The operand kinds of an instruction and whether its guard acts lane by lane. -/
structure Shape where
  d : Kind := .none
  x : Kind := .none
  y : Kind := .none
  z : Kind := .none
  lanes : Bool := false
deriving DecidableEq, Repr

/-- The operand columns of R154, R156, R159, R160, R163, R165, R167, R168, R170 and R171, by opcode. -/
def shapeOf (op : Nat) : Shape :=
  match op with
  | 0x00 => {}
  | 0x01 | 0x02 | 0x03 | 0x04 | 0x05 | 0x06 | 0x07 | 0x08 | 0x09 | 0x0A | 0x0B => { d := .s, x := .s, y := .s }
  | 0x0C => { d := .s, x := .s }
  | 0x0D | 0x0E => { d := .s }
  | 0x0F => { d := .p, x := .s, y := .s }
  | 0x10 => { d := .p, x := .p, y := .p }
  | 0x11 => { d := .s, x := .s, z := .size }
  | 0x12 => { x := .s, y := .s, z := .size }
  | 0x13 => {}
  | 0x14 => { d := .s }
  | 0x15 => { x := .s }
  | 0x16 => { d := .va, x := .s, y := .s }
  | 0x17 => { d := .s, x := .va }
  | 0x18 => { d := .va, x := .s }
  | 0x19 => { x := .s, y := .va }
  | 0x1A => { d := .va, x := .va, y := .s }
  | 0x1E => { d := .p, x := .s }
  | 0x20 => { d := .a }
  | 0x21 => { d := .a, y := .s }
  | 0x40 | 0x41 | 0x42 | 0x44 | 0x45 => { d := .v, x := .v, y := .vs, lanes := true }
  | 0x43 => { d := .v, x := .v, y := .vs, z := .v, lanes := true }
  | 0x46 | 0x47 | 0x4C | 0x50 | 0x51 => { d := .v, x := .v, lanes := true }
  | 0x48 => { d := .v, x := .v, y := .vs, z := .p, lanes := true }
  | 0x49 => { d := .p, x := .v, y := .vs, lanes := true }
  | 0x4A => { d := .v, y := .s, lanes := true }
  | 0x4B => { d := .s, x := .v, lanes := true }
  | 0x4D | 0x4F | 0x55 => { d := .v, x := .v, y := .v }
  | 0x4E | 0x54 => { d := .v, x := .v, y := .v, z := .v }
  | 0x52 => { d := .v, x := .v, y := .s, z := .s }
  | 0x53 => { d := .v, x := .v, y := .s }
  | 0x60 => { d := .v, x := .v, y := .s, z := .v }
  | 0x61 => { d := .v, y := .s }
  | 0x62 | 0x81 => { d := .v, x := .v }
  | 0x80 => { d := .s, x := .v, y := .s }
  | 0x82 => { d := .v }
  | 0xA0 => { d := .v, x := .v, y := .s }
  | 0xC0 | 0xC2 => { d := .v, y := .s }
  | 0xC1 => { x := .v, y := .s }
  | 0xC3 => { d := .v, x := .v }
  | 0xC4 => { d := .v }
  | 0xC5 => { x := .v }
  | 0xE2 => { d := .s }
  | _ => {}

/-- Every bit of `imm` outside the mask is 0. -/
def immIn (f : Fields) (mask : Nat) : Bool := decide (f.imm &&& BitVec.ofNat 32 mask = f.imm)

/-- Bits `[hi:lo]` of `imm`. -/
def immBits (f : Fields) (hi lo : Nat) : Nat := bitsOf f.imm.toNat hi lo

/-- `imm` read as a signed 32-bit number. -/
def immInt (f : Fields) : Int := f.imm.toInt

/-- The reserved sub-fields and values of `imm` by opcode (R146 and the instruction tables). -/
def immOk (op : Nat) (f : Fields) : Bool :=
  match op with
  | 0x0C | 0x0D | 0x0E | 0x11 | 0x12 | 0x13 | 0x14 | 0x4E | 0x4F => true
  | 0x0F => decide (immBits f 3 0 ≤ 5 ∧ immBits f 7 5 = 0) &&
      (if immBits f 4 4 = 1 then decide (f.y = 0) else decide (immBits f 31 8 = 0))
  | 0x10 => immIn f 7 && decide (immBits f 2 0 ≤ 4)
  | 0x16 => immIn f 1
  | 0x17 => immIn f 3
  | 0x18 | 0x19 => decide (immBits f 3 1 = 0)
  | 0x1A => if immBits f 0 0 = 0 then decide (immBits f 2 1 = 0) else decide (immBits f 2 1 ≠ 0)
  | 0x1B => decide (f.imm ≠ 0)
  | 0x1C => immIn f 0x3F && decide (f.imm ≠ 0)
  | 0x1D => decide (immBits f 15 10 = 0 ∧ immBits f 31 16 ≠ 0)
  | 0x1E => decide (immBits f 11 4 = 0)
  | 0x20 => immIn f 1
  | 0x40 | 0x41 | 0x42 | 0x44 | 0x45 => immIn f 3
  | 0x43 | 0x48 => immIn f 2
  | 0x47 => immIn f 1
  | 0x49 => immIn f 0x1E && decide (immBits f 4 2 ≤ 5)
  | 0x4B | 0x4C => immIn f 0x1C && decide (immBits f 4 2 ≤ 4)
  | 0x4D | 0x51 | 0x62 => immIn f 4
  | 0x50 => immIn f 0x3C
  | 0x52 => decide (immBits f 26 25 ≠ 3 ∧ immBits f 31 28 = 0 ∧ (immBits f 26 25 = 2 → f.d = 0))
  | 0x54 | 0x55 => immIn f 0x3FC
  | 0x81 => immIn f 0x1FF
  | 0xC4 => immIn f 0x1F
  | 0xE2 => immIn f 0xF && decide (immBits f 3 0 ≤ 10)
  | _ => decide (f.imm = 0)

/-- The kind after `imm` has settled `va` and `vs`. -/
def kindOf (f : Fields) : Kind → Kind
  | .va => if immBits f 0 0 = 1 then .a else .v
  | .vs => if immBits f 1 1 = 1 then .s else .v
  | k => k

/-- A field's number is legal for its kind (R146). -/
def fieldOk (op : Nat) (k : Kind) (n : BitVec 5) : Bool :=
  match k with
  | .none => decide (n = 0)
  | .v | .a => decide (n.toNat < 16)
  | .p => decide (n.toNat < 8)
  | .size => if op = 0x12 then decide (n.toNat < 4) else decide (n.toNat < 8)
  | _ => true

/-- The encoding check: reserved fields, operand numbers and `imm` (R146); a PLOG of NOT x still names y as P. -/
def encOk (op : Nat) (f : Fields) : Bool :=
  let h := shapeOf op
  fieldOk op (kindOf f h.d) f.d && fieldOk op (kindOf f h.x) f.x && fieldOk op (kindOf f h.y) f.y
  && fieldOk op (kindOf f h.z) f.z && immOk op f

/-! ## Registers (R116) -/

/-- s0 reads 0. -/
def readS (t : Thread) (i : Nat) : BitVec 64 := if i = 0 then 0 else tabGet 0 t.sreg i
/-- Writes to s0 are discarded. -/
def writeS (t : Thread) (i : Nat) (v : BitVec 64) : Thread :=
  if i = 0 then t else { t with sreg := tabSet 0 t.sreg i v }
def readV (t : Thread) (i : Nat) : BitVec 128 := tabGet 0 t.vreg i
def writeV (t : Thread) (i : Nat) (v : BitVec 128) : Thread := { t with vreg := tabSet 0 t.vreg i v }
def readA (t : Thread) (i : Nat) : BitVec 128 := tabGet 0 t.areg i
def writeA (t : Thread) (i : Nat) (v : BitVec 128) : Thread := { t with areg := tabSet 0 t.areg i v }
/-- p0 reads all ones. -/
def readP (t : Thread) (i : Nat) : BitVec 1024 := if i = 0 then BitVec.allOnes 1024 else tabGet 0 t.preg i
/-- Writes to p0 are discarded. -/
def writeP (t : Thread) (i : Nat) (v : BitVec 1024) : Thread :=
  if i = 0 then t else { t with preg := tabSet 0 t.preg i v }

/-- Every bit of a predicate takes one value (R154). -/
def allBits (b : Bool) : BitVec 1024 := if b then BitVec.allOnes 1024 else 0

/-- The lane mask of the guard: p`pg`, inverted when `pn` is 1 (R147). -/
def guardLanes (t : Thread) (f : Fields) : BitVec 1024 :=
  if f.pn then ~~~ (readP t f.pg.toNat) else readP t f.pg.toNat

/-- The guard value g: bit 0. -/
def guardBit (t : Thread) (f : Fields) : Bool := (guardLanes t f).getLsbD 0

/-! ## Pending operands (R149) -/

/-- Does a field of a kind name a pending register? -/
def pendAt (t : Thread) (k : Kind) (n : BitVec 5) : Bool :=
  match k with
  | .s => t.pendS.getLsbD n.toNat
  | .v => t.pendV.getLsbD n.toNat
  | .a => t.pendA.getLsbD n.toNat
  | .p => t.pendP.getLsbD n.toNat
  | _ => false

/-- An instruction that names a pending register or handle in any field, or whose guard is pending, does not issue. -/
def namesPending (t : Thread) (op : Nat) (f : Fields) : Bool :=
  let h := shapeOf op
  pendAt t (kindOf f h.d) f.d || pendAt t (kindOf f h.x) f.x || pendAt t (kindOf f h.y) f.y
  || pendAt t (kindOf f h.z) f.z || t.pendP.getLsbD f.pg.toNat

/-- The bit a field names in a mask of its kind. -/
def maskS (f : Fields) (k : Kind) (n : BitVec 5) : BitVec 32 :=
  match kindOf f k with | .s => BitVec.ofNat 32 (2 ^ n.toNat) | _ => 0
def maskV (f : Fields) (k : Kind) (n : BitVec 5) : BitVec 16 :=
  match kindOf f k with | .v => BitVec.ofNat 16 (2 ^ n.toNat) | _ => 0
def maskA (f : Fields) (k : Kind) (n : BitVec 5) : BitVec 16 :=
  match kindOf f k with | .a => BitVec.ofNat 16 (2 ^ n.toNat) | _ => 0
def maskP (f : Fields) (k : Kind) (n : BitVec 5) : BitVec 8 :=
  match kindOf f k with | .p => BitVec.ofNat 8 (2 ^ n.toNat) | _ => 0

/-- What the thread waits on when an operand is pending. -/
def operandWait (op : Nat) (f : Fields) : WaitOn :=
  let h := shapeOf op
  .operands (maskS f h.d f.d ||| maskS f h.x f.x ||| maskS f h.y f.y ||| maskS f h.z f.z)
    (maskV f h.d f.d ||| maskV f h.x f.x ||| maskV f h.y f.y ||| maskV f h.z f.z)
    (maskA f h.d f.d ||| maskA f h.x f.x ||| maskA f h.y f.y ||| maskA f h.z f.z)
    (maskP f h.d f.d ||| maskP f h.x f.x ||| maskP f h.y f.y ||| maskP f h.z f.z
      ||| BitVec.ofNat 8 (2 ^ f.pg.toNat))

def setPendS (t : Thread) (i : Nat) (b : Bool) : Thread :=
  { t with pendS := if b then t.pendS ||| BitVec.ofNat 32 (2 ^ i) else t.pendS &&& ~~~ (BitVec.ofNat 32 (2 ^ i)) }
def setPendV (t : Thread) (i : Nat) (b : Bool) : Thread :=
  { t with pendV := if b then t.pendV ||| BitVec.ofNat 16 (2 ^ i) else t.pendV &&& ~~~ (BitVec.ofNat 16 (2 ^ i)) }
def setPendA (t : Thread) (i : Nat) (b : Bool) : Thread :=
  { t with pendA := if b then t.pendA ||| BitVec.ofNat 16 (2 ^ i) else t.pendA &&& ~~~ (BitVec.ofNat 16 (2 ^ i)) }
def setPendP (t : Thread) (i : Nat) (b : Bool) : Thread :=
  { t with pendP := if b then t.pendP ||| BitVec.ofNat 8 (2 ^ i) else t.pendP &&& ~~~ (BitVec.ofNat 8 (2 ^ i)) }

/-! ## Exceptions (R139, R150) -/

/-- The program exceptions of R139. -/
inductive Exc where
  | illegalOp | badHandle | storeBounds | readOnly | misaligned | noRecord | stepOverrun | engineLimit
deriving DecidableEq, Repr

/-- The values of R139. -/
def excCode : Exc → BitVec 8
  | .illegalOp => 1 | .badHandle => 2 | .storeBounds => 3 | .readOnly => 4
  | .misaligned => 5 | .noRecord => 6 | .stepOverrun => 7 | .engineLimit => 8

/-- The place of an exception in the order of R150. -/
def excRank : Exc → Nat
  | .illegalOp => 0 | .stepOverrun => 1 | .badHandle => 2 | .noRecord => 3
  | .misaligned => 4 | .storeBounds => 5 | .readOnly => 6 | .engineLimit => 7

/-- The first of the failed checks in the order of R150. -/
def firstExc : List (Option Exc) → Option Exc
  | [] => none
  | none :: t => firstExc t
  | some e :: t =>
    match firstExc t with
    | none => some e
    | some g => if excRank g < excRank e then some g else some e

/-- A check: the exception when it fails. -/
def chk (ok : Bool) (e : Exc) : Option Exc := if ok then none else some e

/-- A read must lie wholly inside one window (R122). -/
def chkRead (t : Thread) (r : Win) : Option Exc := chk (inWin t.bw r || inWin t.mw r) .storeBounds

/-- A write must lie in the berth window; inside the module window it is READ_ONLY (R122). -/
def chkWrite (t : Thread) (r : Win) : Option Exc :=
  if inWin t.bw r then none else if inWin t.mw r then some .readOnly else some .storeBounds

/-- The checks of a vector handle that an instruction reads: reserved values, alignment, window. -/
def chkVRead (t : Thread) (h : BitVec 128) : List (Option Exc) :=
  let v := vhOf h
  [chk (vhOk v) .badHandle, if vhOk v then chk (vhAligned v) .misaligned else none,
   if vhOk v then chkRead t (vhSpan v) else none]

/-- The checks of a vector handle that an instruction writes. -/
def chkVWrite (t : Thread) (h : BitVec 128) : List (Option Exc) :=
  let v := vhOf h
  [chk (vhOk v) .badHandle, if vhOk v then chk (vhAligned v) .misaligned else none,
   if vhOk v then chkWrite t (vhSpan v) else none]

/-- A scalar address plus an offset, as a store address; a sum outside the 25 bits lies in no window. -/
def addrPlus (b : BitVec 64) (off : Int) : Nat := (b + BitVec.ofInt 64 off).toNat

/-! ## Modules and regions -/

/-- The model declaration that a thread's berth runs. -/
def modelOf (s : State) (t : Thread) : ModelDecl := ((module s t.modSlot).desc.models[t.model]?).getD {}

/-- A region of package memory that a thread may name (R164, R281, R282): start as a package address, and length.
Region 0 is the berth's range, region 1 the module image on the die of the thread's cluster. -/
def regionOf (s : State) (lt : BitVec 12) (t : Thread) (r : Nat) : Option Win :=
  match r with
  | 0 =>
    let b := berth s t.berth
    some ⟨paOf b.pmDie b.pmBase, b.pmRes * 4096⟩
  | 1 =>
    let m := module s t.modSlot
    (m.images.find? (fun i => decide (i.1 = dieOf (physOf s (lcluOf lt))))).map
      (fun i => ⟨paOf i.1 i.2, ceilDiv m.desc.imageLen 65536 * 65536⟩)
  | _ => none

/-- The package range of `n` bytes that a scalar names (R164): region in [63:60], offset in [39:0]. -/
def pmRange (s : State) (lt : BitVec 12) (t : Thread) (w : BitVec 64) (n : Nat) : Option Win :=
  let v := w.toNat
  if bitsOf v 59 40 ≠ 0 then none
  else match regionOf s lt t (bitsOf v 63 60) with
    | none => none
    | some r => if bitsOf v 39 0 + n ≤ r.len then some ⟨r.base + bitsOf v 39 0, n⟩ else none

/-- The checks of R164 for a transfer of `n` bytes at the address a scalar holds. -/
def chkPm (s : State) (lt : BitVec 12) (t : Thread) (w : BitVec 64) (n : Nat) (write : Bool) : List (Option Exc) :=
  [chk (decide (bitsOf w.toNat 39 0 % 64 = 0)) .misaligned,
   chk (pmRange s lt t w n).isSome .storeBounds,
   if write then chk (decide (bitsOf w.toNat 63 60 ≠ 1)) .readOnly else none]

/-- Start of the package range a checked scalar names. -/
def pmAddr (s : State) (lt : BitVec 12) (t : Thread) (w : BitVec 64) : Nat :=
  ((pmRange s lt t w 0).getD {}).base

end Sys2Proof.Machine
end

