-- ==== Sys2Proof/WellFormed.lean ====
section
/-! DEFINITION. Which commands are well formed: the units they name exist, their instruction words are legal, their values have the size
that the spec gives them. -/

namespace Sys2Proof
open Sys2Proof.Machine

/-- What DBG_ACCESS may name: an aligned word of window 0 or of package memory, or a word of a store (R459, R275, R120). -/
def targetExists : DbgTarget → Bool
  | .reg off => decide (off % 4 = 0 ∧ off < 0x4000000)
  | .store n a => decide (n < 18 ∧ a + 4 ≤ 2 ^ 25)
  | .package a => decide (a / 2 ^ 36 < 2 ∧ a % 2 ^ 36 < 48 * 2 ^ 30) && decide (a % 4 = 0)

/-- A slot's measurements name columns, ranges, taps and ladders that a tile has (R84). -/
def measOk (m : CalMeas) : Bool :=
  (m.off ++ m.gain).all (fun e => decide (e.1 < 1056 ∧ e.2.1 < 4)) && m.resid.all (fun e => decide (e.1 < 1056 ∧ e.2.1 < 16))
  && m.drift.all (fun e => decide (e.1 < 1056)) && m.ladders.all (fun e => decide (e.1 < 5))

/-- Every unit that a command numbers exists: clusters, tiles, cores, ports, lanes, streams, stacks, dies, roots, rails, generators. -/
def unitsOk (i : Instr) : Bool :=
  match i with
  | .productStart n t => decide (n < 18 ∧ t < 17)
  | .productComplete n t => decide (n < 18 ∧ t < 17)
  | .drainFenceRelease n t _ => decide (n < 18 ∧ t < 17)
  | .programRequestStart n t => decide (n < 18 ∧ t < 17)
  | .programReady n t => decide (n < 18 ∧ t < 17)
  | .calSlot n t _ => decide (n < 18 ∧ t < 17)
  | .slotDeferLimit n t _ => decide (n < 18 ∧ t < 17)
  | .spokeCellsWritten n t => decide (n < 18 ∧ t < 17)
  | .tileDrained n t => decide (n < 18 ∧ t < 17)
  | .unitTestDone n t _ _ => testUnit n t
  | .mld _ _ es => es.all (fun e => decide (e.1 / 2 ^ 36 < 2 ∧ e.1 % 2 ^ 36 < 48 * 2 ^ 30))
  | .uncorrectableFault cls unit _ => decide (1 ≤ cls ∧ cls ≤ 11 ∧ (unit < 365 ∨ unit = 0xFFFF))
  | .coreWatchdogExpiry core _ => decide (core < 5)
  | .pcCopyDone stack pch => decide (stack < 8 ∧ pch < 32)
  | .entropyWaitTimeout gen _ => decide (gen < 19)
  | .streamEnable st _ => decide (st < 112)
  | .streamStop st _ => decide (st < 112)
  | .txFrame st => decide ((48 ≤ st ∧ st ≤ 95) ∨ (104 ≤ st ∧ st ≤ 111))
  | .rxFrame st _ => decide (st ≤ 47 ∨ (96 ≤ st ∧ st ≤ 103))
  | .lossDeclared st _ => decide (st ≤ 47 ∨ (96 ≤ st ∧ st ≤ 103))
  | .routeWrite r k _ => decide (r < 56 ∧ k < 2)
  | .portEnable k _ => decide (k < 4)
  | .negotiationDone k _ => decide (k < 4)
  | .negotiationRetry k => decide (k < 4)
  | .laneFail k lane => decide (k < 4 ∧ lane < 9)
  | .linkDown k => decide (k < 4)
  | .controlFrame k lane => decide (k < 4 ∧ lane < 9)
  | .dataFrame k _ => decide (k < 4)
  | .creditFrame k _ => decide (k < 4)
  | .gearChange die => decide (die < 2)
  | .rootUnlock root => decide (root < 3)
  | .rootLockConfirmed root => decide (root < 3)
  | .rootLockTimeout root _ => decide (root < 3)
  | .railFault rail _ => decide (rail < 8)
  | .sensorSample die _ => decide (die < 2)
  | .throttleDwell die _ => decide (die < 2)
  | .sensorTimeout die _ => decide (die < 2)
  | .avsResponseTimeout die _ => decide (die < 2)
  | .avsRetry die => decide (die < 2)
  | .backupWrite k _ => decide (k < 16)
  | .dbgAccess o => targetExists o
  | .patrolRead a _ _ => decide (a / 2 ^ 36 < 2 ∧ a % 2 ^ 36 < 48 * 2 ^ 30)
  | .marginMonitorSample die _ => decide (die < 2)
  | .avsbusResponse die _ => decide (die < 2)
  | .coreSramError core => decide (core < 5)
  | .memoryRowRepairDone stack pch => decide (stack < 8 ∧ pch < 32)
  | .freewheelFrame st => decide (st ≤ 47 ∨ (96 ≤ st ∧ st ≤ 103))
  | .engineProgressTimeout n eng _ => decide (n < 18 ∧ eng < 6)
  | .nop _ _ | .add _ _ | .sub _ _ | .mul _ _ | .and _ _ | .or _ _ | .xor _ _ | .shl _ _ | .shr _ _ | .sra _ _ | .min _ _
  | .max _ _ | .addi _ _ | .movi _ _ | .movhi _ _ | .cmp _ _ | .plog _ _ | .ld _ _ _ | .st _ _ | .br _ _ | .jal _ _ | .jr _ _
  | .hset _ _ | .hget _ _ | .hld _ _ | .hst _ _ | .hadv _ _ | .wait _ _ | .fence _ _ | .fsig _ _ | .fwait _ _ | .fwaitTimeout _ _
  | .arr _ _ | .aprog _ _ | .vadd _ _ | .vsub _ _ | .vmul _ _ | .vfma _ _ | .vmin _ _ | .vmax _ _ | .vabs _ _ | .vcvt _ _
  | .vsel _ _ | .vcmp _ _ | .vfill _ _ | .vred _ _ | .vredr _ _ | .vmv _ _ | .vnorm _ _ | .vrms _ _ | .vpwl _ _ | .vrecip _ _
  | .vquant _ _ | .vlut _ _ | .vgru _ _ | .vlstm _ _ | .vectorCmdComplete _ | .rstep _ _ | .rprefill _ _ | .rfft _ _
  | .recurrenceCmdComplete _ | .sdraw _ _ | .ssort _ _ | .srand _ _ | .samplerCmdComplete _ | .conv _ _ | .convCmdComplete _
  | .mst _ _ | .mgath _ _ | .mcpy _ _ | .mframe _ _ | .memit _ _ | .moverCmdComplete _ _ | .bend _ _ | .blast _ _
  | .binfo _ _ | .stepDeadline _ | .calReqMigrateTile _ | .calReqMigrateCluster _ | .calReqRetest _ | .calReqRetire _
  | .calReqOutOfService _ | .saveComplete _ | .restoreStart _ | .restoreComplete _ | .noiseBlockReady _ _ | .startupTestEnd _ _
  | .retest _ | .ntEn _ | .tapEn _ | .loadItem _ _ | .loadResident _ | .unloadItem _ | .admitItem _ | .frameItem _
  | .outRetItem _ | .leaveItem _ | .parkItem _ | .parkCopyDone _ | .unparkItem _ | .unparkCopyDone _ | .migrateItem _
  | .berthMoveCopyDone _ | .lockItem _ | .unlockItem _ | .leaseExpiry _ _ | .readStateItem _ | .writeStateItem _
  | .setLimitItem _ | .exportItem _ | .importItem _ | .preemptItem _ | .snapshotItem _ | .nopItem _ | .dbSqTail _ _
  | .descriptorFetch _ _ | .dbCqHead _ _ | .spillDrain _ | .dbIrq _ _ | .coalTimeout _ _ | .dbH2fTail _ _ | .dbF2hHead _ _
  | .f2hDeliver _ | .dbFlush _ _ | .itemTimeout _ _ _ | .clientEnable _ | .clientReset _ | .clientResetDone _ | .hostLinkReset _
  | .echo _ _ | .firmwareInformation _ _ | .reportRequest _ _ | .audEnable _ | .audioPllLock _ | .audioPllUnlock _ | .go _
  | .routeTimeout _ _ | .getMeasurements _ _ | .finish _ _ | .endSession _ | .heartbeatLapse _ _ | .keyProg _ _ _ | .kSetGo _ _ _
  | .kSetStop _ _ _ | .query _ _ | .lockInterfaceRequest _ _ | .startInterfaceRequest _ | .stopInterfaceRequest _
  | .tenantBind _ _ _ _ | .tenantResume _ _ _ | .tenantRelease _ _ | .keyPut _ _ _ _ _ _ | .keyRoll _ _ | .keyRetire _ _ _ _
  | .keyStatus _ _ | .readObj _ | .writeObj _ _ _ | .unitAction _ _ _ _ | .policyLock _ _ | .report _ | .debugLevels _ _ _
  | .bindPolicy _ _ _ | .readCtrs _ _ _ | .anchorSet _ _ | .stageChunk _ _ _ _ | .commitImage _ _ | .cancelImage _ _
  | .raiseFloor _ _ | .bootImage _ _ _ | .imgBootLoad _ _ | .imgStage _ | .imgCommit _ | .imgCancel _ | .stageDone _ _
  | .hmWindowDone _ | .wdWindowDone _ | .persistDone _ | .resetNRelease _ _ | .powerOnResetRelease _ _ | .bootComplete _
  | .glbUnlock _ | .guardExpiry _ | .parityCheck _ | .berthCapture _ | .retAddrWrite _ | .registerWrite _ _ _ _ | .response _ _
  | .runAheadLanded _ _ | .hostReadCompletion _ _ _ | .flashWriteDone _ _ | .cewiebConnection _ _ | .negotiateAlgorithms _
  | .getCertificate _ | .spdmChallenge _ | .heartbeat _ | .keyUpdate _ | .getDeviceInterfaceReport _ | .teardownRecordTimeout _
  | .stepBoundary | .rebalancePeriod | .commitInterval | .commitNow | .tileMigrCopyDone | .clusterCopyDone | .deviceLostScrub
  | .rawDataRead | .syncIn | .routeEnable | .routeDisable | .routeRead | .keyExchange | .respondIfReady | .teardownKeysZeroise
  | .scrubDone | .tdReq | .evict | .refclkLoss | .resetNAssert | .vddAoLow | .snap | .cdataHiAutoRead | .extest | .idcode
  | .samplePreload | .challenge | .jtagLock | .bypass | .refclkValid | .fusePulseDone | .getVersion | .getCapabilities
  | .traceRecordSend => true

/-- The instruction word of a cluster instruction is legal (R146, R148); other commands have none. -/
def wordOk (i : Instr) : Bool :=
  match i with
  | .nop _ f => encOk 0x00 f
  | .add _ f => encOk 0x01 f
  | .sub _ f => encOk 0x02 f
  | .mul _ f => encOk 0x03 f
  | .and _ f => encOk 0x04 f
  | .or _ f => encOk 0x05 f
  | .xor _ f => encOk 0x06 f
  | .shl _ f => encOk 0x07 f
  | .shr _ f => encOk 0x08 f
  | .sra _ f => encOk 0x09 f
  | .min _ f => encOk 0x0A f
  | .max _ f => encOk 0x0B f
  | .addi _ f => encOk 0x0C f
  | .movi _ f => encOk 0x0D f
  | .movhi _ f => encOk 0x0E f
  | .cmp _ f => encOk 0x0F f
  | .plog _ f => encOk 0x10 f
  | .ld _ f _ => encOk 0x11 f
  | .st _ f => encOk 0x12 f
  | .br _ f => encOk 0x13 f
  | .jal _ f => encOk 0x14 f
  | .jr _ f => encOk 0x15 f
  | .hset _ f => encOk 0x16 f
  | .hget _ f => encOk 0x17 f
  | .hld _ f => encOk 0x18 f
  | .hst _ f => encOk 0x19 f
  | .hadv _ f => encOk 0x1A f
  | .wait _ f => encOk 0x1B f
  | .fence _ f => encOk 0x1C f
  | .fsig _ f => encOk 0x1D f
  | .fwait _ f => encOk 0x1E f
  | .arr _ f => encOk 0x20 f
  | .aprog _ f => encOk 0x21 f
  | .vadd _ f => encOk 0x40 f
  | .vsub _ f => encOk 0x41 f
  | .vmul _ f => encOk 0x42 f
  | .vfma _ f => encOk 0x43 f
  | .vmin _ f => encOk 0x44 f
  | .vmax _ f => encOk 0x45 f
  | .vabs _ f => encOk 0x46 f
  | .vcvt _ f => encOk 0x47 f
  | .vsel _ f => encOk 0x48 f
  | .vcmp _ f => encOk 0x49 f
  | .vfill _ f => encOk 0x4A f
  | .vred _ f => encOk 0x4B f
  | .vredr _ f => encOk 0x4C f
  | .vmv _ f => encOk 0x4D f
  | .vnorm _ f => encOk 0x4E f
  | .vrms _ f => encOk 0x4F f
  | .vpwl _ f => encOk 0x50 f
  | .vrecip _ f => encOk 0x51 f
  | .vquant _ f => encOk 0x52 f
  | .vlut _ f => encOk 0x53 f
  | .vgru _ f => encOk 0x54 f
  | .vlstm _ f => encOk 0x55 f
  | .rstep _ f => encOk 0x60 f
  | .rprefill _ f => encOk 0x61 f
  | .rfft _ f => encOk 0x62 f
  | .sdraw _ f => encOk 0x80 f
  | .ssort _ f => encOk 0x81 f
  | .srand _ f => encOk 0x82 f
  | .conv _ f => encOk 0xA0 f
  | .mld _ f _ => encOk 0xC0 f
  | .mst _ f => encOk 0xC1 f
  | .mgath _ f => encOk 0xC2 f
  | .mcpy _ f => encOk 0xC3 f
  | .mframe _ f => encOk 0xC4 f
  | .memit _ f => encOk 0xC5 f
  | .bend _ f => encOk 0xE0 f
  | .blast _ f => encOk 0xE1 f
  | .binfo _ f => encOk 0xE2 f
  | _ => true

/-- Byte strings and numbers of a command have the sizes that the spec gives them: descriptors of 64 bytes, up to 16 in one fetch (R311,
R312); mailbox slots of 256 bytes (R324); accesses of 1, 2, 4 or 8 bytes (R445); chunks of up to 4,096 bytes (R439); physical columns
below 1,056 and ladders below 5 (R36, R94). -/
def sizesOk (i : Instr) : Bool :=
  match i with
  | .descriptorFetch _ descs => decide (descs.length ≤ 16) && descs.all (fun d => decide (d.length = 64))
  | .echo _ slot => decide (slot.length = 256)
  | .firmwareInformation _ slot => decide (slot.length = 256)
  | .reportRequest _ slot => decide (slot.length = 256)
  | .registerWrite off _ width _ => decide (off < 0x4000000) && [1, 2, 4, 8].contains width
  | .stageChunk _ _ _ data => decide (data.length ≤ 4096)
  | .calSlot _ _ m => measOk m
  | .slotDeferLimit _ _ m => measOk m
  | _ => true

/-- A well-formed command. -/
def wellFormed (i : Instr) : Bool := unitsOk i && wordOk i && sizesOk i

end Sys2Proof
end

