-- ==== Sys2Proof/Decode.lean ====
section
/-! DEFINITION. The cluster instruction word (R145, R148): reading it, and writing it.  The opcode table gives no row bits, so no word of
the table's numbering spells a command. -/

namespace Sys2Proof
open Sys2Proof.Machine

/-- The command that a word spells by the bits the opcode table gives its row: it gives none to any row. -/
def decodeTableWord (_nbits _w : Nat) : Option Instr := none

/-- The instruction of an opcode with its fields, on logical thread `lt`; none for an opcode that is not assigned.  An error of the store
or of package memory during the instruction is no part of its word. -/
def instrOf (lt : BitVec 12) (op : Nat) (f : Fields) : Option Instr :=
  match op with
  | 0x00 => some (.nop lt f)
  | 0x01 => some (.add lt f)
  | 0x02 => some (.sub lt f)
  | 0x03 => some (.mul lt f)
  | 0x04 => some (.and lt f)
  | 0x05 => some (.or lt f)
  | 0x06 => some (.xor lt f)
  | 0x07 => some (.shl lt f)
  | 0x08 => some (.shr lt f)
  | 0x09 => some (.sra lt f)
  | 0x0A => some (.min lt f)
  | 0x0B => some (.max lt f)
  | 0x0C => some (.addi lt f)
  | 0x0D => some (.movi lt f)
  | 0x0E => some (.movhi lt f)
  | 0x0F => some (.cmp lt f)
  | 0x10 => some (.plog lt f)
  | 0x11 => some (.ld lt f 0)
  | 0x12 => some (.st lt f)
  | 0x13 => some (.br lt f)
  | 0x14 => some (.jal lt f)
  | 0x15 => some (.jr lt f)
  | 0x16 => some (.hset lt f)
  | 0x17 => some (.hget lt f)
  | 0x18 => some (.hld lt f)
  | 0x19 => some (.hst lt f)
  | 0x1A => some (.hadv lt f)
  | 0x1B => some (.wait lt f)
  | 0x1C => some (.fence lt f)
  | 0x1D => some (.fsig lt f)
  | 0x1E => some (.fwait lt f)
  | 0x20 => some (.arr lt f)
  | 0x21 => some (.aprog lt f)
  | 0x40 => some (.vadd lt f)
  | 0x41 => some (.vsub lt f)
  | 0x42 => some (.vmul lt f)
  | 0x43 => some (.vfma lt f)
  | 0x44 => some (.vmin lt f)
  | 0x45 => some (.vmax lt f)
  | 0x46 => some (.vabs lt f)
  | 0x47 => some (.vcvt lt f)
  | 0x48 => some (.vsel lt f)
  | 0x49 => some (.vcmp lt f)
  | 0x4A => some (.vfill lt f)
  | 0x4B => some (.vred lt f)
  | 0x4C => some (.vredr lt f)
  | 0x4D => some (.vmv lt f)
  | 0x4E => some (.vnorm lt f)
  | 0x4F => some (.vrms lt f)
  | 0x50 => some (.vpwl lt f)
  | 0x51 => some (.vrecip lt f)
  | 0x52 => some (.vquant lt f)
  | 0x53 => some (.vlut lt f)
  | 0x54 => some (.vgru lt f)
  | 0x55 => some (.vlstm lt f)
  | 0x60 => some (.rstep lt f)
  | 0x61 => some (.rprefill lt f)
  | 0x62 => some (.rfft lt f)
  | 0x80 => some (.sdraw lt f)
  | 0x81 => some (.ssort lt f)
  | 0x82 => some (.srand lt f)
  | 0xA0 => some (.conv lt f)
  | 0xC0 => some (.mld lt f [])
  | 0xC1 => some (.mst lt f)
  | 0xC2 => some (.mgath lt f)
  | 0xC3 => some (.mcpy lt f)
  | 0xC4 => some (.mframe lt f)
  | 0xC5 => some (.memit lt f)
  | 0xE0 => some (.bend lt f)
  | 0xE1 => some (.blast lt f)
  | 0xE2 => some (.binfo lt f)
  | _ => none

/-- Decode one instruction word for a logical thread. -/
def decodeWord (lt : BitVec 12) (w : BitVec 64) : Option Instr := instrOf lt (opcodeOf w) (fieldsOf w)

/-- The instruction word of an opcode with its fields. -/
def encodeWord (op : Nat) (f : Fields) : BitVec 64 :=
  f.imm ++ BitVec.ofBool f.pn ++ f.pg ++ f.z ++ f.y ++ f.x ++ f.d ++ BitVec.ofNat 8 op

/-- The logical thread, opcode and fields of a cluster instruction; none for every other command. -/
def spelling (i : Instr) : Option (BitVec 12 × Nat × Fields) :=
  match i with
  | .nop lt f => some (lt, 0x00, f)
  | .add lt f => some (lt, 0x01, f)
  | .sub lt f => some (lt, 0x02, f)
  | .mul lt f => some (lt, 0x03, f)
  | .and lt f => some (lt, 0x04, f)
  | .or lt f => some (lt, 0x05, f)
  | .xor lt f => some (lt, 0x06, f)
  | .shl lt f => some (lt, 0x07, f)
  | .shr lt f => some (lt, 0x08, f)
  | .sra lt f => some (lt, 0x09, f)
  | .min lt f => some (lt, 0x0A, f)
  | .max lt f => some (lt, 0x0B, f)
  | .addi lt f => some (lt, 0x0C, f)
  | .movi lt f => some (lt, 0x0D, f)
  | .movhi lt f => some (lt, 0x0E, f)
  | .cmp lt f => some (lt, 0x0F, f)
  | .plog lt f => some (lt, 0x10, f)
  | .ld lt f _ => some (lt, 0x11, f)
  | .st lt f => some (lt, 0x12, f)
  | .br lt f => some (lt, 0x13, f)
  | .jal lt f => some (lt, 0x14, f)
  | .jr lt f => some (lt, 0x15, f)
  | .hset lt f => some (lt, 0x16, f)
  | .hget lt f => some (lt, 0x17, f)
  | .hld lt f => some (lt, 0x18, f)
  | .hst lt f => some (lt, 0x19, f)
  | .hadv lt f => some (lt, 0x1A, f)
  | .wait lt f => some (lt, 0x1B, f)
  | .fence lt f => some (lt, 0x1C, f)
  | .fsig lt f => some (lt, 0x1D, f)
  | .fwait lt f => some (lt, 0x1E, f)
  | .arr lt f => some (lt, 0x20, f)
  | .aprog lt f => some (lt, 0x21, f)
  | .vadd lt f => some (lt, 0x40, f)
  | .vsub lt f => some (lt, 0x41, f)
  | .vmul lt f => some (lt, 0x42, f)
  | .vfma lt f => some (lt, 0x43, f)
  | .vmin lt f => some (lt, 0x44, f)
  | .vmax lt f => some (lt, 0x45, f)
  | .vabs lt f => some (lt, 0x46, f)
  | .vcvt lt f => some (lt, 0x47, f)
  | .vsel lt f => some (lt, 0x48, f)
  | .vcmp lt f => some (lt, 0x49, f)
  | .vfill lt f => some (lt, 0x4A, f)
  | .vred lt f => some (lt, 0x4B, f)
  | .vredr lt f => some (lt, 0x4C, f)
  | .vmv lt f => some (lt, 0x4D, f)
  | .vnorm lt f => some (lt, 0x4E, f)
  | .vrms lt f => some (lt, 0x4F, f)
  | .vpwl lt f => some (lt, 0x50, f)
  | .vrecip lt f => some (lt, 0x51, f)
  | .vquant lt f => some (lt, 0x52, f)
  | .vlut lt f => some (lt, 0x53, f)
  | .vgru lt f => some (lt, 0x54, f)
  | .vlstm lt f => some (lt, 0x55, f)
  | .rstep lt f => some (lt, 0x60, f)
  | .rprefill lt f => some (lt, 0x61, f)
  | .rfft lt f => some (lt, 0x62, f)
  | .sdraw lt f => some (lt, 0x80, f)
  | .ssort lt f => some (lt, 0x81, f)
  | .srand lt f => some (lt, 0x82, f)
  | .conv lt f => some (lt, 0xA0, f)
  | .mld lt f _ => some (lt, 0xC0, f)
  | .mst lt f => some (lt, 0xC1, f)
  | .mgath lt f => some (lt, 0xC2, f)
  | .mcpy lt f => some (lt, 0xC3, f)
  | .mframe lt f => some (lt, 0xC4, f)
  | .memit lt f => some (lt, 0xC5, f)
  | .bend lt f => some (lt, 0xE0, f)
  | .blast lt f => some (lt, 0xE1, f)
  | .binfo lt f => some (lt, 0xE2, f)
  | _ => none

/-- A command without the memory error that may come with it. -/
def withoutError (i : Instr) : Instr :=
  match i with
  | .ld lt f _ => .ld lt f 0
  | .mld lt f _ => .mld lt f []
  | j => j

end Sys2Proof
end

