-- ==== Sys2Proof/Machine/Regs.lean ====
section
/-! DEFINITION. Register words of window 0 that software writes: reset words and fields (R445, R460–R466). -/

namespace Sys2Proof.Machine
open Sys2Proof

/-- Offset of a register of client c's context (R462). -/
def hifC (c : BitVec 10) (o : Nat) : Nat := hifOff + 0x4000 + 0x30 * c.toNat + o

/-- Reset words of the HIF client contexts by offset within a context; c is the client (R306, R462). -/
def hifReset (c o : Nat) : Nat :=
  match o with
  | 0x20 => 8 + 10 * 2 ^ 8 + 4 * 2 ^ 16 + 4 * 2 ^ 24
  | 0x24 => (1 + c) + 2 ^ 16
  | _ => 0

/-- Reset words of BTH (R463). -/
def bthReset (o : Nat) : Nat :=
  match o with
  | 0x18 => 4096 * 2 ^ 16
  | 0x1C => 4 * 2 ^ 8
  | 0x20 => 1 + 16 * 2 ^ 8
  | 0x24 => 1024
  | 0x28 => 2000
  | _ => if 0x1000 ≤ o ∧ o < 0x2000 then 1 else 0

/-- Reset words of MEM (R464). -/
def memReset (o : Nat) : Nat :=
  match o with
  | 0x04 => 1 + 16 * 2 ^ 8
  | 0x08 => 2000
  | 0x10 | 0x14 => 8192
  | _ => 0

/-- Reset words of CAL's control registers (R110). -/
def calReset (o : Nat) : Nat :=
  match o with
  | 0x00 => 1
  | 0x04 => 4096
  | 0x08 => 10000 + 8 * 2 ^ 16
  | 0x0C => 30000
  | 0x10 => 255 + 82 * 2 ^ 8
  | 0x14 => 700 + 800 * 2 ^ 16
  | _ => 0

/-- Reset words of AUD (R353): stream registers differ by kind. -/
def audReset (o : Nat) : Nat :=
  if o = 0 then 2 * 2 ^ 4 + 2 ^ 8
  else if o = 0xC then 1 + 4
  else if o = 0x10 then 4 * 2 ^ 9
  else if 0x100 ≤ o ∧ o < 0xF00 then
    let st := (o - 0x100) / 0x20
    match o % 0x20 with
    | 0 => if 96 ≤ st then 2 + 8 * 2 ^ 12 + 2 * 2 ^ 20 + 2 * 2 ^ 24 + 2 ^ 26 + 2 ^ 29
           else 2 + 32 * 2 ^ 12 + 4 * 2 ^ 20 + 2 * 2 ^ 24 + 2 ^ 29
    | 4 => 50 * 2 ^ 11
    | _ => 0
  else if 0x1000 ≤ o ∧ o < 0x11C0 then 3 * 2 ^ 16
  else 0

/-- Reset words of CHN (R373). -/
def chnReset (o : Nat) : Nat :=
  if o = 0xC then 100
  else if 0x100 ≤ o ∧ o < 0x140 ∧ o % 16 = 0 then 0x1FF * 2 ^ 3 + 12 * 2 ^ 12
  else if 0x1000 ≤ o ∧ o < 0x2000 then 0xFFFFFFFF
  else 0

/-- What a register that software writes reads after reset; offsets are of window 0. -/
def resetWord (off : Nat) : Nat :=
  let o := off % 0x10000
  match off / 0x10000 with
  | 0x1 => if o = 0 then 2 ^ 8 else 0
  | 0x3 => if 0x4000 ≤ o then hifReset ((o - 0x4000) / 0x30) ((o - 0x4000) % 0x30) else 0
  | 0x4 => bthReset o
  | 0x5 => memReset o
  | 0x6 => if o = 0 then 1 + 20 * 2 ^ 2 else 0
  | 0x7 => calReset o
  | 0x8 => audReset o
  | 0x9 => chnReset o
  | 0xA => if o = 0x50 then 95 else 0
  | 0xC => if o < 0x4010 ∧ o % 16 = 12 then 1 else 0
  | _ => 0

/-- The word of a register. -/
def regWord (s : State) (off : Nat) : BitVec 32 := tabGet (BitVec.ofNat 32 (resetWord off)) s.regs off

/-- Write a register word; the table lists no word equal to the reset word. -/
def setRegWord (s : State) (off : Nat) (w : BitVec 32) : State :=
  { s with regs := tabSet (BitVec.ofNat 32 (resetWord off)) s.regs off w }

/-- A field of a register. -/
def regField (s : State) (off hi lo : Nat) : Nat := bitsOf (regWord s off).toNat hi lo

/-- Replace bits `[hi:lo]` of a number. -/
def putBits (w hi lo v : Nat) : Nat := w - bitsOf w hi lo * 2 ^ lo + v % 2 ^ (hi - lo + 1) * 2 ^ lo

/-- Write a field of a register. -/
def setRegField (s : State) (off hi lo v : Nat) : State :=
  setRegWord s off (BitVec.ofNat 32 (putBits (regWord s off).toNat hi lo v))

/-! ## The trace port (R500, R501) -/

def trcOn (s : State) : Bool := decide (regField s (dbgOff + 4) 0 0 = 1)
def trcData (s : State) : Bool := decide (regField s (dbgOff + 4) 1 1 = 1)

/-- `trc_en`, `trc_mf` and `trc_exc` of a physical cluster, bits 0–2 (R466). -/
def cluTrc (s : State) (n bit : Nat) : Bool := decide (regField s (cluOff n + 4) bit bit = 1)

/-- The hub's source number. -/
def trcHub : Nat := 31

/-- A trace record joins the FIFO of 4,096, or is dropped; none is added once the device is lost (R501, R505). -/
def traceRec (s : State) (type src : Nat) (b : BitVec 12) (body : List (BitVec 8)) : State :=
  if s.lost.lost then s
  else if 4096 ≤ s.dbg.trc.length then
    bump (setFlag { s with dbg := { s.dbg with trcLost := Nat.min (2 ^ 32 - 1) (s.dbg.trcLost + 1) } } fTrcOvf) (obsCtr 6)
  else
    let r := natLe type 1 ++ natLe src 1 ++ natLe b.toNat 2 ++ natLe s.tick.toNat 6 ++ body
    { s with dbg := { s.dbg with trc := s.dbg.trc ++ [r] } }

/-! ## Client fields (R306) -/

def sqSize (s : State) (c : BitVec 10) : Nat := 2 ^ regField s (hifC c 0x20) 4 0
def cqSize (s : State) (c : BitVec 10) : Nat := 2 ^ regField s (hifC c 0x20) 12 8
def h2fSize (s : State) (c : BitVec 10) : Nat := 2 ^ regField s (hifC c 0x20) 19 16
def f2hSize (s : State) (c : BitVec 10) : Nat := 2 ^ regField s (hifC c 0x20) 27 24
def vecOf (s : State) (c : BitVec 10) : Nat := regField s (hifC c 0x24) 10 0
def coalCnt (s : State) (c : BitVec 10) : Nat := regField s (hifC c 0x24) 24 16
def coalUs (s : State) (c : BitVec 10) : Nat := regField s (hifC c 0x28) 15 0
def ringBase (s : State) (c : BitVec 10) (o : Nat) : Nat :=
  (regWord s (hifC c o)).toNat + (regWord s (hifC c (o + 4))).toNat * 2 ^ 32

/-! ## Policy fields of the berth table (R272) and of memory (R298) -/

/-- Registers of the policy fields, one weight for each client among them. -/
def isPolicy (off : Nat) : Bool :=
  decide ((bthOff + 0x10 ≤ off ∧ off < bthOff + 0x2C) ∨ (bthOff + 0x1000 ≤ off ∧ off < bthOff + 0x2000))

/-- A written change of policy takes effect at the next boundary, as its first act (R272; DEDUCED, log 181). -/
def latchPolicy (s : State) : State := { s with sched := { s.sched with pol := s.regs.filter (fun e => isPolicy e.1) } }

/-- A field of a policy word in force. -/
def polField (s : State) (off hi lo : Nat) : Nat :=
  bitsOf (tabGet (BitVec.ofNat 32 (resetWord off)) s.sched.pol off).toNat hi lo

def weightOf (s : State) (c : BitVec 10) : Nat := polField s (bthOff + 0x1000 + 4 * c.toNat) 15 0
def stepCapNs (s : State) : Nat := polField s (bthOff + 0x10) 23 0
def stepDlNs (s : State) : Nat := polField s (bthOff + 0x14) 23 0
def autoParkOn (s : State) : Bool := decide (polField s (bthOff + 0x18) 0 0 = 1)
def parkAfter (s : State) : Nat := polField s (bthOff + 0x18) 31 16
def spEn (s : State) : Bool := decide (polField s (bthOff + 0x1C) 0 0 = 1)
def spRatio (s : State) : Nat := polField s (bthOff + 0x1C) 16 8
def rbEn (s : State) : Bool := decide (polField s (bthOff + 0x20) 0 0 = 1)
def rbRate (s : State) : Nat := polField s (bthOff + 0x20) 16 8
def rbPeriod (s : State) : Nat := polField s (bthOff + 0x24) 15 0
def rbThreshNs (s : State) : Nat := polField s (bthOff + 0x28) 23 0
def modPoolMib (s : State) (d : Nat) : Nat := regField s (memOff + 0x10 + 4 * d) 15 0

end Sys2Proof.Machine
end

