-- ==== Sys2Proof/Machine/Rings.lean ====
section
/-! DEFINITION. Completion records, the spill area, interrupts and mailboxes of the clients (R294, R318–R327). -/

namespace Sys2Proof.Machine
open Sys2Proof

/-- The completion status codes (R319). -/
def stOk : Nat := 0x00
def stNoFit : Nat := 0x01
def stNoMemory : Nat := 0x02
def stFlushed : Nat := 0x03
def stTimeout : Nat := 0x04
def stLockAbandoned : Nat := 0x05
def stDeviceLost : Nat := 0x06
def stTeardown : Nat := 0x07
def stReceiverReset : Nat := 0x08
def stStaleView : Nat := 0x09
def stBadDesc : Nat := 0x0A
def stKeyEpoch : Nat := 0x0B
def stPreempted : Nat := 0x0C
def stUnderrun : Nat := 0x0D
def stOutOfService : Nat := 0x0E
def stAttestHeld : Nat := 0x0F

/-- A client context whose rings the device may write: ACTIVE, FLUSHING or HALTED (R323, R327). -/
def writable (k : Client) : Bool := decide (k.st = .active ∨ k.st = .flushing ∨ k.st = .halted)

/-- Host-link payload bytes moved for a client (R259). -/
def hostBytes (s : State) (c : BitVec 10) (n : Nat) : State := modAct s c (fun a => { a with hostBytes := a.hostBytes + n })

/-! ## Interrupts (R327) -/

/-- The conditions of R327 for what has been written since the last interrupt. -/
def irqDue (s : State) (c : BitVec 10) (k : Client) : Bool :=
  k.arm && !k.mask && decide (0 < k.unsig) &&
  (decide (coalCnt s c ≤ k.unsig) || k.unsigNow || decide (100 * coalUs s c ≤ s.tick.toNat - k.unsigAt))

/-- Raise the interrupt when its conditions hold: `arm` is cleared. -/
def testIrq (s : State) (c : BitVec 10) : State :=
  let k := client s c
  if irqDue s c k then
    let s1 := setClient s c { k with arm := false, unsig := 0, unsigNow := false }
    addCtr (emit s1 (.msix (vecOf s c))) (hifCtr 19) 1
  else s

/-- A record or message has been written; `now` marks one that asks for the interrupt at once. -/
def signalIrq (s : State) (c : BitVec 10) (now : Bool) : State :=
  let k := client s c
  testIrq (setClient s c { k with unsig := k.unsig + 1, unsigNow := k.unsigNow || now,
                                  unsigAt := if k.unsig = 0 then s.tick.toNat else k.unsigAt }) c

/-! ## Records (R318) -/

/-- Phase of the ring pass that a position lies in: 1 on the first pass. -/
def phaseAt (size pos : Nat) : Bool := decide (pos / size % 2 = 0)

/-- The notices that are signalled at once: BERTH_END, DEVICE and MAILBOX (R327). -/
def urgentOp (op : Nat) : Bool := decide (op = 0x81 ∨ op = 0x83 ∨ op = 0x84)

/-- The completion ring has room. -/
def cqRoom (s : State) (c : BitVec 10) : Bool :=
  let k := client s c
  decide ((k.cqTail - k.cqHead).toNat < cqSize s c)

/-- Write a record into the host ring at the present position. -/
def putRecord (s : State) (c : BitVec 10) (r : Record) : State :=
  let k := client s c
  let r1 := { r with phase := phaseAt (cqSize s c) k.cqTail.toNat }
  let s1 := setClient s c { k with cqTail := k.cqTail + 1 }
  signalIrq (hostBytes (bump (emit s1 (.record c r1)) (hifCtr 2)) c 32) c (r.irq || urgentOp r.op)

/-- Pad detail bytes to 16. -/
def detail16 (d : List (BitVec 8)) : List (BitVec 8) := d.take 16 ++ List.replicate (16 - d.length) 0

/-- The 32 bytes of a record. -/
def recBytes (r : Record) : List (BitVec 8) :=
  let fl := (if r.phase then 1 else 0) + (if r.unsol then 2 else 0) + (if r.spilled then 4 else 0) + (if r.irq then 8 else 0)
  natLe r.status 1 ++ natLe r.op 1 ++ natLe fl 1 ++ natLe r.fep.toNat 1 ++ natLe r.tag.toNat 4 ++ detail16 r.detail ++ natLe r.tick.toNat 8

/-- Place k of the spill ring of client c, in package memory of die 0 (R294). -/
def spillAddr (c : BitVec 10) (k : Nat) : Nat := 0xC000000 + 0x10000 * c.toNat + 32 * (k % 2048)

/-- A record goes to the spill ring; its phase there is 0 until it reaches the host ring (DESIGN CHOICE, log 183). -/
def spillRecord (s : State) (c : BitVec 10) (r : Record) : State :=
  let k := client s c
  let a := spillAddr c (k.spillAt + k.spill.length)
  bump (hubPm (pmPut (setClient s c { k with spill := k.spill ++ [r] }) a (recBytes r)) c true a 32) (memCtr 3)

/-- A record falls due: to the host ring, or to the spill ring when the host ring is full or the spill ring holds any; none is
written for a client that is DISABLED or RESETTING (R294, R323). -/
def postRecord (s : State) (c : BitVec 10) (r : Record) : State :=
  let k := client s c
  if !writable k then s
  else if k.spill.isEmpty && cqRoom s c then putRecord s c r
  else spillRecord s c { r with spilled := true }

/-- A notice of a client (R320). -/
def notice (s : State) (c : BitVec 10) (op status : Nat) (tag : BitVec 32) (d : List (BitVec 8)) : State :=
  postRecord s c { status := status, op := op, unsol := true, fep := (client s c).fepoch, tag := tag, detail := detail16 d,
                   tick := s.tick }

/-- An item completes: it leaves the client's items and its record falls due (R312, R318). -/
def completeItem (s : State) (c : BitVec 10) (i : Item) (status : Nat) (d : List (BitVec 8)) : State :=
  let s1 := modClient s c (fun k => { k with items := k.items.filter (fun j => decide (j.seq ≠ i.seq)) })
  postRecord (bump s1 (hifCtr 1)) c
    { status := status, op := i.op, irq := i.irq, fep := i.fep, tag := i.tag, detail := detail16 d, tick := s.tick }

/-- BAD_DESCRIPTOR with a failing part and a reason (R320). -/
def badItem (s : State) (c : BitVec 10) (i : Item) (part reason : Nat) : State :=
  completeItem s c i stBadDesc (natLe part 1 ++ natLe reason 1)

/-- The detail of an item that names its berth. -/
def berthDetail (b : BitVec 12) : List (BitVec 8) := natLe b.toNat 2

/-- The item of a client by its number. -/
def findItem (s : State) (c : BitVec 10) (seq : Nat) : Option Item := (client s c).items.find? (fun i => decide (i.seq = seq))

/-- Change an item that stays. -/
def modItem (s : State) (c : BitVec 10) (seq : Nat) (f : Item → Item) : State :=
  modClient s c (fun k => { k with items := k.items.map (fun i => if i.seq = seq then f i else i) })

/-- The device has begun an item (R321). -/
def beginItem (s : State) (c : BitVec 10) (i : Item) : State :=
  modItem s c i.seq (fun j => { j with begun := true, held := false })

/-- An item waits. -/
def holdItem (s : State) (c : BitVec 10) (i : Item) : State := modItem s c i.seq (fun j => { j with held := true })

/-- Complete every item of every client that satisfies a test. -/
def completeAll (s : State) (p : Item → Bool) (status : Nat) (d : Item → List (BitVec 8)) : State :=
  s.clients.foldl (fun s e =>
    let c := BitVec.ofNat 10 e.1
    (e.2.items.filter p).foldl (fun s i => completeItem s c i status (d i)) s) s

/-! ## The mailboxes (R324, R325) -/

/-- The host-memory bytes of a message: header and payload of one 256-byte slot. -/
def msgBytes (m : Message) (ph : Bool) (seq : BitVec 32) : List (BitVec 8) :=
  let fl := (if ph then 1 else 0) + (if m.orphan then 2 else 0) + (if m.reply then 4 else 0)
  natLe m.type 1 ++ natLe fl 1 ++ natLe m.payload.length 2 ++ natLe seq.toNat 4 ++ natLe m.sndEpoch.toNat 2
    ++ natLe m.orphEpoch.toNat 2 ++ natLe m.reSeq.toNat 4 ++ natLe m.status 1 ++ List.replicate 15 0 ++ m.payload

/-- Firmware queues a message; the answer is false when the outbox of 64 is full. -/
def outboxRoom (s : State) (c : BitVec 10) : Bool := decide ((client s c).outbox.length < 64)
def queueMsg (s : State) (c : BitVec 10) (m : Message) : State :=
  modClient s c (fun k => { k with outbox := k.outbox ++ [m] })

end Sys2Proof.Machine
end

