-- ==== Sys2Proof/Machine/AudioBuf.lean ====
section
/-! DEFINITION. Audio streams: registers, the transmit buffers, room, and the conversion of samples (R331, R332, R340–R343). -/

namespace Sys2Proof.Machine
open Sys2Proof

def isTx (st : Nat) : Bool := decide ((48 ≤ st ∧ st ≤ 95) ∨ (104 ≤ st ∧ st ≤ 111))
def isRx (st : Nat) : Bool := decide (st ≤ 47 ∨ (96 ≤ st ∧ st ≤ 103))
def isWs (st : Nat) : Bool := decide (96 ≤ st ∧ st ≤ 111)
/-- The other direction of a word-select port. -/
def wsPartner (st : Nat) : Nat := if st < 104 then st + 8 else st - 8

def aud (s : State) (st : Nat) : AStream := tabGet {} s.aud.str st
def setAud (s : State) (st : Nat) (a : AStream) : State := { s with aud := { s.aud with str := tabSet {} s.aud.str st a } }
def modAud (s : State) (st : Nat) (f : AStream → AStream) : State := setAud s st (f (aud s st))

/-! ## Registers (R353) -/

def audCfg (st : Nat) : Nat := audOff + 0x100 + 0x20 * st
def audCtl (st : Nat) : Nat := audCfg st + 4
def audStat (st : Nat) : Nat := audCfg st + 8
/-- Route k of receiver r, 0–55. -/
def audRoute (r k : Nat) : Nat := audOff + 0x1000 + 8 * r + 4 * k
def routeIx (st : Nat) : Nat := if st < 48 then st else st - 48
def audCsTx (p : Nat) : Nat := audOff + 0x2000 + 0x40 * p
def audCsRx (p : Nat) : Nat := audOff + 0x3000 + 0x40 * p
def audUbTx (p : Nat) : Nat := audOff + 0x4000 + 0x40 * p
def audUbRx (p : Nat) : Nat := audOff + 0x5000 + 0x40 * p

def aRate (s : State) (st : Nat) : Nat := regField s (audCfg st) 2 0
def aClkSrc (s : State) (st : Nat) : Nat := regField s (audCfg st) 4 3
def aClkRef (s : State) (st : Nat) : Nat := regField s (audCfg st) 11 5
def aTarget (s : State) (st : Nat) : Nat := regField s (audCfg st) 19 12
def aSlipWin (s : State) (st : Nat) : Nat := regField s (audCfg st) 23 20
def aUfl (s : State) (st : Nat) : Nat := regField s (audCfg st) 25 24
def aWlen (s : State) (st : Nat) : Nat := regField s (audCfg st) 27 26
def aMaster (s : State) (st : Nat) : Bool := decide (regField s (audCfg st) 29 29 = 1)
def aFollow (s : State) (st : Nat) : Bool := decide (regField s (audCfg st) 30 30 = 1)
/-- `rx_fw` of a receiver, `slip_en` of a transmitter. -/
def aBit31 (s : State) (st : Nat) : Bool := decide (regField s (audCfg st) 31 31 = 1)
def aEn (s : State) (st : Nat) : Bool := decide (regField s (audCtl st) 0 0 = 1)
def aArm (s : State) (st : Nat) : Bool := decide (regField s (audCtl st) 2 2 = 1)
def aMon (s : State) (st : Nat) : Bool := decide (regField s (audCtl st) 3 3 = 1)
def aMonSrc (s : State) (st : Nat) : Nat := regField s (audCtl st) 10 4
def aPullLim (s : State) (st : Nat) : Nat := regField s (audCtl st) 18 11
def leadBlk (s : State) : Nat := regField s audOff 7 4
def tailBlk (s : State) : Nat := regField s audOff 11 8

/-- The rates of R332 in hertz; 0 for the reserved code. -/
def rateHz (r : Nat) : Nat :=
  match r with
  | 0 => 32000 | 1 => 44100 | 2 => 48000 | 3 => 88200 | 4 => 96000 | 5 => 176400 | 6 => 192000 | _ => 0

/-- Rates of the 44.1 kHz family run from PLL B. -/
def onPllB (r : Nat) : Bool := decide (r = 1 ∨ r = 3 ∨ r = 5)
def pllLocked (s : State) (r : Nat) : Bool := if onPllB r then s.aud.lockB else s.aud.lockA

/-- Flags of AUD and of each stream (R353, R355). -/
def fAudWign : Flag := ⟨audOff + 4, 0, flagCtr 3098⟩
def fRouteBad : Flag := ⟨audOff + 4, 1, flagCtr 3099⟩
def fStartIgn : Flag := ⟨audOff + 4, 2, audDevCtr 3⟩
def fPllUnlock : Flag := ⟨audOff + 4, 5, audDevCtr 0⟩
def fRateEv : Flag := ⟨audOff + 4, 6, flagCtr 3102⟩
def fLossEv : Flag := ⟨audOff + 4, 7, flagCtr 3103⟩
def fStrWign (st : Nat) : Flag := ⟨audStat st, 10, flagCtr (3104 + 5 * st)⟩
def fLoss (st : Nat) : Flag := ⟨audStat st, 11, audCtr st 6⟩
def fSlip (st : Nat) : Flag := ⟨audStat st, 12, flagCtr (3106 + 5 * st)⟩
def fUdr (st : Nat) : Flag := ⟨audStat st, 13, flagCtr (3107 + 5 * st)⟩
def fRateChg (st : Nat) : Flag := ⟨audStat st, 14, audCtr st 10⟩

/-! ## Samples (R340) -/

def lo24 : Int := - (2 ^ 23 : Nat)
def hi24 : Int := (2 ^ 23 : Nat) - 1

/-- Width of a port word, and of the audio in it. -/
def portBits (s : State) (st : Nat) : Nat :=
  if isWs st then (match aWlen s st with | 0 => 16 | 1 => 24 | _ => 32) else (match aWlen s st with | 0 => 24 | _ => 20)

/-- A port word to w. -/
def wordToW (bits w : Nat) : Int :=
  if bits = 32 then signedOf 24 (w / 256 % 2 ^ 24) else signedOf bits (w % 2 ^ bits) * (2 ^ (24 - bits) : Nat)

/-- w to a port word, and whether it saturated. -/
def wToWord (bits : Nat) (w : Int) : Nat × Bool :=
  if bits = 32 then (wrapOf 24 w * 256, false)
  else
    let v := rneDivInt w (2 ^ (24 - bits))
    let c := clampInt (- (2 ^ (bits - 1) : Nat)) ((2 ^ (bits - 1) : Nat) - 1) v
    (wrapOf bits c, decide (c ≠ v))

/-- w to memory in format `fmt` of R117: 2 INT16, 3 INT32, 6 FP32. -/
def wToMem (fmt : Nat) (w : Int) : List (BitVec 8) :=
  match fmt with
  | 2 => natLe (wrapOf 16 (clampInt (-32768) 32767 (rneDivInt w 256))) 2
  | 3 => natLe (wrapOf 32 (w * 256)) 4
  | _ => natLe (roundFl .fp32 (.fin (decide (w < 0)) w.natAbs (-23))).bits 4

/-- What a value of memory becomes on transmit: w, whether it saturated, whether it was NaN. -/
def memToW (fmt v : Nat) : Int × Bool × Bool :=
  match fmt with
  | 2 => (signedOf 16 (v % 65536) * 256, false, false)
  | 3 =>
    let r := rneDivInt (signedOf 32 (v % 2 ^ 32)) 256
    let c := clampInt lo24 hi24 r
    (c, decide (c ≠ r), false)
  | _ =>
    match flOfBits .fp32 v with
    | .nan => (0, false, true)
    | .inf neg => (if neg then lo24 else hi24, true, false)
    | x =>
      let r := (flRne (flMul x (.fin false 1 23))).getD 0
      let c := clampInt lo24 hi24 r
      (c, decide (c ≠ r), false)

/-! ## Binding a berth to a transmitter (R341) -/

def bindStream (a : Nat) : Nat := bitsOf a 6 0
def bindMask (a : Nat) : Nat := bitsOf a 9 8
def bindPack (a : Nat) : Bool := decide (bitsOf a 10 10 = 1)
def pop2 (m : Nat) : Nat := m % 2 + m / 2 % 2
/-- Values per frame. -/
def perFrame (mask : Nat) (pack : Bool) : Nat := if pack then pop2 mask else 2

/-- Admission accepts an `aud_stream` for a model (R32, R341). -/
def audioAccepts (s : State) (a : Nat) (m : ModelDecl) : Bool :=
  let st := bindStream a
  let x := aud s st
  decide (bitsOf a 7 7 = 0 ∧ bitsOf a 15 11 = 0 ∧ bindMask a ≠ 0) && isTx st && !aMon s st
  && decide (rateHz (aRate s st) ≠ 0 ∧ m.outRate = rateHz (aRate s st))
  && decide (m.outFmt % 8 = 2 ∨ m.outFmt % 8 = 3 ∨ m.outFmt % 8 = 6)
  && decide (m.outPerStep % perFrame (bindMask a) (bindPack a) = 0)
  && !(decide (bindMask a % 2 = 1) && x.s0.bound.isSome) && !(decide (2 ≤ bindMask a) && x.s1.bound.isSome)

/-- The berth takes its slots. -/
def bindAudio (s : State) (b : BitVec 12) (a : Nat) : State :=
  modAud s (bindStream a) (fun x =>
    { x with s0 := if bindMask a % 2 = 1 then { x.s0 with bound := some b } else x.s0,
             s1 := if 2 ≤ bindMask a then { x.s1 with bound := some b } else x.s1 })

/-- Routes that feed a berth are disabled and its slots released when it leaves (R342, R354). -/
def unbindAudio (s : State) (b : BitVec 12) : State :=
  let s1 := (upTo 112).foldl (fun s i =>
    let off := audRoute (i / 2) (i % 2)
    if regField s off 15 15 = 1 ∧ regField s off 11 0 = b.toNat then setRegField s off 15 15 0 else s) s
  let free (x : Slot) : Slot := if x.bound = some b then { x with bound := none } else x
  let str := s1.aud.str.map (fun e => (e.1, { e.2 with s0 := free e.2.s0, s1 := free e.2.s1 }))
  { s1 with aud := { s1.aud with str := str.filter (fun e => decide (e.2 ≠ {})) } }

/-! ## Room and level (R29, R343) -/

def slotLevel (a : AStream) (x : Slot) : Nat := x.nextIx - a.cur
/-- The lowest over the bound slots. -/
def level (a : AStream) : Nat :=
  match a.s0.bound, a.s1.bound with
  | some _, some _ => Nat.min (slotLevel a a.s0) (slotLevel a a.s1)
  | some _, none => slotLevel a a.s0
  | none, some _ => slotLevel a a.s1
  | none, none => 0

/-- The phases in which values queue. -/
def queuesIn (p : TxPhase) : Bool := decide (p = .armed ∨ p = .lead ∨ p = .run)

/-- Room of a transmitter for a berth, in values. -/
def audioRoom (s : State) (e : Berth) : Nat :=
  let st := bindStream e.audStream
  let a := aud s st
  if queuesIn a.phase then
    ((if aBit31 s st then 256 else aTarget s st) - level a) * perFrame (bindMask e.audStream) (bindPack e.audStream)
  else 0

/-- One value arrives at a slot: it queues for its frame, or is discarded when the frame has been sent (R343, R344). -/
def pushSlot (cur : Nat) (x : Slot) (w : Int) : Slot × Bool :=
  if x.nextIx < cur then ({ x with nextIx := x.nextIx + 1 }, true)
  else ({ x with nextIx := x.nextIx + 1, q := x.q ++ [w] }, false)

/-- One committed value of a berth reaches slot k of its transmitter. -/
def pushValue (s : State) (st k fmt v : Nat) : State :=
  let a := aud s st
  let r := memToW fmt v
  let x := if k = 0 then a.s0 else a.s1
  if !queuesIn a.phase then s
  else
    let p := pushSlot a.cur x r.1
    let s1 := setAud s st (if k = 0 then { a with s0 := p.1 } else { a with s1 := p.1 })
    let s2 := if p.2 then bump s1 (audCtr st 14) else s1
    let s3 := if r.2.1 then bump s2 (audCtr st 15) else s2
    if r.2.2 then bump s3 (audCtr st 16) else s3

/-- The slot that value i of a step goes to; none for the value of an unmasked slot. -/
def valueSlot (a i : Nat) : Option Nat :=
  if bindPack a then (if pop2 (bindMask a) = 2 then some (i % 2) else some (if bindMask a = 1 then 0 else 1))
  else if bindMask a / 2 ^ (i % 2) % 2 = 1 then some (i % 2) else none

/-- Release committed values to an audio stream. -/
def deliverAudio (s : State) (e : Berth) (fmt : Nat) (vs : List Nat) : State :=
  (vs.zipIdx).foldl (fun s p => match valueSlot e.audStream p.2 with
    | some k => pushValue s (bindStream e.audStream) k fmt p.1
    | none => s) s

end Sys2Proof.Machine
end

