-- ==== Sys2Proof/Machine/Gcm.lean ====
section
/-! DEFINITION. AES-256-GCM (R197), on byte lists. -/

namespace Sys2Proof.Machine
open Sys2Proof

/-- The number that 16 bytes spell, first byte highest. -/
def beNat : List Nat → Nat := List.foldl (fun a b => 256 * a + b) 0

/-- The `n` bytes of a number, highest first. -/
def natBe (v : Nat) : Nat → List Nat
  | 0 => []
  | n + 1 => v / 256 ^ n % 256 :: natBe v n

/-- Multiply in the field of GCM: bit 127 of a number is the coefficient of x^0; `n` bits of `x` are left to take. -/
def ghMulFrom (x v z : Nat) : Nat → Nat
  | 0 => z
  | n + 1 =>
    let z1 := if x / 2 ^ n % 2 = 1 then z ^^^ v else z
    let v1 := if v % 2 = 1 then v / 2 ^^^ (225 * 2 ^ 120) else v / 2
    ghMulFrom x v1 z1 n

def ghMul (x y : Nat) : Nat := ghMulFrom x y 0 128

/-- Blocks of 16 bytes, the last padded with zeros; `n` bounds their number. -/
def blocks16 (bs : List Nat) : Nat → List (List Nat)
  | 0 => []
  | n + 1 => if bs.isEmpty then [] else (bs.take 16 ++ List.replicate (16 - bs.length) 0) :: blocks16 (bs.drop 16) n

/-- GHASH of the additional data and the ciphertext. -/
def ghash (h : Nat) (aad ct : List Nat) : Nat :=
  let bl := blocks16 aad (aad.length / 16 + 1) ++ blocks16 ct (ct.length / 16 + 1)
    ++ [natBe (8 * aad.length) 8 ++ natBe (8 * ct.length) 8]
  bl.foldl (fun y b => ghMul (y ^^^ beNat b) h) 0

/-- Encrypt or decrypt in counter mode from counter value `i`. -/
def gcmCtr (ks : List (List Nat)) (nonce : List Nat) (i : Nat) : List (List Nat) → List Nat
  | [] => []
  | b :: t => aesXor b (aesWith ks (nonce ++ natBe i 4)) ++ gcmCtr ks nonce (i + 1) t

/-- Data xored with the key stream of counters from 2 up. -/
def gcmCrypt (key nonce data : List Nat) : List Nat :=
  let ks := aesSchedule key
  (gcmCtr ks nonce 2 (blocks16 data (data.length / 16 + 1))).take data.length

/-- The tag of a ciphertext. -/
def gcmTag (key nonce aad ct : List Nat) : List Nat :=
  let ks := aesSchedule key
  let h := beNat (aesWith ks (List.replicate 16 0))
  aesXor (natBe (ghash h aad ct) 16) (aesWith ks (nonce ++ natBe 1 4))

end Sys2Proof.Machine
end

