-- ==== Sys2Proof/Machine/Sha.lean ====
section
/-! DEFINITION. SHA-384 and the CTR_DRBG with AES-256 and no derivation function (R203, R206). -/

namespace Sys2Proof.Machine
open Sys2Proof

/-! ## SHA-384 -/

/-- The 80 round constants. -/
def shaK : List (BitVec 64) :=
  [0x428A2F98D728AE22, 0x7137449123EF65CD, 0xB5C0FBCFEC4D3B2F, 0xE9B5DBA58189DBBC] ++
  [0x3956C25BF348B538, 0x59F111F1B605D019, 0x923F82A4AF194F9B, 0xAB1C5ED5DA6D8118] ++
  [0xD807AA98A3030242, 0x12835B0145706FBE, 0x243185BE4EE4B28C, 0x550C7DC3D5FFB4E2] ++
  [0x72BE5D74F27B896F, 0x80DEB1FE3B1696B1, 0x9BDC06A725C71235, 0xC19BF174CF692694] ++
  [0xE49B69C19EF14AD2, 0xEFBE4786384F25E3, 0x0FC19DC68B8CD5B5, 0x240CA1CC77AC9C65] ++
  [0x2DE92C6F592B0275, 0x4A7484AA6EA6E483, 0x5CB0A9DCBD41FBD4, 0x76F988DA831153B5] ++
  [0x983E5152EE66DFAB, 0xA831C66D2DB43210, 0xB00327C898FB213F, 0xBF597FC7BEEF0EE4] ++
  [0xC6E00BF33DA88FC2, 0xD5A79147930AA725, 0x06CA6351E003826F, 0x142929670A0E6E70] ++
  [0x27B70A8546D22FFC, 0x2E1B21385C26C926, 0x4D2C6DFC5AC42AED, 0x53380D139D95B3DF] ++
  [0x650A73548BAF63DE, 0x766A0ABB3C77B2A8, 0x81C2C92E47EDAEE6, 0x92722C851482353B] ++
  [0xA2BFE8A14CF10364, 0xA81A664BBC423001, 0xC24B8B70D0F89791, 0xC76C51A30654BE30] ++
  [0xD192E819D6EF5218, 0xD69906245565A910, 0xF40E35855771202A, 0x106AA07032BBD1B8] ++
  [0x19A4C116B8D2D0C8, 0x1E376C085141AB53, 0x2748774CDF8EEB99, 0x34B0BCB5E19B48A8] ++
  [0x391C0CB3C5C95A63, 0x4ED8AA4AE3418ACB, 0x5B9CCA4F7763E373, 0x682E6FF3D6B2B8A3] ++
  [0x748F82EE5DEFB2FC, 0x78A5636F43172F60, 0x84C87814A1F0AB72, 0x8CC702081A6439EC] ++
  [0x90BEFFFA23631E28, 0xA4506CEBDE82BDE9, 0xBEF9A3F7B2C67915, 0xC67178F2E372532B] ++
  [0xCA273ECEEA26619C, 0xD186B8C721C0C207, 0xEADA7DD6CDE0EB1E, 0xF57D4F7FEE6ED178] ++
  [0x06F067AA72176FBA, 0x0A637DC5A2C898A6, 0x113F9804BEF90DAE, 0x1B710B35131C471B] ++
  [0x28DB77F523047D84, 0x32CAAB7B40C72493, 0x3C9EBE0A15C9BEBC, 0x431D67C49C100D4C] ++
  [0x4CC5D4BECB3E42B6, 0x597F299CFC657E2A, 0x5FCB6FAB3AD6FAEC, 0x6C44198C4A475817]

/-- The eight words of a hash in progress. -/
structure ShaWords where
  a : BitVec 64
  b : BitVec 64
  c : BitVec 64
  d : BitVec 64
  e : BitVec 64
  f : BitVec 64
  g : BitVec 64
  h : BitVec 64
deriving DecidableEq, Repr

/-- Where SHA-384 starts. -/
def sha384Start : ShaWords :=
  { a := 0xCBBB9D5DC1059ED8, b := 0x629A292A367CD507, c := 0x9159015A3070DD17, d := 0x152FECD8F70E5939,
    e := 0x67332667FFC00B31, f := 0x8EB44A8768581511, g := 0xDB0C2E0D64F98FA7, h := 0x47B5481DBEFA4FA4 }

/-- Exclusive or of two rotations and a third word. -/
def shaMix (x : BitVec 64) (i j : Nat) (y : BitVec 64) : BitVec 64 := x.rotateRight i ^^^ x.rotateRight j ^^^ y

/-- The word after sixteen words of the message schedule. -/
def shaNext (w : List (BitVec 64)) : BitVec 64 :=
  let x (i : Nat) : BitVec 64 := w.getD i 0
  shaMix (x 14) 19 61 (x 14 >>> 6) + x 9 + shaMix (x 1) 1 8 (x 1 >>> 7) + x 0

/-- One round, with the next sixteen words of the schedule. -/
def shaRound (p : ShaWords × List (BitVec 64)) (k : BitVec 64) : ShaWords × List (BitVec 64) :=
  let v := p.1
  let t := v.h + shaMix v.e 14 18 (v.e.rotateRight 41) + ((v.e &&& v.f) ^^^ (~~~v.e &&& v.g)) + k + p.2.getD 0 0
  let u := shaMix v.a 28 34 (v.a.rotateRight 39) + ((v.a &&& v.b) ^^^ (v.a &&& v.c) ^^^ (v.b &&& v.c))
  ({ a := t + u, b := v.a, c := v.b, d := v.c, e := v.d + t, f := v.e, g := v.f, h := v.g }, p.2.drop 1 ++ [shaNext p.2])

/-- A block of 128 bytes is taken in. -/
def shaBlock (v : ShaWords) (block : List Nat) : ShaWords :=
  let w := (upTo 16).map (fun i => BitVec.ofNat 64 (beNat ((block.drop (8 * i)).take 8)))
  let r := (shaK.foldl shaRound (v, w)).1
  { a := v.a + r.a, b := v.b + r.b, c := v.c + r.c, d := v.d + r.d, e := v.e + r.e, f := v.f + r.f, g := v.g + r.g, h := v.h + r.h }

/-- The padding of a message of n bytes. -/
def shaPad (n : Nat) : List Nat := 0x80 :: List.replicate ((239 - n % 128) % 128) 0 ++ natBe (8 * n) 16

/-- SHA-384 of a byte string, its 48 bytes in order. -/
def sha384 (bs : List Nat) : List Nat :=
  let m := bs ++ shaPad bs.length
  let v := (upTo (m.length / 128)).foldl (fun v i => shaBlock v ((m.drop (128 * i)).take 128)) sha384Start
  [v.a, v.b, v.c, v.d, v.e, v.f].flatMap (fun x => natBe x.toNat 8)

/-! ## CTR_DRBG -/

/-- The n blocks that a generator gives next. -/
def drbgBlocks (d : DrbgKey) (n : Nat) : List Nat :=
  let ks := aesSchedule ((natLe d.key.toNat 32).map (·.toNat))
  (upTo n).flatMap (fun i => aesWith ks (natBe (d.v + BitVec.ofNat 128 (i + 1)).toNat 16))

/-- The update function, on a state whose V is `used` blocks on. -/
def drbgUpdate (d : DrbgKey) (used : Nat) (data : List Nat) : DrbgKey :=
  let t := aesXor (drbgBlocks { d with v := d.v + BitVec.ofNat 128 used } 3) data
  { key := BitVec.ofNat 256 (leNat ((t.take 32).map (BitVec.ofNat 8 ·))), v := BitVec.ofNat 128 (beNat (t.drop 32)) }

/-- Instantiation from a 384-bit seed, and a reseed from one, with no personalisation and no additional input. -/
def drbgSeed (old : Option DrbgKey) (block : BitVec 384) : DrbgKey :=
  drbgUpdate (old.getD {}) 0 ((natLe block.toNat 48).map (·.toNat))

/-- A generate request: 256 bits, first byte lowest, and the state after it. -/
def drbgGenerate (d : DrbgKey) : BitVec 256 × DrbgKey :=
  (BitVec.ofNat 256 (leNat ((drbgBlocks d 2).map (BitVec.ofNat 8 ·))), drbgUpdate d 2 (List.replicate 48 0))

/-- The conditioned block of raw bits, earliest bit in bit 0 of byte 0 (R203, R221). -/
def conditionRaw (raw : Nat) (bytes : Nat) : BitVec 384 :=
  BitVec.ofNat 384 (leNat ((sha384 ((natLe raw bytes).map (·.toNat))).map (BitVec.ofNat 8 ·)))

end Sys2Proof.Machine
end

