-- ==== Sys2Proof/Machine/Gens.lean ====
section
/-! DEFINITION. Generate requests of the deterministic generators (R206, R207). Generator n serves physical cluster n, 18 the hub. -/

namespace Sys2Proof.Machine
open Sys2Proof

def hubGen : Nat := 18
def genOf (s : State) (g : Nat) : Drbg := tabGet {} s.rng.gens g
def setGen (s : State) (g : Nat) (d : Drbg) : State := { s with rng := { s.rng with gens := tabSet {} s.rng.gens g d } }

/-- The answer to a generate request. -/
inductive GenAns where
  | key (k : BitVec 256)
  | wait
  | refuse
deriving DecidableEq, Repr

/-- 2^`reseed_log2` (R207, R221). -/
def reseedEvery (s : State) : Nat := 2 ^ regField s rngOff 6 2

/-- A conditioned block is there for a generator to take: the source is OK and its latest good block is not taken (R203, R205). -/
def blockReady (s : State) : Bool := decide (s.rng.nt = .ok) && s.rng.block.isSome

/-- The latest good block is taken. -/
def takeBlock (s : State) : State := { s with rng := { s.rng with block := none } }

/-- A generator needs a block before its next request: it is not instantiated, or the request is its 2^n-th (R207). -/
def needsBlock (s : State) (g : Nat) : Bool :=
  let d := genOf s g
  !d.inst || decide (reseedEvery s ≤ d.since.toNat + 1)

/-- A generator instantiated or reseeded from a block (R206). -/
def seeded (d : Drbg) (b : BitVec 384) : Drbg :=
  { d with state := 1, inst := true, since := 0, key := drbgSeed (if d.inst then some d.key else none) b }

/-- The generator is instantiated or reseeded from the latest block (R206, R207). -/
def seedGen (s : State) (g : Nat) : State :=
  let d := genOf s g
  let s1 := takeBlock s
  setGen (if d.inst then bump s1 (rngCtr 2) else s1) g (seeded d (s.rng.block.getD 0))

/-- One generate request: reseed or instantiate first where that is due, wait without a block, refuse when FAILED. -/
def genRequest (s : State) (g : Nat) : State × GenAns :=
  let d := genOf s g
  if d.state = 3 then (s, .refuse)
  else if needsBlock s g && !blockReady s then (setGen s g { d with state := 2 }, .wait)
  else
    let s1 := if needsBlock s g then seedGen s g else s
    let e := genOf s1 g
    let r := drbgGenerate e.key
    (setGen s1 g { e with since := e.since + 1, key := r.2 }, .key r.1)

/-- A request waits for entropy at generator g. -/
def genWait (s : State) (g : Nat) (w : Option Waiter) : State :=
  let d := genOf s g
  setGen s g { d with waiting := if d.waiting.contains w then d.waiting else d.waiting ++ [w] }

/-- A generator with no request left to wait is in WAIT no longer. -/
def settle (d : Drbg) : Drbg :=
  if d.state = 2 ∧ d.waiting.isEmpty then { d with state := if d.inst then 1 else 0 } else d

/-- A waiting request is withdrawn. -/
def genUnwait (s : State) (w : Option Waiter) : State :=
  { s with rng := { s.rng with gens := s.rng.gens.filterMap (fun e =>
      let d := settle { e.2 with waiting := e.2.waiting.filter (fun x => decide (x ≠ w)) }
      if d = {} then none else some (e.1, d)) } }

/-- CHALLENGE's nonce of the hub generator, shifted out with the serial (R502); a request without entropy waits, and a FAILED generator
answers nothing. -/
def giveNonce (s : State) : State :=
  match genRequest s hubGen with
  | (t, .key k) => emit { t with dbg := { t.dbg with nonce := some k } } (.jtag (natLe k.toNat 32 ++ natLe Config.serial.toNat 16))
  | (t, .wait) => genWait t hubGen none
  | (t, .refuse) => t

end Sys2Proof.Machine
end

