-- ==== Sys2Proof/Machine/Sequencer.lean ====
section
/-! DEFINITION. Issue: the one order of checks, waits and effects that every cluster instruction goes through (R114, R147–R153). -/

namespace Sys2Proof.Machine
open Sys2Proof

/-- Entries of an engine's queue: tile, vector, recurrence, sampler, convolution, mover, as FENCE numbers them (R126). -/
def queueCap (eng : Nat) : Nat :=
  match eng with
  | 0 => 4 | 1 => 32 | 2 => 16 | 3 => 16 | 4 => 16 | _ => 64

/-- The queue of an engine of logical cluster l. -/
def queue (s : State) (l eng : Nat) : List Cmd := tabGet [] s.queues (8 * l + eng)
def setQueue (s : State) (l eng : Nat) (q : List Cmd) : State :=
  { s with queues := tabSet [] s.queues (8 * l + eng) q }

/-- The engine's queue has no room (R126). -/
def queueFull (s : State) (l eng : Nat) : Bool := decide (queueCap eng ≤ (queue s l eng).length)

/-- Some named slot's tile has a full queue (R54). -/
def tilesFull (s : State) (l mask : Nat) : Bool :=
  (slotsOf mask).any (fun j => decide (4 ≤ (tileAt s (tileOfSlot s l j)).queue.length))

/-- Outstanding commands of a thread on an engine (R119). -/
def outstOf (t : Thread) (eng : Nat) : Nat := tabGet 0 t.outst eng
def addOutst (t : Thread) (eng : Nat) : Thread := { t with outst := tabSet 0 t.outst eng (outstOf t eng + 1) }
def subOutst (t : Thread) (eng : Nat) : Thread := { t with outst := tabSet 0 t.outst eng (outstOf t eng - 1) }

/-- Some command of the masked engines is outstanding (R168). -/
def anyOutst (t : Thread) (mask : Nat) : Bool :=
  (upTo 6).any (fun e => decide (mask / 2 ^ e % 2 = 1) && decide (outstOf t e ≠ 0))

/-- The store address of fence counter f of a thread's module copy (R169). -/
def fenceAddr (t : Thread) (f : Nat) : Nat := t.mw.base + t.mw.len - 64 + 4 * f

/-- The value of fence counter f. -/
def fenceCtr (s : State) (lt : BitVec 12) (t : Thread) (f : Nat) : BitVec 32 :=
  BitVec.ofNat 32 (storeLe s (lcluOf lt) (fenceAddr t f) 4)

/-- Counter less target, read as a 32-bit signed number, is 0 or more (R171). -/
def reached (c target : BitVec 32) : Bool := decide (0 ≤ (c - target).toInt)

/-- What a WAITING thread waits for has come. -/
def waitOver (s : State) (lt : BitVec 12) (t : Thread) : WaitOn → Bool
  | .operands sm vm am pm => decide (t.pendS &&& sm = 0 ∧ t.pendV &&& vm = 0 ∧ t.pendA &&& am = 0 ∧ t.pendP &&& pm = 0)
  | .room eng m => !(decide (eng ≠ 0) && queueFull s (lcluOf lt) eng) && !tilesFull s (lcluOf lt) m.toNat
  | .engines m => !anyOutst t m.toNat
  | .counter _ f target => reached (fenceCtr s lt t f.toNat) target
  | .finish => !anyOutst t 63

/-- The place in the order of READY threads of one that becomes READY now, as entry k of a manifest where one makes it so (R114, R124). -/
def readyAt (s : State) (k : Nat) : Nat := 4096 * s.tick.toNat + k

/-- A WAITING thread whose wait is over is READY (R114). -/
def wakeOne (s : State) (k : Nat) (t : Thread) : Thread :=
  match t.st, t.wait with
  | .waiting, some w => if waitOver s (BitVec.ofNat 12 k) t w then { t with st := .ready, wait := none, since := readyAt s 0 } else t
  | _, _ => t

/-- Wake the threads of a logical cluster whose awaited event has come. -/
def wake (s : State) (l : Nat) : State :=
  { s with threads := s.threads.map (fun e => (e.1, if e.1 / 256 = l then wakeOne s e.1 e.2 else e.2)) }

/-- The thread may take an instruction: it is READY, on a served cluster of a device that is not lost (R114). -/
def canRun (s : State) (lt : BitVec 12) (t : Thread) : Bool :=
  decide (t.st = .ready) && decide (physOf s (lcluOf lt) ≠ 31) && !s.lost.lost

/-- Thread `b` has been READY longer than thread `a` of its cluster, or as long with a lower number (R124). -/
def readyBefore (b a : Nat × Thread) : Bool :=
  decide (b.2.st = .ready ∧ b.1 / 256 = a.1 / 256 ∧ (b.2.since < a.2.since ∨ (b.2.since = a.2.since ∧ b.1 < a.1)))

/-- The sequencer's choice in a cycle: a READY thread with at most one other before it, since two issue (R124).  Which cycle an
instruction command belongs to is the sender's, and so is the choice: a command of another READY thread is executed too
(DESIGN CHOICE, log 170). -/
def sequencerPicks (s : State) (lt : BitVec 12) : Bool :=
  let t := thread s lt
  canRun s lt t && decide ((s.threads.filter (fun e => readyBefore e (lt.toNat, t))).length < 2)

/-- The instruction word at the thread's pc, where the load gave the code section's words that far. -/
def codeWord (s : State) (t : Thread) : Option (BitVec 64) :=
  let c := (module s t.modSlot).desc.code
  if t.pc.toNat + 8 ≤ c.length then some (BitVec.ofNat 64 (leAt c t.pc.toNat 8)) else none

/-- The word at the pc has an opcode that R148 does not assign. -/
def illegalWord (s : State) (t : Thread) : Bool :=
  match codeWord s t with | some w => !opAssigned (opcodeOf w) | none => false

/-- The word at the pc is another instruction than the one commanded, which the thread then does not fetch (DESIGN CHOICE, log 171). -/
def otherWord (s : State) (t : Thread) (op : Nat) (f : Fields) : Bool :=
  match codeWord s t with | some w => opAssigned (opcodeOf w) && !decide (opcodeOf w = op ∧ fieldsOf w = f) | none => false

/-- The thread's pc lies outside the code section of its module (R154). -/
def pcOutside (s : State) (t : Thread) : Bool :=
  decide ((module s t.modSlot).desc.codeLen < t.pc.toNat + 8)

/-- Raise an exception: the thread goes FAULTED with code and pc recorded, the berth is withdrawn from the step, and the
cluster's flag, registers, counters and trace record it (R139, R140, R144, R150, R466, R500). -/
def raiseExc (s : State) (lt : BitVec 12) (e : Exc) : State :=
  let t := thread s lt
  let n := physOf s (lcluOf lt)
  let s1 := setThread s lt { t with st := .faulted, exc := excCode e, excPc := t.pc, wait := none }
  let s2 := modBerth s1 t.berth
    (fun b => { b with inStep := false, ended := .exception, endExc := excCode e, endPc := t.pc })
  let s3 := bump s2 (cExceptions n)
  let s4 := if e = .stepOverrun then bump s3 (cStepOverrun n) else s3
  let s5 := setFlag s4 (fExcEv n)
  let s6 := if cluTrc s5 n 2 then
      traceRec s5 4 n t.berth (natLe (excCode e).toNat 1 ++ natLe 0 1 ++ natLe t.pc.toNat 4) else s5
  { s6 with sched := { s6.sched with
      excReg := tabPut s6.sched.excReg n ((excCode e).toNat, t.berth.toNat, t.pc.toNat) } }

/-- The instruction is not issued: the thread waits, pc on it (R114). -/
def hold (s : State) (lt : BitVec 12) (w : WaitOn) : State :=
  let t := thread s lt
  setThread s lt { t with st := .waiting, wait := some w }

/-- The thread after an instruction has issued: counted, pc past it. -/
def advance (t : Thread) : Thread :=
  { t with issued := t.issued + 1, pc := t.pc + 8 }

/-- The cluster's `issued` counter (R144). -/
def countIssue (s : State) (lt : BitVec 12) : State := bump s (cIssued (physOf s (lcluOf lt)))

/-- Issue one instruction of a thread.  In order: the fetched word, the encoding, pending operands, the step budget, the guard, the
instruction's own checks, what it waits for, and then its effect on the thread already advanced.  A command of a thread
that cannot take an instruction changes nothing (R19). -/
def issue (s : State) (lt : BitVec 12) (op : Nat) (f : Fields) (checks : Thread → List (Option Exc))
    (block : Thread → Option WaitOn) (act : State → Thread → State) : State :=
  let t := thread s lt
  if !canRun s lt t || otherWord s t op f then s
  else if pcOutside s t || illegalWord s t || !encOk op f then raiseExc s lt .illegalOp
  else if namesPending t op f then hold s lt (operandWait op f)
  else if (modelOf s t).stepBudget < t.issued + 1 then raiseExc s lt .stepOverrun
  else if !(shapeOf op).lanes && !guardBit t f then setThread (countIssue s lt) lt (advance t)
  else match firstExc (checks t) with
    | some e => raiseExc s lt e
    | none =>
      match block t with
      | some w => hold s lt w
      | none => act (countIssue s lt) (advance t)

/-- No checks beyond the encoding. -/
def noChecks (_ : Thread) : List (Option Exc) := []
/-- Nothing to wait for. -/
def noBlock (_ : Thread) : Option WaitOn := none

/-- An instruction that acts on the thread's own registers only. -/
def issueReg (s : State) (lt : BitVec 12) (op : Nat) (f : Fields) (g : Thread → Thread) : State :=
  issue s lt op f noChecks noBlock (fun s' t => setThread s' lt (g t))

/-- s`d` takes a function of s`x` and s`y`. -/
def aluOp (s : State) (lt : BitVec 12) (op : Nat) (f : Fields) (g : BitVec 64 → BitVec 64 → BitVec 64) : State :=
  issueReg s lt op f (fun t => writeS t f.d.toNat (g (readS t f.x.toNat) (readS t f.y.toNat)))

end Sys2Proof.Machine
end

