-- ==== Sys2Proof/Machine/Gates.lean ====
section
/-! DEFINITION. Gate tables (R190–R192): the built-in ones, the module's own, and their evaluation in FP32. -/

namespace Sys2Proof.Machine
open Sys2Proof

/-- A gate table as the device evaluates it (R190). -/
structure Gate where
  xlo : Nat
  w : Nat
  lmode : Bool
  rmode : Bool
  sl : Nat
  sr : Nat
  y : List Nat
deriving DecidableEq, Repr

/-- The built-in tables of R192: knot values are the function values rounded to FP32. -/
def builtinGate : Nat → Option Gate
  | 0 => some ⟨0xC1000000, 0x3F800000, false, false, 0, 0,
      [0x39AFD1EF, 0x3A6ED39C, 0x3B220BBC, 0x3BDB4FB4, 0x3C9357D1, 0x3D4241A2, 0x3DF420A9, 0x3E89B2B1, 0x3F000000,
       0x3F3B26A8, 0x3F617BEB, 0x3F73DBE6, 0x3F7B6541, 0x3F7E4961, 0x3F7F5DF4, 0x3F7FC44B, 0x3F7FEA06]⟩
  | 1 => some ⟨0xC0800000, 0x3F000000, false, false, 0, 0,
      [0xBF7FD40C, 0xBF7F8896, 0xBF7EBBE9, 0xBF7C92C1, 0xBF76CA83, 0xBF67B7CC, 0xBF42F7D6, 0xBEEC9A9F, 0x00000000,
       0x3EEC9A9F, 0x3F42F7D6, 0x3F67B7CC, 0x3F76CA83, 0x3F7C92C1, 0x3F7EBBE9, 0x3F7F8896, 0x3F7FD40C]⟩
  | 2 => some ⟨0xC1000000, 0x3F800000, false, true, 0, 0x3F800000,
      [0xBB2FD1EF, 0xBBD0F929, 0xBC731199, 0xBD0911D0, 0xBD9357D1, 0xBE11B139, 0xBE7420A9, 0xBE89B2B1, 0x00000000,
       0x3F3B26A8, 0x3FE17BEB, 0x4036E4EC, 0x407B6541, 0x409EEDDC, 0x40BF8677, 0x40DFCBC2, 0x40FFEA06]⟩
  | 3 => some ⟨0xC0800000, 0x3F000000, false, true, 0, 0x3F800000,
      [0xB904D6BD, 0xBA557028, 0xBB84B34C, 0xBC7E590F, 0xBD3A5E7C, 0xBDCD3B52, 0xBE227686, 0xBE1DF8A2, 0x00000000,
       0x3EB103AF, 0x3F57625F, 0x3FB32C4B, 0x3FFA2D0C, 0x401F01A7, 0x403FBDA6, 0x405FF2A9, 0x407FFDED]⟩
  | 4 => some ⟨0xC1000000, 0x3F800000, false, true, 0, 0x3F800000,
      [0x39AFD97B, 0x3A6EEF7A, 0x3B223F1B, 0x3BDC0C6D, 0x3C94AF28, 0x3D470388, 0x3E01F96B, 0x3EA063D6, 0x3F317218,
       0x3FA818F5, 0x40081F97, 0x40431C0E, 0x408094AF, 0x40A03703, 0x40C01448, 0x40E00777, 0x41000160]⟩
  | _ => none

/-- The 96 bytes of a gate table (R190). -/
def gateOfBytes (b : List (BitVec 8)) : Gate :=
  let w (i : Nat) : Nat := leNat ((b.drop i).take 4)
  ⟨w 0, w 4, decide (leNat ((b.drop 8).take 1) = 1), decide (leNat ((b.drop 9).take 1) = 1), w 12, w 16,
   (upTo 17).map (fun m => w (20 + 4 * m))⟩

/-- The table of index i of a thread's module copy: the module's, else the built-in one, else empty (R191). -/
def gateOf (m : ModelDecl) (i : Nat) : Option Gate :=
  match m.gates.find? (fun g => decide (g.1 = i)) with
  | some g => some (gateOfBytes g.2)
  | none => builtinGate i

/-- Knot m of a table. -/
def gateKnot (g : Gate) (m : Nat) : Fl := flOfBits .fp32 ((g.y[m]?).getD 0)

/-- `⌊u⌋` of a value in 0 ≤ u < 16. -/
def floorSmall (u : Fl) : Nat :=
  match u with
  | .fin false m e => m * pow2Num e / pow2Den e
  | _ => 0

/-- Evaluate a table at x, one FP32 rounding per operation (R190), with the overflows on the way. -/
def gateTr (g : Gate) (x : Tr) : Tr :=
  if flIsNan x.v then ⟨.nan, x.ovf⟩ else
  let k (m : Nat) : Tr := ⟨gateKnot g m, false⟩
  let lo : Tr := ⟨flOfBits .fp32 g.xlo, false⟩
  let w : Tr := ⟨flOfBits .fp32 g.w, false⟩
  let d := trSub x lo
  let u := trMul d ⟨flRecip32 w.v, false⟩
  if flLt u.v (.fin false 0 0) then
    (if g.lmode then trAdd (k 0) (trMul ⟨flOfBits .fp32 g.sl, false⟩ d) else { k 0 with ovf := x.ovf })
  else if !flLt u.v (flOfInt 16) then
    (if g.rmode then trAdd (k 16) (trMul ⟨flOfBits .fp32 g.sr, false⟩ (trSub d (trMul ⟨flOfInt 16, false⟩ w)))
     else { k 16 with ovf := x.ovf })
  else
    let m := floorSmall u.v
    trAdd (k m) (trMul (trSub u ⟨flOfInt m, false⟩) (trSub (k (m + 1)) (k m)))

/-- The value of table i of a model at x; an empty table yields 0 (R191). -/
def gateTrOf (m : ModelDecl) (i : Nat) (x : Tr) : Tr :=
  match gateOf m i with
  | some g => gateTr g x
  | none => ⟨.fin false 0 0, x.ovf⟩

end Sys2Proof.Machine
end

