-- ==== Sys2Proof/Machine/Numbers.lean ====
section
/-! DEFINITION. M8 codes, the scale procedure of R73 and the quantisation of values (R71–R74). -/

namespace Sys2Proof.Machine
open Sys2Proof

/-- The least c with v ≤ 2^((c - 128) / 4), from a first guess, by exact comparison of fourth powers: v = n / d. -/
def m8Search (n d : Nat) (k : Int) : Nat → Int
  | 0 => k
  | fuel + 1 => if n ^ 4 * pow2Den k ≤ d ^ 4 * pow2Num k then k else m8Search n d (k + 1) fuel

/-- The M8 code of a value (R71): ⌈4 log2 v⌉ + 128 clamped to 1–255; 0 for a value of 0 or less; 255 for +∞.  A NaN has
no code and is left out before this is reached. -/
def m8Encode : Fl → Nat
  | .nan => 0
  | .inf neg => if neg then 0 else 255
  | .fin neg m e =>
    if neg || decide (m = 0) then 0
    else
      let n := m * pow2Num e
      let d := pow2Den e
      let k := m8Search n d (4 * floorLog2 n d) 5
      (clampInt 1 255 (k + 128)).toNat

/-- Headroom h as a fraction over 4: 1.0, 1.25, 1.5, 2.0 (R72). -/
def headroom4 (code : Nat) : Nat :=
  match code with | 0 => 4 | 1 => 5 | 2 => 6 | _ => 8

/-- (h × V / q)^4 for the value V of M8 code c, as a fraction: numerator and denominator. -/
def hv4 (h4 c q : Nat) : Nat × Nat :=
  let t : Int := (c : Int) - 128
  (h4 ^ 4 * pow2Num t, (4 * q) ^ 4 * pow2Den t)

/-- The least m from m up whose scaled fourth power reaches n / d: m × 2^(l - 7). -/
def sigSearch (n d : Nat) (l : Int) (m : Nat) : Nat → Nat
  | 0 => m
  | fuel + 1 => if n * pow2Den (4 * (l - 7)) ≤ m ^ 4 * d * pow2Num (4 * (l - 7)) then m else sigSearch n d l (m + 1) fuel

/-- σ of R73: h × max V / qpos rounded toward +infinity to BF16; +0 when every V stands for zero. -/
def sigmaOf (h4 c q : Nat) : Fl :=
  if c = 0 then .fin false 0 0
  else
    let (n, d) := hv4 h4 c q
    let l : Int := floorLog2 n d / 4
    let m := sigSearch n d l 128 129
    .fin false m (l - 7)

/-- Is σ × 2^(-e) × qpos ≥ h × V? -/
def epsFits (sigma : Fl) (h4 c q e : Nat) : Bool :=
  match sigma with
  | .fin _ m x =>
    if c = 0 then true
    else
      let (n, d) := hv4 h4 c q
      let k : Int := 4 * (x - e)
      decide (n * pow2Den k ≤ m ^ 4 * d * pow2Num k)
  | _ => true

/-- The largest e in 0–15 that fits, downward from e; 0 when none does. -/
def epsDown (sigma : Fl) (h4 c q : Nat) : Nat → Nat
  | 0 => 0
  | e + 1 => if epsFits sigma h4 c q (e + 1) then e + 1 else epsDown sigma h4 c q e

/-- ε[g] of R73; with σ = +0 every ε is 15. -/
def epsOf (sigma : Fl) (h4 c q : Nat) : Nat :=
  if sigma = .fin false 0 0 then 15 else epsDown sigma h4 c q 15

/-- The code range of an activation encoding. -/
def codeLo (int8 sgn : Bool) : Int := if sgn then (if int8 then -128 else -8) else 0
def codeHi (int8 sgn : Bool) : Int := if sgn then (if int8 then 127 else 7) else (if int8 then 255 else 15)

/-- A quantised value with its events: clipped, NaN (R74). -/
structure QVal where
  code : Int
  clip : Bool
  nan : Bool
deriving DecidableEq, Repr

/-- x / (σ × 2^(-ε)) rounded to nearest even; σ is not zero. -/
def rneScaled (m : Nat) (neg : Bool) (e : Int) (sm : Nat) (se : Int) (eps : Nat) : Int :=
  let k : Int := e - (se - eps)
  let n : Int := (m * pow2Num k : Nat)
  rneDivInt (if neg then -n else n) (sm * pow2Den k)

/-- The value lies below code `d` steps from that of value 0: x / (σ × 2^(-ε)) < d, exactly. -/
def belowCode (m : Nat) (neg : Bool) (e : Int) (sm : Nat) (se : Int) (eps : Nat) (d : Int) : Bool :=
  let k : Int := e - (se - eps)
  let n : Int := (m * pow2Num k : Nat)
  decide ((if neg then -n else n) < d * (sm * pow2Den k : Nat))

/-- Quantise one element (R73, R74).  A value that rounds outside the code range clips; of an encoding that is unsigned or has a
zero point, every value below its lowest code does, one that rounds to that code too. -/
def quantOne (int8 sgn asym : Bool) (za : Int) (sigma : Fl) (eps : Nat) (x : Fl) : QVal :=
  let lo := codeLo int8 sgn
  let hi := codeHi int8 sgn
  let zero : Int := if asym then za else 0
  match x, sigma with
  | .nan, _ => ⟨zero, false, true⟩
  | .inf neg, _ => ⟨if neg then lo else hi, true, false⟩
  | .fin neg m e, .fin _ sm se =>
    if sm = 0 then ⟨zero, decide (m ≠ 0), false⟩
    else
      let v := rneScaled m neg e sm se eps + zero
      let low := (asym || !sgn) && belowCode m neg e sm se eps (lo - zero)
      ⟨clampInt lo hi v, decide (v < lo ∨ hi < v) || low, false⟩
  | .fin _ _ _, _ => ⟨zero, false, false⟩

/-- The largest of a list of M8 codes, NaN elements left out before (R71). -/
def maxNat : List Nat → Nat
  | [] => 0
  | a :: t => Nat.max a (maxNat t)

/-- The M8 code that a group's values fold in: of the largest magnitude, or of the largest value (R73, R74). -/
def groupCode (byValue : Bool) (xs : List Fl) : Nat :=
  maxNat ((xs.filter (fun x => !flIsNan x)).map (fun x => m8Encode (if byValue then x else flAbs x)))

/-- Half a window of R72's `win` code 0, 1, 2. -/
def halfWin (win : Nat) : Nat := 2 ^ (win + 1)

end Sys2Proof.Machine
end

