-- ==== Sys2Proof/Machine/VectorUnit.lean ====
section
/-! DEFINITION. Engine commands: how they enter a queue and leave it, and the vector unit's work (R126, R149, R153, R160). -/

namespace Sys2Proof.Machine
open Sys2Proof

/-! ## Entering and leaving an engine queue -/

/-- The marks of R149 that a command sets (`b` true) and its completion clears. -/
def markCmd (t : Thread) (op : Nat) (f : Fields) (b : Bool) : Thread :=
  match op with
  | 0x4B | 0x80 => setPendS t f.d.toNat b
  | 0x49 => setPendP t f.d.toNat b
  | 0x21 => t
  | 0x55 => setPendV (setPendV t f.d.toNat b) f.y.toNat b
  | 0xC1 | 0xC5 => setPendV t f.x.toNat b
  | _ => setPendV t f.d.toNat b

/-- s0 and p0 are never pending: writes to them are discarded. -/
def unmarkZero (t : Thread) : Thread := { t with pendS := t.pendS &&& ~~~ 1#32, pendP := t.pendP &&& ~~~ 1#8 }

/-- The command with the operands it takes at issue. -/
def mkCmd (s : State) (lt : BitVec 12) (t : Thread) (op : Nat) (f : Fields) : Cmd :=
  { op := op, lt := lt, fld := f,
    lanes := if (shapeOf op).lanes then guardLanes t f else BitVec.allOnes 1024,
    hd := readV t f.d.toNat, hx := readV t f.x.toNat, hy := readV t f.y.toNat, hz := readV t f.z.toNat,
    sy := readS t f.y.toNat, sz := readS t f.z.toNat, pz := readP t f.z.toNat,
    step := (berth s t.berth).step, ord := (berth s t.berth).sub.ord.toNat,
    berth := t.berth, client := t.client, modSlot := t.modSlot, model := t.model }

/-- A command enters its engine's queue: marks set, one more outstanding. -/
def enqueue (s : State) (lt : BitVec 12) (t : Thread) (eng op : Nat) (f : Fields) : State :=
  let l := lcluOf lt
  let s1 := setQueue s l eng (queue s l eng ++ [mkCmd s lt t op f])
  setThread s1 lt (unmarkZero (markCmd (addOutst t eng) op f true))

/-- Issue a command to an engine; with the queue full the thread waits (R126). -/
def issueCmd (s : State) (lt : BitVec 12) (eng op : Nat) (f : Fields) (checks : Thread → List (Option Exc)) : State :=
  issue s lt op f checks
    (fun _ => if queueFull s (lcluOf lt) eng then some (.room eng 0) else none)
    (fun s' t => enqueue s' lt t eng op f)

/-- y is a scalar. -/
def ys (f : Fields) : Bool := decide (immBits f 1 1 = 1)

/-- Bytes of the cluster store that a command's handles name: what it reads and writes there (R260).  Of an MGATH's ring the blocks that
land count, each as it lands (DEDUCED, log 179). -/
def cmdStoreBytes (c : Cmd) : Nat :=
  let sh := shapeOf c.op
  let n (on : Bool) (h : BitVec 128) : Nat := if on then vhBytes (vhOf h) else 0
  n (decide (sh.d = .v ∧ c.op ≠ 0xC2)) c.hd + n (decide (sh.x = .v)) c.hx
    + n (decide (sh.y = .v) || (decide (sh.y = .vs) && !ys c.fld)) c.hy + n (decide (sh.z = .v)) c.hz

/-- A command changes its thread, unless its berth has left the thread meanwhile (R127). -/
def modOwn (s : State) (c : Cmd) (g : Thread → Thread) : State :=
  let t := thread s c.lt
  if t.berth = c.berth then setThread s c.lt (g t) else s

/-- A completed command leaves: marks cleared, outstanding less one, unless its berth has left the thread meanwhile (R127); waiting
threads are woken (R114, R153). -/
def retireCmd (s : State) (l eng : Nat) (c : Cmd) : State :=
  wake (modOwn s c (fun t => markCmd (subOutst t eng) c.op c.fld false)) l

/-- The command at the head of an engine's queue completes: its work is done on the state without it (R127). -/
def completeHead (s : State) (l eng : Nat) (run : State → Cmd → State) : State :=
  match queue s l eng with
  | [] => s
  | c :: q => retireCmd (storeMoved (run (setQueue s l eng q) c) c.client (cmdStoreBytes c)) l eng c

/-- Charge engine occupancy, in core cycles, to the command's berth (R255, R259). -/
def chargeEngine (s : State) (c : Cmd) (cycles : Nat) : State :=
  modBerth s c.berth (fun b => { b with engCyc := b.engCyc + cycles })

/-- The model that a command's berth runs (R127, R269). -/
def cmdModel (s : State) (c : Cmd) : ModelDecl := ((module s c.modSlot).desc.models[c.model]?).getD {}

/-! ## Elements -/

/-- Element i of a handle in the store of logical cluster l. -/
def elAt (s : State) (l : Nat) (h : VH) (i : Nat) : El :=
  elOfBits (vhFmt h) h.sgn (vhRead s.store (storeBase (physOf s l)) h i)

/-- Element i read as a float. -/
def flAt (s : State) (l : Nat) (h : VH) (i : Nat) : Fl := elFl (elAt s l h i)

/-- The scalar operand that `ys` selects: FP32 for float formats, the low bits for integer formats (R160). -/
def scalarEl (f : Fmt) (sgn : Bool) (w : BitVec 64) : El :=
  if fmtIsFloat f then .f (flOfBits .fp32 (w.toNat % 2 ^ 32))
  else elOfBits f sgn (w.toNat % 2 ^ fmtBits f)

/-- Operand y at element i: the vector, or the one scalar. -/
def yEl (s : State) (l : Nat) (c : Cmd) (i : Nat) : El :=
  if immBits c.fld 1 1 = 1 then scalarEl (vhFmt (vhOf c.hx)) (vhOf c.hx).sgn c.sy else elAt s l (vhOf c.hy) i

/-- Lane i of the guard: bit i mod 1,024 (R147). -/
def laneOn (c : Cmd) (i : Nat) : Bool := c.lanes.getLsbD (i % 1024)

/-- Count the numeric events of lane results (R76, R83): a result of a formula of several operations counts once in `vec_ovf` when any
of them overflowed (DEDUCED, log 164). -/
def countLanes (s : State) (l : Nat) (rs : List (Option Lane)) : State :=
  let n := physOf s l
  let nan := (rs.filter (fun r => match r with | some x => x.nan | none => false)).length
  let ovf := (rs.filter (fun r => match r with | some x => x.ovf | none => false)).length
  addCtr (addCtr s (cVecNan n) nan) (cVecOvf n) ovf

/-- Write lane results to consecutive elements of a handle, from element 0, and count their events. -/
def writeLanes (s : State) (l : Nat) (h : VH) (rs : List (Option Lane)) : State :=
  countLanes { s with store := vhWriteAll s.store (storeBase (physOf s l)) h 0 (rs.map (fun r => r.map (·.bits))) } l rs

/-- An elementwise command: element i of d takes `g i` where its lane is on. -/
def elementwise (s : State) (c : Cmd) (n : Nat) (g : Nat → Lane) : State :=
  writeLanes s (lcluOf c.lt) (vhOf c.hd) ((upTo n).map (fun i => if laneOn c i then some (g i) else none))

/-- Combine two values of one class: exactly in float, exactly in integers. -/
def elBin (ff : Fl → Fl → Fl) (fi : Int → Int → Int) (a b : El) : El :=
  match a, b with
  | .f x, .f y => .f (ff x y)
  | .i x, .i y => .i (fi x y)
  | .f x, .i y => .f (ff x (flOfInt y))
  | .i x, .f y => .f (ff (flOfInt x) y)

/-- VADD, VSUB, VMUL, VMIN, VMAX: one rounding into d's format, or saturate or wrap by `imm`[0] (R160). -/
def runBin (s : State) (c : Cmd) (ff : Fl → Fl → Fl) (fi : Int → Int → Int) : State :=
  let l := lcluOf c.lt
  let d := vhOf c.hd
  elementwise s c (vhCount d)
    (fun i => laneOf (vhFmt d) d.sgn (decide (immBits c.fld 0 0 = 1)) (elBin ff fi (elAt s l (vhOf c.hx) i) (yEl s l c i)))

/-- VFMA: the exact product plus the FP32 addend, one rounding (R76). -/
def runFma (s : State) (c : Cmd) : State :=
  let l := lcluOf c.lt
  elementwise s c (vhCount (vhOf c.hd))
    (fun i => laneFl .fp32 (flAdd (flMul (flAt s l (vhOf c.hx) i) (elFl (yEl s l c i))) (flAt s l (vhOf c.hz) i)))

/-- VABS: an integer minimum saturates. -/
def runAbs (s : State) (c : Cmd) : State :=
  let l := lcluOf c.lt
  let d := vhOf c.hd
  elementwise s c (vhCount d) (fun i =>
    match elAt s l (vhOf c.hx) i with
    | .f x => laneOf (vhFmt d) d.sgn false (.f (flAbs x))
    | .i v => laneOf (vhFmt d) d.sgn true (.i v.natAbs))

/-- VCVT: format conversion by R76. -/
def runCvt (s : State) (c : Cmd) : State :=
  let l := lcluOf c.lt
  let d := vhOf c.hd
  elementwise s c (vhCount d)
    (fun i => laneOf (vhFmt d) d.sgn (decide (immBits c.fld 0 0 = 1)) (elAt s l (vhOf c.hx) i))

/-- VSEL: p`z` chooses x or y, element by element. -/
def runSel (s : State) (c : Cmd) : State :=
  let l := lcluOf c.lt
  let d := vhOf c.hd
  elementwise s c (vhCount d)
    (fun i => laneOf (vhFmt d) d.sgn false (if c.pz.getLsbD (i % 1024) then elAt s l (vhOf c.hx) i else yEl s l c i))

/-- VFILL: every element takes s`y`, in d's format and sign. -/
def runFill (s : State) (c : Cmd) : State :=
  let d := vhOf c.hd
  elementwise s c (vhCount d) (fun _ => laneOf (vhFmt d) d.sgn false (scalarEl (vhFmt d) d.sgn c.sy))

/-- The comparison of VCMP's `imm`[4:2]; a comparison with a NaN holds for NE alone. -/
def vcmpBy (k : Nat) (a b : El) : Bool :=
  let lt (a b : El) : Bool :=
    match a, b with
    | .i x, .i y => decide (x < y)
    | a, b => flLt (elFl a) (elFl b)
  let eq (a b : El) : Bool :=
    match a, b with
    | .i x, .i y => decide (x = y)
    | a, b => flEq (elFl a) (elFl b)
  match k with
  | 0 => eq a b
  | 1 => !eq a b
  | 2 => lt a b
  | 3 => lt a b || eq a b
  | 4 => lt b a
  | _ => lt b a || eq a b

/-- VCMP: bit i of p`d`; masked lanes keep their bit and bits beyond the count are 0 (R147, R160). -/
def runCmp (s : State) (c : Cmd) : State :=
  let l := lcluOf c.lt
  let n := vhCount (vhOf c.hx)
  let t := thread s c.lt
  let old := readP t c.fld.d.toNat
  let bits := (upTo n).foldl (fun (acc : Nat) i =>
    let b := if laneOn c i then vcmpBy (immBits c.fld 4 2) (elAt s l (vhOf c.hx) i) (yEl s l c i) else old.getLsbD i
    if b then acc + 2 ^ i else acc) 0
  modOwn s c (fun t => writeP t c.fld.d.toNat (BitVec.ofNat 1024 bits))

/-! ## Reductions (R76, R160) -/

/-- A partial float sum with its overflow. -/
def sumPair (a b : Option (Fl × Bool)) : Option (Fl × Bool) :=
  match a, b with
  | some (x, o), some (y, p) =>
    let e := flAdd x y
    let r := roundFl .fp32 e
    some (flOfBits .fp32 r.bits, o || p || r.ovf)
  | some v, none => some v
  | none, v => v

/-- The better of two candidates of an index reduction; the first keeps a tie. -/
def bestPair (better : El → El → Bool) (a b : Option (Nat × El)) : Option (Nat × El) :=
  match a, b with
  | some (i, x), some (j, y) => if better y x then some (j, y) else some (i, x)
  | some v, none => some v
  | none, v => v

/-- Order of values in a reduction: negative zero below positive zero. -/
def elBelow (a b : El) : Bool :=
  match a, b with
  | .i x, .i y => decide (x < y)
  | a, b => flBelow (elFl a) (elFl b)

/-- A NaN element. -/
def elIsNan : El → Bool
  | .f x => flIsNan x
  | .i _ => false

/-- The result of a reduction: its value, NaN and overflow. -/
structure RedVal where
  val : El
  nan : Bool
  ovf : Bool
deriving DecidableEq, Repr

/-- Reduce elements (index within the reduction, value), `none` where the lane is off (R160). -/
def reduce (k : Nat) (f : Fmt) (sgn : Bool) (xs : List (Option (Nat × El))) : RedVal :=
  let live := xs.filterMap id
  match k with
  | 0 =>
    if fmtIsFloat f then
      match treeReduce sumPair none (xs.map (fun o => o.map (fun p => (elFl p.2, false)))) with
      | some (v, o) => ⟨.f v, flIsNan v, o⟩
      | none => ⟨.f (.fin false 0 0), false, false⟩
    else ⟨.i ((live.map (fun p => elInt p.2)).foldl (· + ·) 0), false, false⟩
  | 1 | 2 =>
    if live.any (fun p => elIsNan p.2) then ⟨.f .nan, true, false⟩
    else
      match treeReduce (bestPair (fun a b => if k = 1 then elBelow b a else elBelow a b)) none xs with
      | some (_, v) => ⟨v, false, false⟩
      | none =>
        ⟨if fmtIsFloat f then .f (.inf (decide (k = 1)))
         else .i (if k = 1 then intLo f sgn else intHi f sgn), false, false⟩
  | _ =>
    let ys := xs.map (fun o => match o with
      | some p => if elIsNan p.2 then none else some p
      | none => none)
    match treeReduce (bestPair (fun a b => if k = 3 then elBelow b a else elBelow a b)) none ys with
    | some (i, _) => ⟨.i i, false, false⟩
    | none => ⟨.i (2 ^ 64 - 1 : Nat), false, false⟩

/-- How VRED writes its result to s`d`: floats as their FP32 pattern, integers modulo 2^64. -/
def redWord (r : RedVal) : BitVec 64 :=
  match r.val with
  | .f x => BitVec.ofNat 64 (roundFl .fp32 x).bits
  | .i v => BitVec.ofInt 64 v

/-- VRED (R160). -/
def runRed (s : State) (c : Cmd) : State :=
  let l := lcluOf c.lt
  let n := physOf s l
  let x := vhOf c.hx
  let r := reduce (immBits c.fld 4 2) (vhFmt x) x.sgn
    ((upTo (vhCount x)).map (fun i => if laneOn c i then some (i, elAt s l x i) else none))
  let s1 := modOwn s c (fun t => writeS t c.fld.d.toNat (redWord r))
  addCtr (addCtr s1 (cVecNan n) (if r.nan then 1 else 0)) (cVecOvf n) (if r.ovf then 1 else 0)

/-- VREDR: one result for each row, in d's format. -/
def runRedr (s : State) (c : Cmd) : State :=
  let l := lcluOf c.lt
  let x := vhOf c.hx
  let d := vhOf c.hd
  writeLanes s l d ((upTo x.rows).map (fun r =>
    let v := reduce (immBits c.fld 4 2) (vhFmt x) x.sgn
      ((upTo x.len).map (fun j => if laneOn c (r * x.len + j) then some (j, elAt s l x (r * x.len + j)) else none))
    let o := laneOf (vhFmt d) d.sgn false v.val
    some { o with ovf := o.ovf || v.ovf }))

/-- FP32 sum of values by the pairwise tree. -/
def treeSum (xs : List Fl) : Fl := (trSum (xs.map (fun x => ⟨x, false⟩))).v

/-- A result stored in a format, counted as one overflowing lane-result when any operation of its formula overflowed (R76). -/
def laneTr (f : Fmt) (sgn : Bool) (x : Tr) : Lane :=
  let r := laneOf f sgn false (.f x.v)
  { r with ovf := r.ovf || x.ovf }

/-- Element i as the operand of a formula. -/
def trAt (s : State) (l : Nat) (h : VH) (i : Nat) : Tr := ⟨flAt s l h i, false⟩

/-- VMV (R160): rows against y, or y against columns.  R76 fixes the tree of the sum and not where the products round: each product
rounds to FP32 (DEDUCED, log 159). -/
def runMv (s : State) (c : Cmd) : State :=
  let l := lcluOf c.lt
  let x := vhOf c.hx
  let y := vhOf c.hy
  let byRow := decide (immBits c.fld 2 2 = 0)
  let n := if byRow then x.rows else x.len
  writeLanes s l (vhOf c.hd) ((upTo n).map (fun r =>
    some (laneTr .fp32 true (trSum ((upTo (if byRow then x.len else x.rows)).map (fun i =>
      let xi := if byRow then r * x.len + i else i * x.len + r
      trMul (trAt s l x xi) (trAt s l y i)))))))

/-- The constant ε that VNORM and VRMS carry in `imm`. -/
def epsImm (c : Cmd) : Fl := flOfBits .fp32 c.fld.imm.toNat

/-- VNORM: each row to zero mean and unit variance, then × y + z; one FP32 rounding per operation. -/
def runNorm (s : State) (c : Cmd) : State :=
  let l := lcluOf c.lt
  let x := vhOf c.hx
  let d := vhOf c.hd
  writeLanes s l d ((upTo (vhCount d)).map (fun i =>
    let r := i / x.len
    let row := (upTo x.len).map (fun j => trAt s l x (r * x.len + j))
    let n : Tr := ⟨flOfInt x.len, false⟩
    let mean := trDiv (trSum row) n
    let var := trDiv (trSum (row.map (fun v => let e := trSub v mean; trMul e e))) n
    let sd := trSqrt (trAdd var ⟨epsImm c, false⟩)
    let u := trMul (trDiv (trSub (trAt s l x i) mean) sd) (trAt s l (vhOf c.hy) (i % x.len))
    some (laneTr (vhFmt d) d.sgn ⟨flAdd u.v (flAt s l (vhOf c.hz) (i % x.len)), u.ovf⟩)))

/-- VRMS: each row divided by its root mean square, then × y. -/
def runRms (s : State) (c : Cmd) : State :=
  let l := lcluOf c.lt
  let x := vhOf c.hx
  let d := vhOf c.hd
  writeLanes s l d ((upTo (vhCount d)).map (fun i =>
    let r := i / x.len
    let row := (upTo x.len).map (fun j => trAt s l x (r * x.len + j))
    let mq := trDiv (trSum (row.map (fun v => trMul v v))) ⟨flOfInt x.len, false⟩
    let u := trDiv (trAt s l x i) (trSqrt (trAdd mq ⟨epsImm c, false⟩))
    some (laneTr (vhFmt d) d.sgn ⟨flMul u.v (flAt s l (vhOf c.hy) (i % x.len)), u.ovf⟩)))

/-- Count a command that evaluated an empty gate table (R191). -/
def countEmpty (s : State) (c : Cmd) (ixs : List Nat) : State :=
  let m := cmdModel s c
  if ixs.any (fun i => (gateOf m i).isNone) then bump s (cPwlEmpty (physOf s (lcluOf c.lt))) else s

/-- VPWL (R190). -/
def runPwl (s : State) (c : Cmd) : State :=
  let l := lcluOf c.lt
  let d := vhOf c.hd
  let g := immBits c.fld 5 2
  let m := cmdModel s c
  countEmpty (elementwise s c (vhCount d)
    (fun i => laneTr (vhFmt d) d.sgn (gateTrOf m g (trAt s l (vhOf c.hx) i)))) c [g]

/-- VRECIP: 1/x or 1/√x, an FP32 value within 2 ulp of the exact one (R76). -/
def runRecip (s : State) (c : Cmd) : State :=
  let l := lcluOf c.lt
  let s1 := elementwise s c (vhCount (vhOf c.hd)) (fun i =>
    let x := flAt s l (vhOf c.hx) i
    let exact := if immBits c.fld 2 2 = 0 then flRecip32 x else flRsqrt32 x
    let bits := (roundFl .fp32 exact).bits
    let near := match exact with
      | .fin _ m _ => if m = 0 then bits else near2ulp (Config.freeUlp s.free i).toNat bits
      | _ => bits
    let inf : Bool := match exact, x with
      | .inf _, .fin _ m _ => decide (m ≠ 0)
      | _, _ => false
    ⟨near, flIsNan exact, inf⟩)
  useFree s1

/-- VLUT: row s`y` of the table in x, by the conversion rules of R76. -/
def runLut (s : State) (c : Cmd) : State :=
  let l := lcluOf c.lt
  let x := vhOf c.hx
  let d := vhOf c.hd
  writeLanes s l d ((upTo x.len).map (fun j =>
    some (laneOf (vhFmt d) d.sgn false (elAt s l x (c.sy.toNat * x.len + j)))))

/-- VGRU (R188). -/
def runGru (s : State) (c : Cmd) : State :=
  let l := lcluOf c.lt
  let d := vhOf c.hd
  let n := vhCount d
  let m := cmdModel s c
  let gs := immBits c.fld 5 2
  let gt := immBits c.fld 9 6
  let X (i : Nat) : Tr := trAt s l (vhOf c.hx) i
  let Y (i : Nat) : Tr := trAt s l (vhOf c.hy) i
  countEmpty (writeLanes s l d ((upTo n).map (fun i =>
    let r := gateTrOf m gs (trAdd (X i) (Y i))
    let z := gateTrOf m gs (trAdd (X (n + i)) (Y (n + i)))
    let nn := gateTrOf m gt (trAdd (Y (2 * n + i)) (trMul r (X (2 * n + i))))
    some (laneTr (vhFmt d) d.sgn
      (trAdd (trMul (trSub ⟨flOfInt 1, false⟩ z) nn) (trMul z (trAt s l (vhOf c.hz) i))))))) c [gs, gt]

/-- VLSTM (R189): c is written back to y and h to d. -/
def runLstm (s : State) (c : Cmd) : State :=
  let l := lcluOf c.lt
  let d := vhOf c.hd
  let y := vhOf c.hy
  let n := vhCount d
  let m := cmdModel s c
  let gs := immBits c.fld 5 2
  let gt := immBits c.fld 9 6
  let X (i : Nat) : Tr := trAt s l (vhOf c.hx) i
  let cell (i : Nat) : Tr :=
    trAdd (trMul (gateTrOf m gs (X (n + i))) (trAt s l y i))
      (trMul (gateTrOf m gs (X i)) (gateTrOf m gt (X (2 * n + i))))
  let hidden (i : Nat) : Tr := trMul (gateTrOf m gs (X (3 * n + i))) (gateTrOf m gt (cell i))
  let cs := (upTo n).map (fun i => some (laneTr (vhFmt y) y.sgn (cell i)))
  let hs := (upTo n).map (fun i => some (laneTr (vhFmt d) d.sgn (hidden i)))
  countEmpty (writeLanes (writeLanes s l y cs) l d hs) c [gs, gt]

end Sys2Proof.Machine
end

