-- ==== Sys2Proof/Machine/Quant.lean ====
section
/-! DEFINITION. VQUANT: quantisation descriptors, state blocks and scale words (R68, R73, R161, R162). -/

namespace Sys2Proof.Machine
open Sys2Proof

/-- A quantisation descriptor, field by field (R161). -/
structure QD where
  win : Nat
  head : Nat
  group : Nat
  int8 : Bool
  sgn : Bool
  asym : Bool
  za : Int
  lambda : Nat
  rows : Nat
  eps : Nat
  sigma : Nat
  /-- the M8 seed codes of groups 0–15, group 0 lowest (R72, R161) -/
  seed : Nat
  resv : Bool
deriving DecidableEq, Repr

/-- The fields of the 32 bytes of a descriptor. -/
def qdOf (w : Nat) : QD :=
  { win := bitsOf w 1 0, head := bitsOf w 3 2, group := bitsOf w 5 4, int8 := decide (bitsOf w 6 6 = 1),
    sgn := decide (bitsOf w 7 7 = 1), asym := decide (bitsOf w 8 8 = 1), za := signedOf 16 (bitsOf w 31 16),
    lambda := bitsOf w 47 32, rows := bitsOf w 63 48, eps := bitsOf w 127 64, sigma := bitsOf w 143 128, seed := bitsOf w 191 64,
    resv := decide (bitsOf w 15 9 ≠ 0 ∨ bitsOf w 255 192 ≠ 0 ∨ bitsOf w 5 4 = 3
      ∨ (bitsOf w 1 0 = 3 ∧ bitsOf w 191 144 ≠ 0)) }

/-- Group size, number of groups, and qpos of R73. -/
def qdG (q : QD) : Nat := 32 * 2 ^ q.group
def qdGroups (q : QD) : Nat := ceilDiv q.rows (qdG q)
def qdZa (q : QD) : Int := if q.asym then q.za else 0
def qdPos (q : QD) : Nat := (codeHi q.int8 q.sgn - qdZa q).toNat

/-- The loader's check of a listed descriptor (R161). -/
def qdValid (q : QD) : Bool :=
  !q.resv && decide (1 ≤ q.rows ∧ q.rows ≤ 512)
  && (!q.asym || decide (codeLo q.int8 q.sgn ≤ q.za ∧ q.za ≤ codeHi q.int8 q.sgn ∧ 1 ≤ codeHi q.int8 q.sgn - q.za))
  && (decide (q.win ≠ 3) || decide (q.sigma = 0) ||
      decide (bitsOf q.sigma 15 15 = 0 ∧ bitsOf q.sigma 14 7 ≠ 0 ∧ bitsOf q.sigma 14 7 ≠ 255))

/-- The descriptor that a command names, read from the module window. -/
def qdAt (s : State) (l a : Nat) : QD := qdOf (storeLe s l a 32)

/-- Address of the descriptor and the mode, from `imm` (R161, R162). -/
def qAddr (f : Fields) : Nat := immBits f 24 0
def qMode (f : Fields) : Nat := immBits f 26 25

/-- The scale a state block gives: σ and the running maxima of its groups (R73); with `win` 3 they come from the
descriptor. -/
def qMaxima (s : State) (l : Nat) (q : QD) (blk : Nat) : List Nat :=
  (upTo (qdGroups q)).map (fun g =>
    Nat.max (storeLe s l (blk + g) 1) (storeLe s l (blk + qdGroups q + g) 1))

/-- σ in force. -/
def qSigma (s : State) (l : Nat) (q : QD) (blk : Nat) : Fl :=
  if q.win = 3 then flOfBits .bf16 q.sigma
  else sigmaOf (headroom4 q.head) (maxNat (qMaxima s l q blk)) (qdPos q)

/-- ε[g] in force. -/
def qEps (s : State) (l : Nat) (q : QD) (blk g : Nat) : Nat :=
  if q.win = 3 then bitsOf q.eps (4 * g + 3) (4 * g)
  else epsOf (qSigma s l q blk) (headroom4 q.head) ((qMaxima s l q blk)[g]?.getD 0) (qdPos q)

/-- BF16 of λ × σ, one rounding to nearest even. -/
def lamSigma (q : QD) (sigma : Fl) : Nat := (roundFl .bf16 (flMul (flOfBits .bf16 q.lambda) sigma)).bits

/-- The 16 bytes of a scale word (R68). -/
def scaleBytes (eps delta : Nat) (za : Int) : List (BitVec 8) :=
  natLe eps 8 ++ natLe delta 2 ++ natLe (wrapOf 16 za) 2 ++ natLe 0 4

/-- The exponents of a scale word after those of n groups: R73 gives no value for groups that the layer does not have. -/
def openEps (s : State) (n : Nat) : Nat := (Config.freeWord s.free).toNat / 16 ^ n * 16 ^ n

/-- Fold new group codes into a state block: Hc takes the maximum, the phase advances, and B is replaced when the
half-window is full (R73). -/
def foldBlock (s : State) (l : Nat) (q : QD) (blk : Nat) (codes : List Nat) : State :=
  let n := qdGroups q
  let hc := (upTo n).map (fun g => Nat.max (storeLe s l (blk + n + g) 1) (codes[g]?.getD 0))
  let phase := storeLe s l (blk + 2 * n) 1 + 1
  if halfWin q.win ≤ phase then
    storePut s l blk (hc.map (BitVec.ofNat 8 ·) ++ List.replicate (n + 1) 0)
  else storePut s l (blk + n) (hc.map (BitVec.ofNat 8 ·) ++ [BitVec.ofNat 8 phase])

/-- The first command of a berth that names a state block of `len` bytes at `blk`, all of them 0, puts the block's seed at `off`:
the block's place is first known here, and a template, a program or a WRITE_STATE that wrote the block has its way (R73, R180). -/
def placeSeed (s : State) (c : Cmd) (blk len off : Nat) (seed : List (BitVec 8)) : State :=
  let v := berth s c.berth
  let o := blk - v.winBase
  if v.seedDone || v.seeded.contains o then s
  else
    let s1 := setBerth s c.berth { v with seeded := v.seeded ++ [o] }
    if (storeBytes s (lcluOf c.lt) blk len).all (fun b => decide (b = 0)) then storePut s1 (lcluOf c.lt) (blk + off) seed else s1

/-- B of a VQUANT state block takes `seed` before the layer's first quantisation (R72, R73). -/
def quantSeed (s : State) (c : Cmd) : State :=
  let q := qdAt s (lcluOf c.lt) (qAddr c.fld)
  if q.win = 3 then s else placeSeed s c c.sy.toNat (2 * qdGroups q + 1) 0 (natLe q.seed (qdGroups q))

/-- The elements of group g of a list of values. -/
def groupOf {α : Type} (G g : Nat) (xs : List α) : List α := (xs.drop (g * G)).take G

/-- Mode 0: quantise v`x` into v`d`, write the scale word, fold the maxima (R73, R162). -/
def quant0 (s : State) (c : Cmd) : State :=
  let l := lcluOf c.lt
  let n := physOf s l
  let q := qdAt s l (qAddr c.fld)
  let blk := c.sy.toNat
  let relu := decide (immBits c.fld 27 27 = 1)
  let xs := (upTo q.rows).map (fun i =>
    let v := flAt s l (vhOf c.hx) i
    if relu && flLt v (.fin false 0 0) then .fin false 0 0 else v)
  let sigma := qSigma s l q blk
  let qs := (upTo q.rows).map (fun i =>
    quantOne q.int8 q.sgn q.asym q.za sigma (qEps s l q blk (i / qdG q)) ((xs[i]?).getD (.fin false 0 0)))
  let d := vhOf c.hd
  let eps := if q.win = 3 then q.eps else
    (upTo (qdGroups q)).foldl (fun a g => a + qEps s l q blk g * 16 ^ g) (openEps s (qdGroups q))
  let codes := qs.map (fun v => some (wrapOf (fmtBits (vhFmt d)) v.code))
  let s1 : State := { s with store := vhWriteAll s.store (storeBase n) d 0 codes }
  let s2 := storePut s1 l c.sz.toNat (scaleBytes eps (lamSigma q sigma) q.za)
  let s3 := if q.win = 3 then s2 else
    foldBlock s2 l q blk ((upTo (qdGroups q)).map (fun g => groupCode q.asym (groupOf (qdG q) g xs)))
  addCtr (addCtr (useFree s3) (cActClip n) (qs.filter (·.clip)).length) (cVecNan n) (qs.filter (·.nan)).length

/-- Mode 1: the producer's δ is divided by σc, and the consumer's scale word takes ε = 0 and λ × σc (R162). -/
def quant1 (s : State) (c : Cmd) : State :=
  let l := lcluOf c.lt
  let q := qdAt s l (qAddr c.fld)
  let sigma := qSigma s l q c.sy.toNat
  let pa := (vhOf c.hx).addr
  let delta := flOfBits .bf16 (storeLe s l (pa + 8) 2)
  let quo := match delta, sigma with
    | .fin a m e, .fin b k g =>
      if k = 0 then (if m = 0 then nanBits .bf16 else infBits .bf16 (a != b))
      else (roundRat .bf16 (a != b) (m * pow2Num (e - g)) (k * pow2Den (e - g))).bits
    | .inf a, .fin b _ _ => infBits .bf16 (a != b)
    | _, _ => nanBits .bf16
  let s1 := storePut s l (pa + 8) (natLe quo 2)
  storePut s1 l c.sz.toNat (scaleBytes 0 (lamSigma q sigma) q.za)

/-- Mode 2: Hc is folded with the largest drained magnitude, less `za` when asymmetric, times σc (R162). -/
def quant2 (s : State) (c : Cmd) : State :=
  let l := lcluOf c.lt
  let q := qdAt s l (qAddr c.fld)
  let blk := c.sy.toNat
  if q.win = 3 then s else
  let sigma := qSigma s l q blk
  let vals := (upTo q.rows).map (fun i => elInt (elAt s l (vhOf c.hx) i))
  let codes := (upTo (qdGroups q)).map (fun g =>
    groupCode q.asym ((groupOf (qdG q) g vals).map (fun v => flMul (flOfInt (v - qdZa q)) sigma)))
  foldBlock s l q blk codes

/-- VQUANT by its mode. -/
def runQuant (s : State) (c : Cmd) : State :=
  match qMode c.fld with
  | 0 => quant0 (quantSeed s c) c
  | 1 => quant1 (quantSeed s c) c
  | _ => quant2 (quantSeed s c) c

/-- Lane-operations of a VQUANT (R162). -/
def quantOps (s : State) (l : Nat) (f : Fields) (hx : BitVec 128) : Nat :=
  let q := qdAt s l (qAddr f)
  match qMode f with
  | 1 => 2 * qdGroups q
  | 2 => if q.win = 3 then 0 else 2 * vhCount (vhOf hx)
  | _ => 2 * vhCount (vhOf hx)

/-- Does a handle hold `rows` elements of the activation format? -/
def isActFmt (q : QD) (h : VH) : Bool :=
  decide (vhFmt h = (if q.int8 then .int8 else .int4) ∧ h.sgn = q.sgn ∧ vhCount h = q.rows)

/-- The checks of VQUANT (R162): handles by mode, descriptor, state block and scale word.  What a descriptor asks of the operands is asked
of one that stands aligned in the module window. -/
def quantChecks (s : State) (lt : BitVec 12) (f : Fields) (t : Thread) : List (Option Exc) :=
  let l := lcluOf lt
  let a := qAddr f
  let q := qdAt s l a
  let hx := readV t f.x.toNat
  let hd := readV t f.d.toNat
  let x := vhOf hx
  let there := decide (a % 32 = 0) && inWin t.mw ⟨a, 32⟩
  let fits (ok : Bool) (e : Exc) : Option Exc := if there then chk ok e else none
  let blk : Win := ⟨(readS t f.y.toNat).toNat, 2 * qdGroups q + 1⟩
  let scale := (readS t f.z.toNat).toNat
  let common := [chk (decide (a % 32 = 0)) .misaligned, chk (inWin t.mw ⟨a, 32⟩) .storeBounds,
    chk ((modelOf s t).quants.any (fun o => decide (t.mw.base + o = a))) .engineLimit,
    fits (decide (qdGroups q ≤ 16)) .engineLimit,
    chk (decide (scale % 16 = 0)) .misaligned, chkWrite t ⟨scale, 16⟩,
    if !there || decide (q.win = 3 ∧ qMode f ≠ 2) then none else chkWrite t blk]
  match qMode f with
  | 0 => common ++ chkVRead t hx ++ chkVWrite t hd ++
      [chk (fmtIsFloat (vhFmt x)) .badHandle, fits (decide (vhCount x = q.rows) && isActFmt q (vhOf hd)) .badHandle]
  | 1 => common ++
      [chk (decide (hx.toNat = x.addr)) .badHandle, chk (decide (x.addr % 16 = 0)) .misaligned, chkWrite t ⟨x.addr, 16⟩]
  | _ => common ++ chkVRead t hx ++ [fits (isActFmt q x) .badHandle]

end Sys2Proof.Machine
end

