-- ==== Sys2Proof/Machine/Vector.lean ====
section
/-! DEFINITION. The vector instructions: their checks at issue (R160) and the completion of the head command. -/

namespace Sys2Proof.Machine
open Sys2Proof

/-- Formats that agree: all float, or all integer. -/
def sameClass (hs : List VH) : Bool := hs.all (fun h => fmtIsFloat (vhFmt h)) || hs.all (fun h => !fmtIsFloat (vhFmt h))

/-- The handles are BF16 or FP16; FP32; BF16 or FP32. -/
def isHalf (h : VH) : Bool := decide (vhFmt h = .bf16 ∨ vhFmt h = .fp16)
def isFp32 (h : VH) : Bool := decide (vhFmt h = .fp32)
def isB32 (h : VH) : Bool := decide (vhFmt h = .bf16 ∨ vhFmt h = .fp32)

/-- Element counts agree. -/
def sameCount (hs : List VH) : Bool :=
  match hs with
  | [] => true
  | h :: t => t.all (fun g => decide (vhCount g = vhCount h))

/-- The lane-operation limit of a command (R160). -/
def chkOps (n : Nat) : Option Exc := chk (decide (n ≤ 32768)) .engineLimit

/-- Operand handles of a thread. -/
def hD (t : Thread) (f : Fields) : VH := vhOf (readV t f.d.toNat)
def hX (t : Thread) (f : Fields) : VH := vhOf (readV t f.x.toNat)
def hY (t : Thread) (f : Fields) : VH := vhOf (readV t f.y.toNat)
def hZ (t : Thread) (f : Fields) : VH := vhOf (readV t f.z.toNat)

/-- Checks of the y operand when it is a vector. -/
def chkY (t : Thread) (f : Fields) : List (Option Exc) := if ys f then [] else chkVRead t (readV t f.y.toNat)

/-- The vector handles among d, x and y. -/
def dxy (t : Thread) (f : Fields) : List VH := [hD t f, hX t f] ++ (if ys f then [] else [hY t f])

/-- Checks of an elementwise d ← x, y command of one class, with its lane-operations per element.  INT4 vectors are taken as R117 and
R160 take them, though R64 names array weights, activations and drains only as INT4's places (DEDUCED, log 158). -/
def binChecks (mul : Bool) (f : Fields) (t : Thread) : List (Option Exc) :=
  chkVWrite t (readV t f.d.toNat) ++ chkVRead t (readV t f.x.toNat) ++ chkY t f ++
  [chk (sameClass (dxy t f)) .badHandle, chk (sameCount (dxy t f)) .badHandle,
   chkOps ((if mul && (dxy t f).any isFp32 then 2 else 1) * vhCount (hX t f))]

/-- Lane-operations of a queued command (R160). -/
def cmdOps (s : State) (c : Cmd) : Nat :=
  let d := vhOf c.hd
  let x := vhOf c.hx
  match c.op with
  | 0x42 => (if isFp32 d || isFp32 x || (!ys c.fld && isFp32 (vhOf c.hy)) then 2 else 1) * vhCount d
  | 0x49 | 0x4B | 0x4C | 0x4D => vhCount x
  | 0x4E | 0x4F => 3 * vhCount x
  | 0x51 => 4 * vhCount d
  | 0x52 => quantOps s (lcluOf c.lt) c.fld c.hx
  | 0x53 => x.len
  | 0x54 => 4 * vhCount d
  | 0x55 => 5 * vhCount d
  | _ => vhCount d

def execVadd (lt : BitVec 12) (f : Fields) (s : State) : Host.Outcome State Fault Refusal :=
  .next (issueCmd s lt 1 0x40 f (binChecks false f))
def execVsub (lt : BitVec 12) (f : Fields) (s : State) : Host.Outcome State Fault Refusal :=
  .next (issueCmd s lt 1 0x41 f (binChecks false f))
def execVmul (lt : BitVec 12) (f : Fields) (s : State) : Host.Outcome State Fault Refusal :=
  .next (issueCmd s lt 1 0x42 f (binChecks true f))
/-- The checks of VFMA (R150, R160). -/
def vfmaChecks (f : Fields) (t : Thread) : List (Option Exc) :=
  chkVWrite t (readV t f.d.toNat) ++ chkVRead t (readV t f.x.toNat) ++ chkY t f ++ chkVRead t (readV t f.z.toNat) ++
  [chk (isHalf (hX t f) && (ys f || isHalf (hY t f)) && isFp32 (hZ t f) && isFp32 (hD t f)) .badHandle,
   chk (sameCount (hZ t f :: dxy t f)) .badHandle, chkOps (vhCount (hD t f))]

def execVfma (lt : BitVec 12) (f : Fields) (s : State) : Host.Outcome State Fault Refusal :=
  .next (issueCmd s lt 1 0x43 f (vfmaChecks f))
def execVmin (lt : BitVec 12) (f : Fields) (s : State) : Host.Outcome State Fault Refusal :=
  .next (issueCmd s lt 1 0x44 f (binChecks false f))
def execVmax (lt : BitVec 12) (f : Fields) (s : State) : Host.Outcome State Fault Refusal :=
  .next (issueCmd s lt 1 0x45 f (binChecks false f))

/-- Checks of a d ← x command with any formats. -/
def unChecks (per : Nat) (f : Fields) (t : Thread) : List (Option Exc) :=
  chkVWrite t (readV t f.d.toNat) ++ chkVRead t (readV t f.x.toNat) ++
  [chk (sameCount [hD t f, hX t f]) .badHandle, chkOps (per * vhCount (hD t f))]

def execVabs (lt : BitVec 12) (f : Fields) (s : State) : Host.Outcome State Fault Refusal :=
  .next (issueCmd s lt 1 0x46 f (unChecks 1 f))
def execVcvt (lt : BitVec 12) (f : Fields) (s : State) : Host.Outcome State Fault Refusal :=
  .next (issueCmd s lt 1 0x47 f (unChecks 1 f))
def execVsel (lt : BitVec 12) (f : Fields) (s : State) : Host.Outcome State Fault Refusal :=
  .next (issueCmd s lt 1 0x48 f (binChecks false f))
/-- The checks of VCMP (R150, R160). -/
def vcmpChecks (f : Fields) (t : Thread) : List (Option Exc) :=
  let hs := hX t f :: (if ys f then [] else [hY t f])
  chkVRead t (readV t f.x.toNat) ++ chkY t f ++
  [chk (sameClass hs) .badHandle, chk (sameCount hs) .badHandle,
   chk (decide (vhCount (hX t f) ≤ 1024)) .engineLimit]

def execVcmp (lt : BitVec 12) (f : Fields) (s : State) : Host.Outcome State Fault Refusal :=
  .next (issueCmd s lt 1 0x49 f (vcmpChecks f))
/-- The checks of VFILL (R150, R160). -/
def vfillChecks (f : Fields) (t : Thread) : List (Option Exc) :=
  chkVWrite t (readV t f.d.toNat) ++ [chkOps (vhCount (hD t f))]

def execVfill (lt : BitVec 12) (f : Fields) (s : State) : Host.Outcome State Fault Refusal :=
  .next (issueCmd s lt 1 0x4A f (vfillChecks f))
/-- The checks of VRED (R150, R160). -/
def vredChecks (f : Fields) (t : Thread) : List (Option Exc) :=
  chkVRead t (readV t f.x.toNat) ++ [chkOps (vhCount (hX t f))]

def execVred (lt : BitVec 12) (f : Fields) (s : State) : Host.Outcome State Fault Refusal :=
  .next (issueCmd s lt 1 0x4B f (vredChecks f))
/-- The checks of VREDR (R150, R160). -/
def vredrChecks (f : Fields) (t : Thread) : List (Option Exc) :=
  chkVWrite t (readV t f.d.toNat) ++ chkVRead t (readV t f.x.toNat) ++
  [chk (decide (vhCount (hD t f) = (hX t f).rows)) .badHandle, chkOps (vhCount (hX t f))]

def execVredr (lt : BitVec 12) (f : Fields) (s : State) : Host.Outcome State Fault Refusal :=
  .next (issueCmd s lt 1 0x4C f (vredrChecks f))
/-- The checks of VMV (R150, R160). -/
def vmvChecks (f : Fields) (t : Thread) : List (Option Exc) :=
  let x := hX t f
  let byRow := decide (immBits f 2 2 = 0)
  chkVWrite t (readV t f.d.toNat) ++ chkVRead t (readV t f.x.toNat) ++ chkVRead t (readV t f.y.toNat) ++
  [chk (isHalf x && isHalf (hY t f) && isFp32 (hD t f)) .badHandle,
   chk (decide (vhCount (hY t f) = (if byRow then x.len else x.rows) ∧
     vhCount (hD t f) = (if byRow then x.rows else x.len))) .badHandle,
   chkOps (vhCount x)]

def execVmv (lt : BitVec 12) (f : Fields) (s : State) : Host.Outcome State Fault Refusal :=
  .next (issueCmd s lt 1 0x4D f (vmvChecks f))
/-- The checks of VNORM (R150, R160). -/
def vnormChecks (f : Fields) (t : Thread) : List (Option Exc) :=
  let x := hX t f
  chkVWrite t (readV t f.d.toNat) ++ chkVRead t (readV t f.x.toNat) ++ chkVRead t (readV t f.y.toNat) ++
  chkVRead t (readV t f.z.toNat) ++
  [chk (fmtIsFloat (vhFmt x) && fmtIsFloat (vhFmt (hD t f)) && decide (vhFmt (hY t f) = .bf16 ∧ vhFmt (hZ t f) = .bf16))
     .badHandle,
   chk (decide (vhCount (hD t f) = vhCount x ∧ vhCount (hY t f) = x.len ∧ vhCount (hZ t f) = x.len)) .badHandle,
   chkOps (3 * vhCount x)]

def execVnorm (lt : BitVec 12) (f : Fields) (s : State) : Host.Outcome State Fault Refusal :=
  .next (issueCmd s lt 1 0x4E f (vnormChecks f))
/-- The checks of VRMS (R150, R160). -/
def vrmsChecks (f : Fields) (t : Thread) : List (Option Exc) :=
  let x := hX t f
  chkVWrite t (readV t f.d.toNat) ++ chkVRead t (readV t f.x.toNat) ++ chkVRead t (readV t f.y.toNat) ++
  [chk (fmtIsFloat (vhFmt x) && fmtIsFloat (vhFmt (hD t f)) && decide (vhFmt (hY t f) = .bf16)) .badHandle,
   chk (decide (vhCount (hD t f) = vhCount x ∧ vhCount (hY t f) = x.len)) .badHandle,
   chkOps (3 * vhCount x)]

def execVrms (lt : BitVec 12) (f : Fields) (s : State) : Host.Outcome State Fault Refusal :=
  .next (issueCmd s lt 1 0x4F f (vrmsChecks f))
/-- The checks of VPWL (R150, R160). -/
def vpwlChecks (f : Fields) (t : Thread) : List (Option Exc) :=
  unChecks 1 f t ++
    [chk (fmtIsFloat (vhFmt (hX t f)) && fmtIsFloat (vhFmt (hD t f))) .badHandle]

def execVpwl (lt : BitVec 12) (f : Fields) (s : State) : Host.Outcome State Fault Refusal :=
  .next (issueCmd s lt 1 0x50 f (vpwlChecks f))
/-- The checks of VRECIP (R150, R160). -/
def vrecipChecks (f : Fields) (t : Thread) : List (Option Exc) :=
  unChecks 4 f t ++ [chk (isFp32 (hD t f)) .badHandle]

def execVrecip (lt : BitVec 12) (f : Fields) (s : State) : Host.Outcome State Fault Refusal :=
  .next (issueCmd s lt 1 0x51 f (vrecipChecks f))
/-- The checks of VQUANT (R150, R160). -/
def vquantChecks (s : State) (lt : BitVec 12) (f : Fields) (t : Thread) : List (Option Exc) :=
  quantChecks s lt f t ++
    [chkOps (quantOps s (lcluOf lt) f (readV t f.x.toNat))]

/-- VQUANT; in mode 2 a non-zero `d` is an encoding fault (R162). -/
def execVquant (lt : BitVec 12) (f : Fields) (s : State) : Host.Outcome State Fault Refusal :=
  .next (issueCmd s lt 1 0x52 f (vquantChecks s lt f))
/-- The checks of VLUT (R150, R160). -/
def vlutChecks (f : Fields) (t : Thread) : List (Option Exc) :=
  chkVWrite t (readV t f.d.toNat) ++ chkVRead t (readV t f.x.toNat) ++
  [chk (decide (vhCount (hD t f) = (hX t f).len)) .badHandle,
   chk (decide ((readS t f.y.toNat).toNat < (hX t f).rows)) .engineLimit, chkOps (hX t f).len]

def execVlut (lt : BitVec 12) (f : Fields) (s : State) : Host.Outcome State Fault Refusal :=
  .next (issueCmd s lt 1 0x53 f (vlutChecks f))
/-- The checks of VGRU (R150, R160). -/
def vgruChecks (f : Fields) (t : Thread) : List (Option Exc) :=
  let n := vhCount (hD t f)
  chkVWrite t (readV t f.d.toNat) ++ chkVRead t (readV t f.x.toNat) ++ chkVRead t (readV t f.y.toNat) ++
  chkVRead t (readV t f.z.toNat) ++
  [chk (isB32 (hD t f) && isB32 (hX t f) && isB32 (hY t f) && isB32 (hZ t f)) .badHandle,
   chk (decide (vhCount (hX t f) = 3 * n ∧ vhCount (hY t f) = 3 * n ∧ vhCount (hZ t f) = n)) .badHandle,
   chkOps (4 * n)]

def execVgru (lt : BitVec 12) (f : Fields) (s : State) : Host.Outcome State Fault Refusal :=
  .next (issueCmd s lt 1 0x54 f (vgruChecks f))
/-- The checks of VLSTM (R150, R160). -/
def vlstmChecks (f : Fields) (t : Thread) : List (Option Exc) :=
  let n := vhCount (hD t f)
  chkVWrite t (readV t f.d.toNat) ++ chkVRead t (readV t f.x.toNat) ++ chkVWrite t (readV t f.y.toNat) ++
  [chk (isB32 (hD t f) && isB32 (hX t f) && isB32 (hY t f)) .badHandle,
   chk (decide (vhCount (hX t f) = 4 * n ∧ vhCount (hY t f) = n)) .badHandle, chkOps (5 * n)]

def execVlstm (lt : BitVec 12) (f : Fields) (s : State) : Host.Outcome State Fault Refusal :=
  .next (issueCmd s lt 1 0x55 f (vlstmChecks f))

/-- The vector unit's work on one command. -/
def runVector (s : State) (c : Cmd) : State :=
  match c.op with
  | 0x40 => runBin s c flAdd (· + ·)
  | 0x41 => runBin s c flSub (· - ·)
  | 0x42 => runBin s c flMul (· * ·)
  | 0x43 => runFma s c
  | 0x44 => runBin s c flMin min
  | 0x45 => runBin s c flMax max
  | 0x46 => runAbs s c
  | 0x47 => runCvt s c
  | 0x48 => runSel s c
  | 0x49 => runCmp s c
  | 0x4A => runFill s c
  | 0x4B => runRed s c
  | 0x4C => runRedr s c
  | 0x4D => runMv s c
  | 0x4E => runNorm s c
  | 0x4F => runRms s c
  | 0x50 => runPwl s c
  | 0x51 => runRecip s c
  | 0x52 => runQuant s c
  | 0x53 => runLut s c
  | 0x54 => runGru s c
  | 0x55 => runLstm s c
  | _ => s

/-- A vector command's lane-operations are counted and its occupancy charged (R160, R176, R255). -/
def vectorWork (s : State) (c : Cmd) : State :=
  let n := cmdOps s c
  let cyc := Nat.max 1 (ceilDiv n 1024)
  let s1 := addCtr (runVector s c) (cVecLaneOps (physOf s (lcluOf c.lt))) n
  let s2 := modBerth s1 c.berth (fun v => { v with engCyc := v.engCyc + cyc, vecCyc := v.vecCyc + cyc })
  modAct s2 c.client (fun a => { a with laneOps := a.laneOps + n })

/-- VECTOR_CMD_COMPLETE: the command at the head of the vector queue completes (R160). -/
def execVectorCmdComplete (l : BitVec 4) (s : State) : Host.Outcome State Fault Refusal :=
  .next (completeHead s l.toNat 1 vectorWork)

end Sys2Proof.Machine
end

