-- ==== Sys2Proof/Machine/Mover.lean ====
section
/-! DEFINITION. The stream mover: package memory, gather streams, input frames and output values (R164–R166, R284–R288). -/

namespace Sys2Proof.Machine
open Sys2Proof

/-- The bytes of a handle's rows, in order. -/
def readRows (s : State) (l : Nat) (h : VH) : List (BitVec 8) :=
  (upTo h.rows).flatMap (fun r => storeBytes s l (h.addr + r * vhStride h) (vhRowBytes h))

/-- Write bytes into a handle's rows, in order, as far as they go. -/
def writeRows (s : State) (l : Nat) (h : VH) (bs : List (BitVec 8)) : State :=
  (upTo h.rows).foldl (fun s r =>
    storePut s l (h.addr + r * vhStride h) ((bs.drop (r * vhRowBytes h)).take (vhRowBytes h))) s

/-- Start and row distance of a handle are multiples of 64 (R164). -/
def chkLine (h : VH) : Option Exc := chk (decide (h.addr % 64 = 0 ∧ vhStride h % 64 = 0)) .misaligned

/-- Issue a command to the mover with what it noted at issue. -/
def issueMover (s : State) (lt : BitVec 12) (op : Nat) (f : Fields) (checks : Thread → List (Option Exc))
    (note : State → Thread → Cmd → Cmd) (more : State → Thread → State) : State :=
  issue s lt op f checks
    (fun _ => if queueFull s (lcluOf lt) 5 then some (.room 5 0) else none)
    (fun s' t =>
      let l := lcluOf lt
      let s1 := setQueue s' l 5 (queue s' l 5 ++ [note s' t (mkCmd s' lt t op f)])
      more (setThread s1 lt (unmarkZero (markCmd (addOutst t 5) op f true))) t)

def noNote (_ : State) (_ : Thread) (c : Cmd) : Cmd := c
def noMore (s : State) (_ : Thread) : State := s

/-! ## MLD, MST, MCPY -/

/-- The checks of MLD (R150, R165). -/
def mldChecks (s : State) (lt : BitVec 12) (f : Fields) (t : Thread) : List (Option Exc) :=
  chkVWrite t (readV t f.d.toNat) ++ [chkLine (hD t f)] ++ chkPm s lt t (readS t f.y.toNat) (vhBytes (hD t f)) false

/-- What MLD and MST note at issue: the package address of their transfer. -/
def noteAddr (lt : BitVec 12) (f : Fields) (s : State) (t : Thread) (c : Cmd) : Cmd :=
  { c with pa := pmAddr s lt t (readS t f.y.toNat) }

/-- MLD: package memory at s`y` into v`d` (R165).  `ecc` lists the corrected sectors, each with its row, that reads of package memory
have met up to this one, whichever they were (R279; DESIGN CHOICE, log 172). -/
def execMld (lt : BitVec 12) (f : Fields) (ecc : List (Nat × Nat)) (s : State) : Host.Outcome State Fault Refusal :=
  .next (issueMover s lt 0xC0 f (mldChecks s lt f) (noteAddr lt f)
    (fun s' _ => ecc.foldl (fun s e => pmCorrected s e.1 e.2) s'))

def runMld (s : State) (c : Cmd) : State :=
  let l := lcluOf c.lt
  let d := vhOf c.hd
  movePm (writeRows s l d (pmBytes s c.pa (vhBytes d))) (physOf s l) c.client false c.pa (vhBytes d)

/-- The checks of MST (R150, R165). -/
def mstChecks (s : State) (lt : BitVec 12) (f : Fields) (t : Thread) : List (Option Exc) :=
  chkVRead t (readV t f.x.toNat) ++ [chkLine (hX t f)] ++ chkPm s lt t (readS t f.y.toNat) (vhBytes (hX t f)) true

/-- MST: v`x` to package memory at s`y` (R165). -/
def execMst (lt : BitVec 12) (f : Fields) (s : State) : Host.Outcome State Fault Refusal :=
  .next (issueMover s lt 0xC1 f (mstChecks s lt f) (noteAddr lt f) noMore)

def runMst (s : State) (c : Cmd) : State :=
  let l := lcluOf c.lt
  let x := vhOf c.hx
  movePm (pmPut s c.pa (readRows s l x)) (physOf s l) c.client true c.pa (vhBytes x)

/-- The checks of MCPY (R150, R165).  The multiple of 64 that R164 asks of store addresses is read as binding every mover instruction,
since R165 lists only what goes beyond R164 (DEDUCED, log 178). -/
def mcpyChecks (f : Fields) (t : Thread) : List (Option Exc) :=
  chkVWrite t (readV t f.d.toNat) ++ chkVRead t (readV t f.x.toNat) ++
  [chkLine (hD t f), chkLine (hX t f), chk (decide (vhCount (hD t f) = vhCount (hX t f))) .badHandle]

/-- MCPY: v`x` to v`d`, element counts agreeing (R165). -/
def execMcpy (lt : BitVec 12) (f : Fields) (s : State) : Host.Outcome State Fault Refusal :=
  .next (issueMover s lt 0xC3 f (mcpyChecks f) noNote noMore)

/-- Elements of one size are copied as they are; the spec states nothing for sizes that differ, so those are free values. -/
def runMcpy (s : State) (c : Cmd) : State :=
  let l := lcluOf c.lt
  let base := storeBase (physOf s l)
  let d := vhOf c.hd
  let x := vhOf c.hx
  let same := decide (fmtBits (vhFmt d) = fmtBits (vhFmt x))
  let vs := (upTo (vhCount d)).map (fun i =>
    some (if same then vhRead s.store base x i else (Config.freeUlp s.free i).toNat % 2 ^ fmtBits (vhFmt d)))
  let s1 : State := { s with store := vhWriteAll s.store base d 0 vs }
  if same then s1 else useFree s1

/-! ## Gather streams (R284–R288) -/

/-- A stream descriptor, field by field (R284). -/
structure SD where
  idxFmt : Nat
  blk : Nat
  perCmd : Nat
  aheadMax : Nat
  count : Nat
  pos : Nat
  idxPm : BitVec 64
  dataPm : BitVec 64
  dataCount : Nat
  blkNs : Nat
  resv : Bool
deriving DecidableEq, Repr

/-- The fields of the 64 bytes of a stream descriptor; `blk` is the block length in bytes. -/
def sdOf (w : Nat) : SD :=
  { idxFmt := bitsOf w 1 0, blk := 64 * bitsOf w 26 16, perCmd := bitsOf w 47 32, aheadMax := bitsOf w 63 48,
    count := bitsOf w 95 64, pos := bitsOf w 127 96, idxPm := BitVec.ofNat 64 (bitsOf w 191 128),
    dataPm := BitVec.ofNat 64 (bitsOf w 255 192), dataCount := bitsOf w 287 256, blkNs := bitsOf w 303 288,
    resv := decide (bitsOf w 1 0 = 3 ∨ bitsOf w 15 2 ≠ 0 ∨ bitsOf w 31 27 ≠ 0 ∨ bitsOf w 511 304 ≠ 0
      ∨ (bitsOf w 1 0 = 2 ∧ bitsOf w 191 128 ≠ 0)) }

/-- Bytes of one index. -/
def sdIdxBytes (d : SD) : Nat := match d.idxFmt with | 0 => 2 | 1 => 4 | _ => 0

/-- Every field within its range (R284, R286). -/
def sdValid (d : SD) : Bool :=
  !d.resv && decide (64 ≤ d.blk ∧ d.blk ≤ 65536 ∧ 1 ≤ d.perCmd ∧ 1 ≤ d.count ∧ d.count ≤ 2 ^ 31 ∧ 1 ≤ d.dataCount ∧ d.pos < d.count)

/-- Blocks that an MGATH from `pos` delivers (R285). -/
def sdN (d : SD) : Nat := Nat.min d.perCmd (d.count - d.pos)

/-- The checks of MGATH (R286). -/
def mgathChecks (s : State) (lt : BitVec 12) (f : Fields) (t : Thread) : List (Option Exc) :=
  let a := (readS t f.y.toNat).toNat
  let d := sdOf (storeLe s (lcluOf lt) a 64)
  let ring := hD t f
  let pm (w : BitVec 64) (n : Nat) : List (Option Exc) :=
    [chk (decide (bitsOf w.toNat 39 0 % 64 = 0)) .misaligned, chk (pmRange s lt t w n).isSome .storeBounds]
  [chk (vhOk ring) .badHandle, if vhOk ring then chk (vhAligned ring) .misaligned else none,
   if vhOk ring then chk (inWin t.bw (vhSpan ring)) .storeBounds else none,
   chk (decide (a % 64 = 0)) .misaligned, chk (inWin t.bw ⟨a, 64⟩) .storeBounds, chk (sdValid d) .engineLimit,
   chk (decide (d.perCmd ≤ ring.rows ∧ vhRowBytes ring = d.blk)) .engineLimit, chkLine ring] ++
  (if d.idxFmt = 2 then [] else pm d.idxPm (d.count * sdIdxBytes d)) ++ pm d.dataPm (d.dataCount * d.blk)

def streamsOf (s : State) (l : Nat) : List Stream := tabGet [] s.streams l
def setStreams (s : State) (l : Nat) (v : List Stream) : State := { s with streams := tabSet [] s.streams l v }

/-- A stream is named by its berth and the address of its descriptor. -/
def isStream (b : BitVec 12) (a : Nat) (m : Stream) : Bool := decide (m.berth = b ∧ m.desc = a)

/-- Streams stop being live for a berth that parks, migrates or leaves (R288). -/
def dropStreams (s : State) (b : BitVec 12) : State :=
  { s with streams := s.streams.filterMap (fun e =>
      let v := e.2.filter (fun m => decide (m.berth ≠ b))
      if v.isEmpty then none else some (e.1, v)) }

/-- Run-ahead blocks of an MGATH's stream that have landed before it issued (R285 step 5). -/
def landedFor (s : State) (l : Nat) (b : BitVec 12) (a : Nat) (d : SD) : Nat :=
  match (streamsOf s l).find? (isStream b a) with
  | some m => if m.pos = d.pos then m.ahead else 0
  | none => 0

/-- What an MGATH does to the live streams at issue: it restarts a stream whose `pos` differs, takes the place of its berth's
least recently named fifth, or finds no slot; the stream it names becomes the most recent (R288). -/
def nameStream (s : State) (l : Nat) (c : Cmd) : State :=
  let n := physOf s l
  let live := streamsOf s l
  let b := c.berth
  let a := c.sy.toNat
  let d := sdOf c.aux
  let next : Stream := { berth := b, client := c.client, desc := a, word := c.aux, pa := c.pa, pi := c.pi, pos := d.pos + sdN d,
                         ahead := landedFor s l b a d - sdN d, ring := c.hd }
  match live.find? (isStream b a) with
  | some m =>
    let s1 := setStreams s l (live.filter (fun x => !isStream b a x) ++ [next])
    if m.pos = d.pos then s1 else bump s1 (cStreamRestart n)
  | none =>
    let own := live.filter (fun x => decide (x.berth = b))
    if 4 ≤ own.length then
      match own with
      | o :: _ => setStreams s l (live.filter (fun x => !isStream b o.desc x) ++ [next])
      | [] => s
    else if live.length < 64 then setStreams s l (live ++ [next])
    else bump s (cNoSlot n)

/-- MGATH as it enters the queue: its descriptor, the addresses it names, and its blocks that run-ahead has landed. -/
def noteGather (lt : BitVec 12) (f : Fields) (s : State) (t : Thread) (c : Cmd) : Cmd :=
  let a := (readS t f.y.toNat).toNat
  let w := storeLe s (lcluOf lt) a 64
  let d := sdOf w
  { c with aux := w, aux2 := Nat.min (sdN d) (landedFor s (lcluOf lt) t.berth a d),
           pa := pmAddr s lt t d.dataPm, pi := if d.idxFmt = 2 then 0 else pmAddr s lt t d.idxPm }

/-- MGATH: delivers the next blocks of a gather stream (R285). -/
def execMgath (lt : BitVec 12) (f : Fields) (s : State) : Host.Outcome State Fault Refusal :=
  .next (issueMover s lt 0xC2 f (mgathChecks s lt f) (noteGather lt f)
    (fun s' t => nameStream s' (lcluOf lt) (noteGather lt f s' t (mkCmd s' lt t 0xC2 f))))

/-- Block k of a stream lands in its slot: the block its index names, or zeros past the data area (R285, R287). -/
def landBlock (s : State) (l : Nat) (cl : BitVec 10) (d : SD) (ring : VH) (pa pi k : Nat) : State :=
  let n := physOf s l
  let ib := sdIdxBytes d
  let ix := if d.idxFmt = 2 then k else pmLe s (pi + k * ib) ib
  let slot := ring.addr + (k % ring.rows) * vhStride ring
  let s1 := if ib = 0 then s else movePm s n cl false (pi + k * ib) ib
  if d.dataCount ≤ ix then bump (storePut s1 l slot (List.replicate d.blk 0)) (cIdxOob n)
  else
    let a := pa + ix * d.blk
    storeMoved (movePm (storePut s1 l slot (pmBytes s a d.blk)) n cl false a d.blk) cl d.blk

/-- The next `k` blocks of an MGATH land. -/
def landBlocks (s : State) (c : Cmd) (k : Nat) : State × Cmd :=
  let d := sdOf c.aux
  ((upTo k).foldl (fun s i => landBlock s (lcluOf c.lt) c.client d (vhOf c.hd) c.pa c.pi (d.pos + c.aux2 + i)) s,
   { c with aux2 := c.aux2 + k })

/-- A stop reaches the MGATH at the head of the mover's queue: it halts after its last landed block (R131, R299). -/
def haltGather (s : State) (l : Nat) : State :=
  match queue s l 5 with
  | [] => s
  | c :: q =>
    if c.op ≠ 0xC2 then s
    else
      let r := landBlocks s c (Config.freeProgress s.free % (sdN (sdOf c.aux) - c.aux2 + 1))
      useFree (setQueue r.1 l 5 (r.2 :: q))

/-- MGATH's work: its blocks not yet landed are written, `pos` is written back, and a stream whose last block is delivered is
no longer live. -/
def runMgath (s : State) (c : Cmd) : State :=
  let l := lcluOf c.lt
  let d := sdOf c.aux
  let n := sdN d
  let a := c.sy.toNat
  let s1 := (landBlocks s c (n - c.aux2)).1
  let s2 := storePut s1 l (a + 12) (natLe (d.pos + n) 4)
  let s3 := addCtr s2 (cGathBlocks (physOf s l)) n
  if d.pos + n = d.count then setStreams s3 l ((streamsOf s3 l).filter (fun m => !isStream c.berth a m)) else s3

/-- The run-ahead stock that a stream may hold (R285 step 4). -/
def aheadCap (d : SD) (ring : VH) : Nat := Nat.min d.aheadMax (ring.rows - d.perCmd)

/-- RUN_AHEAD_LANDED: the next run-ahead block of live stream `ix` of logical cluster l lands in its slot (R285); the stream goes by the
descriptor that its latest MGATH read and checked. -/
def landAhead (s : State) (l ix : Nat) : State :=
  match (streamsOf s l)[ix]? with
  | none => s
  | some m =>
    let d := sdOf m.word
    let ring := vhOf m.ring
    if m.ahead < aheadCap d ring ∧ m.pos + m.ahead < d.count then
      let s1 := landBlock s l m.client d ring m.pa m.pi (m.pos + m.ahead)
      bump (setStreams s1 l ((streamsOf s1 l).set ix { m with ahead := m.ahead + 1 })) (cAheadBlocks (physOf s l))
    else s

def execRunAheadLanded (l : BitVec 4) (ix : Nat) (s : State) : Host.Outcome State Fault Refusal :=
  .next (if physOf s l.toNat = 31 ∨ s.lost.lost then s else landAhead s l.toNat ix)

/-! ## MFRAME and MEMIT -/

/-- Rounded up to 4 KiB (R250). -/
def up4k (n : Nat) : Nat := ceilDiv n 4096 * 4096

/-- Where input frame j of a berth lies: after the swap area, in a ring of `in_depth` frames (R250, R282). -/
def frameAddr (b : Berth) (m : ModelDecl) (j : Nat) : Nat :=
  paOf b.pmDie b.pmBase + up4k (ceilDiv m.winBytes 64 * 64) + (j % b.inDepth) * m.frameBytes

/-- The checks of MFRAME (R150, R165). -/
def mframeChecks (s : State) (f : Fields) (t : Thread) : List (Option Exc) :=
  let n := immBits f 4 0
  let b := berth s t.berth
  chkVWrite t (readV t f.d.toNat) ++
  [chkLine (hD t f), chk (decide (1 ≤ n ∧ n ≤ 16 ∧ b.framesTaken + n ≤ b.framesVis)) .engineLimit]

/-- MFRAME: the next frames of the berth's input into v`d` (R165, R27). -/
def execMframe (lt : BitVec 12) (f : Fields) (s : State) : Host.Outcome State Fault Refusal :=
  .next (issueMover s lt 0xC4 f (mframeChecks s f)
    (fun s' t c => { c with aux := (berth s' t.berth).framesTaken })
    (fun s' t => modBerth s' t.berth (fun b => { b with framesTaken := b.framesTaken + immBits f 4 0 })))

def runMframe (s : State) (c : Cmd) : State :=
  let l := lcluOf c.lt
  let b := berth s c.berth
  let m := cmdModel s c
  let ks := upTo (immBits c.fld 4 0)
  let s1 := writeRows s l (vhOf c.hd) (ks.flatMap (fun k => pmBytes s (frameAddr b m (c.aux + k)) m.frameBytes))
  let s2 := modBerth s1 c.berth (fun e => { e with framesFreed := e.framesFreed + ks.length })
  ks.foldl (fun s k => movePm s (physOf s l) c.client false (frameAddr b m (c.aux + k)) m.frameBytes) s2

/-- The checks of MEMIT (R150, R165). -/
def memitChecks (s : State) (f : Fields) (t : Thread) : List (Option Exc) :=
  let m := modelOf s t
  let x := hX t f
  chkVRead t (readV t f.x.toNat) ++
  [chkLine x, chk (decide (x.fmtCode = m.outFmt % 8) && (fmtIsFloat (vhFmt x) || decide (x.sgn = decide (m.outFmt / 8 = 1)))) .badHandle,
   chk (decide ((berth s t.berth).emitting + vhCount x ≤ m.outPerStep)) .engineLimit]

/-- MEMIT: stages the elements of v`x` as output values of the step (R165, R166). -/
def execMemit (lt : BitVec 12) (f : Fields) (s : State) : Host.Outcome State Fault Refusal :=
  .next (issueMover s lt 0xC5 f (memitChecks s f)
    noNote
    (fun s' t => modBerth s' t.berth (fun b => { b with emitting := b.emitting + vhCount (hX t f) })))

def runMemit (s : State) (c : Cmd) : State :=
  let l := lcluOf c.lt
  let x := vhOf c.hx
  let vs := (upTo (vhCount x)).map (fun i => vhRead s.store (storeBase (physOf s l)) x i)
  modBerth s c.berth (fun b => { b with staged := b.staged ++ vs })

/-- The mover's work on one command; an APROG's entry has no work of its own, its blocks are read by the tiles (R159). -/
def runMover (s : State) (c : Cmd) : State :=
  match c.op with
  | 0xC0 => runMld s c
  | 0xC1 => runMst s c
  | 0xC2 => runMgath s c
  | 0xC3 => runMcpy s c
  | 0xC4 => runMframe s c
  | 0xC5 => runMemit s c
  | _ => s

/-- MOVER_CMD_COMPLETE: the command at the head of the mover's queue completes; `cycles` is the occupancy that it had, which
the spec does not derive (R165, R255). -/
def execMoverCmdComplete (l : BitVec 4) (cycles : BitVec 48) (s : State) : Host.Outcome State Fault Refusal :=
  .next (completeHead s l.toNat 5 (fun s c => chargeEngine (runMover s c) c cycles.toNat))

end Sys2Proof.Machine
end

