-- ==== Sys2Proof/Machine/Alloc.lean ====
section
/-! DEFINITION. Reservations: cluster stores, package-memory pools, threads and placement (R143, R250, R280–R283). -/

namespace Sys2Proof.Machine
open Sys2Proof

/-! ## Free ranges -/

/-- Insert a range by rising base. -/
def insWin (w : Win) : List Win → List Win
  | [] => [w]
  | v :: t => if w.base ≤ v.base then w :: v :: t else v :: insWin w t

def sortWins (l : List Win) : List Win := l.foldr insWin []

/-- The free ranges of [lo, hi) between used ranges in rising order. -/
def gaps (lo hi : Nat) : List Win → List Win
  | [] => if lo < hi then [⟨lo, hi - lo⟩] else []
  | w :: t =>
    let rest := gaps (Nat.max lo (w.base + w.len)) hi t
    if lo < w.base then ⟨lo, w.base - lo⟩ :: rest else rest

/-- First fit from the lowest address. -/
def fitLow (n : Nat) (g : List Win) : Option Nat := (g.find? (fun w => decide (n ≤ w.len))).map (·.base)

/-- First fit from the top downward. -/
def fitTop (n : Nat) (g : List Win) : Option Nat :=
  (g.reverse.find? (fun w => decide (n ≤ w.len))).map (fun w => w.base + w.len - n)

def sumNat (l : List Nat) : Nat := l.foldl (· + ·) 0
def freeTotal (g : List Win) : Nat := sumNat (g.map (·.len))

/-! ## Berths of a cluster and of a pool -/

/-- Every berth entry that is not FREE, with its number. -/
def heldBerths (s : State) : List (Nat × Berth) := s.berths.filter (fun e => decide (e.2.st ≠ .free))

/-- Berths placed on logical cluster l. -/
def berthsOn (s : State) (l : Nat) : List (Nat × Berth) := (heldBerths s).filter (fun e => decide (lcluOf e.2.lthread = l))

/-- Store ranges of berth windows on logical cluster l: those of its berths, a pre-empted one's among them, since it comes back there,
and windows reserved for moves (R250, R267). -/
def berthWins (s : State) (l : Nat) : List Win :=
  (berthsOn s l).map (fun e => ⟨e.2.winBase, e.2.stRes * 64⟩) ++
  (heldBerths s).filterMap (fun e => match e.2.moveThr with
    | some (t, base) => if lcluOf t = l then some ⟨base, e.2.stRes * 64⟩ else none
    | none => none)

/-- A berth is placed on logical cluster l, or moves there. -/
def placedOn (l : Nat) (e : Berth) : Bool :=
  decide (lcluOf e.lthread = l) || (match e.moveThr with | some (t, _) => decide (lcluOf t = l) | none => false)

/-- Copies loaded in logical cluster l, with their module slot. -/
def copiesOn (s : State) (l : Nat) : List (Nat × Copy) :=
  s.mods.flatMap (fun e => (e.2.copies.filter (fun c => decide (c.lclu.toNat = l))).map (fun c => (e.1, c)))

def modWins (s : State) (l : Nat) : List Win := (copiesOn s l).map (fun e => e.2.mw)

/-- 32 MiB of store (R120). -/
def storeSize : Nat := 33554432

/-- Free ranges of the store of logical cluster l. -/
def storeGaps (s : State) (l : Nat) : List Win := gaps 0 storeSize (sortWins (berthWins s l ++ modWins s l))

/-- The admission arithmetic of R250: the module windows, S of every berth placed on the cluster once, and the new S. -/
def storeTakes (s : State) (l S : Nat) : Bool :=
  decide (sumNat ((modWins s l).map (·.len))
    + sumNat (((heldBerths s).filter (fun e => placedOn l e.2)).map (fun e => e.2.stRes * 64)) + S ≤ storeSize)

/-- Berth pool and module pool of a die as offset ranges (R280). -/
def berthPool (s : State) (d : Nat) : Win :=
  let b := modPoolBase + modPoolMib s d * 2 ^ 20
  ⟨b, 48 * 2 ^ 30 - b⟩
def modPool (s : State) (d : Nat) : Win := ⟨modPoolBase, modPoolMib s d * 2 ^ 20⟩

/-- Free ranges of the pools. -/
def bpGaps (s : State) (d : Nat) : List Win :=
  let p := berthPool s d
  gaps p.base (p.base + p.len)
    (sortWins (((heldBerths s).filter (fun e => decide (e.2.pmDie = d))).map (fun e => ⟨e.2.pmBase, e.2.pmRes * 4096⟩)))

/-- Bytes of a module image, rounded up to 64 KiB (R281). -/
def imageBytes (m : ModuleDesc) : Nat := ceilDiv m.imageLen 65536 * 65536
def mpGaps (s : State) (d : Nat) : List Win :=
  let p := modPool s d
  gaps p.base (p.base + p.len) (sortWins (s.mods.flatMap (fun e =>
    (e.2.images.filter (fun i => decide (i.1 = d))).map (fun i => ⟨i.2, imageBytes e.2.desc⟩))))

/-! ## Reservations of a berth (R250) -/

def storeOf (m : ModelDecl) : Nat := ceilDiv m.winBytes 64 * 64
def region0Of (m : ModelDecl) (inDepth pmExtra : Nat) : Nat :=
  up4k (storeOf m) + up4k (inDepth * m.frameBytes) + up4k (declaredAreas m) + up4k pmExtra

/-! ## Threads and placement (R143) -/

/-- A thread of logical cluster l is reserved for a berth under way to it. -/
def threadTaken (s : State) (lt : BitVec 12) : Bool :=
  (heldBerths s).any (fun e => match e.2.moveThr with | some (t, _) => decide (t = lt ∧ e.2.lthread ≠ lt) | none => false)

/-- The lowest-numbered IDLE thread of a logical cluster. -/
def idleThread (s : State) (l : Nat) : Option (BitVec 12) :=
  ((upTo 256).map (fun i => BitVec.ofNat 12 (256 * l + i))).find?
    (fun t => decide ((thread s t).st = .idle) && !threadTaken s t)

/-- The copy of a model of a module slot on logical cluster l. -/
def copyOn (s : State) (slot : BitVec 8) (model l : Nat) : Option Copy :=
  (module s slot).copies.find? (fun c => decide (c.model = model ∧ c.lclu.toNat = l))

/-- A logical cluster has no physical cluster in service (R104). -/
def lcluOut (s : State) (l : Nat) : Bool := decide (physOf s l = 31) || decide (cluState s (physOf s l) = .outOfService)

/-- The cluster holds the model, is in service, and its save slot holds no image; a save under way counts as one (R143). -/
def mayHold (s : State) (slot : BitVec 8) (model l : Nat) : Bool :=
  (copyOn s slot model l).isSome && !lcluOut s l && !slotHolds s l && decide (savePhase s l = .none)

/-- Where a berth goes, or why it goes nowhere. -/
inductive Place where
  | at (lt : BitVec 12)
  | noThread
  | noMemory
deriving DecidableEq, Repr

/-- The pool of a cluster's die takes P in one range. -/
def poolTakes (s : State) (l P : Nat) : Bool := (fitLow P (bpGaps s (dieOf (physOf s l)))).isSome

/-- The lowest logical cluster of a list that satisfies R143, and its lowest IDLE thread; P is `none` for a berth whose region 0
stays where it is. -/
def placeIn (s : State) (slot : BitVec 8) (model S : Nat) (P : Option Nat) (ls : List Nat) : Place :=
  let cands := ls.filterMap (fun l =>
    if mayHold s slot model l then (idleThread s l).map (fun t => (l, t)) else none)
  match cands.find? (fun e => storeTakes s e.1 S && (match P with | some p => poolTakes s e.1 p | none => true)) with
  | some e => .at e.2
  | none => if cands.isEmpty then .noThread else .noMemory

/-! ## Binding and releasing a thread (R114, R119) -/

/-- The context that placement writes. -/
def bindThread (s : State) (lt : BitVec 12) (b : BitVec 12) : State :=
  let e := berth s b
  let m := ((module s e.modSlot).desc.models[e.model]?).getD {}
  let mw := ((copyOn s e.modSlot e.model (lcluOf lt)).map (·.mw)).getD {}
  setThread s lt { st := .sleeping, pc := BitVec.ofNat 32 m.entryPc, entryPc := BitVec.ofNat 32 m.entryPc,
                   bw := ⟨e.winBase, e.stRes * 64⟩, mw := mw, berth := b, client := e.client, modSlot := e.modSlot,
                   model := e.model }

/-- The thread goes IDLE, its context cleared to zeros. -/
def clearThread (s : State) (lt : BitVec 12) : State := setThread s lt {}

end Sys2Proof.Machine
end

