-- ==== Sys2Proof/Machine/Context.lean ====
section
/-! DEFINITION. The 2,048-byte form of a thread context (R115, R119). -/

namespace Sys2Proof.Machine
open Sys2Proof

/-- The 8 bytes of a manifest entry (R253). -/
def mfWord (e : MfEntry) : Nat := e.thread % 256 + 2 ^ 8 * e.berth.toNat + 2 ^ 20 * (e.rank % 256) + 2 ^ 28 * (e.count % 512)

/-- The code of a thread state (R115). -/
def tstateCode : TState → Nat
  | .idle => 0 | .sleeping => 1 | .ready => 2 | .waiting => 3 | .stopped => 4 | .faulted => 5

/-- A window: base [24:0], length in 64-byte units [51:32]. -/
def winWord (w : Win) : Nat := w.base % 2 ^ 25 + w.len / 64 % 2 ^ 20 * 2 ^ 32
def winOfWord (v : Nat) : Win := ⟨bitsOf v 24 0, 64 * bitsOf v 51 32⟩

/-- The scoreboard: pending bits of s, v, a and p in ascending order from bit 0 of byte 1,708, then one byte for each engine's count of
outstanding commands as FENCE numbers them.  R119 names the contents only; their order and widths are a DESIGN CHOICE (log 163). -/
def scoreBytes (t : Thread) : List (BitVec 8) :=
  natLe t.pendS.toNat 4 ++ natLe t.pendV.toNat 2 ++ natLe t.pendA.toNat 2 ++ natLe t.pendP.toNat 1
    ++ (upTo 6).map (fun e => BitVec.ofNat 8 (tabGet 0 t.outst e)) ++ List.replicate 17 0

/-- The bytes of a context. -/
def ctxBytes (t : Thread) : List (BitVec 8) :=
  (upTo 32).flatMap (fun i => natLe (if i = 0 then 0 else (tabGet (0 : BitVec 64) t.sreg i).toNat) 8)
    ++ (upTo 16).flatMap (fun i => natLe (tabGet (0 : BitVec 128) t.vreg i).toNat 16)
    ++ (upTo 16).flatMap (fun i => natLe (tabGet (0 : BitVec 128) t.areg i).toNat 16)
    ++ (upTo 7).flatMap (fun i => natLe (tabGet (0 : BitVec 1024) t.preg (i + 1)).toNat 128)
    ++ natLe t.pc.toNat 4 ++ natLe t.entryPc.toNat 4 ++ natLe (winWord t.bw) 8 ++ natLe (winWord t.mw) 8
    ++ natLe (t.berth.toNat + t.client.toNat * 2 ^ 16 + t.modSlot.toNat * 2 ^ 32 + tstateCode t.st * 2 ^ 48) 8
    ++ natLe (t.exc.toNat + t.excPc.toNat * 2 ^ 32) 8 ++ natLe t.issued 4 ++ scoreBytes t ++ List.replicate 308 0

/-- A table of registers from consecutive fields. -/
def tabOfFields (w : Nat) (bs : List (BitVec 8)) (a n i0 cnt : Nat) : Tab (BitVec w) :=
  (upTo cnt).foldl (fun m i => tabSet 0 m (i0 + i) (BitVec.ofNat w (leAt bs (a + n * i) n))) []

/-- A thread with the registers, handles, predicates, pcs, exception and step count of a context's bytes; identity, windows,
thread state and scoreboard are the device's own and stay (R115, R199). -/
def ctxInto (t : Thread) (bs : List (BitVec 8)) : Thread :=
  { t with sreg := tabErase (tabOfFields 64 bs 0 8 0 32) 0, vreg := tabOfFields 128 bs 256 16 0 16,
           areg := tabOfFields 128 bs 512 16 0 16, preg := tabOfFields 1024 bs 768 128 1 7,
           pc := BitVec.ofNat 32 (leAt bs 1664 4), entryPc := BitVec.ofNat 32 (leAt bs 1668 4),
           exc := BitVec.ofNat 8 (leAt bs 1696 1), excPc := BitVec.ofNat 32 (leAt bs 1700 4),
           issued := leAt bs 1704 4 }

/-- An address field of a handle moved from an old window to a new one (R199). -/
def moveField (old : Win) (base lo : Nat) (h : BitVec 128) : BitVec 128 :=
  let a := bitsOf h.toNat (lo + 24) lo
  if old.base ≤ a ∧ a < old.base + old.len then
    BitVec.ofNat 128 (h.toNat - a * 2 ^ lo + (a - old.base + base) % 2 ^ 25 * 2 ^ lo)
  else h

/-- A table with every value changed, in its canonical form. -/
def tabMap {w : Nat} (f : BitVec w → BitVec w) (t : Tab (BitVec w)) : Tab (BitVec w) :=
  t.foldl (fun m e => tabSet 0 m e.1 (f e.2)) []

/-- Every handle of a thread that points into the old berth window follows it to `base` (R199, R267). -/
def moveHandles (t : Thread) (old : Win) (base : Nat) : Thread :=
  { t with vreg := tabMap (moveField old base 0) t.vreg,
           areg := tabMap (fun h => moveField old base 96 (moveField old base 64 (moveField old base 24 h))) t.areg }

end Sys2Proof.Machine
end

