-- ==== Sys2Proof/Machine/BerthOps.lean ====
section
/-! DEFINITION. What happens to a berth entry: outputs, draining, freeing, locks and waiters (R29, R31, R245, R263–R266, R315–R320). -/

namespace Sys2Proof.Machine
open Sys2Proof

/-! ## Items about a berth -/

/-- The opcodes that name a berth (R314). -/
def namesBerth (op : Nat) : Bool := decide (4 ≤ op ∧ op ≤ 15)

/-- Bytes of an item's first descriptor. -/
def part0 (i : Item) : List (BitVec 8) := (i.parts[0]?).getD []

/-- The model that a berth runs. -/
def berthModel (s : State) (e : Berth) : ModelDecl := ((module s e.modSlot).desc.models[e.model]?).getD {}

/-- A notice about a berth goes to its client with the tag of its admission (R318). -/
def berthNotice (s : State) (b : BitVec 12) (op status : Nat) (d : List (BitVec 8)) : State :=
  let e := berth s b
  notice s e.client op status e.tag (berthDetail b ++ d)

/-! ## Output blocks (R29, R31, R315, R317) -/

/-- Bytes of one output value. -/
def valBytes (m : ModelDecl) : Nat := fmtBits ((fmtOfCode (m.outFmt % 8)).getD .int8) / 8

/-- Room at a host buffer, in values. -/
def hostRoom (e : Berth) : Nat := (e.returned - e.filled) * e.blkVals - e.inBlock.length

/-- Write one block to host memory, then its OUT_BLOCK record; `at` is the step of its last value. -/
def closeBlock (s : State) (b : BitVec 12) (vals : List Nat) (last : Bool) (step : Nat) : State :=
  let e := berth s b
  let n := valBytes (berthModel s e)
  let bytes := vals.flatMap (fun v => natLe v n)
  let addr := e.obBase.toNat + e.filled % e.obBlocks * (e.blkVals * n)
  let s1 := hostBytes (emit s (.hostWrite (BitVec.ofNat 64 addr) bytes)) e.client bytes.length
  let s2 := setBerth s1 b { e with filled := e.filled + 1 }
  berthNotice s2 b 0x80 stOk
    (natLe (if last then 1 else 0) 2 ++ natLe e.filled 4 ++ natLe vals.length 4 ++ natLe step 4)

/-- Add values to the block being filled, closing each block that fills; `ended` marks the stream's last values. -/
def fillBlocks (s : State) (b : BitVec 12) (step : Nat) (ended : Bool) (vs : List Nat) : Nat → State
  | 0 => modBerth s b (fun e => { e with inBlock := vs })
  | n + 1 =>
    let k := (berth s b).blkVals
    if vs.length < k ∨ k = 0 then modBerth s b (fun e => { e with inBlock := vs })
    else fillBlocks (closeBlock s b (vs.take k) (ended && decide (vs.length = k)) step) b step ended (vs.drop k) n

/-- Release staged values to a host buffer. -/
def deliverHost (s : State) (b : BitVec 12) (step : Nat) (ended : Bool) (vs : List Nat) : State :=
  let all := (berth s b).inBlock ++ vs
  fillBlocks s b step ended all all.length

/-- The partial last block of a leaving berth. -/
def closePartial (s : State) (b : BitVec 12) : State :=
  let e := berth s b
  if e.destAudio || e.inBlock.isEmpty then s
  else modBerth (closeBlock s b e.inBlock true (e.step - 1)) b (fun e => { e with inBlock := [] })

/-! ## Routes of a berth (R367, R370) -/

/-- The entry of the berth's enabled route of a direction. -/
def routeOf (s : State) (b : BitVec 12) (recv : Bool) : Option (Nat × Route) :=
  s.chn.routes.find? (fun e => decide (e.2.st = 1 ∧ e.2.berth = b ∧ e.2.recv = recv))

def routeAt (s : State) (rt : Nat) : Route := tabGet {} s.chn.routes rt
def setRoute (s : State) (rt : Nat) (r : Route) : State := { s with chn := { s.chn with routes := tabSet {} s.chn.routes rt r } }

/-- A berth's SEND route holds no credit. -/
def noCredit (s : State) (b : BitVec 12) : Bool :=
  match routeOf s b false with
  | some (_, r) => decide (r.avail = 0)
  | none => false

/-- A berth that a manifest includes takes one credit; a fault before the commit gives it back. -/
def takeCredit (s : State) (b : BitVec 12) : State :=
  match routeOf s b false with
  | some (rt, r) => setRoute s rt { r with avail := r.avail - 1 }
  | none => s
def giveCredit (s : State) (b : BitVec 12) : State :=
  match routeOf s b false with
  | some (rt, r) => setRoute s rt { r with avail := Nat.min r.credits (r.avail + 1) }
  | none => s

/-- A berth that leaves takes its routes to OFF. -/
def routesOff (s : State) (b : BitVec 12) : State :=
  { s with chn := { s.chn with routes := s.chn.routes.map (fun e =>
      (e.1, if e.2.berth = b ∧ e.2.st ≠ 0 then { e.2 with st := 0, offDue := false } else e.2)) } }

/-! ## Virtual time (R256) and entries into PARKED and exits from it (R274) -/

/-- The least V among clients that have a RUNNING berth. -/
def vFloor (s : State) : Option Nat :=
  ((s.berths.filter (fun e => decide (e.2.st = .running))).map (fun e => (acctOf s e.2.client).v.toNat)).foldl
    (fun a v => match a with | none => some v | some w => some (Nat.min v w)) none

/-- Berth b becomes RUNNING: a client that had no RUNNING berth takes V_floor where its V lies below. -/
def setRunning (s : State) (b : BitVec 12) (f : Berth → Berth) : State :=
  let c := (berth s b).client
  let had := s.berths.any (fun e => decide (e.2.st = .running ∧ e.2.client = c))
  let s1 := modBerth s b (fun e => { f e with st := .running })
  match vFloor s with
  | some v => if had then s1 else setAcct s1 c { acctOf s1 c with v := BitVec.ofNat 64 (Nat.max (acctOf s1 c).v.toNat v) }
  | none => s1

/-- A berth's state changes from `was` to `now`: `parks` counts an entry into PARKED and `unparks` an exit from it, whichever event
makes it (DEDUCED, log 180). -/
def countPark (s : State) (was now : BState) : State :=
  if was = now then s
  else if now = .parked then bump s (bthCtr 4)
  else if was = .parked then bump s (bthCtr 5)
  else s

/-! ## Draining and freeing (R245, R251) -/

/-- Reason and status of a BERTH_END (R320). -/
def endReason : EndCause → Nat
  | .exception => 1 | .outOfService => 2 | .teardown => 3 | _ => 0
def endStatus : EndCause → Nat
  | .exception => stBadDesc | .outOfService => stOutOfService | .teardown => stTeardown | _ => stOk

def endNotice (s : State) (b : BitVec 12) (cause : EndCause) : State :=
  let e := berth s b
  match cause with
  | .leave | .none => s
  | _ =>
    let exc := if cause = .exception then e.endExc.toNat else 0
    let pc := if cause = .exception then e.endPc.toNat else 0
    berthNotice s b 0x81 (endStatus cause) (natLe (endReason cause) 1 ++ natLe exc 1 ++ natLe pc 4 ++ natLe e.step 4)

/-- The items of any client that name berth b and wait, or have begun and are not a LEAVE. -/
def stuckItem (b : BitVec 12) (i : Item) : Bool :=
  namesBerth i.op && decide (i.berth = b) && (i.held || (i.begun && decide (i.op ≠ 6)))

/-- A berth becomes DRAINING: its last block closes, a BERTH_END is written unless it only leaves, and every waiter and every
other item on it completes with a status. -/
def startDrain (s : State) (b : BitVec 12) (cause : EndCause) (itemStatus : Nat) (itemDetail : List (BitVec 8)) : State :=
  let s1 := closePartial s b
  let s2 := endNotice s1 b cause
  let drain (e : Berth) : Berth :=
    { e with st := .draining, ended := cause, inStep := false, waiters := [], lockDue := none, parkDue := false, leaveDue := false,
             staged := [] }
  let s3 := modBerth (countPark s2 (berth s2 b).st .draining) b drain
  completeAll s3 (stuckItem b) itemStatus (fun _ => itemDetail)

/-- Draining for the device's own reasons or a leave: items on the berth complete with BAD_DESCRIPTOR, reason 5 (R263, R273). -/
def drainBerth (s : State) (b : BitVec 12) (cause : EndCause) : State :=
  startDrain s b cause stBadDesc (natLe 0 1 ++ natLe 5 1)

/-- The tiles of a copy lose the records of a module slot (R271). -/
def clearRecords (s : State) (slot : BitVec 8) (c : Copy) : State :=
  c.slots.foldl (fun s j => modTile s (tileOfSlot s c.lclu.toNat j)
    (fun t => { t with recs := t.recs.filter (fun e => decide (e.2.modSlot ≠ slot)) })) s

/-- An unloading module whose last berth is FREE: tiles, store, slot and module area are freed (R271). -/
def finishUnload (s : State) (slot : BitVec 8) : State :=
  let m := module s slot
  if m.st = .unloading ∧ (heldBerths s).all (fun e => decide (e.2.modSlot ≠ slot)) then
    let s1 := m.copies.foldl (fun s c => clearRecords s slot c) s
    let s2 := bump (setModule s1 slot {}) (bthCtr 19)
    match findItem s2 m.client m.item with
    | some i => completeItem s2 m.client i stOk []
    | none => s2
  else s

/-- A LEAVE item in progress on berth b. -/
def leaveItem (b : BitVec 12) (i : Item) : Bool := i.begun && decide (i.op = 6 ∧ i.berth = b)

/-- A berth has left or moved: proposals for it are void (R268). -/
def voidProposals (s : State) (b : BitVec 12) : State :=
  { s with sched := { s.sched with proposals := s.sched.proposals.map (fun p => if p.berth = b then { p with void := true } else p) } }

/-- The berth reaches FREE: reservations return, the thread goes IDLE, then the final completion is written (R245, R251). -/
def freeBerth (s : State) (b : BitVec 12) : State :=
  let e := berth s b
  let s1 := routesOff (unbindAudio (dropStreams s b) b) b
  let s2 := clearThread s1 e.lthread
  let s3 := bump (voidProposals (setBerth s2 b {}) b) (bthCtr 3)
  let s4 := completeAll s3 (leaveItem b) stOk (fun _ => berthDetail b ++ [0, 0] ++ natLe e.step 4)
  finishUnload s4 e.modSlot

/-! ## Locks (R263–R266) -/

/-- The lock is held, or is granted at the next boundary (R264). -/
def isLocked (e : Berth) : Bool := decide (e.st = .locked) || e.lockDue.isSome
def lockOwner (e : Berth) : BitVec 10 := match e.lockDue with | some w => w.client | none => e.lkOwner

/-- Grant the lock to client c: owner, its epoch, the next sequence and the lease; its LOCK item completes (R264, R266). -/
def grantLock (s : State) (b : BitVec 12) (c : BitVec 10) (i : Item) : State :=
  let e := berth s b
  let fromAb := decide (e.st = .abandoned)
  let adopt := fromAb && (((part0 i)[16]?).getD 0).getLsbD 1
  let lease := leAt (part0 i) 20 4
  let e1 := { e with st := .locked, heldFrom := if fromAb then e.heldFrom else e.st, lkOwner := c,
                     lkEpoch := (client s c).cepoch, lkSeq := e.lkSeq + 1, lease := lease, leaseFrom := s.tick.toNat,
                     client := if adopt then c else e.client, orphanLeave := e.orphanLeave && !adopt, lockDue := none }
  let s1 := bump (setBerth s b e1) (bthCtr 10)
  let s2 := if adopt then setThread s1 e.lthread { thread s1 e.lthread with client := c } else s1
  completeItem s2 c i stOk (berthDetail b ++ natLe e1.lkSeq.toNat 2 ++ natLe e.lkOwner.toNat 2 ++ natLe e.lkEpoch.toNat 2
    ++ natLe (if fromAb then 1 else 0) 1)

/-- An acquire of an unlocked berth: at once for ADMITTED and PARKED, at the next boundary for RUNNING (R245). -/
def acquire (s : State) (b : BitVec 12) (c : BitVec 10) (i : Item) : State :=
  let e := berth s b
  if e.st = .running then holdItem (setBerth s b { e with lockDue := some ⟨c, i.seq⟩ }) c i
  else grantLock (countPark s e.st .locked) b c i

/-- Every waiter completes with LOCK_ABANDONED and the berth is ABANDONED (R265). -/
def abandonLock (s : State) (b : BitVec 12) : State :=
  let e := berth s b
  let s1 := bump (setBerth s b { e with st := .abandoned, waiters := [], lockDue := none }) (bthCtr 11)
  e.waiters.foldl (fun s w => match findItem s w.client w.item with
    | some i => completeItem s w.client i stLockAbandoned (berthDetail b)
    | none => s) s1

/-- An item leaves the waiters of its berth and the generators' queues (R321–R323). -/
def withdraw (s : State) (c : BitVec 10) (i : Item) : State :=
  let w : Waiter := ⟨c, i.seq⟩
  let s1 := genUnwait s w
  if namesBerth i.op then
    modBerth s1 i.berth (fun e => { e with waiters := e.waiters.filter (fun x => decide (x ≠ w)),
                                           lockDue := if e.lockDue = some w then none else e.lockDue })
  else s1

/-- How an operation meets its berth (R263). -/
inductive Meet where
  | run
  | wait
  | hold
  | done (status : Nat) (detail : List (BitVec 8))
deriving DecidableEq, Repr

def badState : Meet := .done stBadDesc (natLe 0 1 ++ natLe 5 1)

/-- The table of R263: `free` lists the unlocked states in which the operation is allowed, `owner` says whether the owner of a
lock may use it. -/
def meet (c : BitVec 10) (e : Berth) (free : List BState) (owner : Bool) : Meet :=
  if e.st = .free ∨ e.st = .draining then badState
  else if e.st = .abandoned then .done stLockAbandoned []
  else if isLocked e then
    if lockOwner e = c then (if owner then .run else badState)
    else if e.waiters.length < 8 then .wait else .done stNoFit []
  else if free.contains e.st then .run else badState

/-- The berth's context lies in a save image, or is about to (R137). -/
def frozenNow (s : State) (e : Berth) : Bool := e.preempted || stopping s (lcluOf e.lthread)

/-- The berth cannot be reached now: its context lies in a save image or goes there, it moves, or its cluster migrates (R195, R267,
R322). -/
def awayNow (s : State) (e : Berth) : Bool := frozenNow s e || e.moving || migrating s (lcluOf e.lthread)

/-- The item waits for a lock, in the waiters of its berth or for the boundary that grants it. -/
def lockWaits (s : State) (c : BitVec 10) (i : Item) : Bool :=
  let e := berth s i.berth
  namesBerth i.op && (e.waiters.contains ⟨c, i.seq⟩ || decide (e.lockDue = some ⟨c, i.seq⟩))

/-- Items that wait for anything but a lock, and satisfy a test, may be taken up again. -/
def unhold (s : State) (p : Item → Bool) : State :=
  { s with clients := s.clients.map (fun e =>
      (e.1, { e.2 with items := e.2.items.map (fun i =>
        if i.held && p i && !lockWaits s (BitVec.ofNat 10 e.1) i then { i with held := false } else i) })) }

/-! ## Charges and faults of a step (R140, R255, R259) -/

/-- The charge χ of a committed step (R255). -/
def chargeOfStep (e : Berth) : Nat := (e.tile3 + 32 * e.engCyc) / 3

/-- The activity of a berth's step counts for its client; the next boundary adds it to the record (R259, R261). -/
def takeCharges (s : State) (e : Berth) (steps : Nat) : State :=
  modAct s e.client (fun a => { a with tileNs := a.tileNs + e.tile3 / 3, vecCyc := a.vecCyc + e.vecCyc,
                                       auxCyc := a.auxCyc + (e.engCyc - e.vecCyc), steps := a.steps + steps })

/-- A faulted berth leaves; a fault in the step gives its credit back (R140, R369). -/
def dropFaulted (s : State) (b : BitVec 12) : State :=
  let e := berth s b
  let s1 := takeCharges s e 0
  if e.st = .draining then s1
  else if e.st = .locked then abandonLock s1 b
  else drainBerth (giveCredit s1 b) b .exception

/-- A berth whose thread has faulted and that has not yet been dealt with. -/
def faultedNow (s : State) (e : Berth) : Bool :=
  decide (e.ended = .exception ∧ (e.st = .running ∨ e.st = .locked)) && decide ((thread s e.lthread).st = .faulted || e.preempted)

/-- A berth on a cluster that is being saved, or is saved, is told to leave: the leave completes at once and its saved context is void;
a step that it has already committed takes its boundary first (R138). -/
def leaveAtOnce (s : State) (b : BitVec 12) : State :=
  let e := berth s b
  let s1 := completeAll (setBerth s b { e with void := true, leaveDue := e.inStep && e.committed }) (leaveItem b) stOk
    (fun _ => berthDetail b ++ [0, 0] ++ natLe e.step 4)
  if e.inStep && e.committed then s1 else drainBerth s1 b .leave

/-- Run an operation on a berth as R263 lets it. -/
def onBerth (s : State) (c : BitVec 10) (i : Item) (free : List BState) (owner : Bool)
    (run : State → Berth → State) : State :=
  let e := berth s i.berth
  match meet c e free owner with
  | .run => run s e
  | .wait => holdItem (setBerth s i.berth { e with waiters := e.waiters ++ [⟨c, i.seq⟩] }) c i
  | .hold => holdItem s c i
  | .done st d => completeItem s c i st d

end Sys2Proof.Machine
end

