-- ==== Sys2Proof/Machine/Blob.lean ====
section
/-! DEFINITION. Sealed blobs: building and opening them (R195–R199, R212). -/

namespace Sys2Proof.Machine
open Sys2Proof

def toNats (bs : List (BitVec 8)) : List Nat := bs.map (·.toNat)
def ofNats (ns : List Nat) : List (BitVec 8) := ns.map (BitVec.ofNat 8)

/-- The 64 bytes of a substream state (R212). -/
def subBytes (u : Substream) : List (BitVec 8) :=
  natLe u.key.toNat 32 ++ natLe u.ord.toNat 4 ++ natLe ((if u.replay then 1 else 0) + (if u.fromSeed then 2 else 0)) 4
    ++ natLe u.blocks.toNat 8 ++ natLe u.fragile.toNat 8 ++ natLe u.margin.toNat 2 ++ List.replicate 6 0

def subOfBytes (bs : List (BitVec 8)) : Substream :=
  { key := BitVec.ofNat 256 (leAt bs 0 32), ord := BitVec.ofNat 24 (leAt bs 32 4), replay := decide (leAt bs 36 1 % 2 = 1),
    fromSeed := decide (leAt bs 36 1 / 2 % 2 = 1), blocks := BitVec.ofNat 64 (leAt bs 40 8),
    fragile := BitVec.ofNat 64 (leAt bs 48 8), margin := BitVec.ofNat 16 (leAt bs 56 2) }

/-- Where a berth's region 0 begins, and its used part beyond swap area and frames (R193, R282): offset and length. -/
def region0Base (e : Berth) : Nat := paOf e.pmDie e.pmBase
def usedPart (m : ModelDecl) (e : Berth) : Nat × Nat :=
  let o := up4k (storeOf m) + up4k (e.inDepth * m.frameBytes)
  (o, e.pmRes * 4096 - o)

/-- One section: type, zeros, length, content; a section of length 0 is omitted (R196). -/
def blobSection (type : Nat) (bs : List (BitVec 8)) : List (BitVec 8) :=
  if bs.isEmpty then [] else natLe type 2 ++ List.replicate 6 0 ++ natLe bs.length 8 ++ bs

/-- The plaintext sections of a parked berth, and their count. -/
def blobBody (s : State) (e : Berth) : List (BitVec 8) × Nat :=
  let u := usedPart (berthModel s e) e
  let r4 := pmBytes s (region0Base e + u.1) u.2
  (blobSection 1 (ctxBytes (thread s e.lthread)) ++ blobSection 2 (pmBytes s (region0Base e) (e.stRes * 64))
     ++ blobSection 3 (subBytes e.sub) ++ blobSection 4 r4, if r4.isEmpty then 3 else 4)

/-- The state key in force for a tenant epoch. -/
def stateKey (s : State) (epoch : BitVec 32) : Option TKey :=
  s.sec.keys.find? (fun k => decide (k.kind = 1 ∧ k.epoch = epoch))

/-- The 128-byte header (R196). -/
def blobHeader (s : State) (e : Berth) (k : TKey) (nonce : List (BitVec 8)) (len count : Nat) : List (BitVec 8) :=
  natLe 0x4253475A 4 ++ natLe 1 2 ++ natLe 0x9608 2 ++ natLe len 8 ++ natLe (e.step % 2 ^ 24) 4
    ++ natLe ((if e.replay then 1 else 0) + 2) 4 ++ natLe s.cal.epoch.toNat 4 ++ natLe k.id.toNat 4 ++ natLe k.epoch.toNat 4
    ++ nonce ++ natLe (module s e.modSlot).desc.digest.toNat 48 ++ natLe count 2 ++ [0, 0] ++ natLe e.winBase 4
    ++ List.replicate 24 0

/-- Length of the blob of a berth (R196). -/
def blobLen (s : State) (e : Berth) : Nat := 128 + (blobBody s e).1.length + 16

/-- The sealed blob (R197). -/
def sealBlob (s : State) (e : Berth) (k : TKey) (nonce : List (BitVec 8)) : List (BitVec 8) :=
  let b := blobBody s e
  let h := blobHeader s e k nonce (128 + b.1.length + 16) b.2
  let key := toNats (natLe k.key.toNat 32)
  let ct := gcmCrypt key (toNats nonce) (toNats b.1)
  h ++ ofNats ct ++ ofNats (gcmTag key (toNats nonce) (toNats h) ct)

/-- Magic, version, part, length, section count and reserved fields of a blob (R198). -/
def blobShape (bs : List (BitVec 8)) (len : Nat) : Bool :=
  decide (bs.length = len ∧ leAt bs 8 8 = len ∧ 144 ≤ len) && decide (leAt bs 0 4 = 0x4253475A ∧ leAt bs 4 2 = 1 ∧ leAt bs 6 2 = 0x9608)
  && decide (leAt bs 16 4 < 2 ^ 24 ∧ leAt bs 20 4 < 4 ∧ 2 ≤ leAt bs 96 2 ∧ leAt bs 96 2 ≤ 4)
  && zeroAt bs 98 2 && zeroAt bs 104 24

/-- Split the plaintext body into sections: type and content; none when the layout is broken. -/
def blobSections (bs : List (BitVec 8)) : Nat → Option (List (Nat × List (BitVec 8)))
  | 0 => if bs.isEmpty then some [] else none
  | n + 1 =>
    let len := leAt bs 8 8
    if bs.length < 16 + len ∨ len = 0 ∨ !zeroAt bs 2 6 then none
    else (blobSections (bs.drop (16 + len)) n).map (fun r => (leAt bs 0 2, (bs.drop 16).take len) :: r)

def sectionOf (l : List (Nat × List (BitVec 8))) (type : Nat) : List (BitVec 8) :=
  ((l.find? (fun e => decide (e.1 = type))).map (·.2)).getD []

/-- Section types rise from 1 (R196). -/
def typesRise : List Nat → Bool
  | a :: b :: t => decide (a < b) && typesRise (b :: t)
  | _ => true

/-- What a blob opens to. -/
structure Opened where
  step : Nat := 0
  replay : Bool := false
  carried : Bool := false
  oldBase : Nat := 0
  ctx : List (BitVec 8) := []
  window : List (BitVec 8) := []
  sub : List (BitVec 8) := []
  used : List (BitVec 8) := []
  slot : BitVec 8 := 0
  model : Nat := 0
deriving DecidableEq, Repr

/-- The model of a module whose berth layout the sections have: window, entry pc of the context and used part (R198). -/
def fitsModel (m : ModelDecl) (o : Opened) : Bool :=
  decide (o.window.length = storeOf m ∧ leAt o.ctx 1668 4 = m.entryPc ∧ up4k (declaredAreas m) ≤ o.used.length ∧ o.used.length % 4096 = 0)

def findModel (ms : List ModelDecl) (o : Opened) (k : Nat) : Option Nat :=
  match ms with
  | [] => none
  | m :: t => if fitsModel m o then some k else findModel t o (k + 1)

/-- The checks of R198 up to the section sizes: the opened blob, or the refusal and whether the tag failed. -/
def openBlob (s : State) (c : BitVec 10) (bs : List (BitVec 8)) (len : Nat) : Except (Nat × Bool) Opened :=
  if !blobShape bs len then .error (stBadDesc, false)
  else
    let id := BitVec.ofNat 32 (leAt bs 28 4)
    match s.sec.keys.find? (fun k => decide (k.kind = 1 ∧ k.id = id ∧ k.epoch = BitVec.ofNat 32 (leAt bs 32 4))) with
    | none => .error (stKeyEpoch, false)
    | some k =>
      let key := toNats (natLe k.key.toNat 32)
      let nonce := toNats ((bs.drop 36).take 12)
      let ct := toNats ((bs.drop 128).take (len - 144))
      if gcmTag key nonce (toNats (bs.take 128)) ct ≠ toNats (bs.drop (len - 16)) then .error (stBadDesc, true)
      else match blobSections (ofNats (gcmCrypt key nonce ct)) (leAt bs 96 2) with
        | none => .error (stBadDesc, false)
        | some secs =>
          let o : Opened := { step := leAt bs 16 4, replay := decide (leAt bs 20 4 % 2 = 1), carried := decide (2 ≤ leAt bs 20 4),
                              oldBase := leAt bs 100 4 % 2 ^ 25, ctx := sectionOf secs 1, window := sectionOf secs 2,
                              sub := sectionOf secs 3, used := sectionOf secs 4 }
          let sizes := typesRise (0 :: secs.map (·.1)) && secs.all (fun e => decide (e.1 ≤ 4))
            && decide (o.ctx.length = 2048 ∧ (o.sub.length = 64 ∨ (o.sub.length = 0 ∧ !o.carried)))
          match s.mods.find? (fun e => decide (e.2.st = .loaded ∧ e.2.client = c) &&
              decide (e.2.desc.digest = BitVec.ofNat 384 (leAt bs 48 48))) with
          | none => .error (stBadDesc, false)
          | some e =>
            match (if sizes then findModel e.2.desc.models o 0 else none) with
            | none => .error (stBadDesc, false)
            | some k => .ok { o with slot := BitVec.ofNat 8 e.1, model := k }

end Sys2Proof.Machine
end

