-- ==== Sys2Proof/Machine/Admit.lean ====
section
/-! DEFINITION. Taking up items, admission of berths, and share pre-emption of a cluster (R130, R143, R248–R250, R258, R283, R315). -/

namespace Sys2Proof.Machine
open Sys2Proof

/-! ## Which item a row takes up (R312–R314) -/

/-- An earlier item of the client does not keep a later one back: it has begun or waits, and names another berth, unless the later one is
a LEAVE and the earlier one waits, or both bring frames, which begin in ring order and complete in it (R313). -/
def letsPass (i e : Item) : Bool :=
  (e.begun || e.held) &&
  !(namesBerth i.op && namesBerth e.op && decide (i.berth = e.berth) && !(decide (i.op = 6) && e.held)
    && !(decide (i.op = 4 ∧ e.op = 4) && e.begun))

/-- The first item of an opcode that has neither begun nor waits, when the items before it let it begin: `ord` and NOP need every
earlier item completed. -/
def firstReady (op : Nat) (before : List Item) : List Item → Option Item
  | [] => none
  | i :: t =>
    if i.op = op ∧ !i.begun ∧ !i.held then
      if (i.ord ∨ i.op = 0x13) ∧ !before.isEmpty then none
      else if before.all (letsPass i) then some i else none
    else firstReady op (before ++ [i]) t

/-- The item that an item row of client c takes up. -/
def readyItem (s : State) (c : BitVec 10) (op : Nat) : Option Item :=
  if writable (client s c) && !s.lost.lost then firstReady op [] (client s c).items else none

/-- Take up an item, or nothing. -/
def takeItem (s : State) (c : BitVec 10) (op : Nat) (run : State → Item → State) : State :=
  match readyItem s c op with
  | some i => run s i
  | none => s

/-- Bytes of the body of part 0 outside the listed ranges are 0 (R317): `used` lists start and length. -/
def restZero (d : List (BitVec 8)) (used : List (Nat × Nat)) : Bool :=
  (upTo 48).all (fun k => used.any (fun u => decide (u.1 ≤ 16 + k ∧ 16 + k < u.1 + u.2)) || decide ((d[16 + k]?).getD 0 = 0))

/-! ## Preparing a stop (R130–R133) -/

/-- A thread stops: SLEEPING, READY and WAITING go to STOPPED; its pc is the precise point (R114). -/
def stopThread (t : Thread) : Thread :=
  match t.st with
  | .sleeping | .ready | .waiting => { t with st := .stopped, wait := none }
  | _ => t

/-- Every thread of a logical cluster stops, and its berths that have not committed leave the step (R133, R138). -/
def stopCluster (s : State) (l : Nat) : State :=
  let ths := s.threads.map (fun e => (e.1, if e.1 / 256 = l then stopThread e.2 else e.2))
  let bs := s.berths.map (fun e => (e.1,
    if lcluOf e.2.lthread = l ∧ e.2.st ≠ .free ∧ !e.2.committed then { e.2 with inStep := false } else e.2))
  { s with threads := ths, berths := bs }

/-- The berths of a stopped cluster that left the step give back the credits that they took for it (R137, R374). -/
def creditsBack (s : State) (l : Nat) : State :=
  ((berthsOn s l).filter (fun e => e.2.inStep && !e.2.committed)).foldl (fun s e => giveCredit s (BitVec.ofNat 12 e.1)) s

/-- A pre-emption of logical cluster l starts for a client's item: a tile migration of it that has not switched is dropped, a thread
that raised an exception with the stop is dealt with at once, and so is a leave that waits (R133, R138). -/
def startSave (s : State) (l : Nat) (c : BitVec 10) (item : Nat) : State :=
  let s1 := setSavePhase (stopCluster (creditsBack s l) l) l .stopping
  let mine (m : TileMigr) : Bool := decide (m.clu = physOf s l) && !m.switched
  let owed := (s1.cal.tileMigr.filter mine).map (fun m => tileKey m.clu m.old)
  let s2 : State := { s1 with
    cal := { s1.cal with tileMigr := s1.cal.tileMigr.filter (fun m => !mine m), owedTiles := s1.cal.owedTiles ++ owed }
    pre := { s1.pre with item := tabPut s1.pre.item l (c.toNat, item), owner := tabPut s1.pre.owner l c.toNat } }
  let s3 := ((berthsOn s2 l).filter (fun e => faultedNow s2 e.2)).foldl (fun s e => dropFaulted s (BitVec.ofNat 12 e.1)) s2
  ((berthsOn s3 l).filter (fun e => e.2.leaveDue && decide (e.2.st ≠ .draining))).foldl
    (fun s e => leaveAtOnce s (BitVec.ofNat 12 e.1)) s3

/-! ## Admission requests (R248, R315) -/

structure AdmitReq where
  slot : BitVec 8
  model : Nat
  audio : Bool
  replay : Bool
  lock : Bool
  preempting : Bool
  preLclu : Nat
  stepLimit : Nat
  inDepth : Nat
  audStream : Nat
  lease : Nat
  pmExtra : Nat
  obBase : Nat
  obBlocks : Nat
  blkVals : Nat
  seed : BitVec 256
  margin : BitVec 16
deriving DecidableEq, Repr

def admitReq (i : Item) : AdmitReq :=
  let d := part0 i
  let p1 := (i.parts[1]?).getD []
  let fl := leAt d 18 2
  { slot := BitVec.ofNat 8 (leAt d 16 1), model := leAt d 17 1 % 32, audio := decide (fl % 2 = 1),
    replay := decide (bitsOf fl 1 1 = 1), lock := decide (bitsOf fl 2 2 = 1), preempting := decide (bitsOf fl 3 3 = 1),
    preLclu := bitsOf fl 7 4, stepLimit := leAt d 20 4 % 2 ^ 25, inDepth := leAt d 24 1 % 128, audStream := leAt d 26 2,
    lease := leAt d 28 4, pmExtra := leAt d 32 8 % 2 ^ 40, obBase := leAt d 40 8, obBlocks := leAt d 48 4,
    blkVals := leAt d 52 2 + 1, seed := BitVec.ofNat 256 (leAt p1 16 32), margin := BitVec.ofNat 16 (leAt p1 48 2) }

/-- Reserved bits of the ADMIT body are 0. -/
def admitResv (i : Item) : Bool :=
  let d := part0 i
  decide (leAt d 17 1 < 32 ∧ leAt d 18 2 < 256 ∧ leAt d 20 4 < 2 ^ 25 ∧ leAt d 24 1 < 128 ∧ leAt d 25 1 = 0
    ∧ leAt d 32 8 < 2 ^ 40) && zeroAt d 54 10
  && (decide (i.parts.length < 2) || zeroAt ((i.parts[1]?).getD []) 50 14)

/-- A BF16 that is finite and 0 or more; -0 is 0. -/
def marginOk (m : BitVec 16) : Bool := decide (m.toNat < 0x7F80 ∨ m.toNat = 0x8000)

/-- Parameters within R248 and R315 that need no module. -/
def admitRange (r : AdmitReq) : Bool :=
  decide (1 ≤ r.stepLimit ∧ r.stepLimit ≤ 2 ^ 24 ∧ 1 ≤ r.inDepth ∧ r.inDepth ≤ 64 ∧ r.pmExtra % 4096 = 0)
  && (!r.replay || marginOk r.margin)
  && (r.audio || decide (r.obBase % 64 = 0 ∧ 2 ≤ r.obBlocks ∧ r.obBlocks ≤ 65536))

/-- The slot holds a loaded module, not unloading, with that model (R249). -/
def admitModel (s : State) (slot : BitVec 8) (model : Nat) : Option ModelDecl :=
  let m := module s slot
  if m.st = .loaded then m.desc.models[model]? else none

/-- A valid destination (R32, R249, R315). -/
def admitDest (s : State) (r : AdmitReq) (m : ModelDecl) : Bool :=
  if r.audio then audioAccepts s r.audStream m
  else
    let len := r.blkVals * valBytes m
    decide (len % 4 = 0 ∧ r.obBlocks * len ≤ 2 ^ 40)

/-- The lowest-numbered FREE entry (R243). -/
def freeEntry (s : State) : Option (BitVec 12) :=
  ((upTo 4096).map (BitVec.ofNat 12)).find? (fun b => decide ((berth s b).st = .free))

/-- A pre-emption of client c's own has vacated logical cluster l, and it holds the model (R250). -/
def vacatedFor (s : State) (c : BitVec 10) (slot : BitVec 8) (model l : Nat) : Bool :=
  decide (savePhase s l = .saved ∧ tabFind s.pre.owner l = some c.toNat) && (copyOn s slot model l).isSome && !lcluOut s l

/-- Placement of pre-empting work. -/
def placePre (s : State) (c : BitVec 10) (slot : BitVec 8) (model S : Nat) (P : Nat) (l : Nat) : Place :=
  if vacatedFor s c slot model l then
    match idleThread s l with
    | none => .noThread
    | some t => if storeTakes s l S && poolTakes s l P then .at t else .noMemory
  else .noThread

/-- P would fit the free total of the pool of a candidate, which has a thread and store, but no single range of it (R282). -/
def fragmented (s : State) (ls : List Nat) (S P : Nat) : Bool :=
  ls.any (fun l => (idleThread s l).isSome && storeTakes s l S && decide (P ≤ freeTotal (bpGaps s (dieOf (physOf s l))))
    && !poolTakes s l P)

/-- The cluster that share pre-emption takes for client c: the highest-numbered that satisfies R258. -/
def sharePick (s : State) (c : BitVec 10) (slot : BitVec 8) (model : Nat) : Option Nat :=
  ((upTo 16).reverse).find? (fun l =>
    (copyOn s slot model l).isSome && !lcluOut s l && !slotHolds s l && decide (savePhase s l = .none) && !migrating s l
    && (berthsOn s l).all (fun e => decide (e.2.st ≠ .locked ∧ e.2.st ≠ .abandoned)
         && decide (weightOf s e.2.client * spRatio s ≤ weightOf s c)))

/-- The berth entry of an accepted admission, and the rest that placement does: window template, thread, substream, slots (R180,
R209, R245, R250). -/
def placeBerth (s : State) (b : BitVec 12) (c : BitVec 10) (tag : BitVec 32) (r : AdmitReq) (m : ModelDecl) (lt : BitVec 12)
    (base pmBase : Nat) (key : BitVec 256) : State :=
  let l := lcluOf lt
  let S := storeOf m
  let e : Berth :=
    { st := if r.lock then .locked else .admitted, heldFrom := .admitted, replay := r.replay, destAudio := r.audio, client := c,
      modSlot := r.slot, model := r.model, lthread := lt, stepLast := BitVec.ofNat 24 (r.stepLimit - 1),
      lkOwner := if r.lock then c else 0, lkEpoch := if r.lock then (client s c).cepoch else 0, lkSeq := if r.lock then 1 else 0,
      lease := if r.lock then r.lease else 0, leaseFrom := s.tick.toNat, stRes := S / 64,
      pmRes := region0Of m r.inDepth r.pmExtra / 4096, pmBase := pmBase, pmDie := dieOf (physOf s l), winBase := base, tag := tag,
      obBase := BitVec.ofNat 64 r.obBase, obBlocks := r.obBlocks, blkVals := r.blkVals, returned := r.obBlocks,
      audStream := r.audStream, inDepth := r.inDepth,
      sub := { key := key, replay := r.replay, fromSeed := r.replay, margin := if r.replay then r.margin else 0 } }
  let s1 := setBerth s b e
  let s2 := storePut s1 l base (m.template.take S)
  let s3 := bindThread s2 lt b
  let s4 := if r.audio then bindAudio s3 b r.audStream else s3
  if r.lock then bump s4 (bthCtr 10) else s4

/-- An admission is refused for want of a place. -/
def refusePlace (s : State) (c : BitVec 10) (i : Item) (noMem : Bool) : State :=
  completeItem (bump s (bthCtr (if noMem then 2 else 1))) c i (if noMem then stNoMemory else stNoFit) []

/-- The substream key of a placement: the seed, or a request to the cluster's generator (R209). -/
def placeKey (s : State) (l : Nat) (replay : Bool) (seed : BitVec 256) : State × GenAns :=
  if replay then (bump s (rngCtr 4), .key seed)
  else match genRequest s (physOf s l) with
    | (s1, .key k) => (bump s1 (rngCtr 4), .key k)
    | r => r

/-- Compaction of cluster l is to yield one range of at least n bytes (R283). -/
def needRange (s : State) (l n : Nat) : State :=
  { s with sched := { s.sched with compact := tabPut s.sched.compact l (Nat.max n ((tabFind s.sched.compact l).getD 0)) } }

/-- An admission with a place: one free range of the store, or compaction of it; then the key; then the berth (R249, R283). -/
def admitAt (s : State) (c : BitVec 10) (i : Item) (r : AdmitReq) (m : ModelDecl) (b lt : BitVec 12) : State :=
  let l := lcluOf lt
  let S := storeOf m
  match fitTop S (storeGaps s l), fitLow (region0Of m r.inDepth r.pmExtra) (bpGaps s (dieOf (physOf s l))) with
  | some base, some pmb =>
    match placeKey s l r.replay r.seed with
    | (s1, .key k) =>
      let s2 := bump (placeBerth s1 b c i.tag r m lt base pmb k) (bthCtr 0)
      completeItem s2 c i stOk (berthDetail b ++ natLe lt.toNat 2 ++ natLe (if r.lock then 1 else 0) 2)
    | (s1, .wait) => holdItem (genWait s1 (physOf s l) (some ⟨c, i.seq⟩)) c i
    | (s1, .refuse) => completeItem s1 c i stOutOfService []
  | none, some _ =>
    let s1 := if i.compacted then s else bump s (memCtr 5)
    holdItem (modItem (needRange s1 l S) c i.seq (fun j => { j with compacted := true })) c i
  | _, none => refusePlace s c i true

/-- The placement check of R249, with share pre-emption for want of an IDLE thread (R258).  A place on a cluster that migrates between
steps 3 and 5 of R102 waits for step 5 (R273). -/
def admitPlace (s : State) (c : BitVec 10) (i : Item) (r : AdmitReq) (m : ModelDecl) (b : BitVec 12) : State :=
  let S := storeOf m
  let P := region0Of m r.inDepth r.pmExtra
  let pre := r.preempting || decide (i.aux ≠ 0)
  let own := if r.preempting then r.preLclu else i.aux - 1
  let ls := if pre then [own].filter (vacatedFor s c r.slot r.model) else (upTo 16).filter (mayHold s r.slot r.model)
  let pl := if pre then placePre s c r.slot r.model S P own else placeIn s r.slot r.model S (some P) (upTo 16)
  match pl with
  | .at lt => if migrating s (lcluOf lt) then holdItem s c i else admitAt s c i r m b lt
  | .noThread =>
    match (if pre || !spEn s then none else sharePick s c r.slot r.model) with
    | some l =>
      let s1 := bump (startSave s l c i.seq) (bthCtr 9)
      holdItem (modItem s1 c i.seq (fun j => { j with aux := l + 1 })) c i
    | none => refusePlace s c i false
  | .noMemory => refusePlace (if fragmented s ls S P then bump s (memCtr 4) else s) c i true

/-- ADMIT: the checks of R249 in order. -/
def runAdmit (c : BitVec 10) (s : State) (i : Item) : State :=
  let r := admitReq i
  if !admitResv i then badItem s c i 0 1
  else if !admitRange r then badItem s c i 0 2
  else match admitModel s r.slot r.model with
    | none => badItem s c i 0 2
    | some m =>
      if !admitDest s r m then badItem s c i 0 2
      else match freeEntry s with
        | none => refusePlace s c i false
        | some b => admitPlace s c i r m b

def execAdmitItem (c : BitVec 10) (s : State) : Host.Outcome State Fault Refusal := .next (takeItem s c 0x03 (runAdmit c))

end Sys2Proof.Machine
end

