-- ==== Sys2Proof/Machine/TileUnit.lean ====
section
/-! DEFINITION. The charge-domain tile: conversion, rescale, accumulation and drain (R36–R55, R64–R70, R77–R79). -/

namespace Sys2Proof.Machine
open Sys2Proof

/-- The physical column that serves logical column j of a tile (R37, R94). -/
def physCol (t : Tile) (j : Nat) : Nat :=
  match t.spokes.find? (fun e => decide (e.2 = j + 1)) with
  | some e => 33 * e.1 + 32
  | none => j + j / 32

/-- The cell code at a row and a physical column. -/
def cellAt (t : Tile) (row col : Nat) : Nat := (tabGet 0 t.cells (1056 * row + col)).toNat

/-- A record of a tile, if it holds one at that index. -/
def recAt (t : Tile) (r : Nat) : Option LayerRec := tabFind t.recs r

/-- The fields of record r. -/
def lrAt (t : Tile) (r : Nat) : LR := lrOf ((recAt t r).getD {}).raw

/-! ## Codes (R39) -/

/-- The offset of a top nibble. -/
def topOff (sgn : Bool) : Int := if sgn then 8 else 0

/-- The code of a nibble: a signed top nibble is held in offset binary. -/
def nibCode (sgn top : Bool) (nib : Nat) : Nat := if sgn && top then (nib + 8) % 16 else nib

/-- The raw activations of `rows` record rows in a vector's bytes: INT4 ones lie two to a byte, the lower row first (R41). -/
def rawRows (int8 : Bool) (vec : List (BitVec 8)) (rows : Nat) : List Nat :=
  (upTo rows).map (fun r =>
    let b := ((vec[if int8 then r else r / 2]?).getD 0).toNat
    if int8 then b else if r % 2 = 0 then b % 16 else b / 16)

/-- The input port reads a vector into entry `entry` of the row registers of a record's rows (R36, R45 step 1). -/
def loadRows (t : Tile) (entry : Nat) (lr : LR) (vec : List (BitVec 8)) : Tile :=
  { t with rowIn := (rawRows lr.aInt8 vec lr.rows).zipIdx.foldl (fun m v =>
      tabSet 0 m (512 * entry + lr.rowBase + v.2) (BitVec.ofNat 8 v.1)) t.rowIn }

/-- The raw activation of record row r in an entry of the row registers. -/
def actRaw (t : Tile) (entry : Nat) (lr : LR) (r : Nat) : Nat := (tabGet 0 t.rowIn (512 * entry + lr.rowBase + r)).toNat

/-- The DAC code of a raw activation in pass q, low nibble first (R39, R44). -/
def dacOf (lr : LR) (q v : Nat) : Nat :=
  if lr.aInt8 then (if q = 0 then v % 16 else nibCode lr.aSigned true (v / 16)) else nibCode lr.aSigned true v

/-- The storage offset and the position of pass q (R39). -/
def passOff (lr : LR) (q : Nat) : Int := if lr.aInt8 && decide (q = 0) then 0 else topOff lr.aSigned
def sliceOff (lr : LR) (sl : Nat) : Int := if lr.wInt8 && decide (sl = 0) then 0 else topOff lr.wSigned

/-- Slices of an output. -/
def lrSlices (lr : LR) : Nat := if lr.wInt8 then 2 else 1

/-! ## The column ADC (R43, R65, R77) -/

/-- A(G) of R78 in tenths. -/
def chargeTerm10 (G : Nat) : Nat := if G = 32 then 10 else if G = 64 then 25 else 70

/-- The unit of the exact comparison of R77: 1,024 × 2^k × 8 × 10^13 parts of one charge unit. -/
def adcUnit (k : Nat) : Nat := 1024 * 2 ^ k * 80000000000000

/-- One LSB in that unit. -/
def adcLsb (G : Nat) : Nat := 225 * G * 80000000000000

/-- The error bound E of R77 in that unit, for |ΔT| in 0.125 °C and an age in device ticks of 10 ns. -/
def adcBound (G k dt age : Nat) : Nat :=
  adcLsb G + chargeTerm10 G * (adcUnit k / 10)
  + 225 * G * (40 * dt * (1024 * 2 ^ k * 10000000) + age * (1024 * 2 ^ k * 8))

/-- The code of a conversion of charge Q.  `free` is the ADC's own decision, 1,024 or more for over-range: it is taken where
R77 or the ovr-range rule of R43 allows it, and the ideal code elsewhere; a column with no bound takes it as it is. -/
def adcDecide (G k Q dt age : Nat) (stale : Bool) (free : Nat) : Nat × Bool :=
  let u := adcUnit k
  let lsb := adcLsb G
  let e := adcBound G k dt age
  let thr := 1024 * lsb - lsb / 2
  let ideal := (2 * Q * u + lsb) / (2 * lsb)
  let ovr := decide (1024 ≤ ideal)
  let near (a : Nat) : Bool := decide (a * lsb ≤ Q * u + e ∧ Q * u ≤ a * lsb + e)
  if stale then (if 1024 ≤ free then (1023, true) else (free, false))
  else if 1024 ≤ free then
    (if thr ≤ Q * u + e then (1023, true) else if ovr then (1023, true) else (ideal, false))
  else if near free then (free, false)
  else if ovr then (1023, true)
  else (ideal, false)

/-- |ΔT| of a tile's columns in 0.125 °C (R77). -/
def colDt (t : Tile) : Nat := (t.temp - t.cal.temp).natAbs

/-- A physical column was found out of tolerance, by itself or with its quarter's ladder, and is not yet repaired (R87). -/
def colBad (t : Tile) (c : Nat) : Bool :=
  t.bad.any (fun b => match b with
    | .col d => decide (d = c)
    | .ladder ld => decide (tabGet (c / 264) t.ladders (c / 264) = ld))

/-- The column carries no bound: outside 20 °C or 60 s, or out of tolerance (R79, R87). -/
def colStale (t : Tile) (age c : Nat) : Bool := decide (160 < colDt t ∨ 6000000000 < age) || colBad t c

/-! ## One product (R42, R66–R69) -/

/-- A product's run: the tile with the map, calibration and columns out of tolerance of the product's start, the product, its
record, and the tick at which its conversions are worked out. -/
structure Run where
  t : Tile
  a : Active
  lr : LR
  now : Nat

/-- The run of an active product of a tile. -/
def runOf (k : Tile) (a : Active) (lr : LR) (now : Nat) : Run :=
  ⟨{ k with cal := a.cal, spokes := a.spokes, ladders := a.ladders, bad := a.bad }, a, lr, now⟩

/-- The tile at conversion c, at one of the temperatures that its sensor has had during the product; which, the spec does not say
(R82; a free choice, log 165). -/
def runAt (v : Run) (c : Nat) : Tile :=
  { v.t with temp := (v.a.temps[Config.freeMoment v.a.free (2 * c) % Nat.max 1 v.a.temps.length]?).getD v.t.temp }

/-- Age of the calibration at conversion c, somewhere between the product's start and its completion (R77; a free moment,
log 165). -/
def runAge (v : Run) (c : Nat) : Nat :=
  v.a.tick + Config.freeMoment v.a.free (2 * c + 1) % (v.now - v.a.tick + 1) - v.a.cal.tick

/-- The number of the conversion of group g in pass q (R44). -/
def runConvIx (v : Run) (g q : Nat) : Nat := g * lrPasses v.lr + q

/-- What a product converts to: accumulators by output, over-range columns, conversions with one, stale conversions, and
saturated contributions. -/
structure Converted where
  acc : List Int
  ovrCol : Nat
  ovrConv : Nat
  stale : Nat
  sat : Nat
deriving DecidableEq, Repr

/-- The group's driven rows. -/
def groupRows (lr : LR) (g : Nat) : Nat := Nat.min (lrG lr) (lr.rows - g * lrG lr)

/-- The DAC code of row r in pass q. -/
def dacCode (v : Run) (r q : Nat) : Nat := dacOf v.lr q (actRaw v.t v.a.bank v.lr r)

/-- The ideal charge of group g, pass q, logical column j (R41). -/
def chargeOf (v : Run) (g q j : Nat) : Nat :=
  ((upTo (groupRows v.lr g)).map (fun i =>
    cellAt v.t (v.lr.rowBase + g * lrG v.lr + i) (physCol v.t j) * dacCode v (g * lrG v.lr + i) q)).foldl (· + ·) 0

/-- The activation-code sum Dq. -/
def dacSum (v : Run) (g q : Nat) : Nat := ((upTo (groupRows v.lr g)).map (fun i => dacCode v (g * lrG v.lr + i) q)).foldl (· + ·) 0

/-- The conversion of (g, q, logical column j) carries no bound. -/
def convStale (v : Run) (g q j : Nat) : Bool := colStale (runAt v (runConvIx v g q)) (runAge v (runConvIx v g q)) (physCol v.t j)

/-- The conversion of (g, q, logical column j). -/
def convAt (v : Run) (g q j : Nat) : Nat × Bool :=
  adcDecide (lrG v.lr) v.lr.adcRange (chargeOf v g q j) (colDt (runAt v (runConvIx v g q))) (runAge v (runConvIx v g q)) (convStale v g q j)
    (Config.freeAdc v.a.free (runConvIx v g q) (physCol v.t j))

/-- The parameter entry of group g and record column i (R52). -/
def paramAt (t : Tile) (lr : LR) (g i : Nat) : Nat := (tabGet 0 t.params (lr.paramBase + g * lr.cols + i)).toNat

/-- Sum over a list of integers. -/
def sumInt (l : List Int) : Int := l.foldl (· + ·) 0

/-- The group sum S of R42 as a word with 13 fraction bits, for output j. -/
def groupSum (v : Run) (g j : Nat) : Int :=
  let lr := v.lr
  let nr : Int := groupRows lr g
  sumInt ((upTo (lrPasses lr)).map (fun q =>
    sumInt ((upTo (lrSlices lr)).map (fun sl =>
      let i := lrSlices lr * j + sl
      let a : Int := (convAt v g q (lr.colBase + i)).1
      let qhat : Int := a * (225 * lrG lr * 2 ^ (3 - lr.adcRange) : Nat)
      let cw : Int := paramAt v.t lr g i % 65536
      let corr : Int := - passOff lr q * cw - sliceOff lr sl * dacSum v g q + nr * sliceOff lr sl * passOff lr q
      (qhat + corr * 8192) * (16 ^ (q + sl) : Nat)))))

/-- The weight zero point of group g and output j (R67). -/
def zwOf (t : Tile) (lr : LR) (g j : Nat) : Int :=
  if !lr.wAsym then 0
  else if lr.wInt8 then signedOf 16 (paramAt t lr g (2 * j + 1) / 65536)
  else signedOf 5 (bitsOf (paramAt t lr g j) 31 27)

/-- Mantissa and exponent of the rescale field (R67). -/
def scaleOf (t : Tile) (lr : LR) (g j : Nat) : Nat × Nat :=
  let w := paramAt t lr g (lrSlices lr * j) / 65536
  if lr.wAsym && !lr.wInt8 then (w % 64, bitsOf w 10 6) else (w % 2048, bitsOf w 15 11)

/-- S′ of R66, with 13 fraction bits. -/
def groupSumAsym (v : Run) (g j : Nat) : Int :=
  let lr := v.lr
  let nr : Int := groupRows lr g
  let zw := zwOf v.t lr g j
  let za' : Int := if lr.aAsym then v.a.za else 0
  let wsum := sumInt ((upTo (lrSlices lr)).map (fun sl =>
    ((16 ^ sl : Nat) : Int) * ((paramAt v.t lr g (lrSlices lr * j + sl) % 65536 : Nat) - nr * sliceOff lr sl)))
  let xsum := sumInt ((upTo (lrPasses lr)).map (fun q => ((16 ^ q : Nat) : Int) * ((dacSum v g q : Nat) - nr * passOff lr q)))
  groupSum v g j + (- za' * wsum - zw * xsum + nr * za' * zw) * 8192

/-- Bounds of the accumulator. -/
def accLo : Int := - (2 ^ 31 : Nat)
def accHi : Int := (2 ^ 31 : Nat) - 1

/-- Add one group's contribution to an accumulator (R69): the value, and whether the clamp or the addition saturated. -/
def accStep (acc sp : Int) (m e eps : Nat) : Int × Bool :=
  let c := rneDivInt (sp * m) (2 ^ (13 + e + eps))
  let c1 := clampInt accLo accHi c
  let a1 := clampInt accLo accHi (acc + c1)
  (a1, decide (c1 ≠ c ∨ a1 ≠ acc + c1))

/-- The accumulator of output j over all groups, with the count of saturated contributions. -/
def accOf (v : Run) (j : Nat) : Int × Nat :=
  (upTo (lrGroups v.lr)).foldl (fun a g =>
    let me := scaleOf v.t v.lr g j
    let r := accStep a.1 (groupSumAsym v g j) me.1 me.2 (bitsOf v.a.eps.toNat (4 * g + 3) (4 * g))
    (r.1, a.2 + if r.2 then 1 else 0)) (0, 0)

/-- What a product's run gives (R42–R44, R69, R79). -/
def convertProduct (v : Run) : Converted :=
  let lr := v.lr
  let convs := (upTo (lrGroups lr)).flatMap (fun g => (upTo (lrPasses lr)).map (fun q => (g, q)))
  let ovr (g q : Nat) : Nat := ((upTo lr.cols).filter (fun i => (convAt v g q (lr.colBase + i)).2)).length
  let accs := (upTo (lrOuts lr)).map (accOf v)
  { acc := accs.map (·.1),
    ovrCol := (convs.map (fun p => ovr p.1 p.2)).foldl (· + ·) 0,
    ovrConv := (convs.filter (fun p => decide (ovr p.1 p.2 ≠ 0))).length,
    stale := (convs.filter (fun p => (upTo lr.cols).any (fun i => convStale v p.1 p.2 (lr.colBase + i)))).length,
    sat := (accs.map (·.2)).foldl (· + ·) 0 }

/-- Count what a conversion of tile t of cluster n met (R43, R62, R69, R79, R83). -/
def countConverted (s : State) (n t : Nat) (convs : Nat) (r : Converted) : State :=
  let s1 := addCtr s (tileCtr n t 1) convs
  let s2 := addCtr s1 (tileCtr n t 2) r.ovrConv
  let s3 := addCtr s2 (tileCtr n t 3) r.ovrCol
  let s4 := addCtr s3 (cAccSat n) r.sat
  addCtr s4 (cStaleConv n) r.stale

/-! ## Drains (R48, R55, R70) -/

/-- A δ that is NaN, infinite or subnormal is treated as 0. -/
def badDelta (d : Nat) : Bool := decide (bitsOf d 14 7 = 255 ∨ (bitsOf d 14 7 = 0 ∧ d % 128 ≠ 0))

/-- acc × δ as an exact value. -/
def drainProduct (acc : Int) (d : Nat) : Fl :=
  if badDelta d then flMul (flOfInt acc) (.fin false 0 0) else flMul (flOfInt acc) (flOfBits .bf16 d)

/-- One drained value in a drain format (0 INT32, 1 BF16, 2 INT8, 3 INT4), and whether it saturated (R70). -/
def drainValue (fmt : Nat) (acc : Int) (d : Nat) : Nat × Bool :=
  match fmt with
  | 0 => (wrapOf 32 acc, false)
  | 1 =>
    let x := drainProduct acc d
    let r := roundFl .bf16 x
    if r.ovf then ((match x with | .fin true _ _ => 0xFF7F | _ => 0x7F7F), true) else (r.bits, false)
  | 2 =>
    let v := (flRne (drainProduct acc d)).getD 0
    (wrapOf 8 (clampInt (-128) 127 v), decide (v < -128 ∨ 127 < v))
  | _ =>
    let v := (flRne (drainProduct acc d)).getD 0
    (wrapOf 4 (clampInt (-8) 7 v), decide (v < -8 ∨ 7 < v))

/-- Pack INT4 values two to a byte, the lower output in bits [3:0].  With an odd number of values the spec does not give bits [7:4]
of the last byte: the model writes 0 (DESIGN CHOICE, log 155). -/
def packNibbles : List Nat → List (BitVec 8)
  | [] => []
  | [a] => [BitVec.ofNat 8 (a % 16)]
  | a :: b :: t => BitVec.ofNat 8 (a % 16 + b % 16 * 16) :: packNibbles t

/-- The bytes of drained values. -/
def drainBytes (fmt : Nat) (vs : List Nat) : List (BitVec 8) :=
  match fmt with
  | 0 => vs.flatMap (fun v => natLe v 4)
  | 1 => vs.flatMap (fun v => natLe v 2)
  | 2 => vs.flatMap (fun v => natLe v 1)
  | _ => packNibbles vs

/-- A saturating 32-bit add (R55). -/
def satAdd32 (a b : Int) : Int × Bool :=
  let c := clampInt accLo accHi (a + b)
  (c, decide (c ≠ a + b))

/-- Add values to consecutive 32-bit words of the store, counting saturations. -/
def addWords (m : List (Nat × BitVec 8)) (a : Nat) : List Int → List (Nat × BitVec 8) × Nat
  | [] => (m, 0)
  | v :: vs =>
    let r := satAdd32 (signedOf 32 (memLe m a 4)) v
    let rest := addWords (memPutBytes m a (natLe (wrapOf 32 r.1) 4)) (a + 4) vs
    (rest.1, rest.2 + if r.2 then 1 else 0)

/-- Drain accumulators to the store of physical cluster n (R48, R55, R70). -/
def drainTo (s : State) (n t : Nat) (lr : LR) (outAddr delta : Nat) (accs : List Int) : State :=
  if lr.drainAdd then
    let r := addWords s.store (storeBase n + outAddr) accs
    addCtr { s with store := r.1 } (tileCtr n t 4) r.2
  else
    let vs := accs.map (fun a => drainValue lr.drainFmt a delta)
    let s1 : State := { s with store := memPutBytes s.store (storeBase n + outAddr) (drainBytes lr.drainFmt (vs.map (·.1))) }
    let s2 := addCtr s1 (cDrainSat n) (vs.filter (·.2)).length
    if lr.drainFmt ≠ 0 && badDelta delta then bump s2 (cBadScale n) else s2

/-! ## Programming (R56) -/

/-- Write one row of logical codes: 512 bytes, the lower column in bits [3:0], each to the column that serves it. -/
def writeRow (t : Tile) (row : Nat) (codes : List (BitVec 8)) : Tile :=
  { t with cells := (upTo 1024).foldl (fun cs j =>
      let b := ((codes[j / 2]?).getD 0).toNat
      tabSet 0 cs (1056 * row + physCol t j) (BitVec.ofNat 4 (if j % 2 = 0 then b else b / 16))) t.cells }

/-- Program a record's rows and parameter entries from their bytes: row codes, then 4-byte entries (R52, R56, R159). -/
def programRecord (t : Tile) (lr : LR) (bytes : List (BitVec 8)) : Tile :=
  let t1 := (upTo lr.rows).foldl (fun t i => writeRow t (lr.rowBase + i) ((bytes.drop (512 * i)).take 512)) t
  let ps := bytes.drop (512 * lr.rows)
  { t1 with params := (upTo (lrEntries lr)).foldl (fun m i =>
      tabSet 0 m (lr.paramBase + i) (BitVec.ofNat 32 (leNat ((ps.drop (4 * i)).take 4)))) t1.params }

/-- The next program request routes a moving column's codes to its spoke too (R99). -/
def routeSpoke (t : Tile) (lr : LR) (bytes : List (BitVec 8)) : Tile :=
  match t.move with
  | some m =>
    if m.routed then t
    else { t with move := some { m with routed := true },
                  cells := (upTo lr.rows).foldl (fun cs i =>
                    let b := ((bytes[512 * i + m.col / 2]?).getD 0).toNat
                    tabSet 0 cs (1056 * (lr.rowBase + i) + 33 * m.spoke + 32) (BitVec.ofNat 4 (if m.col % 2 = 0 then b else b / 16))) t.cells }
  | none => t

/-- Bytes of one block of an APROG source, padded to 64 (R159). -/
def progBytes (lr : LR) : Nat := 512 * lr.rows + 4 * lrEntries lr
def progBlock (lr : LR) : Nat := ceilDiv (progBytes lr) 64 * 64

/-- Core cycles that programming a record takes from a fast source: N_w + 16 (R56). -/
def progCycles (lr : LR) : Nat := Nat.max lr.rows (ceilDiv (4 * lrEntries lr) 256) + 16

end Sys2Proof.Machine
end

