-- ==== Sys2Proof/Machine/Array.lean ====
section
/-! DEFINITION. Array instructions and the events of a tile's queue (R45–R47, R54, R58, R60, R156–R159). -/

namespace Sys2Proof.Machine
open Sys2Proof

/-- The tiles a handle names: index among the named, slot and tile key. -/
def namedTiles (s : State) (l mask : Nat) : List (Nat × Nat × Nat) :=
  (slotsOf mask).zipIdx.map (fun p => (p.2, p.1, tileOfSlot s l p.1))

/-- The record a named tile holds at an index, when it belongs to the thread's module (R156). -/
def ownRec (s : State) (t : Thread) (key r : Nat) : Option LayerRec :=
  match recAt (tileAt s key) r with
  | some x => if x.modSlot = t.modSlot then some x else none
  | none => none

/-- The checks of an array handle that ARR and APROG share: reserved values, and a record of the thread's module. -/
def handleChecks (s : State) (lt : BitVec 12) (t : Thread) (h : AH) : List (Option Exc) :=
  [chk (decide (h.tiles ≠ 0) && !h.resv) .badHandle,
   chk ((slotsOf h.tiles).all (fun j =>
     decide (slotTile s (physOf s (lcluOf lt)) j ≠ 31) && (ownRec s t (tileOfSlot s (lcluOf lt) j) h.recIx).isSome)) .noRecord]

/-- Where named tile i drains (R118). -/
def drainAddr (h : AH) (i : Nat) : Nat := h.outAddr + i * h.outStride * 64

/-- The checks of ARR (R156), each named tile against its own record. -/
def arrChecks (s : State) (lt : BitVec 12) (f : Fields) (t : Thread) : List (Option Exc) :=
  let h := ahOf (readA t f.d.toNat)
  handleChecks s lt t h ++
  [chk (decide (h.inAddr % 64 = 0 ∧ h.outAddr % 64 = 0 ∧ h.scaleAddr % 16 = 0)) .misaligned,
   chkRead t ⟨h.scaleAddr, 16⟩] ++
  (namedTiles s (lcluOf lt) h.tiles).flatMap (fun p =>
    let lr := lrAt (tileAt s p.2.2) h.recIx
    [chkRead t ⟨h.inAddr, lrInBytes lr⟩, chkWrite t ⟨drainAddr h p.1, lrOutBytes lr⟩])

/-- A product enters each named tile's queue (R54). -/
def pushProducts (s : State) (lt : BitVec 12) (f : Fields) (seq : Nat) (h : AH) : State :=
  (namedTiles s (lcluOf lt) h.tiles).foldl (fun s p =>
    modTile s p.2.2 (fun k => { k with queue := k.queue ++
      [.product { lt := lt, reg := f.d.toNat, seq := seq, recIx := h.recIx, inAddr := h.inAddr,
                  outAddr := drainAddr h p.1, scaleAddr := h.scaleAddr, dfence := decide (immBits f 0 0 = 1),
                  berth := (thread s lt).berth, client := (thread s lt).client }] })) s

/-- tile-ns of a product: I × 2 ns on each named tile (R255). -/
def productNs (s : State) (l : Nat) (h : AH) : Nat :=
  ((namedTiles s l h.tiles).map (fun p => 2 * lrInterval (lrAt (tileAt s p.2.2) h.recIx))).foldl (· + ·) 0

/-- The thread after an array command: a`d` pending on its named tiles, one more outstanding on the tiles. -/
def markArray (t : Thread) (reg tiles : Nat) : Thread :=
  let t1 := setPendA (addOutst t 0) reg true
  { t1 with aleft := tabSet 0 t1.aleft reg tiles, aseq := t1.aseq + 1 }

/-- ARR: one product on every named tile slot (R156, R157). -/
def execArr (lt : BitVec 12) (f : Fields) (s : State) : Host.Outcome State Fault Refusal :=
  .next (issue s lt 0x20 f (arrChecks s lt f)
    (fun t =>
      let m := (ahOf (readA t f.d.toNat)).tiles
      if tilesFull s (lcluOf lt) m then some (.room 0 (BitVec.ofNat 16 m)) else none)
    (fun s' t =>
      let h := ahOf (readA t f.d.toNat)
      let s1 := pushProducts s' lt f t.aseq h
      modBerth (setThread s1 lt (markArray t f.d.toNat (slotsOf h.tiles).length)) t.berth
        (fun b => { b with tile3 := b.tile3 + 3 * productNs s' (lcluOf lt) h })))

/-- The blocks of an APROG source before each named tile's own. -/
def progOffset (s : State) (l : Nat) (h : AH) (i : Nat) : Nat :=
  (((namedTiles s l h.tiles).take i).map (fun p => progBlock (lrAt (tileAt s p.2.2) h.recIx))).foldl (· + ·) 0

/-- The checks of APROG (R159). -/
def aprogChecks (s : State) (lt : BitVec 12) (f : Fields) (t : Thread) : List (Option Exc) :=
  let h := ahOf (readA t f.d.toNat)
  let src := readS t f.y.toNat
  let n := progOffset s (lcluOf lt) h 16
  handleChecks s lt t h ++
  [chk ((slotsOf h.tiles).all (fun j =>
     ((recAt (tileAt s (tileOfSlot s (lcluOf lt) j)) h.recIx).map (·.streamed)).getD false)) .engineLimit,
   chk (decide (bitsOf src.toNat 39 0 % 64 = 0)) .misaligned,
   chk (decide (bitsOf src.toNat 63 60 = 1) && (pmRange s lt t src n).isSome) .storeBounds]

/-- APROG: a program request on every named tile and one entry of the stream mover's queue (R159). -/
def execAprog (lt : BitVec 12) (f : Fields) (s : State) : Host.Outcome State Fault Refusal :=
  .next (issue s lt 0x21 f (aprogChecks s lt f)
    (fun t =>
      let m := (ahOf (readA t f.d.toNat)).tiles
      if tilesFull s (lcluOf lt) m || queueFull s (lcluOf lt) 5 then some (.room 5 (BitVec.ofNat 16 m)) else none)
    (fun s' t =>
      let l := lcluOf lt
      let h := ahOf (readA t f.d.toNat)
      let src := pmAddr s' lt t (readS t f.y.toNat)
      let s1 := (namedTiles s' l h.tiles).foldl (fun s p =>
        modTile s p.2.2 (fun k => { k with queue := k.queue ++
          [.program { lt := lt, reg := f.d.toNat, recIx := h.recIx, src := src + progOffset s' l h p.1,
                      berth := t.berth, client := t.client }] })) s'
      let s2 := setQueue s1 l 5 (queue s1 l 5 ++ [mkCmd s1 lt t 0x21 f])
      setThread s2 lt (addOutst (markArray t f.d.toNat (slotsOf h.tiles).length) 5)))

/-! ## Events of a tile -/

/-- Physical cluster n and tile t exist. -/
def tileExists (n t : Nat) : Bool := decide (n < 18 ∧ t < 17)

/-- The half of the array that a record uses (R60). -/
def halfOf (t : Tile) (r : Nat) : Nat := (lrAt t r).half

/-- A program request holds back a product: any in native mode, one on the same half in shadow-load mode (R58, R60). -/
def progBlocks (t : Tile) (r : Nat) (q : ProgReq) : Bool := !t.shadow || decide (halfOf t r = halfOf t q.recIx)

/-- The first product of a queue that no earlier program request holds back, with the queue without it.  `pre` are the entries
passed over: the program requests, and products on the half of one, which do not delay the other half's (R60, R61). -/
def takeProduct (t : Tile) (pre : List TileJob) : List TileJob → Option (Product × List TileJob)
  | [] => none
  | .product p :: q =>
    if pre.any (fun j => match j with | .program g => progBlocks t p.recIx g | .product _ => false)
       || t.progs.any (progBlocks t p.recIx) then takeProduct t (pre ++ [.product p]) q
    else some (p, pre ++ q)
  | .program g :: q => takeProduct t (pre ++ [.program g]) q

/-- A queued or active product of thread lt issued before seq lies in some tile of cluster n (R158). -/
def earlierProduct (s : State) (n : Nat) (lt : BitVec 12) (seq : Nat) : Bool :=
  (upTo 17).any (fun t =>
    let k := tileAt s (tileKey n t)
    k.queue.any (fun j => match j with | .product p => decide (p.lt = lt ∧ p.seq < seq) | .program _ => false)
    || k.actives.any (fun a => decide (a.p.lt = lt ∧ a.p.seq < seq)))

/-- Store a product's accumulators in a bank. -/
def fillBank (t : Tile) (bank : Nat) (accs : List Int) : Tile :=
  { t with banks := accs.zipIdx.foldl (fun m a => tabSet 0 m (1024 * bank + a.2) (BitVec.ofInt 32 a.1)) t.banks }

/-- The accumulators a bank holds for a record. -/
def bankAccs (t : Tile) (bank : Nat) (lr : LR) : List Int :=
  (upTo (lrOuts lr)).map (fun j => (tabGet 0 t.banks (1024 * bank + j)).toInt)

/-- The queued products of one command on the tiles of a cluster: those of its thread and number. -/
def sameCommand (p : Product) (j : TileJob) : Bool :=
  match j with | .product x => decide (x.lt = p.lt ∧ x.seq = p.seq) | .program _ => false

/-- The longest input of a command's products that tile k still has queued (R54). -/
def longestInput (k : Tile) (p : Product) : Nat :=
  (k.queue.filter (sameCommand p)).foldl (fun m j =>
    match j with | .product x => Nat.max m (lrInBytes (lrAt k x.recIx)) | .program _ => m) 0

/-- Give a vector to the queued products of a command. -/
def giveVec (p : Product) (vec : List (BitVec 8)) (k : Tile) : Tile :=
  { k with queue := k.queue.map (fun j =>
      match j with
      | .product x => if sameCommand p j then .product { x with vec := some vec } else .product x
      | .program g => .program g) }

/-- The cluster store reads the longest input of a command once and broadcasts it to the tiles that the command names (R54).  The
spec does not say when a tile that is still busy gets it: the read takes place with the first tile's start (DESIGN CHOICE, log 166). -/
def broadcast (s : State) (n : Nat) (p : Product) : State :=
  match p.vec with
  | some _ => s
  | none =>
    let len := (upTo 17).foldl (fun m t => Nat.max m (longestInput (tileAt s (tileKey n t)) p)) 0
    let vec := memBytes s.store (storeBase n + p.inAddr) len
    storeMoved { s with tiles := s.tiles.map (fun e => (e.1, if e.1 / 17 = n then giveVec p vec e.2 else e.2)) } p.client len

/-- The active product of a product taken by tile k of cluster n: it reads its scale word, and meets the tile as it is (R45, R61). -/
def activeOf (s : State) (n : Nat) (k : Tile) (p : Product) : Active :=
  let w := memLe s.store (storeBase n + p.scaleAddr) 16
  { p := { p with vec := none }, bank := k.nextBank, eps := BitVec.ofNat 64 (bitsOf w 63 0), delta := BitVec.ofNat 16 (bitsOf w 79 64),
    za := signedOf 16 (bitsOf w 95 80), held := p.dfence && earlierProduct s n p.lt p.seq, cal := k.cal, spokes := k.spokes,
    ladders := k.ladders, bad := k.bad, tick := s.tick.toNat, temps := [k.temp], free := s.free }

/-- PRODUCT_START: the tile takes the next product and reads its vector into the row registers' free entry, and its scale word
(R45, R47). -/
def startProduct (s : State) (n t : Nat) : State :=
  match takeProduct (tileAt s (tileKey n t)) [] (tileAt s (tileKey n t)).queue with
  | none => s
  | some (p, _) =>
    let s1 := broadcast s n p
    let k := tileAt s1 (tileKey n t)
    match takeProduct k [] k.queue with
    | none => s
    | some (p1, q) =>
      if k.actives.any (fun a => decide (a.bank = k.nextBank)) then s
      else
        let k1 := loadRows { k with queue := q, actives := k.actives ++ [activeOf s1 n k p1], nextBank := 1 - k.nextBank }
          k.nextBank (lrAt k p1.recIx) (p1.vec.getD [])
        wake (useFree (setTile s1 (tileKey n t) k1)) (lcluOf p1.lt)

def execProductStart (n t : Nat) (s : State) : Host.Outcome State Fault Refusal :=
  onUnit (tileExists n t) (startProduct s n t)

/-- One named tile of the command that marked a`reg` is done; the last clears the mark, unless the command's berth `b` has left the thread
meanwhile (R127, R153). -/
def arrayDone (s : State) (lt b : BitVec 12) (reg : Nat) : State :=
  let t := thread s lt
  let left := tabGet 0 t.aleft reg - 1
  let t1 := { t with aleft := tabSet 0 t.aleft reg left }
  let t2 := if left = 0 then setPendA (subOutst t1 0) reg false else t1
  wake (if t.berth = b then setThread s lt t2 else s) (lcluOf lt)

/-- PRODUCT_COMPLETE: the oldest product's conversions, rescales and accumulations are done, its drain commits and the tile signals
completion (R45, R47).  Where in a drain's interval each word is written, the spec leaves open (R506): the model writes them all
here, so an earlier reader sees old words only (DESIGN CHOICE, log 154). -/
def completeProduct (s : State) (n t : Nat) : State :=
  let k := tileAt s (tileKey n t)
  match k.actives with
  | [] => s
  | a :: rest =>
    if a.held then s
    else
      let lr := lrAt k a.p.recIx
      let r := convertProduct (runOf k a lr s.tick.toNat)
      let k1 := fillBank { k with actives := rest } a.bank r.acc
      let s1 := countConverted s n t (lrConvs lr) r
      let s2 := drainTo s1 n t lr a.p.outAddr a.delta.toNat (bankAccs k1 a.bank lr)
      let moved := 16 + (if lr.drainAdd then 2 else 1) * lrOutBytes lr
      arrayDone (storeMoved (bump (setTile s2 (tileKey n t) k1) (tileCtr n t 0)) a.p.client moved) a.p.lt a.p.berth a.p.reg

def execProductComplete (n t : Nat) (s : State) : Host.Outcome State Fault Refusal :=
  onUnit (tileExists n t) (completeProduct s n t)

/-- DRAIN_FENCE_RELEASE: a held drain begins once every earlier product of the thread has completed; the cycles of the hold
are counted (R158, R176). -/
def releaseDrain (s : State) (n t : Nat) (cycles : BitVec 48) : State :=
  let k := tileAt s (tileKey n t)
  match k.actives with
  | [] => s
  | a :: rest =>
    if a.held && !earlierProduct s n a.p.lt a.p.seq then
      addCtr (setTile s (tileKey n t) { k with actives := { a with held := false } :: rest }) (cDrainHold n) cycles.toNat
    else s

def execDrainFenceRelease (n t : Nat) (cycles : BitVec 48) (s : State) : Host.Outcome State Fault Refusal :=
  onUnit (tileExists n t) (releaseDrain s n t cycles)

/-- The first program request of a queue that no product ahead of it holds back, with the queue without it (R58, R60). -/
def takeProgram (t : Tile) (pre : List TileJob) : List TileJob → Option (ProgReq × List TileJob)
  | [] => none
  | .program g :: q =>
    if pre.any (fun j => match j with | .product p => progBlocks t p.recIx g | .program h => progBlocks t h.recIx g)
       || t.actives.any (fun a => progBlocks t a.p.recIx g) || t.progs.any (progBlocks t g.recIx) then
      takeProgram t (pre ++ [.program g]) q
    else some (g, pre ++ q)
  | .product p :: q => takeProgram t (pre ++ [.product p]) q

/-- PROGRAM_REQUEST_START (R56, R58). -/
def startProgram (s : State) (n t : Nat) : State :=
  let k := tileAt s (tileKey n t)
  match takeProgram k [] k.queue with
  | none => s
  | some (g, q) =>
    wake (setTile s (tileKey n t) { k with queue := q, progs := k.progs ++ [{ g with tick := s.tick.toNat }] }) (lcluOf g.lt)

def execProgramRequestStart (n t : Nat) (s : State) : Host.Outcome State Fault Refusal :=
  onUnit (tileExists n t) (startProgram s n t)

/-- The duration of a program request in thirds of a nanosecond: N_w + 16 core cycles, or the device time since its start where the
source took longer (R56, R57). -/
def programTime (s : State) (lr : LR) (g : ProgReq) : Nat := Nat.max (2 * progCycles lr) (30 * (s.tick.toNat - g.tick))

/-- PROGRAM_READY: rows and parameter entries are in place and settled (R56 step 5).  Of the rows that R62 calls written by program
requests the model counts those of APROG's requests, not those of a load, a refresh or a copy (DESIGN CHOICE, log 157). -/
def programReady (s : State) (n t : Nat) : State :=
  let k := tileAt s (tileKey n t)
  match k.progs with
  | [] => s
  | g :: rest =>
    let lr := lrAt k g.recIx
    let bs := pmBytes s g.src (progBytes lr)
    let k1 := routeSpoke (programRecord { k with progs := rest } lr bs) lr bs
    let s1 := modBerth (addCtr (setTile s (tileKey n t) k1) (tileCtr n t 5) lr.rows) g.berth
      (fun b => { b with tile3 := b.tile3 + programTime s lr g })
    arrayDone (movePm s1 n g.client false g.src (progBytes lr)) g.lt g.berth g.reg

def execProgramReady (n t : Nat) (s : State) : Host.Outcome State Fault Refusal :=
  onUnit (tileExists n t) (programReady s n t)

end Sys2Proof.Machine
end

