-- ==== Sys2Proof/Machine/BerthItems.lean ====
section
/-! DEFINITION. The items that name a berth (R194, R195, R263–R267, R314, R317), and IMPORT (R198, R199). -/

namespace Sys2Proof.Machine
open Sys2Proof

/-- The item ends with BAD_DESCRIPTOR for the berth's state. -/
def badItemState (s : State) (c : BitVec 10) (i : Item) : State := badItem s c i 0 5

/-! ## FRAME (R27, R305, R317) -/

def frameCount (i : Item) : Nat := leAt (part0 i) 16 1 % 32
def frameInline (i : Item) : Bool := decide (bitsOf (leAt (part0 i) 16 1) 5 5 = 1)
/-- The data bytes of an inline FRAME. -/
def inlineBytes (i : Item) (n : Nat) : List (BitVec 8) := ((i.parts.drop 1).flatMap (fun p => (p.drop 16).take 48)).take n

/-- The frames of an item land in the input range; the item then waits for their visibility.  A FRAME whose data lies in host memory
counts as accepted, in the sense of R27, once its read has landed, not when the item is checked and begun: R27 speaks of the frame's
descriptor and R321 of the first data read, so the moment is a DESIGN CHOICE (log 152). -/
def landFrames (s : State) (c : BitVec 10) (i : Item) (bs : List (BitVec 8)) : State :=
  let e := berth s i.berth
  let m := berthModel s e
  let n := frameCount i
  let s1 := (upTo n).foldl (fun s k =>
    let a := frameAddr e m (e.framesIn + k)
    hubPm (pmPut s a ((bs.drop (k * m.frameBytes)).take m.frameBytes)) e.client true a m.frameBytes) s
  let s2 := setBerth s1 i.berth { e with framesIn := e.framesIn + n, framesDue := e.framesDue - n }
  modItem s2 c i.seq (fun j => { j with aux := 1, parts := j.parts.take 1, data := none })

/-- A FRAME item that has begun and whose data is here, with the frames due next on its berth. -/
def dueFrames (s : State) (b : BitVec 12) : Option (BitVec 10 × Item × List (BitVec 8)) :=
  let next := (berth s b).framesIn
  s.clients.findSome? (fun e => e.2.items.findSome? (fun i =>
    if i.op = 4 ∧ i.begun ∧ i.aux = 0 ∧ i.berth = b ∧ i.slot = next then i.data.map (fun bs => (BitVec.ofNat 10 e.1, i, bs)) else none))

/-- Frames land in the order of submission, whichever data comes first (R27). -/
def landDue (s : State) (b : BitVec 12) : Nat → State
  | 0 => s
  | n + 1 => match dueFrames s b with
    | some (c, i, bs) => landDue (landFrames s c i bs) b n
    | none => s

/-- The data of a FRAME item is here. -/
def frameData (s : State) (c : BitVec 10) (i : Item) (bs : List (BitVec 8)) : State :=
  landDue (modItem s c i.seq (fun j => { j with data := some bs })) i.berth 65

/-- An earlier FRAME of the client on the same berth has not completed: a refusal waits for it, since items on one berth complete in
ring order (R313). -/
def frameBefore (s : State) (c : BitVec 10) (i : Item) : Bool :=
  ((client s c).items.takeWhile (fun j => decide (j.seq ≠ i.seq))).any (fun j => decide (j.op = 4 ∧ j.berth = i.berth))

/-- The frames of a begun item whose data will not come: the later ones of the berth move up. -/
def frameLost (s : State) (i : Item) : State :=
  let n := frameCount i
  let s1 := modBerth s i.berth (fun e => { e with framesDue := e.framesDue - n })
  let s2 : State := { s1 with clients := s1.clients.map (fun e => (e.1, { e.2 with items := e.2.items.map (fun j =>
    if j.op = 4 ∧ j.begun ∧ j.aux = 0 ∧ j.berth = i.berth ∧ i.slot < j.slot then { j with slot := j.slot - n } else j) })) }
  landDue s2 i.berth 65

/-- A read for a FRAME ended in error: reason 7, in its turn (R305). -/
def frameError (s : State) (c : BitVec 10) (i : Item) : State :=
  let s1 := frameLost (modItem s c i.seq (fun j => { j with aux := 2 })) i
  if frameBefore s1 c i then s1 else badItem s1 c i 0 7

def runFrame (c : BitVec 10) (s : State) (i : Item) (e : Berth) : State :=
  let m := berthModel s e
  let d := part0 i
  let n := frameCount i
  let bad (reason : Nat) : State := if frameBefore s c i then s else badItem s c i 0 reason
  if 64 ≤ leAt d 16 1 ∨ !restZero d [(16, 1), (24, 8)] then bad 1
  else if (routeOf s i.berth true).isSome then bad 5
  else if n = 0 ∨ 16 < n ∨ m.frameBytes = 0 then bad 2
  else if i.parts.length ≠ (if frameInline i then 1 + ceilDiv (n * m.frameBytes) 48 else 1) then bad 3
  else if e.inDepth < e.framesIn + e.framesDue - e.framesFreed + n then holdItem s c i
  else
    let s1 := setBerth s i.berth { e with framesDue := e.framesDue + n }
    let s2 := modItem s1 c i.seq (fun j => { j with begun := true, held := false, slot := e.framesIn + e.framesDue })
    if frameInline i then frameData s2 c i (inlineBytes i (n * m.frameBytes)) else s2

/-! ## OUT_RET, SET_LIMIT, LEAVE (R245, R263, R317) -/

def runOutRet (c : BitVec 10) (s : State) (i : Item) : State :=
  let e := berth s i.berth
  let n := leAt (part0 i) 16 4
  if e.st = .free ∨ e.st = .draining then badItemState s c i
  else if !restZero (part0 i) [(16, 4)] then badItem s c i 0 1
  else if n = 0 ∨ 65536 < n ∨ e.destAudio ∨ e.obBlocks + e.filled < e.returned + n then badItem s c i 0 2
  else completeItem (setBerth s i.berth { e with returned := e.returned + n }) c i stOk (berthDetail i.berth)

def runSetLimit (c : BitVec 10) (s : State) (i : Item) (e : Berth) : State :=
  let v := leAt (part0 i) 16 4
  if 2 ^ 24 ≤ v ∨ !restZero (part0 i) [(16, 4)] then badItem s c i 0 1
  else if v < e.step then badItem s c i 0 2
  else completeItem (setBerth s i.berth { e with stepLast := BitVec.ofNat 24 v }) c i stOk (berthDetail i.berth)

/-- LEAVE: at the next boundary; at once on a cluster that is being saved or is saved (R138). -/
def runLeave (c : BitVec 10) (s : State) (i : Item) (e : Berth) : State :=
  if !restZero (part0 i) [] then badItem s c i 0 1
  else
    let s1 := beginItem (setBerth s i.berth { e with leaveDue := true }) c i
    if frozenNow s e then leaveAtOnce s1 i.berth else s1

/-! ## PARK and UNPARK (R194) -/

def runPark (c : BitVec 10) (s : State) (i : Item) (e : Berth) : State :=
  if !restZero (part0 i) [] then badItem s c i 0 1
  else if awayNow s e || e.moveThr.isSome then holdItem s c i
  else if e.st = .parked then
    if e.copyBack || e.unparkDue then holdItem s c i
    else if e.copying then beginItem s c i
    else completeItem s c i stOk (berthDetail i.berth)
  else beginItem (setBerth s i.berth { e with parkDue := true }) c i

def runUnpark (c : BitVec 10) (s : State) (i : Item) (e : Berth) : State :=
  if !restZero (part0 i) [] then badItem s c i 0 1
  else if awayNow s e || e.moveThr.isSome then holdItem s c i
  else if e.st = .parked then
    if e.copying && !e.copyBack then holdItem s c i
    else if e.unparkDue then completeItem s c i stOk (berthDetail i.berth)
    else beginItem (setBerth s i.berth { e with copying := true, copyBack := true }) c i
  else if e.parkDue then holdItem s c i
  else completeItem s c i stOk (berthDetail i.berth)

/-- The swap area of a berth. -/
def swapAt (e : Berth) : Nat := region0Base e
def winLen (e : Berth) : Nat := e.stRes * 64

/-- Complete the begun items of an opcode on a berth. -/
def completeBegun (s : State) (b : BitVec 12) (op : Nat) : State :=
  completeAll s (fun i => i.begun && decide (i.op = op ∧ i.berth = b)) stOk (fun _ => berthDetail b)

/-- Items that wait on berth b may be taken up again. -/
def unholdBerth (s : State) (b : BitVec 12) : State := unhold s (fun i => namesBerth i.op && decide (i.berth = b))

/-- PARK_COPY_DONE: the window lies in the swap area (R194). -/
def parkCopyDone (s : State) (b : BitVec 12) : State :=
  let e := berth s b
  if e.copying ∧ !e.copyBack ∧ e.st ≠ .free then
    let l := lcluOf e.lthread
    let s1 := hubPm (pmPut s (swapAt e) (storeBytes s l e.winBase (winLen e))) e.client true (swapAt e) (winLen e)
    let s2 := bump (setBerth s1 b { e with copying := false }) (seqDevCtr 0)
    unholdBerth (completeBegun s2 b 0x07) b
  else s
def execParkCopyDone (b : BitVec 12) (s : State) : Host.Outcome State Fault Refusal := .next (parkCopyDone s b)

/-- UNPARK_COPY_DONE: the window lies in the store again, and the berth joins the next manifest (R194). -/
def unparkCopyDone (s : State) (b : BitVec 12) : State :=
  let e := berth s b
  if e.copying ∧ e.copyBack ∧ e.st ≠ .free then
    let l := lcluOf e.lthread
    let s1 := hubPm (storePut s l e.winBase (pmBytes s (swapAt e) (winLen e))) e.client false (swapAt e) (winLen e)
    let s2 := bump (setBerth s1 b { e with copying := false, copyBack := false, unparkDue := true }) (seqDevCtr 1)
    completeBegun s2 b 0x08
  else s
def execUnparkCopyDone (b : BitVec 12) (s : State) : Host.Outcome State Fault Refusal := .next (unparkCopyDone s b)

/-! ## MIGRATE (R267) -/

/-- Reserve the target of a move: R143 among the clusters given, and one free range of its store. -/
def moveTarget (s : State) (e : Berth) (ls : List Nat) : Place × Nat :=
  match placeIn s e.modSlot e.model (winLen e) none ls with
  | .at lt => match fitTop (winLen e) (storeGaps s (lcluOf lt)) with
    | some base => (.at lt, base)
    | none => (.noMemory, 0)
  | p => (p, 0)

/-- MIGRATE: a request with the target of a void proposal for the berth answers that proposal, and is refused (R268; that the target
tells it is a DESIGN CHOICE, log 182). -/
def runMigrate (c : BitVec 10) (s : State) (i : Item) (e : Berth) : State :=
  let v := leAt (part0 i) 16 1
  let own := lcluOf e.lthread
  let ls := if bitsOf v 4 4 = 1 then (upTo 16).filter (fun l => decide (l ≠ own)) else [v % 16]
  if 32 ≤ v ∨ !restZero (part0 i) [(16, 1)] then badItem s c i 0 1
  else if awayNow s e || e.moveThr.isSome || e.copying || e.parkDue || e.unparkDue || ls.any (migrating s) then holdItem s c i
  else
    let mine (p : Proposal) : Bool := decide (p.berth = i.berth ∧ ls = [p.lo])
    let s1 : State := { s with sched := { s.sched with proposals := s.sched.proposals.filter (fun p => !mine p) } }
    if s.sched.proposals.any (fun p => mine p && p.void) then badItemState s1 c i
    else match moveTarget s1 e ls with
      | (.at lt, base) =>
        beginItem (setBerth s1 i.berth { e with moveThr := some (lt, base), moving := decide (e.st = .parked) }) c i
      | (.noThread, _) => completeItem s1 c i stNoFit []
      | (.noMemory, _) => completeItem s1 c i stNoMemory []

/-- The thread of a berth after its move: handles follow the window, windows are those of the new place (R199, R267). -/
def movedThread (s : State) (e : Berth) (lt : BitVec 12) (base : Nat) : Thread :=
  let t := thread s e.lthread
  let w := ((copyOn s e.modSlot e.model (lcluOf lt)).map (fun k => k.mw)).getD t.mw
  { moveHandles t t.bw base with bw := ⟨base, winLen e⟩, mw := w }

/-- BERTH_MOVE_COPY_DONE: steps 2 and 3 of R267. -/
def moveDone (s : State) (b : BitVec 12) : State :=
  let e := berth s b
  match e.moveThr with
  | some (lt, base) =>
    if e.moving then
      let s1 := dropStreams s b
      let win := storeBytes s1 (lcluOf e.lthread) e.winBase (winLen e)
      let t := movedThread s1 e lt base
      let s2 := storePut s1 (lcluOf lt) base win
      let s3 := setThread (clearThread s2 e.lthread) lt t
      let s4 := bump (setBerth s3 b { e with lthread := lt, winBase := base, moving := false, moveThr := none }) (bthCtr 7)
      unholdBerth (completeBegun (voidProposals s4 b) b 0x09) b
    else s
  | none => s
def execBerthMoveCopyDone (b : BitVec 12) (s : State) : Host.Outcome State Fault Refusal := .next (moveDone s b)

/-! ## READ_STATE and WRITE_STATE (R115, R263, R317) -/

/-- Length of a section: 1 context, 2 berth window, 4 the used part of region 0. -/
def secLen (s : State) (e : Berth) (sec : Nat) : Nat :=
  match sec with
  | 1 => 2048
  | 2 => winLen e
  | 4 => (usedPart (berthModel s e) e).2
  | _ => 0

/-- The berth's window lies in its swap area: it is parked, or locked from PARKED, and has not been copied back (R193, R194). -/
def inSwap (e : Berth) : Bool :=
  decide (e.st = .parked ∨ ((e.st = .locked ∨ e.st = .abandoned) ∧ e.heldFrom = .parked)) && !e.unparkDue

/-- The package address of a section's bytes, where they lie in package memory. -/
def secAt (s : State) (e : Berth) (sec : Nat) : Option Nat :=
  match sec with
  | 1 => none
  | 2 => if inSwap e then some (swapAt e) else none
  | _ => some (region0Base e + (usedPart (berthModel s e) e).1)

def secRead (s : State) (e : Berth) (sec off n : Nat) : List (BitVec 8) :=
  match secAt s e sec with
  | some a => pmBytes s (a + off) n
  | none =>
    if sec = 1 then ((ctxBytes (thread s e.lthread)).drop off).take n
    else storeBytes s (lcluOf e.lthread) (e.winBase + off) n

/-- Replace bytes of a list. -/
def patch (bs : List (BitVec 8)) (off : Nat) (new : List (BitVec 8)) : List (BitVec 8) :=
  bs.take off ++ new ++ bs.drop (off + new.length)

/-- Write a section for client c; none when the bytes would change the thread state (R115). -/
def secWrite (s : State) (c : BitVec 10) (e : Berth) (sec off : Nat) (bs : List (BitVec 8)) : Option State :=
  match secAt s e sec with
  | some a => some (hubPm (pmPut s (a + off) bs) c true (a + off) bs.length)
  | none =>
    if sec = 1 then
      let old := ctxBytes (thread s e.lthread)
      let new := patch old off bs
      if leAt new 1694 1 % 8 ≠ leAt old 1694 1 % 8 then none
      else some (setThread s e.lthread (ctxInto (thread s e.lthread) new))
    else some (storePut s (lcluOf e.lthread) (e.winBase + off) bs)

def stSec (i : Item) : Nat := leAt (part0 i) 16 1
def stOff (i : Item) : Nat := leAt (part0 i) 20 4
def stHost (i : Item) : Nat := leAt (part0 i) 24 8
def stLen (i : Item) : Nat := leAt (part0 i) 32 4

/-- The fields of a state operation are within their ranges and the bytes within the section. -/
def stRange (s : State) (e : Berth) (i : Item) : Bool :=
  decide ((stSec i = 1 ∨ stSec i = 2 ∨ stSec i = 4) ∧ stOff i % 64 = 0 ∧ stHost i % 64 = 0 ∧ stLen i % 64 = 0 ∧ 64 ≤ stLen i
    ∧ stLen i ≤ 2 ^ 30 ∧ stOff i + stLen i ≤ secLen s e (stSec i))
def stResv (i : Item) : Bool := restZero (part0 i) [(16, 1), (20, 4), (24, 8), (32, 4)]
def stDetail (i : Item) : List (BitVec 8) := berthDetail i.berth ++ [0, 0] ++ natLe (stLen i) 4

def runReadState (c : BitVec 10) (s : State) (i : Item) (e : Berth) : State :=
  if !stResv i then badItem s c i 0 1
  else if !stRange s e i then badItem s c i 0 2
  else if awayNow s e || e.copying then holdItem s c i
  else
    let bs := secRead s e (stSec i) (stOff i) (stLen i)
    let s0 := match secAt s e (stSec i) with | some a => hubPm s c false (a + stOff i) bs.length | none => s
    let s1 := hostBytes (emit s0 (.hostWrite (BitVec.ofNat 64 (stHost i)) bs)) c bs.length
    completeItem s1 c i stOk (stDetail i)

def runWriteState (c : BitVec 10) (s : State) (i : Item) (e : Berth) : State :=
  if !stResv i then badItem s c i 0 1
  else if !stRange s e i then badItem s c i 0 2
  else if awayNow s e || e.copying then holdItem s c i
  else beginItem s c i

/-- The bytes of a WRITE_STATE have been read. -/
def writeStateData (c : BitVec 10) (s : State) (i : Item) (bs : List (BitVec 8)) : State :=
  let e := berth s i.berth
  if e.st = .locked ∧ e.lkOwner = c ∧ stRange s e i then
    match secWrite s c e (stSec i) (stOff i) bs with
    | some s1 => completeItem (hostBytes s1 c bs.length) c i stOk (stDetail i)
    | none => badItem s c i 0 2
  else if e.st = .abandoned then completeItem s c i stLockAbandoned (berthDetail i.berth)
  else badItemState s c i

/-! ## EXPORT (R195–R197) -/

/-- EXPORT: the copy back of a berth that leaves PARKED was taken first, so its export finds a state that R263 does not allow (R201). -/
def runExport (c : BitVec 10) (s : State) (i : Item) (e : Berth) : State :=
  let d := part0 i
  let n := blobLen s e
  if !restZero d [(24, 8), (32, 4)] then badItem s c i 0 1
  else if leAt d 24 8 % 64 ≠ 0 then badItem s c i 0 2
  else if e.copyBack || e.unparkDue then badItemState s c i
  else if awayNow s e || e.copying then holdItem s c i
  else if leAt d 32 4 < n then completeItem s c i stBadDesc ([0, 2, 0, 0] ++ natLe n 4)
  else match stateKey s s.sec.tEpoch with
    | none => completeItem s c i stKeyEpoch []
    | some k =>
      match genRequest s hubGen with
      | (s1, .key w) =>
        let blob := sealBlob s1 e k (natLe w.toNat 12)
        let s2 := hubPm s1 c false (swapAt e) (winLen e + (usedPart (berthModel s e) e).2)
        let s3 := bump (hostBytes (emit s2 (.hostWrite (BitVec.ofNat 64 (leAt d 24 8)) blob)) c n) (seqDevCtr 2)
        completeItem s3 c i stOk (berthDetail i.berth ++ [0, 0] ++ natLe n 4)
      | (s1, .wait) => holdItem (genWait s1 hubGen (some ⟨c, i.seq⟩)) c i
      | (s1, .refuse) => completeItem s1 c i stOutOfService (berthDetail i.berth)

/-! ## One operation on a berth, by opcode (R263) -/

def runLockItem (c : BitVec 10) (s : State) (i : Item) : State :=
  let e := berth s i.berth
  let v := leAt (part0 i) 16 1
  if 4 ≤ v ∨ !restZero (part0 i) [(16, 1), (20, 4)] then badItem s c i 0 1
  else if e.st = .abandoned ∧ v % 2 = 1 then (if frozenNow s e then holdItem s c i else grantLock s i.berth c i)
  else match meet c e [.admitted, .running, .parked] false with
    | .run =>
      if frozenNow s e || e.copying || e.unparkDue || (awayNow s e && decide (e.st ≠ .running)) then holdItem s c i
      else acquire s i.berth c i
    | .wait => holdItem (setBerth s i.berth { e with waiters := e.waiters ++ [⟨c, i.seq⟩] }) c i
    | .hold => holdItem s c i
    | .done st d => completeItem s c i st d

/-- Every operation but LOCK and UNLOCK. -/
def runBerthOp (c : BitVec 10) (s : State) (i : Item) : State :=
  match i.op with
  | 0x04 => onBerth s c i [.admitted, .running, .parked] true (fun s e => runFrame c s i e)
  | 0x05 => runOutRet c s i
  | 0x06 => onBerth s c i [.admitted, .running, .parked] true (fun s e => runLeave c s i e)
  | 0x07 => onBerth s c i [.running, .parked] false (fun s e => runPark c s i e)
  | 0x08 => onBerth s c i [.running, .parked] false (fun s e => runUnpark c s i e)
  | 0x09 => onBerth s c i [.running, .parked] false (fun s e => runMigrate c s i e)
  | 0x0C => onBerth s c i [.parked] true (fun s e => runReadState c s i e)
  | 0x0D => onBerth s c i [] true (fun s e => runWriteState c s i e)
  | 0x0E => onBerth s c i [] true (fun s e => runSetLimit c s i e)
  | 0x0F => onBerth s c i [.parked] false (fun s e => runExport c s i e)
  | _ => s

/-- Serve waiters in order: other operations run in turn, the first acquire ends it (R264).  After a release (`direct`) that acquire is
granted, with `held_from` kept, whatever the state. -/
def serveWaiters (s : State) (b : BitVec 12) (direct : Bool) : Nat → State
  | 0 => s
  | n + 1 =>
    let e := berth s b
    match e.waiters with
    | [] => s
    | w :: rest =>
      let s1 := setBerth s b { e with waiters := rest }
      match findItem s1 w.client w.item with
      | none => serveWaiters s1 b direct n
      | some i =>
        if i.op = 0x0A then (if direct then grantLock s1 b w.client i else acquire s1 b w.client i)
        else serveWaiters (runBerthOp w.client s1 i) b direct n

/-- Release of a lock: waiters are served; with no acquire among them the berth is back in `held_from`, where a client without a RUNNING
berth takes V_floor; a berth whose own client was reset leaves (R256, R264–R266). -/
def releaseLock (s : State) (b : BitVec 12) : State :=
  let e := berth s b
  let back := setBerth s b { e with st := e.heldFrom, leaveDue := e.leaveDue || e.orphanLeave, orphanLeave := false }
  let acq := e.waiters.any (fun w => ((findItem s w.client w.item).map (·.op)) == some 0x0A)
  let s1 := serveWaiters (if acq then back else countPark back .locked e.heldFrom) b true 9
  let r := berth s1 b
  if r.st = .running then setRunning (setBerth s1 b { r with st := .locked }) b id else s1

def runUnlock (c : BitVec 10) (s : State) (i : Item) : State :=
  let e := berth s i.berth
  if 2 ^ 14 ≤ leAt (part0 i) 16 2 ∨ !restZero (part0 i) [(16, 2)] then badItem s c i 0 1
  else if e.st = .abandoned then completeItem s c i stLockAbandoned (berthDetail i.berth)
  else if e.st ≠ .locked then badItem s c i 0 (if isLocked e then 6 else 5)
  else if e.lkOwner ≠ c ∨ e.lkSeq.toNat ≠ leAt (part0 i) 16 2 then badItem s c i 0 6
  else releaseLock (completeItem s c i stOk (berthDetail i.berth)) i.berth

/-- LEASE_EXPIRY: the lock is abandoned; a release in the same cycle wins (R264, R265). -/
def leaseExpired (s : State) (b : BitVec 12) (met : Bool) : State :=
  let e := berth s b
  if met then bump s (bthCtr 13)
  else if e.st = .locked ∧ e.lease ≠ 0 then abandonLock s b else s
def execLeaseExpiry (b : BitVec 12) (met : Bool) (s : State) : Host.Outcome State Fault Refusal := .next (leaseExpired s b met)

def execFrameItem (c : BitVec 10) (s : State) : Host.Outcome State Fault Refusal := .next (takeItem s c 0x04 (runBerthOp c))
def execOutRetItem (c : BitVec 10) (s : State) : Host.Outcome State Fault Refusal := .next (takeItem s c 0x05 (runBerthOp c))
def execLeaveItem (c : BitVec 10) (s : State) : Host.Outcome State Fault Refusal := .next (takeItem s c 0x06 (runBerthOp c))
def execParkItem (c : BitVec 10) (s : State) : Host.Outcome State Fault Refusal := .next (takeItem s c 0x07 (runBerthOp c))
def execUnparkItem (c : BitVec 10) (s : State) : Host.Outcome State Fault Refusal := .next (takeItem s c 0x08 (runBerthOp c))
def execMigrateItem (c : BitVec 10) (s : State) : Host.Outcome State Fault Refusal := .next (takeItem s c 0x09 (runBerthOp c))
def execLockItem (c : BitVec 10) (s : State) : Host.Outcome State Fault Refusal := .next (takeItem s c 0x0A (runLockItem c))
def execUnlockItem (c : BitVec 10) (s : State) : Host.Outcome State Fault Refusal := .next (takeItem s c 0x0B (runUnlock c))
def execReadStateItem (c : BitVec 10) (s : State) : Host.Outcome State Fault Refusal := .next (takeItem s c 0x0C (runBerthOp c))
def execWriteStateItem (c : BitVec 10) (s : State) : Host.Outcome State Fault Refusal := .next (takeItem s c 0x0D (runBerthOp c))
def execSetLimitItem (c : BitVec 10) (s : State) : Host.Outcome State Fault Refusal := .next (takeItem s c 0x0E (runBerthOp c))
def execExportItem (c : BitVec 10) (s : State) : Host.Outcome State Fault Refusal := .next (takeItem s c 0x0F (runBerthOp c))

/-! ## IMPORT (R198, R199) -/

/-- The new berth of an accepted blob.  The blob carries no destination, input depth or step limit: the destination is always a host
buffer (DESIGN CHOICE, log 153), and its place, the depth and the limit are free values. -/
def importBerth (s : State) (b : BitVec 12) (c : BitVec 10) (tag : BitVec 32) (o : Opened) (m : ModelDecl) (lt : BitVec 12)
    (base pmb P : Nat) (sub : Substream) : State :=
  let w (k : Nat) : Nat := (Config.freeWord (s.free + k)).toNat
  let S := storeOf m
  let e : Berth :=
    { st := .parked, client := c, modSlot := o.slot, model := o.model, lthread := lt, step := o.step, replay := sub.replay,
      stepLast := BitVec.ofNat 24 (o.step + w 1 % (2 ^ 24 - o.step)), stRes := S / 64, pmRes := P / 4096, pmBase := pmb,
      pmDie := dieOf (physOf s (lcluOf lt)), winBase := base, tag := tag, inDepth := 1 + w 0 % 64, destAudio := false,
      obBase := BitVec.ofNat 64 (64 * (w 2 % 2 ^ 58)), obBlocks := 2 + w 3 % 65535, blkVals := 4 * (1 + w 4 % 16384),
      returned := 2 + w 3 % 65535, sub := sub, seedDone := true }
  let s1 := bindThread (setBerth s b e) lt b
  let t := thread s1 lt
  let s2 := setThread s1 lt { moveHandles (ctxInto t o.ctx) ⟨o.oldBase, S⟩ base with
    st := .sleeping, exc := 0, excPc := 0, issued := leAt o.ctx 1704 4 }
  let u := region0Base e + (usedPart m e).1
  let s3 := hubPm (pmPut s2 (region0Base e) o.window) c true (region0Base e) S
  let s4 := hubPm (pmPut s3 u o.used) c true u o.used.length
  countPark { s4 with free := s4.free + 5 } .free .parked

/-- Place an opened blob (R143, R199). -/
def importPlace (c : BitVec 10) (s : State) (i : Item) (o : Opened) : State :=
  let m := ((module s o.slot).desc.models[o.model]?).getD {}
  let depth := 1 + (Config.freeWord s.free).toNat % 64
  let P := region0Of m depth (o.used.length - up4k (declaredAreas m))
  let refuse (noMem : Bool) : State := completeItem (bump s (seqDevCtr 4)) c i (if noMem then stNoMemory else stNoFit) []
  match freeEntry s, placeIn s o.slot o.model (storeOf m) (some P) (upTo 16) with
  | none, _ => refuse false
  | _, .noThread => refuse false
  | _, .noMemory => refuse true
  | some b, .at lt =>
    if migrating s (lcluOf lt) then modItem s c i.seq (fun j => { j with begun := false, held := true })
    else match fitTop (storeOf m) (storeGaps s (lcluOf lt)), fitLow P (bpGaps s (dieOf (physOf s (lcluOf lt)))) with
    | some base, some pmb =>
      let done (s : State) (sub : Substream) : State :=
        completeItem (bump (importBerth s b c i.tag o m lt base pmb P sub) (seqDevCtr 3)) c i stOk (berthDetail b)
      if o.carried && decide (leAt (part0 i) 16 1 = 1) then done s (subOfBytes o.sub)
      else match genRequest s (physOf s (lcluOf lt)) with
        | (s1, .key k) =>
          let old := subOfBytes o.sub
          done (bump s1 (rngCtr 4))
            { key := k, replay := o.replay, margin := if o.replay then old.margin else 0 }
        | (s1, .wait) => modItem (genWait s1 (physOf s (lcluOf lt)) (some ⟨c, i.seq⟩)) c i.seq (fun j => { j with begun := false, held := true })
        | (s1, .refuse) => completeItem (bump s1 (seqDevCtr 4)) c i stOutOfService []
    | _, _ => refuse true

/-- The blob has been read: the checks of R198 in order. -/
def importData (c : BitVec 10) (s : State) (i : Item) (bs : List (BitVec 8)) : State :=
  match openBlob s c bs (leAt (part0 i) 32 4) with
  | .error (st, tagFail) =>
    let s1 := bump (if tagFail then bump s (seqDevCtr 5) else s) (seqDevCtr 4)
    if st = stBadDesc then badItem s1 c i 0 2 else completeItem s1 c i st []
  | .ok o => importPlace c s i o

def runImport (c : BitVec 10) (s : State) (i : Item) : State :=
  let d := part0 i
  match i.data with
  | some bs => importData c s i bs
  | none => if 2 ≤ leAt d 16 1 ∨ !restZero d [(16, 1), (24, 8), (32, 4)] then badItem s c i 0 1 else beginItem s c i
def execImportItem (c : BitVec 10) (s : State) : Host.Outcome State Fault Refusal := .next (takeItem s c 0x10 (runImport c))

end Sys2Proof.Machine
end

