-- ==== Sys2Proof/Machine/Clients.lean ====
section
/-! DEFINITION. Clients: doorbells, descriptor assembly, flush, enable, reset, timeouts and interrupts (R304–R313, R321–R329). -/

namespace Sys2Proof.Machine
open Sys2Proof

/-- The doorbell page of a client answers: it is neither DISABLED nor RESETTING (R309). -/
def pageLive (k : Client) : Bool := decide (k.st ≠ .disabled ∧ k.st ≠ .resetting)

/-- A doorbell of a lost device is answered with DEVICE_LOST, beside its effect on the ring (R141; DEDUCED, log 144). -/
def lostAnswer (s : State) (c : BitVec 10) : State := if s.lost.lost then notice s c 0x83 stDeviceLost 0 [] else s

/-- A write to the doorbell page of client c. -/
def onPage (s : State) (c : BitVec 10) (run : Client → State) : State :=
  if pageLive (client s c) then lostAnswer (run (client s c)) c else bump s (hifCtr 9)

/-- A refused doorbell write (R310). -/
def badDoorbell (s : State) (c : BitVec 10) : State := setFlag s (fDbBad c)

/-- A producer's position is accepted: not behind the consumer, within the ring, not backwards (R310). -/
def aheadOk (w head last : BitVec 32) (size : Nat) : Bool :=
  decide ((w - head).toNat ≤ size ∧ (w - last).toNat < 2 ^ 31)
/-- A consumer's position is accepted: not past the producer, within the ring, not backwards (R310). -/
def behindOk (w tail last : BitVec 32) (size : Nat) : Bool :=
  decide ((tail - w).toNat ≤ size ∧ (w - last).toNat < 2 ^ 31)

def execDbSqTail (c : BitVec 10) (w : BitVec 32) (s : State) : Host.Outcome State Fault Refusal :=
  .next (onPage s c (fun k =>
    if aheadOk w k.sqHead k.sqTail (sqSize s c) then setClient s c { k with sqTail := w }
    else badDoorbell s c))

def execDbCqHead (c : BitVec 10) (w : BitVec 32) (s : State) : Host.Outcome State Fault Refusal :=
  .next (onPage s c (fun k =>
    if behindOk w k.cqTail k.cqHead (cqSize s c) then setClient s c { k with cqHead := w } else badDoorbell s c))

def execDbH2fTail (c : BitVec 10) (w : BitVec 32) (s : State) : Host.Outcome State Fault Refusal :=
  .next (onPage s c (fun k =>
    if aheadOk w k.h2fHead k.h2fTail (h2fSize s c) then setClient s c { k with h2fTail := w } else badDoorbell s c))

def execDbF2hHead (c : BitVec 10) (w : BitVec 32) (s : State) : Host.Outcome State Fault Refusal :=
  .next (onPage s c (fun k =>
    if behindOk w k.f2hTail k.f2hHead (f2hSize s c) then setClient s c { k with f2hHead := w } else badDoorbell s c))

/-- DB_IRQ: arm and mask, then the conditions at once (R327). -/
def execDbIrq (c : BitVec 10) (w : BitVec 32) (s : State) : Host.Outcome State Fault Refusal :=
  .next (onPage s c (fun k => testIrq (setClient s c { k with arm := w.getLsbD 0, mask := w.getLsbD 1 }) c))

/-- COAL_TIMEOUT: the oldest unsignalled record has waited `coal_us` (R327); `met` counts the near miss (R457). -/
def coalExpired (s : State) (c : BitVec 10) (met : Bool) : State :=
  let s1 := if met then bump s (obsCtr 9) else s
  let k := client s1 c
  testIrq (setClient s1 c { k with unsigNow := k.unsigNow || decide (0 < k.unsig) }) c
def execCoalTimeout (c : BitVec 10) (met : Bool) (s : State) : Host.Outcome State Fault Refusal := .next (coalExpired s c met)

/-- SPILL_DRAIN: spilled records move in order into the host ring while it has room (R294). -/
def drainSpill (s : State) (c : BitVec 10) : Nat → State
  | 0 => s
  | n + 1 =>
    let k := client s c
    match k.spill with
    | [] => s
    | r :: rest =>
      if writable k && cqRoom s c then
        let s1 := hubPm (setClient s c { k with spill := rest, spillAt := (k.spillAt + 1) % 2048 }) c false (spillAddr c k.spillAt) 32
        drainSpill (putRecord s1 c r) c n
      else s

/-! ## Assembly of items (R311–R314) -/

/-- Output blocks that a step of this berth can close, the partial one that an end of the stream would close among them: any step may
turn out to be the last (R167, R295). -/
def blocksDue (s : State) (e : Berth) : Nat :=
  if e.destAudio then 0 else ceilDiv (e.inBlock.length + (berthModel s e).outPerStep) (Nat.max 1 e.blkVals)

/-- Notices that client c may yet be written: BERTH_END of each berth, CLUSTER of each cluster that its berths lie on, AUDIO of each berth
at a port, and one each of DEVICE, MAILBOX and FLUSH_DONE (R295, R320; which notices hold places is DEDUCED, log 183). -/
def owedNotices (s : State) (c : BitVec 10) : Nat :=
  let mine := (heldBerths s).filter (fun e => decide (e.2.client = c))
  mine.length + (mine.map (fun e => lcluOf e.2.lthread)).eraseDups.length + (mine.filter (fun e => e.2.destAudio)).length + 3

/-- Records that client c has yet to have written: of its accepted items, of the blocks of berths in the step, and notices (R295). -/
def owedRecords (s : State) (c : BitVec 10) : Nat :=
  (client s c).items.length + owedNotices s c
    + sumNat ((s.berths.filter (fun e => decide (e.2.client = c) && e.2.inStep)).map (fun e => blocksDue s e.2))

/-- Places for records: free entries of the host ring and of the spill ring (R294, R295). -/
def recordPlaces (s : State) (c : BitVec 10) : Nat :=
  let k := client s c
  cqSize s c - (k.cqTail - k.cqHead).toNat + (2048 - k.spill.length)

def dOp (d : List (BitVec 8)) : Nat := leAt d 0 1
def dLast (d : List (BitVec 8)) : Bool := decide (leAt d 1 1 % 2 = 1)
def dTag (d : List (BitVec 8)) : Nat := leAt d 4 4

/-- Reserved header fields of a descriptor are 0, a berth only where the opcode names one (R312). -/
def headerOk (d : List (BitVec 8)) : Bool :=
  decide (leAt d 1 1 < 8 ∧ leAt d 2 1 < 16 ∧ leAt d 10 2 = 0 ∧ leAt d 12 4 < 4096) && (namesBerth (dOp d) || decide (leAt d 12 4 = 0))

/-- The part count that an opcode requires (R314); an inline FRAME's exact count depends on its model. -/
def partsOk (ds : List (List (BitVec 8))) : Bool :=
  let d := ds.headD []
  match dOp d with
  | 0x03 => decide (ds.length = 1 + bitsOf (leAt d 18 1) 1 1)
  | 0x04 => if bitsOf (leAt d 16 1) 5 5 = 1 then decide (2 ≤ ds.length) else decide (ds.length = 1)
  | _ => decide (ds.length = 1)

/-- The item that descriptors make. -/
def itemOf (s : State) (k : Client) (ds : List (List (BitVec 8))) : Item :=
  let d := ds.headD []
  { seq := k.itemSeq, op := dOp d, tag := BitVec.ofNat 32 (dTag d), fep := BitVec.ofNat 8 (leAt d 3 1),
    berth := BitVec.ofNat 12 (leAt d 12 4), irq := decide (bitsOf (leAt d 1 1) 1 1 = 1), ord := decide (bitsOf (leAt d 1 1) 2 2 = 1),
    parts := ds, tmo := leAt d 8 2 % 2 ^ 15, tmoMs := decide (2 ^ 15 ≤ leAt d 8 2), at0 := s.tick.toNat }

/-- The last descriptor of an item has come: accept it, or complete it with BAD_DESCRIPTOR. -/
def finishItem (s : State) (c : BitVec 10) (ds : List (List (BitVec 8))) (bad : Option Nat) : State :=
  let k := client s c
  let i := itemOf s k ds
  let s1 := setClient s c { k with asm := [], asmBad := none, itemSeq := k.itemSeq + 1 }
  match bad with
  | some p => badItem s1 c i p 3
  | none =>
    if i.op = 0 ∨ 0x13 < i.op then badItem s1 c i 0 4
    else if !partsOk ds then badItem s1 c i 0 3
    else match ds.zipIdx.find? (fun d => !headerOk d.1) with
      | some d => badItem s1 c i d.2 1
      | none => modClient s1 c (fun k => { k with items := k.items ++ [i] })

/-- What a descriptor does to an assembly that holds `asm`: the part that makes it malformed, which of an item that runs past sixteen
descriptors is part 15 (DESIGN CHOICE, log 185). -/
def partFault (asm : List (List (BitVec 8))) (d : List (BitVec 8)) : Option Nat :=
  if 16 ≤ asm.length then some 15
  else if leAt d 2 1 % 16 ≠ asm.length then some asm.length
  else match asm with
    | [] => none
    | f :: _ => if dOp f = dOp d ∧ dTag f = dTag d then none else some asm.length

/-- One fetched descriptor (R313). -/
def takeDescriptor (s : State) (c : BitVec 10) (d : List (BitVec 8)) : State :=
  let s1 := bump (hostBytes (modClient s c (fun k => { k with sqHead := k.sqHead + 1 })) c 64) (hifCtr 0)
  let k := client s1 c
  if leAt d 3 1 ≠ k.fepoch.toNat then
    let s2 := bump s1 (hifCtr 3)
    if dLast d then postRecord s2 c { status := stFlushed, op := dOp d, fep := BitVec.ofNat 8 (leAt d 3 1),
                                      tag := BitVec.ofNat 32 (dTag d), detail := List.replicate 16 0, tick := s.tick }
    else s2
  else
    let bad := if k.asmBad.isSome then k.asmBad else partFault k.asm d
    let asm := k.asm ++ [d]
    if dLast d then finishItem s1 c asm bad else setClient s1 c { k with asm := asm, asmBad := bad }

/-- Fetching goes on while the client is ACTIVE, its tail lies ahead, it holds fewer than 256 items and a record has a place
(R308, R311). -/
def mayFetch (s : State) (c : BitVec 10) : Bool :=
  let k := client s c
  decide (k.st = .active ∧ k.sqTail ≠ k.sqHead ∧ k.items.length < 256 ∧ s.sec.tenancy = .bound) && !s.lost.lost
  && decide (owedRecords s c < recordPlaces s c)

def fetchAll (s : State) (c : BitVec 10) : List (List (BitVec 8)) → State
  | [] => s
  | d :: t => if mayFetch s c then fetchAll (takeDescriptor s c d) c t else s

/-- DESCRIPTOR_FETCH: up to 16 descriptors of client c are read (R311). -/
def execDescriptorFetch (c : BitVec 10) (descs : List (List (BitVec 8))) (s : State) : Host.Outcome State Fault Refusal :=
  .next (fetchAll s c (descs.take 16))

/-! ## NOP and SNAPSHOT (R261, R314) -/

def runNop (c : BitVec 10) (s : State) (i : Item) : State :=
  if restZero (part0 i) [] then completeItem s c i stOk [] else badItem s c i 0 1
def execNopItem (c : BitVec 10) (s : State) : Host.Outcome State Fault Refusal := .next (takeItem s c 0x13 (runNop c))

/-- The 128 bytes of an accounting record (R259); every boundary brings every record up to date. -/
def acctBytes (s : State) (a : Acct) : List (BitVec 8) :=
  natLe a.tileNs.toNat 8 ++ natLe a.vecCycles.toNat 8 ++ natLe a.auxCycles.toNat 8 ++ natLe a.pmRd.toNat 8 ++ natLe a.pmWr.toNat 8
    ++ natLe a.hostBytes.toNat 8 ++ natLe a.chainBytes.toNat 8 ++ natLe a.energy.toNat 8 ++ natLe a.berthSteps.toNat 8
    ++ natLe a.deferred.toNat 8 ++ natLe a.lateSteps.toNat 8 ++ natLe a.vtime.toNat 8 ++ natLe a.weight.toNat 2
    ++ natLe a.running.toNat 2 ++ natLe a.held.toNat 2 ++ [0, 0] ++ natLe s.sched.dstep.toNat 8 ++ List.replicate 16 0

def runSnapshot (c : BitVec 10) (s : State) (i : Item) : State :=
  let d := part0 i
  let first := leAt d 16 2
  let n := leAt d 18 2
  if !restZero d [(16, 2), (18, 2), (24, 8)] then badItem s c i 0 1
  else if 1023 < first ∨ n = 0 ∨ 1024 < n ∨ 1024 < first + n ∨ leAt d 24 8 % 64 ≠ 0 then badItem s c i 0 2
  else
    let bs := (upTo n).flatMap (fun k => acctBytes s (acctOf s (BitVec.ofNat 10 (first + k))))
    let s1 := hostBytes (emit s (.hostWrite (BitVec.ofNat 64 (leAt d 24 8)) bs)) c bs.length
    completeItem s1 c i stOk (natLe s.sched.dstep.toNat 8)
def execSnapshotItem (c : BitVec 10) (s : State) : Host.Outcome State Fault Refusal := .next (takeItem s c 0x12 (runSnapshot c))

/-! ## PREEMPT (R130, R134) -/

/-- A cluster may be stopped: it is in service, and its slot neither holds nor is about to hold an image. -/
def mayPreempt (s : State) (l : Nat) : Bool := !lcluOut s l && !slotHolds s l && decide (savePhase s l = .none)

def runPreempt (c : BitVec 10) (s : State) (i : Item) : State :=
  let mask := leAt (part0 i) 16 2
  let ls := slotsOf mask
  if !restZero (part0 i) [(16, 2)] then badItem s c i 0 1
  else if mask = 0 then badItem s c i 0 2
  else if ls.any (migrating s) then holdItem s c i
  else if !ls.all (mayPreempt s) then completeItem s c i stNoFit []
  else ls.foldl (fun s l => startSave s l c i.seq) (modItem s c i.seq (fun j => { j with begun := true, held := false, aux := mask }))
def execPreemptItem (c : BitVec 10) (s : State) : Host.Outcome State Fault Refusal := .next (takeItem s c 0x11 (runPreempt c))

/-! ## HOST_READ_COMPLETION (R305) -/

/-- The client's context has faulted: the locks that it owns are abandoned (R265). -/
def abandonOwned (s : State) (c : BitVec 10) : State :=
  ((heldBerths s).filter (fun e => decide (e.2.st = .locked ∧ e.2.lkOwner = c))).foldl (fun s e => abandonLock s (BitVec.ofNat 12 e.1)) s

/-- A read of host memory ended in error: a fetch halts the client, a read for an item ends it with reason 7. -/
def readError (s : State) (c : BitVec 10) (target : Option Nat) : State :=
  let s1 := bump s (hifCtr 11)
  match target with
  | none => if (client s1 c).st = .active then abandonOwned (modClient s1 c (fun k => { k with st := .halted })) c else s1
  | some q =>
    match findItem s1 c q with
    | none => s1
    | some i =>
      if i.op = 0x04 then (if i.begun ∧ i.aux = 0 ∧ i.data.isNone then frameError s1 c i else s1)
      else if i.op = 0x01 ∨ (i.begun ∧ i.aux = 0 ∧ (i.op = 0x0D ∨ i.op = 0x10)) then badItem s1 c i 0 7
      else s1

/-- A read of host memory ended with data, for a FRAME, a WRITE_STATE or an IMPORT that has begun. -/
def readData (s : State) (c : BitVec 10) (q : Nat) (bs : List (BitVec 8)) : State :=
  match findItem s c q with
  | none => s
  | some i =>
    if !i.begun ∨ i.aux ≠ 0 then s
    else
      let s1 := hostBytes s c bs.length
      match i.op with
      | 0x04 => if i.data.isSome then s else frameData s1 c i bs
      | 0x0D => writeStateData c s i bs
      | 0x10 => importData c (modItem s1 c q (fun j => { j with data := some bs })) { i with data := some bs } bs
      | _ => s

def execHostReadCompletion (c : BitVec 10) (target : Option Nat) (data : Option (List (BitVec 8))) (s : State) :
    Host.Outcome State Fault Refusal :=
  .next (if s.lost.lost then s else match data, target with
    | none, t => readError s c t
    | some bs, some q => readData s c q bs
    | some _, none => s)

/-! ## Timeouts (R322) -/

/-- A berth whose pending grant has gone serves its other waiters. -/
def reserve (s : State) (b : BitVec 12) : State := if isLocked (berth s b) then s else serveWaiters s b false 9

/-- ITEM_TIMEOUT: item number `ix` has waited its time; the awaited event in the same cycle wins. -/
def itemExpired (s : State) (c : BitVec 10) (ix : Nat) (met : Bool) : State :=
  match findItem s c ix with
  | none => s
  | some i =>
    if i.tmo = 0 then s
    else if met then (if i.op = 0x0A then bump (bump s (hifCtr 13)) (bthCtr 13) else bump s (hifCtr 13))
    else if i.begun ∨ !i.held then s
    else
      let waits := (berth s i.berth).waiters.contains ⟨c, i.seq⟩
      let s1 := bump (withdraw s c i) (hifCtr 12)
      let s2 := if waits then bump s1 (bthCtr 12) else s1
      reserve (completeItem s2 c i stTimeout (if namesBerth i.op then berthDetail i.berth else [])) i.berth
def execItemTimeout (c : BitVec 10) (ix : Nat) (met : Bool) (s : State) : Host.Outcome State Fault Refusal :=
  .next (itemExpired s c ix met)

/-! ## Flush (R321) -/

/-- An item that has not begun leaves the client with a status, or silently in a client reset. -/
def dropItem (s : State) (c : BitVec 10) (i : Item) : State := reserve (withdraw s c i) i.berth

def flushClient (s : State) (c : BitVec 10) : State :=
  let k := client s c
  let gone := k.items.filter (fun i => !i.begun)
  let s1 := if k.asm.isEmpty then s else addCtr (bump s (hifCtr 4)) (hifCtr 5) k.asm.length
  let s2 := setClient s1 c { k with asm := [], asmBad := none }
  let s3 := gone.foldl (fun s i => completeItem (dropItem s c i) c i stFlushed []) s2
  let s4 := bump (modClient s3 c (fun k => { k with fepoch := k.fepoch + 1 })) (hifCtr 6)
  notice s4 c 0x85 stOk 0 (natLe (k.fepoch + 1).toNat 2 ++ natLe gone.length 2 ++ natLe k.asm.length 4 ++ natLe k.sqHead.toNat 4)

/-- DB_FLUSH: the whole flush, which waits on nothing (R321); a HALTED client takes none (R308). -/
def execDbFlush (c : BitVec 10) (w : BitVec 32) (s : State) : Host.Outcome State Fault Refusal :=
  .next (onPage s c (fun k => if w.getLsbD 0 ∧ k.st = .active then flushClient s c else s))

/-! ## Enable and reset (R308, R323, R377) -/

/-- CLIENT_ENABLE: `en` written 1.  The accounting record is cleared (R259). -/
def enableClient (s : State) (c : BitVec 10) : State :=
  let k := client s c
  if k.st ≠ .disabled then s
  else if s.sec.tenancy ≠ .bound ∨ [0, 8, 0x10, 0x18].any (fun o => decide (ringBase s c o = 0)) then setFlag s (fCfgBad c)
  else
    let s1 := setClient s c { st := .active, fepoch := k.fepoch, cepoch := k.cepoch, itemSeq := k.itemSeq, orph := k.orph,
                              outbox := k.outbox }
    setAcct { s1 with act := tabErase s1.act c.toNat } c {}

/-- Steps 1–3 of a client reset. -/
def resetClient (s : State) (c : BitVec 10) : State :=
  let k := client s c
  if k.st = .disabled ∨ k.st = .resetting then s
  else
    let gone := k.items.filter (fun i => !i.begun)
    let unread := (k.h2fTail - k.h2fHead).toNat
    let k1 : Client :=
      { k with st := .resetting, asm := [], asmBad := none, items := k.items.filter (fun i => i.begun), spill := [],
               outbox := [], h2fHead := k.h2fTail, orph := k.orph ++ List.replicate unread k.cepoch, resetBoundary := true }
    let s1 := setClient s c k1
    let s2 := gone.foldl (fun s i => dropItem s c i) s1
    addCtr s2 (hifCtr 16) k.outbox.length

/-- Step 4: the client's berths leave, its locks are abandoned, and its berths that others hold leave when released (R265). -/
def resetAtBoundary (s : State) (c : BitVec 10) : State :=
  let s1 := s.berths.foldl (fun s e =>
    let b := BitVec.ofNat 12 e.1
    let x := berth s b
    if x.st = .free ∨ x.st = .draining then s
    else
      let own := decide (x.client = c)
      if x.st = .locked ∧ x.lkOwner = c then
        abandonLock (setBerth s b { x with orphanLeave := x.orphanLeave || own }) b
      else if own then
        if x.st = .locked ∨ x.st = .abandoned then setBerth s b { x with orphanLeave := true }
        else setBerth s b { x with leaveDue := true }
      else s) s
  modClient s1 c (fun k => { k with resetBoundary := false })

/-- CLIENT_RESET_DONE: steps 5 and 6. -/
def resetDone (s : State) (c : BitVec 10) : State :=
  let k := client s c
  if k.st = .resetting ∧ !k.resetBoundary ∧ k.items.isEmpty then
    let s1 := setClient s c { k with st := .disabled, fepoch := k.fepoch + 1, cepoch := k.cepoch + 1 }
    bump (setFlag s1 (fCresetDone c)) (hifCtr 7)
  else s
def execClientResetDone (c : BitVec 10) (s : State) : Host.Outcome State Fault Refusal := .next (resetDone s c)

/-- A client reset of a teardown: its berths have ended already, so step 4 of R323 has nothing to wait for. -/
def resetNow (s : State) (c : BitVec 10) : State := modClient (resetClient s c) c (fun k => { k with resetBoundary := false })

/-- SPILL_DRAIN; in a teardown the client whose last record is written is reset (R396 step 3). -/
def spillDrained (s : State) (c : BitVec 10) : State :=
  let s1 := drainSpill s c (client s c).spill.length
  if s1.sec.tenancy = .teardown ∧ !s1.lost.lost ∧ (client s1 c).spill.isEmpty then resetNow s1 c else s1
def execSpillDrain (c : BitVec 10) (s : State) : Host.Outcome State Fault Refusal := .next (spillDrained s c)

/-! ## F2H_DELIVER (R324) -/

def deliverF2h (s : State) (c : BitVec 10) : State :=
  let k := client s c
  match k.outbox with
  | [] => s
  | m :: rest =>
    if writable k && decide ((k.f2hTail - k.f2hHead).toNat < f2hSize s c) then
      let s1 := setClient s c { k with outbox := rest, f2hTail := k.f2hTail + 1, f2hSeq := k.f2hSeq + 1 }
      let s2 := hostBytes (bump (emit s1 (.f2h c m k.f2hSeq (phaseAt (f2hSize s c) k.f2hTail.toNat))) (hifCtr 15)) c 256
      signalIrq (if m.orphan then bump s2 (hifCtr 17) else s2) c false
    else s
def execF2hDeliver (c : BitVec 10) (s : State) : Host.Outcome State Fault Refusal := .next (deliverF2h s c)

end Sys2Proof.Machine
end

