-- ==== Sys2Proof/Machine/Conv.lean ====
section
/-! DEFINITION. The convolution front end: descriptors, windows, the Winograd path, stripes and compression (R224–R242). -/

namespace Sys2Proof.Machine
open Sys2Proof

/-- A convolution descriptor, field by field (R227). -/
structure CD where
  kind : Nat
  wino : Bool
  relu : Bool
  inLay : Nat
  outLay : Nat
  inPmSrc : Bool
  outPmDst : Bool
  zrcOut : Bool
  zrcIn : Bool
  outFmt : Nat
  cin : Nat
  cout : Nat
  tIn : Nat
  fIn : Nat
  kt : Nat
  kf : Nat
  st : Nat
  sf : Nat
  dt : Nat
  df : Nat
  pt0 : Nat
  pt1 : Nat
  pf0 : Nat
  pf1 : Nat
  nrb : Nat
  reps : Nat
  stripe : Nat
  scaleOff : Nat
  entries : List (Nat × Nat)
  entryTop : List Bool
  inPm : BitVec 64
  outPm : BitVec 64
  resv : Bool

/-- The fields of the 128 bytes of a convolution descriptor. -/
def cdOf (w : Nat) : CD :=
  let bit (i : Nat) : Bool := decide (bitsOf w i i = 1)
  { kind := bitsOf w 1 0, wino := bit 2, relu := bit 3, inLay := bitsOf w 6 4, outLay := bitsOf w 9 7,
    inPmSrc := bit 10, outPmDst := bit 11, zrcOut := bit 12, zrcIn := bit 13, outFmt := bitsOf w 15 14,
    cin := bitsOf w 27 16, cout := bitsOf w 39 28, tIn := bitsOf w 63 40, fIn := bitsOf w 74 64,
    kt := bitsOf w 85 80, kf := bitsOf w 88 86, st := bitsOf w 92 89, sf := bitsOf w 95 93, dt := bitsOf w 101 96,
    df := bitsOf w 104 102, pt0 := bitsOf w 119 112, pt1 := bitsOf w 127 120, pf0 := bitsOf w 131 128,
    pf1 := bitsOf w 135 132, nrb := bitsOf w 138 136, reps := bitsOf w 143 139, stripe := bitsOf w 159 144,
    scaleOff := bitsOf w 179 160,
    entries := (upTo 16).map (fun i => (bitsOf w (195 + 8 * i) (192 + 8 * i), bitsOf w (198 + 8 * i) (196 + 8 * i))),
    inPm := BitVec.ofNat 64 (bitsOf w 383 320), outPm := BitVec.ofNat 64 (bitsOf w 447 384),
    entryTop := (upTo 16).map (fun i => bit (199 + 8 * i)),
    resv := decide (bitsOf w 79 75 ≠ 0 ∨ bitsOf w 111 105 ≠ 0 ∨ bitsOf w 191 180 ≠ 0 ∨ bitsOf w 1023 448 ≠ 0) }

/-- The descriptor at a store address. -/
def cdAt (s : State) (l a : Nat) : CD := cdOf (storeLe s l a 128)

/-! ## Geometry (R228–R230) -/

/-- A transposed convolution. -/
def cdTrans (d : CD) : Bool := decide (2 ≤ d.kind)
def cdTwoD (d : CD) : Bool := decide (d.kind % 2 = 1)

/-- Output length along an axis; 0 where the formula gives less than 1. -/
def outLen (trans : Bool) (i p0 p1 dil k st : Nat) : Nat :=
  if trans then (i - 1) * st + 1 + p0 + p1 - dil * (k - 1)
  else if i + p0 + p1 < dil * (k - 1) + 1 then 0 else (i + p0 + p1 - dil * (k - 1) - 1) / st + 1

def cdOutT (d : CD) : Nat := outLen (cdTrans d) d.tIn d.pt0 d.pt1 d.dt d.kt d.st
def cdOutF (d : CD) : Nat := outLen (cdTrans d) d.fIn d.pf0 d.pf1 d.df d.kf d.sf

/-- Phases of the command: 1 for a direct convolution. -/
def cdPhT (d : CD) : Nat := if cdTrans d then d.st else 1
def cdPhF (d : CD) : Nat := if cdTrans d then d.sf else 1
def cdPhases (d : CD) : Nat := cdPhT d * cdPhF d

/-- Entries in use: the count of R231, or the 16 of the Winograd path (R227, R236). -/
def cdCount (d : CD) : Nat := if d.wino then 16 else Nat.min 16 (d.reps * cdPhases d * d.nrb)

/-- Where tap i of output position o draws along an axis: none when it meets an inserted zero of a transposed convolution. -/
def tapPos (trans : Bool) (o i st dil p0 : Nat) : Option Int :=
  let v : Int := (if trans then (o : Int) else (o * st : Nat)) + (i * dil : Nat) - p0
  if trans then (if v % (st : Int) = 0 then some (v / (st : Int)) else none) else some v

/-- The input positions of an output position along an axis, taps in ascending order. -/
def tapsOf (trans : Bool) (o k st dil p0 : Nat) : List Int := (upTo k).filterMap (fun i => tapPos trans o i st dil p0)

def tapsT (d : CD) (o : Nat) : List Int := tapsOf (cdTrans d) o d.kt d.st d.dt d.pt0
def tapsF (d : CD) (o : Nat) : List Int := tapsOf (cdTrans d) o d.kf d.sf d.df d.pf0

/-- The phase of an output position, time-major (R230). -/
def phaseOf (d : CD) (ot of : Nat) : Nat := (ot % cdPhT d) * cdPhF d + of % cdPhF d

/-- Window rows of a phase. -/
def windowRows (d : CD) (ph : Nat) : Nat :=
  (tapsT d (ph / cdPhF d)).length * (tapsF d (ph % cdPhF d)).length * d.cin

/-! ## Layouts (R233) -/

/-- The linear index of an element in a layout. -/
def layIx (lay T F C t f c : Nat) : Nat :=
  match lay with
  | 0 => (t * F + f) * C + c
  | 1 => (f * T + t) * C + c
  | 2 => (t * C + c) * F + f
  | 3 => ((c / 16 * T + t) * F + f) * 16 + c % 16
  | 4 => (c * T + t) * F + f
  | 5 => (c * F + f) * T + t
  | _ => (f * C + c) * T + t

/-- The element (time, frequency, channel) at a linear index. -/
def layAt (lay T F C i : Nat) : Nat × Nat × Nat :=
  match lay with
  | 0 => (i / C / F, i / C % F, i % C)
  | 1 => (i / C % T, i / C / T, i % C)
  | 2 => (i / F / C, i % F, i / F % C)
  | 3 => (i / 16 / F % T, i / 16 % F, i / 16 / F / T * 16 + i % 16)
  | 4 => (i / F % T, i % F, i / F / T)
  | 5 => (i % T, i / T % F, i / T / F)
  | _ => (i % T, i / T / C, i / T % C)

/-- Bytes per core cycle of a layout (R233). -/
def layRate (lay F : Nat) : Nat :=
  match lay with
  | 0 => 128
  | 1 => if F = 1 then 128 else 64
  | 2 => if F = 1 then 128 else 32
  | 3 => 32
  | 4 => 16
  | _ => if F = 1 then 16 else 8

/-! ## Compression (R239) -/

/-- Leading zero bytes. -/
def leadZeros : List (BitVec 8) → Nat
  | [] => 0
  | b :: t => if b = 0 then leadZeros t + 1 else 0

/-- Literal tokens of bytes, split at 128. -/
def zrcLiterals (bs : List (BitVec 8)) : Nat → List (BitVec 8)
  | 0 => []
  | n + 1 =>
    if bs.isEmpty then []
    else BitVec.ofNat 8 (Nat.min 128 bs.length - 1) :: bs.take 128 ++ zrcLiterals (bs.drop 128) n

/-- Run tokens of z zero bytes, split at 128. -/
def zrcRuns (z : Nat) : Nat → List (BitVec 8)
  | 0 => []
  | n + 1 => if z = 0 then [] else BitVec.ofNat 8 (0x7F + Nat.min 128 z) :: zrcRuns (z - 128) n

/-- Code bytes: every maximal run of two or more zeros is a run, every other byte a literal. -/
def zrcCode (lit rest : List (BitVec 8)) : Nat → List (BitVec 8)
  | 0 => zrcLiterals lit lit.length
  | n + 1 =>
    match rest with
    | [] => zrcLiterals lit lit.length
    | b :: t =>
      let z := leadZeros rest
      if 2 ≤ z then zrcLiterals lit lit.length ++ zrcRuns z z ++ zrcCode [] (rest.drop z) n
      else zrcCode (lit ++ [b]) t n

/-- The coding of one position's raw bytes. -/
def zrcEncode (raw : List (BitVec 8)) : List (BitVec 8) := zrcCode [] raw (raw.length + 1)

/-- Decode a coding; at most n tokens. -/
def zrcDecode (bs : List (BitVec 8)) : Nat → List (BitVec 8)
  | 0 => []
  | n + 1 =>
    match bs with
    | [] => []
    | b :: t =>
      if b.toNat < 128 then t.take (b.toNat + 1) ++ zrcDecode (t.drop (b.toNat + 1)) n
      else List.replicate (b.toNat - 0x7F) 0 ++ zrcDecode t n

/-- Round up to a multiple of 64. -/
def up64 (n : Nat) : Nat := ceilDiv n 64 * 64

/-- The space of a compressed map (R240). -/
def zrcSpace (T r : Nat) : Nat := up64 (8 * T) + T * up64 (r + ceilDiv r 128 + 1)

/-- Bits of one output element, by `out_fmt`. -/
def outBits (fmt : Nat) : Nat := match fmt with | 0 => 32 | 1 => 16 | 2 => 8 | _ => 4

/-- Raw bytes of one output time position, and of one input position of elements of `bits`. -/
def outPosBytes (d : CD) : Nat := ceilDiv (cdOutF d * d.cout * outBits d.outFmt) 8
def inPosBytes (d : CD) (bits : Nat) : Nat := ceilDiv (d.fIn * d.cin * bits) 8

/-- Space of the input and the output map in region 0 (R240). -/
def inSpace (d : CD) (bits : Nat) : Nat :=
  if d.zrcIn then zrcSpace d.tIn (inPosBytes d bits) else ceilDiv (d.tIn * d.fIn * d.cin * bits) 8
def outSpace (d : CD) : Nat :=
  if d.zrcOut then zrcSpace (cdOutT d) (outPosBytes d) else ceilDiv (cdOutT d * cdOutF d * d.cout * outBits d.outFmt) 8

/-! ## Reading the input map -/

/-- Element i of packed raw bytes, of `bits` each. -/
def packedAt (bs : List (BitVec 8)) (bits i : Nat) : Nat :=
  if bits = 4 then
    let b := ((bs[i / 2]?).getD 0).toNat
    if i % 2 = 0 then b % 16 else b / 16
  else leNat ((bs.drop (i * (bits / 8))).take (bits / 8))

/-- Offset and length of position t's coding (R239). -/
def zrcEntry (s : State) (pa t : Nat) : Nat × Nat :=
  let e := pmLe s (pa + 8 * t) 8
  (bitsOf e 39 0, bitsOf e 55 40)

/-- The raw bytes of each position of a compressed map. -/
def zrcMap (s : State) (pa T : Nat) : List (List (BitVec 8)) :=
  (upTo T).map (fun t =>
    let e := zrcEntry s pa t
    zrcDecode (pmBytes s (pa + up64 (8 * T) + e.1) e.2) e.2)

/-- The input code at (t, f, c) inside the map; `maps` holds the decoded positions of a compressed one. -/
def inCode (s : State) (l : Nat) (d : CD) (x : VH) (pa bits : Nat) (maps : List (List (BitVec 8))) (t f c : Nat) : Nat :=
  if !d.inPmSrc then vhRead s.store (storeBase (physOf s l)) x (layIx d.inLay d.tIn d.fIn d.cin t f c)
  else if d.zrcIn then packedAt ((maps[t]?).getD []) bits (layIx d.inLay 1 d.fIn d.cin 0 f c)
  else
    let i := layIx d.inLay d.tIn d.fIn d.cin t f c
    if bits = 4 then
      let b := pmLe s (pa + i / 2) 1
      if i % 2 = 0 then b % 16 else b / 16
    else pmLe s (pa + i * (bits / 8)) (bits / 8)

/-- The code at a drawn position: a padding element takes the code of value 0 (R229). -/
def drawCode (rd : Nat → Nat → Nat → Nat) (d : CD) (pad : Nat) (t f : Int) (c : Nat) : Nat :=
  if 0 ≤ t ∧ t < d.tIn ∧ 0 ≤ f ∧ f < d.fIn then rd t.toNat f.toNat c else pad

/-! ## Products of the front end -/

/-- What a command has done so far: the state with its counters, busy array cycles by tile, window bytes emitted, and C + D of its
largest product. -/
structure CvRun where
  st : State
  busy : Tab Nat := []
  bytes : Nat := 0
  fill : Nat := 0

/-- One product of an entry on an activation vector of codes: its INT32 results, into the front end's own buffer (R225, R226).  It meets
the tile as it is (R241). -/
def cvProduct (k : CvRun) (l : Nat) (e : Nat × Nat) (codes : List Nat) (eps : Nat) (za : Int) : CvRun × List Int :=
  let s := k.st
  let n := physOf s l
  let tn := slotTile s n e.1
  let t := tileAt s (tileKey n tn)
  let lr := lrAt t e.2
  let bs := if lr.aInt8 then codes.map (BitVec.ofNat 8 ·) else packNibbles codes
  let a : Active := { activeOf s n t {} with eps := BitVec.ofNat 64 eps, za := za }
  let t1 := { loadRows t t.nextBank lr bs with nextBank := 1 - t.nextBank }
  let r := convertProduct (runOf t1 a lr s.tick.toNat)
  let s1 := useFree (countConverted (setTile s (tileKey n tn) t1) n tn (lrConvs lr) r)
  let s2 := bump (bump s1 (tileCtr n tn 0)) (cCvProducts n)
  ({ k with st := s2, busy := tabMod 0 k.busy (tileKey n tn) (· + lrInterval lr), bytes := k.bytes + lrInBytes lr,
            fill := Nat.max k.fill (lrConvs lr + lrBeats lr) }, r.acc)

/-- A saturating sum of two result lists, with the saturations counted (R226 step 1). -/
def cvAdd (k : CvRun) (n : Nat) (a b : List Int) : CvRun × List Int :=
  let rs := List.zipWith satAdd32 a b
  ({ k with st := addCtr k.st (cCvSat n) (rs.filter (·.2)).length }, rs.map (·.1))

/-- The sums of one output position over its row blocks, in ascending order, from the window's codes. -/
def cvBlocks (k : CvRun) (l : Nat) (es : List (Nat × Nat)) (codes : List Nat) (eps : Nat) (za : Int) :
    List Nat → Option (List Int) → CvRun × List Int
  | [], acc => (k, acc.getD [])
  | b :: t, acc =>
    let p := cvProduct k l ((es[b]?).getD (0, 0)) ((codes.drop (512 * b)).take 512) eps za
    match acc with
    | none => cvBlocks p.1 l es codes eps za t (some p.2)
    | some a =>
      let q := cvAdd p.1 (physOf k.st l) a p.2
      cvBlocks q.1 l es codes eps za t (some q.2)

/-- The window of an output position: time tap outermost, then frequency tap, then channel (R224). -/
def windowOf (rd : Nat → Nat → Nat → Nat) (d : CD) (pad ot of : Nat) : List Nat :=
  (tapsT d ot).flatMap (fun t => (tapsF d of).flatMap (fun f => (upTo d.cin).map (fun c => drawCode rd d pad t f c)))

/-- The sums of output position p (R225). -/
def cvDirect (k : CvRun) (l : Nat) (d : CD) (rd : Nat → Nat → Nat → Nat) (pad eps : Nat) (za : Int) (p : Nat) : CvRun × List Int :=
  let ot := p / cdOutF d
  let of := p % cdOutF d
  let first := ((p % d.reps) * cdPhases d + phaseOf d ot of) * d.nrb
  let blocks := ceilDiv (windowRows d (phaseOf d ot of)) 512
  cvBlocks k l (d.entries.drop first) (windowOf rd d pad ot of) eps za (upTo (Nat.min blocks d.nrb)) none

/-! ## The Winograd path (R236, R237) -/

/-- Row i of Bᵀ applied to four values. -/
def winoB (i : Nat) (a b c e : Int) : Int :=
  match i with | 0 => a - c | 1 => b + c | 2 => c - b | _ => b - e

/-- V = Bᵀ X B at (i, j), X by rows. -/
def winoV (x : Nat → Nat → Int) (i j : Nat) : Int :=
  let y (col : Nat) : Int := winoB i (x 0 col) (x 1 col) (x 2 col) (x 3 col)
  winoB j (y 0) (y 1) (y 2) (y 3)

/-- Row i of Aᵀ applied to four lists of sums: its terms are added in order, saturating. -/
def winoA (k : CvRun) (n i : Nat) (a b c e : List Int) : CvRun × List Int :=
  let neg (v : List Int) : List Int := v.map (fun z => -z)
  if i = 0 then
    let p := cvAdd k n a b
    cvAdd p.1 n p.2 c
  else
    let p := cvAdd k n b (neg c)
    cvAdd p.1 n p.2 (neg e)

/-- The products of the transform positions, results in their order. -/
def winoProducts (k : CvRun) (l : Nat) (es : List (Nat × Nat)) (vecs : List (List Nat)) (eps : Nat) :
    List Nat → CvRun × List (List Int)
  | [] => (k, [])
  | j :: t =>
    let p := cvProduct k l ((es[j]?).getD (0, 0)) ((vecs[j]?).getD []) eps 0
    let rest := winoProducts p.1 l es vecs eps t
    (rest.1, p.2 :: rest.2)

/-- Fold a stateful step over indices, collecting results. -/
def cvEach (f : CvRun → Nat → CvRun × List Int) (k : CvRun) : List Nat → CvRun × List (List Int)
  | [] => (k, [])
  | j :: t =>
    let p := f k j
    let rest := cvEach f p.1 t
    (rest.1, p.2 :: rest.2)

/-- One output tile: four results in the order (0,0), (0,1), (1,0), (1,1). -/
def winoTile (k : CvRun) (l : Nat) (d : CD) (rd : Nat → Nat → Nat → Nat) (sgn int8 : Bool) (eps ot of : Nat) :
    CvRun × List (List Int) :=
  let n := physOf k.st l
  let bits := if int8 then 8 else 4
  let x (c i j : Nat) : Int :=
    let w := drawCode rd d 0 ((2 * ot + i : Nat) - (d.pt0 : Int)) ((2 * of + j : Nat) - (d.pf0 : Int)) c
    if sgn then signedOf bits w else (w : Int)
  let v (c j : Nat) : Int × Bool :=
    let q := rneDivInt (winoV (x c) (j / 4) (j % 4)) (if sgn then 4 else 8)
    let r := clampInt (codeLo int8 true) (codeHi int8 true) q
    (r, decide (r ≠ q))
  let vs := (upTo 16).map (fun j => (upTo d.cin).map (fun c => v c j))
  let clips := (vs.flatten.filter (·.2)).length
  let k0 : CvRun := { k with st := addCtr (bump k.st (cWinoTiles n)) (cActClip n) clips }
  let p := winoProducts k0 l d.entries (vs.map (fun u => u.map (fun e => wrapOf bits e.1))) eps (upTo 16)
  let m (i j : Nat) : List Int := ((p.2[4 * i + j]?).getD [])
  let rows := cvEach (fun k r => winoA k n (r / 4) (m 0 (r % 4)) (m 1 (r % 4)) (m 2 (r % 4)) (m 3 (r % 4))) p.1 (upTo 8)
  let u (i j : Nat) : List Int := ((rows.2[4 * i + j]?).getD [])
  cvEach (fun k r => winoA k n (r % 2) (u (r / 2) 0) (u (r / 2) 1) (u (r / 2) 2) (u (r / 2) 3)) rows.1 (upTo 4)

/-! ## Output, stripes and the whole command -/

/-- One output value from its sum: δ, rounding and saturation of R70, then rectification (R226). -/
def cvOut (d : CD) (delta : Nat) (acc : Int) : Nat × Bool :=
  let r := drainValue d.outFmt acc delta
  let b := outBits d.outFmt
  let negative := if d.outFmt = 1 then decide (2 ^ 15 < r.1) else decide (signedOf b r.1 < 0)
  (if d.relu && negative then 0 else r.1, r.2)

/-- First and last real input position along time of a stripe of outputs [o, o + n) (R238). -/
def stripeIn (d : CD) (o n : Nat) : Int × Int :=
  let last : Int := d.dt * (d.kt - 1)
  let lo : Int := if cdTrans d then (o : Int) - d.pt0 else (o * d.st : Nat) - (d.pt0 : Int)
  let hi : Int := if cdTrans d then ((o + n - 1 : Nat) : Int) + last - d.pt0
    else ((o + n - 1) * d.st : Nat) + last - d.pt0
  let lo' := if cdTrans d then (lo + d.st - 1) / d.st else lo
  let hi' := if cdTrans d then hi / d.st else hi
  (if lo' < 0 then 0 else lo', if (d.tIn : Int) ≤ hi' then d.tIn - 1 else hi')

/-- The input positions that stripe i fetches. -/
def stripeSet (d : CD) (i : Nat) : List Nat :=
  let o := i * d.stripe
  let r := stripeIn d o (Nat.min d.stripe (cdOutT d - o))
  (upTo (r.2 - r.1 + 1).toNat).map (fun k => r.1.toNat + k)

def stripeCount (d : CD) : Nat := ceilDiv (cdOutT d) d.stripe

/-- Positions that stripe i fetches again: those that the stripe before it fetched too. -/
def haloOf (d : CD) (i : Nat) : Nat :=
  if i = 0 then 0 else ((stripeSet d i).filter (fun p => (stripeSet d (i - 1)).contains p)).length

/-- Input positions of one full stripe, for the staging area. -/
def stripeRows (d : CD) : Nat :=
  if cdTrans d then (d.stripe - 1 + d.dt * (d.kt - 1)) / d.st + 1 else (d.stripe - 1) * d.st + d.dt * (d.kt - 1) + 1

/-- Write element i of packed elements in package memory. -/
def pmElem (s : State) (pa bits i v : Nat) : State :=
  if bits = 4 then
    let b := pmLe s (pa + i / 2) 1
    pmPut s (pa + i / 2) (natLe (if i % 2 = 0 then b / 16 * 16 + v % 16 else v % 16 * 16 + b % 16) 1)
  else pmPut s (pa + i * (bits / 8)) (natLe v (bits / 8))

/-- The result at (time, frequency, channel) of the positions not yet spilled. -/
def cvVal (d : CD) (outs : Tab (List Nat)) (ot of ch : Nat) : Nat := ((tabGet [] outs (ot * cdOutF d + of))[ch]?).getD 0

/-- Code and write output time position t of a compressed map behind the one before it (R239); the answer is with the coded bytes. -/
def zrcSpill (s : State) (d : CD) (pa : Nat) (outs : Tab (List Nat)) (t : Nat) : State × Nat :=
  let F := cdOutF d
  let code := zrcEncode (drainBytes d.outFmt ((upTo (F * d.cout)).map (fun i =>
    let e := layAt d.outLay 1 F d.cout i
    cvVal d outs t e.2.1 e.2.2)))
  let off := if t = 0 then 0 else (zrcEntry s pa (t - 1)).1 + up64 (zrcEntry s pa (t - 1)).2
  let s1 := pmPut s (pa + 8 * t) (natLe (off + code.length * 2 ^ 40) 8)
  (pmPut s1 (pa + up64 (8 * cdOutT d) + off) code, code.length + 8)

/-- Write output time position t of an uncompressed map. -/
def rawSpill (s : State) (d : CD) (pa : Nat) (outs : Tab (List Nat)) (t : Nat) : State :=
  let F := cdOutF d
  (upTo (F * d.cout)).foldl (fun s i =>
    pmElem s pa (outBits d.outFmt) (layIx d.outLay (cdOutT d) F d.cout t (i / d.cout) (i % d.cout))
      (cvVal d outs t (i / d.cout) (i % d.cout))) s

/-- Spill the output time positions of a stripe: the state, and the bytes that went to package memory. -/
def cvSpill (s : State) (d : CD) (pa : Nat) (outs : Tab (List Nat)) (ts : List Nat) : State × Nat :=
  ts.foldl (fun a t =>
    if d.zrcOut then
      let r := zrcSpill a.1 d pa outs t
      (r.1, a.2 + r.2)
    else (rawSpill a.1 d pa outs t, a.2 + outPosBytes d)) (s, 0)

/-- The scale word of a command: ε, za and δ (R68). -/
def cvScale (s : State) (l : Nat) (t : Thread) (d : CD) : Nat := storeLe s l (t.bw.base + 16 * d.scaleOff) 16

/-- Occupancy of a command in core cycles (R234); package memory at the cluster's 400 bytes per core cycle. -/
def cvCycles (d : CD) (k : CvRun) (outB pmB : Nat) : Nat :=
  let a := maxNat (k.busy.map (·.2))
  Nat.max (Nat.max (3 * a) (ceilDiv k.bytes (layRate d.inLay d.fIn)))
    (Nat.max (ceilDiv outB (layRate d.outLay (cdOutF d))) (ceilDiv pmB 400)) + 3 * (48 + k.fill) + 32

/-- A staging area's content after the command is not stated: free bytes (DESIGN CHOICE, log 169). -/
def cvStage (s : State) (l : Nat) (use : Bool) (h : VH) : State :=
  if use then useFree (storePut s l (vhSpan h).base (freeBytes s (vhSpan h).len)) else s

/-- Positions, or Winograd output tiles, of a command, and of one full stripe (R235, R238). -/
def cvUnits (d : CD) : Nat := if d.wino then cdOutT d / 2 * (cdOutF d / 2) else cdOutT d * cdOutF d
def cvPerStripe (d : CD) : Nat := if d.wino then d.stripe / 2 * (cdOutF d / 2) else d.stripe * cdOutF d

/-- The output positions that unit u gives, in the order of its results. -/
def cvPositions (d : CD) (u : Nat) : List Nat :=
  let F := cdOutF d
  if d.wino then (upTo 4).map (fun k => (u / (F / 2) * 2 + k / 2) * F + u % (F / 2) * 2 + k % 2) else [u]

/-- The layer record of the first entry, which gives the activation format of the command (R225). -/
def cvRecord (s : State) (l : Nat) (d : CD) : LR :=
  let e0 := (d.entries[0]?).getD (0, 0)
  lrAt (tileAt s (tileOfSlot s l e0.1)) e0.2

/-- The fetch of stripe i: package-memory bytes, halo bytes and coded bytes are counted (R238, R239). -/
def cvFetch (s : State) (c : Cmd) (d : CD) (bits i : Nat) : State × Cmd :=
  if !d.inPmSrc then (s, c)
  else
    let n := physOf s (lcluOf c.lt)
    let pa := pmAddr s c.lt (thread s c.lt) d.inPm
    let coded := ((stripeSet d i).map (fun p => (zrcEntry s pa p).2)).foldl (· + ·) 0
    let bytes := if d.zrcIn then coded else (stripeSet d i).length * inPosBytes d bits
    let s1 := addCtr (movePm s n c.client false pa bytes) (cHaloBytes n) (haloOf d i * inPosBytes d bits)
    (if d.zrcIn then addCtr s1 (cZrcDec n) coded else s1, { c with cv := { c.cv with stripes := i + 1, pmB := c.cv.pmB + bytes } })

/-- The results of unit u. -/
def cvCompute (s : State) (c : Cmd) (d : CD) (u : Nat) : CvRun × List (List Int) :=
  let l := lcluOf c.lt
  let t := thread s c.lt
  let lr := cvRecord s l d
  let bits := if lr.aInt8 then 8 else 4
  let w := cvScale s l t d
  let za : Int := if lr.aAsym then signedOf 16 (bitsOf w 95 80) else 0
  let pa := pmAddr s c.lt t d.inPm
  let rd := inCode s l d (vhOf c.hx) pa bits (if d.inPmSrc && d.zrcIn then zrcMap s pa d.tIn else [])
  let k : CvRun := { st := s, busy := c.cv.busy, bytes := c.cv.bytes, fill := c.cv.fill }
  if d.wino then winoTile k l d rd (vhOf c.hx).sgn lr.aInt8 (bitsOf w 63 0) (u / (cdOutF d / 2)) (u % (cdOutF d / 2))
  else
    let r := cvDirect k l d rd (wrapOf bits za) (bitsOf w 63 0) za u
    (r.1, [r.2])

/-- The output stage on one position's sums (R226): the results as bits, saturations counted. -/
def cvStageOut (s : State) (n : Nat) (d : CD) (delta : Nat) (accs : List Int) : State × List Nat :=
  let vs := (accs.take d.cout).map (cvOut d delta)
  (addCtr s (cDrainSat n) (vs.filter (·.2)).length, vs.map (·.1))

/-- Write a position's results into the output vector of the store. -/
def cvStorePos (s : State) (c : Cmd) (d : CD) (p : Nat) (vs : List Nat) : State :=
  let F := cdOutF d
  { s with store := vs.zipIdx.foldl (fun m v =>
      vhWrite m (storeBase (physOf s (lcluOf c.lt))) (vhOf c.hd) (layIx d.outLay (cdOutT d) F d.cout (p / F) (p % F) v.2) v.1) s.store }

/-- One position's results leave the output stage: into the store, or held until their stripe is spilled. -/
def cvPut (d : CD) (delta : Nat) (a : State × Cmd) (e : Nat × List Int) : State × Cmd :=
  let r := cvStageOut a.1 (physOf a.1 (lcluOf a.2.lt)) d delta e.2
  if d.outPmDst then (r.1, { a.2 with cv := { a.2.cv with outs := tabSet [] a.2.cv.outs e.1 r.2 } })
  else (cvStorePos r.1 a.2 d e.1 r.2, a.2)

/-- The stripe that ends with the units done is spilled. -/
def cvEndStripe (s : State) (c : Cmd) (d : CD) : State × Cmd :=
  if !d.outPmDst then (s, c)
  else
    let n := physOf s (lcluOf c.lt)
    let pa := pmAddr s c.lt (thread s c.lt) d.outPm
    let t0 := (c.cv.stripes - 1) * d.stripe
    let ts := (upTo (Nat.min d.stripe (cdOutT d - t0))).map (· + t0)
    let sp := cvSpill s d pa c.cv.outs ts
    let s1 := movePm sp.1 n c.client true pa sp.2
    (if d.zrcOut then addCtr (addCtr s1 (cZrcRaw n) (ts.length * outPosBytes d)) (cZrcCoded n) sp.2 else s1,
     { c with cv := { c.cv with outs := [], pmB := c.cv.pmB + sp.2 } })

/-- The next unit of a command: its stripe's fetch when it begins one, its products, the output stage, and the stripe's spill when it
ends one. -/
def cvUnit (a : State × Cmd) : State × Cmd :=
  let s := a.1
  let d := cdAt s (lcluOf a.2.lt) a.2.sy.toNat
  let u := a.2.cv.done
  let lr := cvRecord s (lcluOf a.2.lt) d
  let delta := bitsOf (cvScale s (lcluOf a.2.lt) (thread s a.2.lt) d) 79 64
  let b := if u % cvPerStripe d = 0 then
      cvFetch s { a.2 with cv := { a.2.cv with stripes := u / cvPerStripe d + 1 } } d (if lr.aInt8 then 8 else 4) (u / cvPerStripe d)
    else a
  let r := cvCompute b.1 b.2 d u
  let c1 := { b.2 with cv := { b.2.cv with done := u + 1, busy := r.1.busy, bytes := r.1.bytes, fill := r.1.fill } }
  let e := ((cvPositions d u).zip r.2).foldl (cvPut d delta) (r.1.st, c1)
  if (u + 1) % cvPerStripe d = 0 ∨ u + 1 = cvUnits d then cvEndStripe e.1 e.2 d else e

/-- The next n units. -/
def cvSteps (a : State × Cmd) : Nat → State × Cmd
  | 0 => a
  | n + 1 => cvSteps (cvUnit a) n

/-- CONV's work: the units that are left, the counters and the charge (R226, R234). -/
def runConv (s : State) (c : Cmd) : State :=
  let l := lcluOf c.lt
  let n := physOf s l
  let d := cdAt s l c.sy.toNat
  let e := cvSteps (s, c) (cvUnits d - c.cv.done)
  let outB := cdOutT d * outPosBytes d
  let s1 := if d.outFmt ≠ 0 && badDelta (bitsOf (cvScale s l (thread s c.lt) d) 79 64) then bump e.1 (cBadScale n) else e.1
  let s2 := cvStage (cvStage s1 l d.inPmSrc (vhOf c.hx)) l d.outPmDst (vhOf c.hd)
  let ns := (e.2.cv.busy.map (fun b => 2 * b.2)).foldl (· + ·) 0
  let s3 := modBerth s2 c.berth (fun b => { b with tile3 := b.tile3 + 3 * ns })
  let k : CvRun := { st := s3, busy := e.2.cv.busy, bytes := e.2.cv.bytes, fill := e.2.cv.fill }
  chargeEngine (bump s3 (cCvCmds n)) e.2 (cvCycles d k outB e.2.cv.pmB)

/-- How many units a CONV under way has behind it when something else acts on the device: somewhere between those done and all, the spec
fixes no moment, which is a free value (DESIGN CHOICE, log 34). -/
def advanceConv (s : State) (l : Nat) : State :=
  match queue s l 4 with
  | [] => s
  | c :: q =>
    let left := cvUnits (cdAt s l c.sy.toNat) - c.cv.done
    let r := cvSteps (s, c) (Config.freeProgress s.free % (left + 1))
    useFree (setQueue r.1 l 4 (r.2 :: q))

/-- The convolutions under way meet what acts on the tiles after some of their products and before the rest (R241). -/
def advanceConvs (s : State) : State := (upTo 16).foldl advanceConv s

/-- The units of the last checkpoint: of a stripe boundary, or of every 1,024 units (R235). -/
def cvCheckpoint (d : CD) (u : Nat) : Nat :=
  Nat.max (u / 1024 * 1024) (u / cvPerStripe d * cvPerStripe d)

/-- A CONV halts at its last checkpoint whose outputs are written: positions behind it are computed again on resume (R131, R235;
log 169). -/
def haltConv (s : State) (l : Nat) : State :=
  match queue s l 4 with
  | [] => s
  | c :: q =>
    let d := cdAt s l c.sy.toNat
    let k := cvCheckpoint d c.cv.done
    let kept := (upTo k).flatMap (cvPositions d)
    setQueue s l 4 ({ c with cv := { c.cv with done := k, outs := c.cv.outs.filter (fun e => kept.contains e.1) } } :: q)

/-- A teardown lets a CONV run on to its next checkpoint, where it completes; its unspilt results are scrubbed with the cluster (R241). -/
def endConv (s : State) (l : Nat) : State :=
  let s1 := advanceConv s l
  match queue s1 l 4 with
  | [] => s1
  | c :: _ =>
    let d := cdAt s1 l c.sy.toNat
    let u := c.cv.done
    let p := cvPerStripe d
    let stop := Nat.min (cvUnits d) (Nat.min ((u / 1024 + 1) * 1024) (if p = 0 then cvUnits d else (u / p + 1) * p))
    bump (cvSteps (s1, c) (if u % 1024 = 0 ∨ (p ≠ 0 ∧ u % p = 0) then 0 else stop - u)).1 (cCvCmds (physOf s1 l))

/-- The checks of CONV at issue (R163, R232). -/
def convChecks (s : State) (lt : BitVec 12) (f : Fields) (t : Thread) : List (Option Exc) :=
  let l := lcluOf lt
  let a := (readS t f.y.toNat).toNat
  let d := cdAt s l a
  let e0 := (d.entries[0]?).getD (0, 0)
  let lr := lrAt (tileAt s (tileOfSlot s l e0.1)) e0.2
  let bits := if lr.aInt8 then 8 else 4
  let x := hX t f
  let o := hD t f
  let pm (w : BitVec 64) (n : Nat) : List (Option Exc) :=
    [chk (decide (bitsOf w.toNat 39 0 % 64 = 0)) .misaligned,
     chk (decide (bitsOf w.toNat 63 60 = 0) && (pmRange s lt t w n).isSome) .storeBounds]
  (if d.inPmSrc then chkVWrite t (readV t f.x.toNat) else chkVRead t (readV t f.x.toNat)) ++
  chkVWrite t (readV t f.d.toNat) ++
  [chk (decide (a % 64 = 0)) .misaligned, chk (inWin t.mw ⟨a, 128⟩) .storeBounds,
   chk ((modelOf s t).convs.any (fun v => decide (t.mw.base + v = a))) .engineLimit,
   if d.inPmSrc then chk (decide (2 * stripeRows d * inPosBytes d bits ≤ (vhSpan x).len)) .engineLimit
   else chk (decide (vhCount x = d.tIn * d.fIn * d.cin ∧ vhFmt x = (if lr.aInt8 then .int8 else .int4))) .badHandle,
   if d.outPmDst then chk (decide (2 * d.stripe * outPosBytes d ≤ (vhSpan o).len)) .engineLimit
   else chk (decide (vhCount o = cdOutT d * cdOutF d * d.cout ∧
     vhFmt o = (match d.outFmt with | 0 => .int32 | 1 => .bf16 | 2 => .int8 | _ => .int4))) .badHandle,
   chk (decide ((t.bw.base + 16 * d.scaleOff) % 16 = 0)) .misaligned,
   chk (inWin t.bw ⟨t.bw.base + 16 * d.scaleOff, 16⟩) .storeBounds] ++
  (if d.inPmSrc then pm d.inPm (inSpace d bits) else []) ++ (if d.outPmDst then pm d.outPm (outSpace d) else [])

/-- CONV: a convolution over a feature map through the front end (R163, R226). -/
def execConv (lt : BitVec 12) (f : Fields) (s : State) : Host.Outcome State Fault Refusal :=
  .next (issueCmd s lt 4 0xA0 f (convChecks s lt f))

/-- CONV_CMD_COMPLETE: the command at the head of the front end's queue completes (R234). -/
def execConvCmdComplete (l : BitVec 4) (s : State) : Host.Outcome State Fault Refusal :=
  .next (completeHead s l.toNat 4 runConv)

/-! ## The loader's checks (R231, R236, R239) -/

/-- How a load refuses a descriptor. -/
inductive CdFault where
  | noFit | badDesc
deriving DecidableEq, Repr

/-- The layer record that an entry names in a model declaration. -/
def recOf (m : ModelDecl) (e : Nat × Nat) : Option LR :=
  (m.recs.find? (fun r => decide (r.tile = e.1 ∧ r.recIx = e.2))).map (fun r => lrOf r.raw)

/-- Entries in use with the rows each must have. -/
def cdUsed (d : CD) : List ((Nat × Nat) × Nat) :=
  if d.wino then d.entries.map (fun e => (e, d.cin))
  else
    (upTo (d.reps * cdPhases d * d.nrb)).map (fun i =>
      let rows := windowRows d (i / d.nrb % cdPhases d)
      ((d.entries[i]?).getD (0, 0), Nat.min 512 (rows - 512 * (i % d.nrb))))

/-- A record agrees with R225 and with the first record of the command. -/
def recAgrees (d : CD) (first : LR) (rows : Nat) (r : LR) : Bool :=
  decide (r.rows = rows ∧ r.drainFmt = 0 ∧ d.cout ≤ lrOuts r) && !r.drainAdd
  && decide (r.aInt8 = first.aInt8 ∧ r.aSigned = first.aSigned ∧ r.aAsym = first.aAsym)

/-- The 16 records of the Winograd path have equal Cout and equal λ, and signed activations without zero point (R236). -/
def winoRecords (m : ModelDecl) (d : CD) : Bool :=
  let rs := d.entries.filterMap (fun e => m.recs.find? (fun r => decide (r.tile = e.1 ∧ r.recIx = e.2)))
  decide (rs.length = 16) && rs.all (fun r => (lrOf r.raw).aSigned && !(lrOf r.raw).aAsym
    && rs.all (fun v => decide (lrOuts (lrOf r.raw) = lrOuts (lrOf v.raw) ∧ r.lambda = v.lambda)))

/-- The first failure of R231 in the order of its table. -/
def cdCheck (m : ModelDecl) (d : CD) : Option CdFault :=
  let first := ((d.entries[0]?).bind (recOf m)).getD (lrOf 0)
  let used := cdUsed d
  let recs := used.map (fun u => (recOf m u.1, u.2))
  if !(decide (d.kt ≤ 63) && (!cdTwoD d || decide (d.kf ≤ 7))) then some .noFit
  else if (upTo (cdPhases d)).any (fun p => decide (d.nrb * 512 < windowRows d p)) then some .noFit
  else if 16 < d.reps * cdPhases d * d.nrb ∨ (d.wino ∧ d.reps ≠ 1) then some .noFit
  else if recs.any (fun r => match r.1 with | some v => decide (lrOuts v < d.cout) | none => false) then some .noFit
  else if !cdTwoD d && !decide (d.kf = 1 ∧ d.sf = 1 ∧ d.df = 1 ∧ d.fIn = 1 ∧ d.pf0 = 0 ∧ d.pf1 = 0) then some .badDesc
  else if d.dt * (d.kt - 1) < Nat.max d.pt0 d.pt1 ∨ d.df * (d.kf - 1) < Nat.max d.pf0 d.pf1 then some .badDesc
  else if cdTrans d ∧ cdTwoD d ∧ (4 < d.st ∨ 4 < d.sf) then some .badDesc
  else if cdOutT d = 0 ∨ cdOutF d = 0 then some .badDesc
  else if recs.any (fun r => match r.1 with | some v => !recAgrees d first r.2 v | none => true) then some .badDesc
  else if (!first.aInt8 && decide (2 ≤ d.inLay)) || (decide (d.outFmt = 3) && decide (2 ≤ d.outLay)) then some .badDesc
  else if d.wino && !(decide (d.kind = 1 ∧ d.kt = 3 ∧ d.kf = 3 ∧ d.st = 1 ∧ d.sf = 1 ∧ d.dt = 1 ∧ d.df = 1 ∧ d.nrb = 1
      ∧ cdOutT d % 2 = 0 ∧ cdOutF d % 2 = 0 ∧ d.stripe % 2 = 0) && winoRecords m d) then some .badDesc
  else if d.zrcOut && !(d.outPmDst && d.relu && decide ((d.outFmt = 2 ∨ d.outFmt = 3)
      ∧ (d.outLay = 0 ∨ d.outLay = 2 ∨ d.outLay = 3) ∧ outPosBytes d ≤ 32768)) then some .badDesc
  else if d.zrcIn && !d.inPmSrc then some .badDesc
  else if d.resv || (d.entryTop.take (cdCount d)).any (fun b => b) || decide (d.kt = 0 ∨ d.kf = 0 ∨ d.inLay = 7 ∨ d.outLay = 7 ∨ d.cin = 0 ∨ d.cout = 0 ∨ 1024 < d.cout ∨ d.tIn = 0 ∨ d.fIn = 0
      ∨ d.st = 0 ∨ d.sf = 0 ∨ 4 < d.sf ∨ d.dt = 0 ∨ d.df = 0 ∨ d.nrb = 0 ∨ 4 < d.nrb ∨ d.reps = 0 ∨ 16 < d.reps
      ∨ d.stripe = 0 ∨ (d.inLay = 3 ∧ d.cin % 16 ≠ 0) ∨ (d.outLay = 3 ∧ d.cout % 16 ≠ 0)) then some .badDesc
  else none

end Sys2Proof.Machine
end

