-- ==== Sys2Proof/Machine/Dft.lean ====
section
/-! DEFINITION. Exact sums behind RFFT and RPREFILL, and the FP32 values that stand within a bound of them (R163, R185). -/

namespace Sys2Proof.Machine
open Sys2Proof

/-- A complex value, or a real one with imaginary part +0. -/
structure Cx where
  re : Fl
  im : Fl
deriving DecidableEq, Repr

def flNought : Fl := .fin false 0 0
def cxNought : Cx := ⟨flNought, flNought⟩

/-- Exact sums and products. -/
def exAdd (a b : Cx) : Cx := ⟨flAdd a.re b.re, flAdd a.im b.im⟩
def exMul (a b : Cx) : Cx := ⟨flSub (flMul a.re b.re) (flMul a.im b.im), flAdd (flMul a.re b.im) (flMul a.im b.re)⟩
def flSum (xs : List Fl) : Fl := xs.foldl flAdd flNought

/-- |re| + |im|, which bounds the magnitude. -/
def cxMag (a : Cx) : Fl := flAdd (flAbs a.re) (flAbs a.im)

/-! ## Sine and cosine with 96 fraction bits -/

/-- atan (1 / k) by n terms of its series from exponent j. -/
def atanFix (t k : Int) (j : Nat) : Nat → Int
  | 0 => 0
  | n + 1 => t / (j : Int) - atanFix (t / (k * k)) k (j + 2) n

/-- π by Machin's formula. -/
def piFix : Int := 16 * atanFix (2 ^ 96 / 5) 5 1 44 - 4 * atanFix (2 ^ 96 / 239) 239 1 16

/-- The alternating series of sine and cosine from a term of degree j. -/
def trigSeries (t t2 : Int) (j : Nat) : Nat → Int
  | 0 => 0
  | n + 1 => t - trigSeries (t * t2 / 2 ^ 96 / (((j + 1) * (j + 2) : Nat) : Int)) t2 (j + 2) n

/-- e^(−2πi k / n), or its conjugate: which of the two the forward transform takes, R163 does not say (DESIGN CHOICE, log 189). -/
def twiddle (inverse : Bool) (k n : Nat) : Cx :=
  let r : Int := (k % n : Nat)
  let c : Int := if 2 * r > n then r - n else r
  let a := 2 * piFix * c / (n : Int)
  let a2 := a * a / 2 ^ 96
  let fix (v : Int) : Fl := .fin (decide (v < 0)) v.natAbs (-96)
  ⟨fix (trigSeries (2 ^ 96) a2 0 24), fix (if inverse then trigSeries a a2 1 24 else -trigSeries a a2 1 24)⟩

/-- Bin k of the discrete Fourier transform of n values. -/
def dftBin (inverse : Bool) (n : Nat) (xs : List Cx) (k : Nat) : Cx :=
  (xs.zipIdx.map (fun p => exMul p.1 (twiddle inverse (p.2 * k) n))).foldl exAdd cxNought

/-! ## FP32 results whose rounding the spec leaves open -/

/-- n roundings' worth of a magnitude, with room for results flushed to zero. -/
def roundings (n : Nat) (mag : Fl) : Fl := flAdd (flMul mag (.fin false n (-23))) (.fin false n (-120))

/-- A free FP32 value where it lies within a bound of the exact one, and the exact one rounded elsewhere; wholly free where the exact value
or a value on the way to it may be no finite number. -/
def nearBound (free : BitVec 32) (exact bound mag : Fl) : Fl :=
  let f := flOfBits .fp32 free.toNat
  match exact, mag with
  | .fin _ _ _, .fin _ _ _ =>
    if flLt mag (.fin false 1 126) && (flIsNan f || flLt bound (flAbs (flSub f exact))) then fp32Of exact else f
  | _, _ => f

end Sys2Proof.Machine
end

