-- ==== Sys2Proof/Machine/Recurrence.lean ====
section
/-! DEFINITION. The recurrence unit: RSTEP, RPREFILL and RFFT (R163, R177–R187). -/

namespace Sys2Proof.Machine
open Sys2Proof

/-- A layer descriptor, field by field (R178). -/
structure RL where
  cplx : Bool
  bf16 : Bool
  dith : Bool
  group : Nat
  win : Nat
  head : Nat
  chans : Nat
  nstate : Nat
  coef : Nat
  seed : Nat
  dseed : Nat
  layerId : Nat
  resv : Bool
deriving DecidableEq, Repr

/-- The fields of the 64 bytes of a layer descriptor. -/
def rlOf (w : Nat) : RL :=
  { cplx := decide (bitsOf w 1 0 = 1), bf16 := decide (bitsOf w 2 2 = 1), dith := decide (bitsOf w 3 3 = 1),
    group := bitsOf w 5 4, win := bitsOf w 7 6, head := bitsOf w 9 8, chans := bitsOf w 28 16, nstate := bitsOf w 44 32,
    coef := bitsOf w 72 48, seed := bitsOf w 87 80, dseed := bitsOf w 111 96, layerId := bitsOf w 143 128,
    resv := decide (2 ≤ bitsOf w 1 0 ∨ bitsOf w 5 4 = 3 ∨ bitsOf w 15 10 ≠ 0 ∨ bitsOf w 31 29 ≠ 0 ∨ bitsOf w 47 45 ≠ 0
      ∨ bitsOf w 79 73 ≠ 0 ∨ bitsOf w 95 88 ≠ 0 ∨ bitsOf w 127 112 ≠ 0 ∨ bitsOf w 511 144 ≠ 0) }

/-- W = D × N, the element count E, the group size and the number of groups (R177, R180). -/
def rlW (r : RL) : Nat := r.chans * r.nstate
def rlE (r : RL) : Nat := if r.cplx then 2 * rlW r else rlW r
def rlG (r : RL) : Nat := 32 * 2 ^ r.group
def rlGroups (r : RL) : Nat := ceilDiv (rlE r) (rlG r)

/-- Bytes of one coefficient record and of the whole table (R179). -/
def rlRecord (r : RL) : Nat := if r.cplx then 24 else 12
def rlTable (r : RL) : Nat := rlRecord r * rlW r + 4 * r.chans

/-- Bytes of the state scale block (R180). -/
def rlBlock (r : RL) : Nat := 3 + ceilDiv (rlGroups r) 2 + 2 * rlGroups r

/-- No reserved value, and D, N and D × N within their limits (R178). -/
def rlValid (r : RL) : Bool :=
  !r.resv && decide (1 ≤ r.chans ∧ r.chans ≤ 4096 ∧ 1 ≤ r.nstate ∧ r.nstate ≤ 4096 ∧ rlW r ≤ 4096) && decide (r.coef % 64 = 0)

/-- The layer descriptor at a store address. -/
def rlAt (s : State) (l a : Nat) : RL := rlOf (storeLe s l a 64)

/-! ## Complex FP32: each component of an operation's exact result is rounded once (R181) -/

/-- Product of two values in the layer's form. -/
def cxMul (cplx : Bool) (a b : Cx) : Cx :=
  if cplx then ⟨fp32Of (flSub (flMul a.re b.re) (flMul a.im b.im)), fp32Of (flAdd (flMul a.re b.im) (flMul a.im b.re))⟩
  else ⟨fp32Mul a.re b.re, .fin false 0 0⟩

/-- Sum. -/
def cxAdd (cplx : Bool) (a b : Cx) : Cx :=
  ⟨fp32Add a.re b.re, if cplx then fp32Add a.im b.im else .fin false 0 0⟩

/-- Product with a real input. -/
def cxScale (cplx : Bool) (a : Cx) (x : Fl) : Cx :=
  ⟨fp32Mul a.re x, if cplx then fp32Mul a.im x else .fin false 0 0⟩

/-- One fused add of Re(c × u) to y. -/
def cxFma (cplx : Bool) (y : Fl) (c u : Cx) : Fl :=
  if cplx then fp32Of (flAdd y (flSub (flMul c.re u.re) (flMul c.im u.im))) else fp32Of (flAdd y (flMul c.re u.re))

/-- An FP32 word of the store. -/
def fpAt (s : State) (l a : Nat) : Fl := flOfBits .fp32 (storeLe s l a 4)

/-- Coefficient 0, 1 or 2 (a, b, c) of element k (R179). -/
def coefAt (s : State) (l : Nat) (r : RL) (k i : Nat) : Cx :=
  let a := r.coef + rlRecord r * k
  if r.cplx then ⟨fpAt s l (a + 8 * i), fpAt s l (a + 8 * i + 4)⟩ else ⟨fpAt s l (a + 4 * i), .fin false 0 0⟩

/-- e_j. -/
def coefE (s : State) (l : Nat) (r : RL) (j : Nat) : Fl := fpAt s l (r.coef + rlRecord r * rlW r + 4 * j)

/-! ## The stored state (R180, R182) -/

/-- Where the state scale block lies: at once after the last state byte. -/
def rBlkAddr (d : VH) : Nat := (vhSpan d).base + (vhSpan d).len

/-- Byte offsets within the block. -/
def rBOff (r : RL) : Nat := 2 + ceilDiv (rlGroups r) 2
def rHOff (r : RL) : Nat := rBOff r + rlGroups r
def rPOff (r : RL) : Nat := rHOff r + rlGroups r

/-- σ of a fixed window: the value of `st_seed` over 127 (R180). -/
def rFixedSigma (r : RL) : Fl := sigmaOf 4 r.seed 127

/-- The value of state element i. -/
def rElem (s : State) (l : Nat) (r : RL) (d : VH) (i : Nat) : Fl :=
  if r.bf16 then flAt s l d i
  else
    let blk := rBlkAddr d
    let sigma := if r.win = 3 then rFixedSigma r else flOfBits .bf16 (storeLe s l blk 2)
    let g := i / rlG r
    let e := if r.win = 3 then 0 else
      let b := storeLe s l (blk + 2 + g / 2) 1
      if g % 2 = 0 then b % 16 else b / 16
    fp32Of (flMul (elFl (elAt s l d i)) (flMul sigma (.fin false 1 (-(e : Int)))))

/-- The running maximum of each group, as R73 takes it. -/
def rMaxima (s : State) (l : Nat) (r : RL) (blk : Nat) : List Nat :=
  (upTo (rlGroups r)).map (fun g =>
    Nat.max (storeLe s l (blk + rBOff r + g) 1) (storeLe s l (blk + rHOff r + g) 1))

/-- H of R182: its bits [31:16]. -/
def ditherHigh (r : RL) (step i : Nat) : Nat :=
  bitsOf (((step * 0x9E3779B1) ^^^ (i * 0x85EBCA77) ^^^ (r.dseed * 0xC2B3)) % 2 ^ 32) 31 16

/-- Dithered rounding of an FP32 pattern to BF16: the upper neighbour when the fraction exceeds ρ (R182). -/
def ditherBf16 (w h : Nat) : Nat :=
  let lo := w % 65536
  let neg := decide (2 ^ 31 ≤ w)
  if lo = 0 then w / 65536
  else if neg then (if h < 65536 - lo then w / 65536 else w / 65536 + 1)
  else (if h < lo then w / 65536 + 1 else w / 65536)

/-- Dithered rounding of x / (σ × 2^-ε) to an integer (R182). -/
def ditherScaled (m : Nat) (neg : Bool) (e : Int) (sm : Nat) (se : Int) (eps h : Nat) : Int :=
  let k : Int := e - (se - eps)
  let n : Int := (m * pow2Num k : Nat)
  let d : Nat := sm * pow2Den k
  let v : Int := if neg then -n else n
  let q := v / (d : Int)
  let f := (v % (d : Int)).toNat
  if h * d < f * 65536 then q + 1 else q

/-- The INT8 code of a stored value with its events (R73, R74, R182). -/
def rCode (r : RL) (sigma : Fl) (eps h : Nat) (x : Fl) : QVal :=
  match x, sigma with
  | .fin neg m e, .fin _ sm se =>
    if r.dith && decide (sm ≠ 0) then
      let v := ditherScaled m neg e sm se eps h
      ⟨clampInt (-128) 127 v, decide (v < -128 ∨ 127 < v), false⟩
    else quantOne true true false 0 sigma eps x
  | _, _ => quantOne true true false 0 sigma eps x

/-- σ and the exponents of n groups at the head of a state scale block (R180). -/
def rHead (n : Nat) (sigma : Fl) (epsAt : Nat → Nat) : List (BitVec 8) :=
  natLe (roundFl .bf16 sigma).bits 2 ++
    (upTo (ceilDiv n 2)).map (fun m => BitVec.ofNat 8 (epsAt (2 * m) + 16 * (if 2 * m + 1 < n then epsAt (2 * m + 1) else 0)))

/-- B of a state scale block that the template leaves zero takes `st_seed` before the layer's first step (R180). -/
def rSeed (s : State) (c : Cmd) (r : RL) : State :=
  if r.bf16 || decide (r.win = 3) then s
  else placeSeed s c (rBlkAddr (vhOf c.hd)) (rlBlock r) (rBOff r) (List.replicate (rlGroups r) (BitVec.ofNat 8 r.seed))

/-- Store the new state: `xs` are the E element values in FP32 (R182). -/
def rStore (s : State) (l : Nat) (r : RL) (d : VH) (step : Nat) (xs : List Fl) : State :=
  let base := storeBase (physOf s l)
  if r.bf16 then
    let ws := xs.zipIdx.map (fun p =>
      let w := (roundFl .fp32 p.1).bits
      some (if r.dith then ditherBf16 w (ditherHigh r step p.2) else (roundFl .bf16 p.1).bits))
    { s with store := vhWriteAll s.store base d 0 ws }
  else
    let blk := rBlkAddr d
    let n := rlGroups r
    let mx := rMaxima s l r blk
    let sigma := if r.win = 3 then rFixedSigma r else sigmaOf (headroom4 r.head) (maxNat mx) 127
    let epsAt (g : Nat) : Nat := if r.win = 3 then 0 else epsOf sigma (headroom4 r.head) ((mx[g]?).getD 0) 127
    let qs := xs.zipIdx.map (fun p => rCode r sigma (epsAt (p.2 / rlG r)) (ditherHigh r step p.2) p.1)
    let s1 : State := { s with store := vhWriteAll s.store base d 0 (qs.map (fun q => some (wrapOf 8 q.code))) }
    let s2 := addCtr (addCtr s1 (cStClip (physOf s l)) (qs.filter (·.clip)).length)
      (cVecNan (physOf s l)) (qs.filter (·.nan)).length
    let byte (v : Nat) : BitVec 8 := BitVec.ofNat 8 v
    let head := rHead n sigma epsAt
    if r.win = 3 then storePut s2 l blk head
    else
      let codes := (upTo n).map (fun g => groupCode false (groupOf (rlG r) g xs))
      let hc := (upTo n).map (fun g => Nat.max (storeLe s l (blk + rHOff r + g) 1) ((codes[g]?).getD 0))
      let phase := storeLe s l (blk + rPOff r) 1 + 1
      let tail := if halfWin r.win ≤ phase then hc.map byte ++ List.replicate (n + 1) 0
        else storeBytes s l (blk + rBOff r) n ++ hc.map byte ++ [byte phase]
      storePut s2 l blk (head ++ tail)

/-- The value of element k of the state, real or complex. -/
def rStateAt (s : State) (l : Nat) (r : RL) (d : VH) (k : Nat) : Cx :=
  if r.cplx then ⟨rElem s l r d (2 * k), rElem s l r d (2 * k + 1)⟩ else ⟨rElem s l r d k, .fin false 0 0⟩

/-- RSTEP's work on a state whose block has its seed: the new state, the outputs, the storage (R181). -/
def rstepWork (s : State) (c : Cmd) : State :=
  let l := lcluOf c.lt
  let r := rlAt s l c.sy.toNat
  let d := vhOf c.hd
  let z := vhOf c.hz
  let x (j : Nat) : Fl := flAt s l (vhOf c.hx) j
  let us := (upTo (rlW r)).map (fun k =>
    cxAdd r.cplx (cxMul r.cplx (coefAt s l r k 0) (rStateAt s l r d k)) (cxScale r.cplx (coefAt s l r k 1) (x (k / r.nstate))))
  let y (j : Nat) : Fl :=
    (upTo r.nstate).foldl (fun acc n =>
      cxFma r.cplx acc (coefAt s l r (j * r.nstate + n) 2) ((us[j * r.nstate + n]?).getD ⟨.nan, .nan⟩))
      (fp32Mul (coefE s l r j) (x j))
  let zs := (upTo r.chans).map (fun j => some (roundFl (vhFmt z) (y j)).bits)
  let els := us.flatMap (fun u => if r.cplx then [u.re, u.im] else [u.re])
  let s1 := rStore s l r d c.step els
  let s2 : State := { s1 with store := vhWriteAll s1.store (storeBase (physOf s l)) z 0 zs }
  chargeEngine (bump s2 (cRstepCmds (physOf s l))) c (if r.cplx then ceilDiv (rlW r) 32 else ceilDiv (rlW r) 64)

/-- RSTEP (R180, R181). -/
def runRstep (s : State) (c : Cmd) : State := rstepWork (rSeed s c (rlAt s (lcluOf c.lt) c.sy.toNat)) c

/-- A layer descriptor that the thread's module lists lies at this store address. -/
def rListed (s : State) (t : Thread) (a : Nat) : Bool := (modelOf s t).layers.any (fun o => decide (t.mw.base + o = a))

/-- `d` agrees with the descriptor: format, sign and element count; INT8 state with its block in the berth window (R180). -/
def rStateChecks (t : Thread) (r : RL) (d : VH) : List (Option Exc) :=
  [chk (decide (vhFmt d = (if r.bf16 then .bf16 else .int8)) && (r.bf16 || d.sgn) && decide (vhCount d = rlE r)) .engineLimit,
   if r.bf16 then none else chk (inWin t.bw ⟨rBlkAddr d, rlBlock r⟩) .storeBounds]

/-- The checks of RSTEP (R163, R180). -/
def rstepChecks (s : State) (lt : BitVec 12) (f : Fields) (t : Thread) : List (Option Exc) :=
  let a := (readS t f.y.toNat).toNat
  let r := rlAt s (lcluOf lt) a
  chkVWrite t (readV t f.d.toNat) ++ chkVRead t (readV t f.x.toNat) ++ chkVWrite t (readV t f.z.toNat) ++
  [chk (decide (a % 64 = 0)) .misaligned, chk (inWin t.mw ⟨a, 64⟩) .storeBounds,
   chk (rListed s t a && rlValid r) .engineLimit,
   chk (isB32 (hX t f) && isB32 (hZ t f) && decide (vhCount (hX t f) = r.chans ∧ vhCount (hZ t f) = r.chans)) .engineLimit] ++
  rStateChecks t r (hD t f)

/-- RSTEP: one step of a diagonal recurrence layer (R163, R181). -/
def execRstep (lt : BitVec 12) (f : Fields) (s : State) : Host.Outcome State Fault Refusal :=
  .next (issueCmd s lt 2 0x60 f (rstepChecks s lt f))

/-! ## RPREFILL (R184–R187) -/

/-- A prefill descriptor, field by field (R184). -/
structure PD where
  layer : Nat
  lchunk : Nat
  outEn : Bool
  plen : Nat
  done : Nat
  slice : Nat
  scratch : Nat
  inPm : BitVec 64
  outPm : BitVec 64
  kspecPm : BitVec 64
  resv : Bool
deriving DecidableEq, Repr

/-- The fields of the 64 bytes of a prefill descriptor. -/
def pdOf (w : Nat) : PD :=
  { layer := bitsOf w 24 0, lchunk := bitsOf w 28 25, outEn := decide (bitsOf w 29 29 = 1), plen := bitsOf w 56 32,
    done := bitsOf w 88 64, slice := bitsOf w 103 96, scratch := bitsOf w 152 128,
    inPm := BitVec.ofNat 64 (bitsOf w 255 192), outPm := BitVec.ofNat 64 (bitsOf w 319 256),
    kspecPm := BitVec.ofNat 64 (bitsOf w 383 320),
    resv := decide (bitsOf w 31 30 ≠ 0 ∨ bitsOf w 63 57 ≠ 0 ∨ bitsOf w 95 89 ≠ 0 ∨ bitsOf w 127 104 ≠ 0
      ∨ bitsOf w 191 153 ≠ 0 ∨ bitsOf w 511 384 ≠ 0) }

/-- The prefill descriptor at a store address. -/
def pdAt (s : State) (l a : Nat) : PD := pdOf (storeLe s l a 64)

/-- L, the chunk length, and P, the positions a command absorbs (R184, R185). -/
def pdL (p : PD) : Nat := 2 ^ (p.lchunk + 8)
def pdP (p : PD) : Nat := Nat.min (p.slice * pdL p) (p.plen - p.done)

/-- Bytes of the working area and of the kernel spectra. -/
def pdScratch (p : PD) (r : RL) : Nat := 4 * rlW r * (if r.cplx then 2 else 1) + 16 * pdL p
def pdSpectra (p : PD) (r : RL) : Nat := r.chans * 8 * (pdL p + 1)

/-- Every field within its values (R184). -/
def pdValid (p : PD) : Bool :=
  !p.resv && decide (p.lchunk ≤ 8 ∧ 1 ≤ p.plen ∧ p.plen ≤ 16777216 ∧ p.done ≤ p.plen ∧ 1 ≤ p.slice)

/-- The checks of RPREFILL: descriptor, layer, windows, regions and the step limit (R184, R187). -/
def rprefillChecks (s : State) (lt : BitVec 12) (f : Fields) (t : Thread) : List (Option Exc) :=
  let l := lcluOf lt
  let a := (readS t f.y.toNat).toNat
  let p := pdAt s l a
  let r := rlAt s l p.layer
  let d := hD t f
  let pm (w : BitVec 64) (n : Nat) : List (Option Exc) :=
    [chk (decide (bitsOf w.toNat 39 0 % 64 = 0)) .misaligned,
     chk (decide (bitsOf w.toNat 63 60 = 0) && (pmRange s lt t w n).isSome) .storeBounds]
  chkVWrite t (readV t f.d.toNat) ++
  [chk (decide (a % 64 = 0)) .misaligned, chk (inWin t.bw ⟨a, 64⟩) .storeBounds, chk (pdValid p) .engineLimit,
   chk (decide (p.layer % 64 = 0)) .misaligned, chk (inWin t.mw ⟨p.layer, 64⟩) .storeBounds,
   chk (rListed s t p.layer && rlValid r) .engineLimit,
   chk (decide (p.scratch % 64 = 0)) .misaligned, chk (inWin t.bw ⟨p.scratch, pdScratch p r⟩) .storeBounds,
   chk (decide ((berth s t.berth).step + pdP p ≤ 16777216)) .engineLimit] ++
  pm p.inPm (2 * p.plen * r.chans) ++ (if p.outEn then pm p.outPm (2 * p.plen * r.chans) else []) ++
  pm p.kspecPm (pdSpectra p r) ++ rStateChecks t r d

/-- RPREFILL: absorbs the next chunks of a known prefix (R163, R185). -/
def execRprefill (lt : BitVec 12) (f : Fields) (s : State) : Host.Outcome State Fault Refusal :=
  .next (issueCmd s lt 2 0x61 f (rprefillChecks s lt f))

/-- Write the state of a prefill into `d` in its stored format with nearest rounding: for INT8, scales from the state's own
group maxima, B those maxima, Hc and phase 0 (R185 step 4). -/
def rPrefillStore (s : State) (l : Nat) (r : RL) (d : VH) (xs : List Fl) : State :=
  let base := storeBase (physOf s l)
  if r.bf16 then { s with store := vhWriteAll s.store base d 0 (xs.map (fun x => some (roundFl .bf16 x).bits)) }
  else
    let n := rlGroups r
    let codes := (upTo n).map (fun g => groupCode false (groupOf (rlG r) g xs))
    let sigma := if r.win = 3 then rFixedSigma r else sigmaOf (headroom4 r.head) (maxNat codes) 127
    let epsAt (g : Nat) : Nat := if r.win = 3 then 0 else epsOf sigma (headroom4 r.head) ((codes[g]?).getD 0) 127
    let qs := xs.zipIdx.map (fun p => quantOne true true false 0 sigma (epsAt (p.2 / rlG r)) p.1)
    let s1 : State := { s with store := vhWriteAll s.store base d 0 (qs.map (fun q => some (wrapOf 8 q.code))) }
    let s2 := addCtr s1 (cStClip (physOf s l)) (qs.filter (·.clip)).length
    storePut s2 l (rBlkAddr d) (rHead n sigma epsAt ++
      if r.win = 3 then [] else codes.map (BitVec.ofNat 8 ·) ++ List.replicate (n + 1) 0)

/-! ### The sums of a prefill (R177, R185)

The convolution of a channel with its kernel plus the carried state's share is, term by term, the recurrence of R177 run over the chunk:
`runChannel` gives both exactly.  The FP32 order of evaluation is not stated, so each result is a free value within the bound of any
order (log 27). -/

/-- One channel over the inputs `xs` from the states `hs`: outputs and states at the end, exactly.  `ks` holds a, b, c of each element. -/
def runChannel (e : Fl) (ks : List (Cx × Cx × Cx)) : List Cx → List Fl → List Fl × List Cx
  | hs, [] => ([], hs)
  | hs, x :: t =>
    let us := List.zipWith (fun k h => exAdd (exMul k.1 h) (exMul k.2.1 ⟨x, flNought⟩)) ks hs
    let y := flAdd (flMul e x) (flSum (List.zipWith (fun k u => (exMul k.2.2 u).re) ks us))
    let r := runChannel e ks us t
    (y :: r.1, r.2)

/-- The coefficients of channel j. -/
def channelCoefs (s : State) (l : Nat) (r : RL) (j : Nat) : List (Cx × Cx × Cx) :=
  (upTo r.nstate).map (fun n => let k := j * r.nstate + n; (coefAt s l r k 0, coefAt s l r k 1, coefAt s l r k 2))

/-- K_j(0 … L − 1) of R177, which is the channel's answer to a 1 followed by zeros. -/
def kernelOf (s : State) (l : Nat) (r : RL) (j L : Nat) : List Fl :=
  let ks := channelCoefs s l r j
  (runChannel (coefE s l r j) ks (ks.map (fun _ => cxNought)) (.fin false 1 0 :: List.replicate (L - 1) flNought)).1

/-- The same channel with every value replaced by its magnitude: what its roundings are measured by. -/
def channelMag (s : State) (l : Nat) (r : RL) (j : Nat) (hs : List Cx) (xs : List Fl) : Fl :=
  let big (z : Cx) : Cx := ⟨cxMag z, flNought⟩
  let ks := (channelCoefs s l r j).map (fun k => (big k.1, big k.2.1, big k.2.2))
  let one := runChannel (flAbs (coefE s l r j)) ks (hs.map big) (xs.map flAbs)
  flAdd (flSum (one.2.map (·.re))) (flSum (one.1 ++ hs.map cxMag))

/-- An FP32 pattern that the spec does not fix: a free value, subnormals read as zero. -/
def freeFp (s : State) (i : Nat) : BitVec 32 := Config.freeUlp s.free i

/-- Channel j over one chunk: outputs and carried states in FP32.  The roundings of an FFT mix the inputs of the chunk with the whole
kernel. -/
def prefillChannel (s : State) (l : Nat) (r : RL) (L j i0 : Nat) (hs : List Cx) (xs : List Fl) : List Fl × List Cx :=
  let ex := runChannel (coefE s l r j) (channelCoefs s l r j) hs xs
  let mix := flMul (flSum (xs.map flAbs)) (flSum ((kernelOf s l r j L).map flAbs))
  let mag := flAdd (channelMag s l r j hs xs) mix
  let near (i : Nat) (x : Fl) : Fl := nearBound (freeFp s (i0 + i)) x (roundings (8 * L + 64) mag) mag
  (ex.1.zipIdx.map (fun p => near p.2 p.1),
   ex.2.zipIdx.map (fun p => if r.cplx then ⟨near (L + 2 * p.2) p.1.re, near (L + 2 * p.2 + 1) p.1.im⟩ else ⟨near (L + 2 * p.2) p.1.re, flNought⟩))

/-- The kernel spectra: bins 0 … L of the transform of each channel's kernel, followed by L zeros (R184, R185). -/
def spectraOf (s : State) (l : Nat) (r : RL) (L : Nat) : List (BitVec 8) :=
  (upTo r.chans).flatMap (fun j =>
    let ks := (kernelOf s l r j L).map (fun x => (⟨x, flNought⟩ : Cx))
    let mag := flSum (ks.map cxMag)
    (upTo (L + 1)).flatMap (fun k =>
      let b := dftBin false (2 * L) ks k
      let word (i : Nat) (x : Fl) : List (BitVec 8) :=
        natLe (roundFl .fp32 (nearBound (freeFp s (2 ^ 64 + 2 * ((L + 1) * j + k) + i)) x (roundings (8 * L + 64) mag) mag)).bits 4
      word 0 b.re ++ word 1 b.im))

/-- The chunks of a command from position `pos`, `n` of them at most: the outputs, position-major, and the carried states by channel. -/
def prefillChunks (s : State) (l : Nat) (r : RL) (L pm : Nat) : Nat → Nat → Nat → List (List Cx) → List Fl × List (List Cx)
  | 0, _, _, st => ([], st)
  | n + 1, pos, left, st =>
    let len := Nat.min L left
    let x (j t : Nat) : Fl := flOfBits .bf16 (pmLe s (pm + 2 * ((pos + t) * r.chans + j)) 2)
    let res := st.zipIdx.map (fun p =>
      prefillChannel s l r L p.2 ((pos * r.chans + L * p.2) * 4 + 2 * p.2 * r.nstate) p.1 ((upTo len).map (x p.2)))
    let outs := (upTo len).flatMap (fun t => res.map (fun q => q.1.getD t flNought))
    let rest := prefillChunks s l r L pm n (pos + len) (left - len) (res.map (·.2))
    (outs ++ rest.1, rest.2)

/-- Cycles of a prefill command (R186). -/
def prefillCycles (p : PD) (r : RL) : Nat :=
  let m := if r.cplx then 4 else 1
  let L := pdL p
  let lg := p.lchunk + 8
  let chunk (n : Nat) : Nat := r.chans * ceilDiv (L * lg) 256 + ceilDiv (2 * n * rlW r * m) 512 + 64
  let P := pdP p
  (P / L) * chunk L + (if P % L = 0 then 0 else chunk (P % L))
    + (if p.done = 0 then ceilDiv (L * rlW r * m) 512 + r.chans * ceilDiv (L * lg) 512 else 0)

/-- The carried state that a command starts from, by channel: `d` as FP32 at the start of a prefix, else the working area (R185). -/
def prefillStart (s : State) (l : Nat) (p : PD) (r : RL) (d : VH) : List (List Cx) :=
  let from_ (k : Nat) : Cx :=
    if p.done = 0 then rStateAt s l r d k
    else if r.cplx then ⟨fpAt s l (p.scratch + 8 * k), fpAt s l (p.scratch + 8 * k + 4)⟩ else ⟨fpAt s l (p.scratch + 4 * k), flNought⟩
  (upTo r.chans).map (fun j => (upTo r.nstate).map (fun n => from_ (j * r.nstate + n)))

/-- Bytes that a prefill moves through package memory: the spectra written once, then for each chunk its input, its spectra and its outputs
(R186). -/
def prefillMoves (s : State) (c : Cmd) (t : Thread) (p : PD) (r : RL) : State :=
  let n := physOf s (lcluOf c.lt)
  let P := pdP p
  let at0 := 2 * p.done * r.chans
  let k := pmAddr s c.lt t p.kspecPm
  let s1 := if p.done = 0 then movePm s n c.client true k (pdSpectra p r) else s
  let s2 := movePm s1 n c.client false (pmAddr s c.lt t p.inPm + at0) (2 * P * r.chans)
  let s3 := (upTo (ceilDiv P (pdL p))).foldl (fun s _ => movePm s n c.client false k (pdSpectra p r)) s2
  if p.outEn then movePm s3 n c.client true (pmAddr s c.lt t p.outPm + at0) (2 * P * r.chans) else s3

/-- RPREFILL's work: the next P positions are absorbed (R185). -/
def runRprefill (s : State) (c : Cmd) : State :=
  let l := lcluOf c.lt
  let t := thread s c.lt
  let a := c.sy.toNat
  let p := pdAt s l a
  let r := rlAt s l p.layer
  let d := vhOf c.hd
  let P := pdP p
  let L := pdL p
  let w := prefillChunks s l r L (pmAddr s c.lt t p.inPm) (ceilDiv P L) p.done P (prefillStart s l p r d)
  let st := w.2.flatten.flatMap (fun z => if r.cplx then [z.re, z.im] else [z.re])
  let s1 := if p.done = 0 then pmPut s (pmAddr s c.lt t p.kspecPm) (spectraOf s l r L) else s
  let s2 := if p.outEn then
      pmPut s1 (pmAddr s c.lt t p.outPm + 2 * p.done * r.chans) (w.1.flatMap (fun y => natLe (roundFl .bf16 y).bits 2))
    else s1
  let s3 := storePut s2 l p.scratch (st.flatMap (fun x => natLe (roundFl .fp32 x).bits 4))
  let s4 := rPrefillStore s3 l r d st
  let dn := storeLe s4 l (a + 8) 4
  let s5 := storePut s4 l (a + 8) (natLe (dn - bitsOf dn 24 0 + (p.done + P)) 4)
  let s6 := addCtr s5 (cPrefillPos (physOf s l)) P
  let s7 := modBerth s6 c.berth (fun b => { b with prefill := some (Nat.max (b.prefill.getD 0) P) })
  chargeEngine (useFree (prefillMoves s7 c t p r)) c (prefillCycles p r)

/-! ## RFFT -/

/-- `n` is a power of two in 64–1,048,576. -/
def fftSize (n : Nat) : Bool := decide (2 ^ Nat.log2 n = n ∧ 64 ≤ n ∧ n ≤ 1048576)

/-- The checks of RFFT (R150, R163). -/
def rfftChecks (f : Fields) (t : Thread) : List (Option Exc) :=
  let n := vhCount (hX t f)
  chkVWrite t (readV t f.d.toNat) ++ chkVRead t (readV t f.x.toNat) ++
  [chk (isFp32 (hD t f) && isFp32 (hX t f) && decide (vhCount (hD t f) = n)) .badHandle,
   chk (decide (n % 2 = 0) && fftSize (n / 2)) .engineLimit]

/-- RFFT of n complex FP32 values, stored interleaved (R163). -/
def execRfft (lt : BitVec 12) (f : Fields) (s : State) : Host.Outcome State Fault Refusal :=
  .next (issueCmd s lt 2 0x62 f (rfftChecks f))

/-- RFFT's work: the transform of `x`, or the inverse one with `imm`[2], each component a free FP32 value within the roundings of an FFT.
Whether the inverse divides by n is left open (log 28). -/
def runRfft (s : State) (c : Cmd) : State :=
  let l := lcluOf c.lt
  let d := vhOf c.hd
  let n := vhCount d / 2
  let inv := decide (immBits c.fld 2 2 = 1)
  let xs := (upTo n).map (fun i => (⟨flAt s l (vhOf c.hx) (2 * i), flAt s l (vhOf c.hx) (2 * i + 1)⟩ : Cx))
  let scale : Fl := .fin false 1 (if inv && Config.fftScaled then -(Nat.log2 n : Int) else 0)
  let mag := flSum (xs.map cxMag)
  let bound := flMul scale (roundings (16 * (Nat.log2 n + 1)) mag)
  let word (i : Nat) (x : Fl) : Nat := (roundFl .fp32 (nearBound (freeFp s i) (flMul scale x) bound mag)).bits
  let ws := (upTo n).flatMap (fun k => let b := dftBin inv n xs k; [some (word (2 * k) b.re), some (word (2 * k + 1) b.im)])
  let s1 : State := { s with store := vhWriteAll s.store (storeBase (physOf s l)) d 0 ws }
  chargeEngine (useFree s1) c (ceilDiv (n * Nat.log2 n) 512)

/-- The recurrence unit's work on one command. -/
def runRecurrence (s : State) (c : Cmd) : State :=
  match c.op with
  | 0x60 => runRstep s c
  | 0x61 => runRprefill s c
  | _ => runRfft s c

/-- RECURRENCE_CMD_COMPLETE: the command at the head of the recurrence queue completes (R163). -/
def execRecurrenceCmdComplete (l : BitVec 4) (s : State) : Host.Outcome State Fault Refusal :=
  .next (completeHead s l.toNat 2 runRecurrence)

end Sys2Proof.Machine
end

