-- ==== Sys2Proof/Machine/Modules.lean ====
section
/-! DEFINITION. Loading and unloading Gerun modules (R51, R52, R63, R67, R161, R179, R191, R200, R231, R269–R271, R281, R283). -/

namespace Sys2Proof.Machine
open Sys2Proof

/-! ## The checks of a load (R270) -/

/-- Why a load is refused. -/
inductive LoadFault where
  | bad | badTag | keyEpoch | noFit | noMemory
deriving DecidableEq, Repr

/-- The first failure of a list of checks. -/
def firstFault : List (Option LoadFault) → Option LoadFault
  | [] => none
  | some f :: _ => some f
  | none :: t => firstFault t

/-- A check and the refusal of its failure. -/
def need (ok : Bool) (f : LoadFault) : Option LoadFault := if ok then none else some f

def copyByte (i : Item) (k : Nat) : Nat := leAt (part0 i) (32 + k) 1

/-- The copy counts of R317. -/
def copiesOk (i : Item) (n : Nat) : Bool :=
  (upTo 32).all (fun k => decide (copyByte i k ≤ 16) && (decide (k < n) || decide (copyByte i k = 0)))
  && (upTo 32).any (fun k => decide (copyByte i k ≠ 0))

/-- Tiles of a model that hold resident records. -/
def residentTiles (m : ModelDecl) : List Nat := ((m.recs.filter (fun r => !r.streamed)).map (fun r => r.tile)).eraseDups

/-- A model declaration is within R269, its entry pc inside the code.  Resident records in more than 16 tiles fail R63's check, with its
own refusal, and not this one (DEDUCED, log 167). -/
def declOk (d : ModuleDesc) (m : ModelDecl) : Bool :=
  m.formOk
  && decide (64 ≤ m.winBytes ∧ m.winBytes ≤ 33554432 ∧ m.modWin % 64 = 0 ∧ 64 ≤ m.modWin ∧ m.modWin ≤ storeSize ∧ m.pmBerth ≤ 2 ^ 40)
  && decide (1 ≤ m.tiles ∧ m.tiles ≤ 16 ∧ 1 ≤ m.stepCost ∧ m.stepCost ≤ 65535 ∧ 1 ≤ m.critNs ∧ m.critNs ≤ 16777215)
  && decide (16 ≤ m.stepBudget ∧ m.stepBudget ≤ 16777216 ∧ m.entryPc % 8 = 0 ∧ m.entryPc < d.codeLen)
  && decide (m.frameBytes ≤ 65535 ∧ m.startFrames ≤ 64 ∧ m.outFmt < 16 ∧ 1 ≤ m.outFmt % 8 ∧ m.outFmt % 8 ≤ 6)
  && decide (m.outRate = 0 ∨ (32000 ≤ m.outRate ∧ m.outRate ≤ 192000))
  && decide (1 ≤ m.outPerStep ∧ m.outPerStep ≤ 4096 ∧ 1 ≤ m.chargeEst ∧ m.chargeEst < 2 ^ 32)
  && (decide (16 < (residentTiles m).length)
    || (decide ((residentTiles m).length ≤ m.tiles) && m.recs.all (fun r => decide (r.tile < m.tiles))))
  && m.shadow.all (fun t => decide (t < m.tiles))

/-- A bundle's key is held for the present tenant epoch or the one before (R391). -/
def bundleKey (s : State) (b : BundleDesc) : Bool :=
  s.sec.keys.any (fun k => decide (k.kind = 2 ∧ k.id = b.keyId ∧ s.sec.tEpoch.toNat ≤ k.epoch.toNat + 1))

/-- The rescale field of a parameter entry has no non-zero reserved bits and zw within its range (R67). -/
def paramOk (lr : LR) (i : Nat) (w : BitVec 32) : Bool :=
  if lr.wInt8 && decide (i % lr.cols % 2 = 1) then
    if lr.wAsym then decide (-128 ≤ signedOf 16 (bitsOf w.toNat 31 16) ∧ signedOf 16 (bitsOf w.toNat 31 16) ≤ 255)
    else decide (bitsOf w.toNat 31 16 = 0)
  else true

/-- The parameter ranges of a tile's records do not overlap. -/
def rangesApart : List Win → Bool
  | [] => true
  | w :: t => t.all (fun v => decide (w.base + w.len ≤ v.base ∨ v.base + v.len ≤ w.base)) && rangesApart t

/-- The records of tile j of a model. -/
def tileRecs (m : ModelDecl) (j : Nat) : List RecDesc := m.recs.filter (fun r => decide (r.tile = j))

/-- The fields of the records of tile j. -/
def tileLrs (m : ModelDecl) (j : Nat) : List LR := (tileRecs m j).map (fun r => lrOf r.raw)

/-- The tiles that a model's records name. -/
def recTiles (m : ModelDecl) : List Nat := (m.recs.map (fun r => r.tile)).eraseDups

/-- A property of every tile of every model. -/
def everyTile (d : ModuleDesc) (p : ModelDecl → Nat → Bool) : Bool := d.models.all (fun m => (recTiles m).all (p m))

/-- The records of a module (R51, R52, R63, R67).  A module of more than 16,384 entries in some tile is refused for want of room, any
other one whose entries overlap is malformed (R52); which refusal a module gets that breaks both another limit of R63 and R51, the
spec leaves open: the model takes the limits of room first (DESIGN CHOICE, log 156). -/
def recordFault (d : ModuleDesc) : Option LoadFault :=
  firstFault
    [need (everyTile d (fun m j => decide ((tileRecs m j).length ≤ 8))) .noFit,
     need (everyTile d (fun m j => decide (sumNat ((tileLrs m j).map lrEntries) ≤ 16384))) .noFit,
     need (d.models.all (fun m => decide ((residentTiles m).length ≤ 16))) .noFit,
     need (everyTile d (fun m j => (tileLrs m j).all (lrValid (m.shadow.contains j)))) .bad,
     need (everyTile d (fun m j => (tileRecs m j).all (fun r => decide (r.recIx < 8))
       && decide (((tileRecs m j).map (fun r => r.recIx)).Nodup))) .bad,
     need (everyTile d (fun m j => (tileLrs m j).all (fun r => decide (r.paramBase + lrEntries r ≤ 16384))
       && rangesApart ((tileLrs m j).map (fun r => ⟨r.paramBase, lrEntries r⟩)))) .bad,
     need (d.models.all (fun m => m.recs.all (fun r => r.params.zipIdx.all (fun p => paramOk (lrOf r.raw) p.2 p.1)))) .bad]

/-- The module window's content, zeros where the module gives none; its last 64 bytes are the fence counters (R169). -/
def winContent (m : ModelDecl) : List (BitVec 8) :=
  (m.winInit ++ List.replicate m.modWin 0).take (m.modWin - 64) ++ List.replicate 64 0

/-- The number in n bytes of the window's content. -/
def winLe (m : ModelDecl) (o n : Nat) : Nat := leAt (winContent m) o n

/-- A listed quantisation descriptor (R161). -/
def quantFault (m : ModelDecl) (o : Nat) : Option LoadFault :=
  need (decide (o % 32 = 0 ∧ o + 32 ≤ m.modWin - 64) && qdValid (qdOf (winLe m o 32))) .bad

/-- |a|², evaluated in FP32, is less than 1. -/
def decays (cplx : Bool) (re im : Fl) : Bool :=
  let n := if cplx then fp32Add (fp32Mul re re) (fp32Mul im im) else fp32Mul re re
  flLt n (.fin false 1 0)

def flFinite : Fl → Bool
  | .fin _ _ _ => true
  | _ => false

/-- The coefficient table of a layer: every coefficient finite, and every |a| below 1 (R179). -/
def coefOk (m : ModelDecl) (r : RL) : Bool :=
  let at4 (o : Nat) : Fl := flOfBits .fp32 (winLe m (r.coef + o) 4)
  (upTo (rlTable r / 4)).all (fun i => flFinite (at4 (4 * i)))
  && (upTo (rlW r)).all (fun k => decays r.cplx (at4 (rlRecord r * k)) (at4 (rlRecord r * k + 4)))

/-- A listed layer descriptor (R178, R179). -/
def layerFault (m : ModelDecl) (o : Nat) : Option LoadFault :=
  let r := rlOf (winLe m o 64)
  need (decide (o % 64 = 0 ∧ o + 64 ≤ m.modWin - 64) && rlValid r && decide (r.coef + rlTable r ≤ m.modWin) && coefOk m r) .bad

/-- A gate table (R190, R191). -/
def gateFault (g : Nat × List (BitVec 8)) : Option LoadFault :=
  let w (i : Nat) : Fl := flOfBits .fp32 (leAt g.2 i 4)
  need (decide (g.1 < 16 ∧ g.2.length = 96 ∧ leAt g.2 8 1 ≤ 1 ∧ leAt g.2 9 1 ≤ 1 ∧ leAt g.2 10 2 = 0) && zeroAt g.2 88 8
    && flFinite (w 0) && flFinite (w 4) && flLt (.fin false 0 0) (w 4) && (upTo 19).all (fun i => flFinite (w (12 + 4 * i)))) .bad

/-- A listed convolution descriptor (R231). -/
def convFault (m : ModelDecl) (o : Nat) : Option LoadFault :=
  match need (decide (o % 64 = 0 ∧ o + 128 ≤ m.modWin - 64)) .bad with
  | some f => some f
  | none => (cdCheck m (cdOf (winLe m o 128))).map (fun f => match f with | .noFit => .noFit | .badDesc => .bad)

/-- An attention declaration (R200); its positions above 65,536 are refused later. -/
def attnFault (a : AttnDecl) : Option LoadFault :=
  need (decide (1 ≤ a.heads ∧ a.heads ≤ 64 ∧ 16 ≤ a.dk ∧ a.dk ≤ 256 ∧ a.dk % 16 = 0 ∧ 16 ≤ a.dv ∧ a.dv ≤ 256 ∧ a.dv % 16 = 0
    ∧ 64 ≤ a.positions ∧ a.positions % 64 = 0)) .bad

/-- Every listed declaration of a model. -/
def modelFault (m : ModelDecl) : Option LoadFault :=
  firstFault (m.quants.map (quantFault m) ++ m.layers.map (layerFault m) ++ m.gates.map gateFault
    ++ m.convs.map (convFault m) ++ m.attn.map attnFault)

/-- The lowest free module slot. -/
def freeSlot (s : State) : Option (BitVec 8) :=
  ((upTo 256).map (BitVec.ofNat 8)).find? (fun m => decide ((module s m).st = .free))

/-- The checks of R270 down to the free module slot. -/
def contentFault (s : State) (i : Item) (d : ModuleDesc) : Option LoadFault :=
  firstFault
    [need (d.headerOk && decide (1 ≤ d.models.length ∧ d.models.length ≤ 32) && d.models.all (declOk d)
       && copiesOk i d.models.length) .bad,
     need (d.bundles.all (bundleKey s)) .keyEpoch,
     need (d.bundles.all (fun b => b.tagOk)) .badTag,
     recordFault d,
     firstFault (d.models.map modelFault),
     need (d.models.all (fun m => decide (m.scores ≤ 65536) && m.attn.all (fun a => decide (a.positions ≤ 65536)))) .noFit,
     need (freeSlot s).isSome .noFit]

/-! ## Placing copies (R270, R271, R283) -/

/-- Tile slots of logical cluster l that no copy has and that a physical tile serves. -/
def freeSlots (s : State) (l : Nat) : List Nat :=
  let used := (copiesOn s l).flatMap (fun e => e.2.slots)
  (upTo 16).filter (fun j => !used.contains j && decide (slotTile s (physOf s l) j ≠ 31))

/-- The cluster passes the first per-copy check for a model of the slot. -/
def copyFits (s : State) (slot : BitVec 8) (k : Nat) (m : ModelDecl) (l : Nat) : Bool :=
  !lcluOut s l && (copyOn s slot k l).isNone && decide (m.tiles ≤ (freeSlots s l).length ∧ (copiesOn s l).length < 16)

/-- The range that compaction of the berth windows yields: the free total less the holes between module windows. -/
def compactedRange (s : State) (l : Nat) : Nat :=
  let mods := sortWins (modWins s l)
  let top := mods.foldl (fun a w => Nat.max a (w.base + w.len)) 0
  freeTotal (storeGaps s l) - freeTotal (gaps 0 top mods)

/-- Where the module window and one berth window of a copy go: a base, or the need of compaction. -/
def copyStore (s : State) (l : Nat) (m : ModelDecl) : Option (Option Nat) :=
  let n := m.modWin + storeOf m
  match fitLow n (storeGaps s l) with
  | some b => some (some b)
  | none => if n ≤ compactedRange s l then some none else none

/-- What placing copies has done so far: the module slot holds the copies placed. -/
structure Placing where
  s : State
  compact : List (Nat × Nat) := []
  noFit : Bool := false
  noMem : Bool := false
deriving DecidableEq, Repr

/-- Place one more copy of model k on the lowest cluster that passes both checks. -/
def placeCopy (slot : BitVec 8) (k : Nat) (m : ModelDecl) (p : Placing) : Placing :=
  let fits := (upTo 16).filter (copyFits p.s slot k m)
  if fits.isEmpty then { p with noFit := true }
  else match (fits.filterMap (fun l => (copyStore p.s l m).map (fun b => (l, b)))).head? with
    | none => { p with noMem := true }
    | some (l, b) =>
      let e := module p.s slot
      let c : Copy := { model := k, lclu := BitVec.ofNat 4 l, mw := ⟨b.getD 0, m.modWin⟩,
                        slots := (freeSlots p.s l).take m.tiles }
      { p with s := setModule p.s slot { e with copies := e.copies ++ [c] },
               compact := if b.isNone then p.compact ++ [(l, m.modWin + storeOf m)] else p.compact }

/-- Place every copy that the item asks for. -/
def placeCopies (s : State) (slot : BitVec 8) (i : Item) (d : ModuleDesc) : Placing :=
  d.models.zipIdx.foldl (fun p e => (upTo (copyByte i e.2)).foldl (fun p _ => placeCopy slot e.2 e.1 p) p) { s := s }

/-- Dies that receive a copy. -/
def diesOf (s : State) (slot : BitVec 8) : List Nat :=
  [0, 1].filter (fun d => (module s slot).copies.any (fun c => decide (dieOf (physOf s c.lclu.toNat) = d)))

/-- One image on each die that receives a copy. -/
def placeImages (s : State) (slot : BitVec 8) (c : BitVec 10) (d : ModuleDesc) : Option State :=
  (diesOf s slot).foldl (fun o die => o.bind (fun s =>
    (fitLow (imageBytes d) (mpGaps s die)).map (fun off =>
      let e := module s slot
      hubPm (setModule (pmPut s (paOf die off) (d.image.take d.imageLen)) slot { e with images := e.images ++ [(die, off)] })
        c true (paOf die off) d.imageLen))) (some s)

/-! ## Programming the copies (R56, R59, R169, R271) -/

/-- A convolution descriptor of a copy: the entries in use name the copy's slots by their order, and hold the cluster's slots once loaded
(DESIGN CHOICE, log 168). -/
def loadEntries (c : Copy) (w : Nat) : Nat :=
  (upTo (cdCount (cdOf w))).foldl (fun w i =>
    putBits w (195 + 8 * i) (192 + 8 * i) ((c.slots[bitsOf w (195 + 8 * i) (192 + 8 * i)]?).getD 0)) w

/-- The window of a copy: a layer descriptor of the module names its coefficient table by offset, and holds its address once loaded. -/
def loadWindow (s : State) (c : Copy) (m : ModelDecl) : State :=
  let l := c.lclu.toNat
  let s1 := storePut s l c.mw.base (winContent m)
  let s2 := m.convs.foldl (fun s o => storePut s l (c.mw.base + o) (natLe (loadEntries c (winLe m o 128)) 128)) s1
  m.layers.foldl (fun s o =>
    let w := winLe m o 64
    storePut s l (c.mw.base + o) (natLe (putBits w 72 48 (bitsOf w 72 48 + c.mw.base)) 64)) s2

/-- A tile takes a record, and a resident one is programmed. -/
def tileRecord (slot : BitVec 8) (r : RecDesc) (t : Tile) : Tile :=
  let t1 := { t with recs := tabPut t.recs r.recIx { raw := r.raw, modSlot := slot, streamed := r.streamed } }
  if r.streamed then t1
  else programRecord t1 (lrOf r.raw) (r.codes ++ r.params.flatMap (fun w => natLe w.toNat 4))

/-- One record of a copy goes to its tile. -/
def loadRecord (s : State) (slot : BitVec 8) (c : Copy) (r : RecDesc) : State :=
  modTile s (tileOfSlot s c.lclu.toNat ((c.slots[r.tile]?).getD 0)) (tileRecord slot r)

/-- A copy is written: window, tile modes, records. -/
def loadCopy (s : State) (slot : BitVec 8) (d : ModuleDesc) (c : Copy) : State :=
  let m := (d.models[c.model]?).getD {}
  let s1 := loadWindow s c m
  let s2 := c.slots.zipIdx.foldl (fun s e => modTile s (tileOfSlot s c.lclu.toNat e.1)
    (fun t => { t with shadow := m.shadow.contains e.2 })) s1
  m.recs.foldl (fun s r => loadRecord s slot c r) s2

/-- tile-ns of programming the resident records of a copy (R255, R271). -/
def copyNs (m : ModelDecl) : Nat :=
  sumNat ((m.recs.filter (fun r => !r.streamed)).map (fun r => progCycles (lrOf r.raw) * 2 / 3))

/-- The checks are passed: images, windows and tiles are written and the module is loading until every copy is resident. -/
def startLoad (s : State) (c : BitVec 10) (i : Item) (slot : BitVec 8) (d : ModuleDesc) : State :=
  let cs := (module s slot).copies
  let s1 := cs.foldl (fun s k => loadCopy s slot d k) s
  let ns := sumNat (cs.map (fun k => copyNs ((d.models[k.model]?).getD {})))
  let s2 := modAct (hostBytes s1 c (leAt (part0 i) 24 8)) c (fun a => { a with tileNs := a.tileNs + ns })
  beginItem s2 c i

/-- A refused load. -/
def refuseLoad (s : State) (c : BitVec 10) (i : Item) (f : LoadFault) : State :=
  let s1 := bump s (bthCtr 18)
  match f with
  | .bad => badItem s1 c i 0 2
  | .badTag => badItem (bump s1 (secCtr 9)) c i 0 2
  | .keyEpoch => completeItem s1 c i stKeyEpoch []
  | .noFit => completeItem s1 c i stNoFit []
  | .noMemory => completeItem s1 c i stNoMemory []

/-- A load waits for its clusters to be compacted; each copy that needs it counts once (R283). -/
def askCompaction (s : State) (c : BitVec 10) (i : Item) (ls : List (Nat × Nat)) : State :=
  let s1 := if i.compacted then s else addCtr s (memCtr 5) ls.length
  holdItem (modItem (ls.foldl (fun s e => needRange s e.1 e.2) s1) c i.seq (fun j => { j with compacted := true })) c i

/-- LOAD: the checks of R270 in order, then the copies. -/
def runLoad (d : ModuleDesc) (c : BitVec 10) (s : State) (i : Item) : State :=
  if !restZero (part0 i) [(16, 16), (32, 32)] then badItem s c i 0 1
  else if leAt (part0 i) 16 8 % 64 ≠ 0 then refuseLoad s c i .bad
  else match contentFault s i d, freeSlot s with
    | some f, _ => refuseLoad s c i f
    | none, none => refuseLoad s c i .noFit
    | none, some slot =>
      let p := placeCopies (setModule s slot { st := .loading, desc := d, client := c, item := i.seq }) slot i d
      if p.noFit then refuseLoad s c i .noFit
      else if p.noMem then refuseLoad s c i .noMemory
      else match placeImages p.s slot c d with
        | none => refuseLoad s c i .noMemory
        | some s1 =>
          if p.compact.isEmpty then startLoad s1 c i slot d
          else askCompaction s c i p.compact

def execLoadItem (c : BitVec 10) (m : ModuleDesc) (s : State) : Host.Outcome State Fault Refusal :=
  .next (takeItem s c 0x01 (runLoad m c))

/-- LOAD_RESIDENT: every copy is resident, and the load completes. -/
def loadResident (s : State) (slot : BitVec 8) : State :=
  let m := module s slot
  if m.st ≠ .loading then s
  else
    let s1 := bump (setModule s slot { m with st := .loaded }) (bthCtr 17)
    let mask := sumNat ((upTo 16).map (fun l => if m.copies.any (fun c => decide (c.lclu.toNat = l)) then 2 ^ l else 0))
    match findItem s1 m.client m.item with
    | some i => completeItem s1 m.client i stOk (natLe slot.toNat 1 ++ [0, 0, 0] ++ natLe mask 4)
    | none => s1
def execLoadResident (slot : BitVec 8) (s : State) : Host.Outcome State Fault Refusal := .next (loadResident s slot)

/-- UNLOAD: the module takes no new admissions, and goes when its last berth is FREE (R271). -/
def runUnload (c : BitVec 10) (s : State) (i : Item) : State :=
  let slot := BitVec.ofNat 8 (leAt (part0 i) 16 1)
  let m := module s slot
  if !restZero (part0 i) [(16, 1)] then badItem s c i 0 1
  else if m.st ≠ .loaded then badItem s c i 0 2
  else finishUnload (beginItem (setModule s slot { m with st := .unloading, client := c, item := i.seq }) c i) slot
def execUnloadItem (c : BitVec 10) (s : State) : Host.Outcome State Fault Refusal := .next (takeItem s c 0x02 (runUnload c))

end Sys2Proof.Machine
end

