-- ==== Sys2Proof/Machine/Preemption.lean ====
section
/-! DEFINITION. Pre-emption of a logical cluster: the save, the image and the restore (R130–R138). -/

namespace Sys2Proof.Machine
open Sys2Proof

/-- Tile slots of logical cluster l that a physical tile serves. -/
def servedSlots (s : State) (l : Nat) : List Nat := (upTo 16).filter (fun j => decide (slotTile s (physOf s l) j ≠ 31))

/-- Products, programming and vector commands issued before the stop have completed, and no copy of a berth's window is under way
(R131, R194, R267). -/
def enginesStopped (s : State) (l : Nat) : Bool :=
  (servedSlots s l).all (fun j =>
    let t := tileAt s (tileOfSlot s l j)
    t.queue.isEmpty && t.actives.isEmpty && t.progs.isEmpty)
  && (queue s l 1).isEmpty
  && (berthsOn s l).all (fun e => !e.2.copying && !(e.2.moving && e.2.moveThr.isSome))

/-- Bound threads of a logical cluster. -/
def boundThreads (s : State) (l : Nat) : Tab Thread :=
  s.threads.filter (fun e => decide (e.1 / 256 = l ∧ e.2.st ≠ .idle))

/-- The allocated ranges of a cluster's store. -/
def usedWins (s : State) (l : Nat) : List Win := sortWins (berthWins s l ++ modWins s l)

/-- The cells of the listed ranges of a cluster's store, by store address. -/
def cellsIn (s : State) (l : Nat) (ws : List Win) : List Host.Cell :=
  let b := storeBase (physOf s l)
  (s.store.filter (fun c => ws.any (fun w => decide (b + w.base ≤ c.1 ∧ c.1 < b + w.base + w.len)))).map (fun c => (c.1 - b, c.2))

/-- Where a logical cluster's save slot of 34 MiB lies (R134, R280). -/
def slotAt (l : Nat) : Nat := paOf (lcluDie l) (0x10000000 + 0x2200000 * (l % 8))

/-- The bytes of a save image before its check word: contexts of the bound threads, engine state, accumulator banks, parameter memory and
the allocated store, in that order (R132, R133).  The layout within engine state, no rule gives: its bytes are free (log 173). -/
def saveItems (s : State) (l : Nat) : List (BitVec 8) :=
  let tile (j : Nat) : Tile := tileAt s (tileOfSlot s l j)
  let words (m : Tab (BitVec 32)) (n : Nat) : List (BitVec 8) := (upTo n).flatMap (fun i => natLe (tabGet (0 : BitVec 32) m i).toNat 4)
  (boundThreads s l).flatMap (fun e => ctxBytes e.2) ++ freeBytes s 65536
    ++ (servedSlots s l).flatMap (fun j => words (tile j).banks 2048)
    ++ (servedSlots s l).flatMap (fun j => words (tile j).params 16384)
    ++ (usedWins s l).flatMap (fun w => storeBytes s l w.base w.len)

/-- Bytes of an image: contexts, engine state, accumulators, parameter memory, allocated store and the check word (R132). -/
def saveSize (s : State) (l : Nat) : Nat :=
  2048 * (boundThreads s l).length + 65536 + (servedSlots s l).length * (8192 + 65536)
    + sumNat ((usedWins s l).map (fun w => w.len)) + 8

/-- The save image (R132). -/
def imageOf (s : State) (l : Nat) : Image :=
  let ws := usedWins s l
  { threads := boundThreads s l, store := cellsIn s l ws,
    tiles := (servedSlots s l).foldl (fun m j =>
      let t := tileAt s (tileOfSlot s l j)
      tabSet {} m j { params := t.params, banks := t.banks, nextBank := t.nextBank }) [],
    queues := (upTo 8).foldl (fun m e => tabSet [] m e (queue s l e)) [],
    streams := tabGet [] s.streams l, gen := genOf s (physOf s l), wins := ws, size := saveSize s l }

/-- The image goes to the cluster's slot, and its check word after it (R133 steps 4 and 5). -/
def writeImage (s : State) (l : Nat) : State :=
  let bs := saveItems s l
  useFree (countPm (pmPut s (slotAt l) (bs ++ natLe (Config.checksum bs).toNat 8)) true (slotAt l) (saveSize s l))

/-- The check word of the image in a slot is the checksum of its items (R135 step 4). -/
def imageGood (s : State) (l : Nat) (m : Image) : Bool :=
  decide (pmBytes s (slotAt l + m.size - 8) 8 = natLe (Config.checksum (pmBytes s (slotAt l) (m.size - 8))).toNat 8)

/-- Clients with a berth on a logical cluster, and how many each has. -/
def clientsOn (s : State) (l : Nat) : List (Nat × Nat) :=
  s.clients.filterMap (fun e =>
    let n := ((berthsOn s l).filter (fun b => decide (b.2.client.toNat = e.1))).length
    if n = 0 then none else some (e.1, n))

/-- The cluster is vacated: its threads are idle, its queues empty, its berths pre-empted (R133 step 6). -/
def vacate (s : State) (l : Nat) : State :=
  { s with
      threads := s.threads.filter (fun e => decide (e.1 / 256 ≠ l))
      queues := s.queues.filter (fun e => decide (e.1 / 8 ≠ l))
      streams := tabErase s.streams l
      berths := s.berths.map (fun e =>
        (e.1, if e.2.st ≠ .free ∧ lcluOf e.2.lthread = l then { e.2 with preempted := true } else e.2)) }

/-- The pre-emption's item: a PREEMPT completes when its last cluster is saved, an ADMIT may be taken up again. -/
def saveAnswered (s : State) (l : Nat) : State :=
  match tabFind s.pre.item l with
  | none => s
  | some (c, q) =>
    let s1 := { s with pre := { s.pre with item := tabErase s.pre.item l } }
    let cl := BitVec.ofNat 10 c
    match findItem s1 cl q with
    | none => s1
    | some i =>
      if i.op = 0x11 then
        if (slotsOf i.aux).all (fun k => decide (savePhase s1 k ≠ .stopping)) then completeItem s1 cl i stOk (natLe i.aux 2) else s1
      else unhold s1 (fun j => decide (j.seq = q ∧ j.op = i.op))

/-- SAVE_COMPLETE: steps 3–6 of R133.  A CONV and an MGATH under way halt at their last checkpoint (R131). -/
def saveDone (s : State) (l : Nat) : State :=
  if stopping s l && enginesStopped s l && !s.lost.lost then
    let n := physOf s l
    let who := clientsOn s l
    let s0 := haltGather (haltConv (advanceConv s l) l) l
    let img := imageOf s0 l
    let s1 := setSavePhase (vacate (writeImage s0 l) l) l .saved
    let s2 : State := { s1 with pre := { s1.pre with image := s1.pre.image ++ [(l, img)] } }
    let s3 := logEvent (sysWork (addCtr (bump s2 (cSaves n)) (cSaveBytes n) img.size) 0 img.size) 4 0xFFFF (2 ^ l)
    let s4 := who.foldl (fun s e => notice s (BitVec.ofNat 10 e.1) 0x82 stPreempted 0 (natLe l 2 ++ natLe e.2 2)) s3
    saveAnswered s4 l
  else s
def execSaveComplete (l : BitVec 4) (s : State) : Host.Outcome State Fault Refusal := .next (saveDone s l.toNat)

/-- RESTORE_START: every berth of the pre-empting work has left; no restore runs once a teardown has begun (R135, R138). -/
def restoreStart (s : State) (l : Nat) : State :=
  if savePhase s l = .saved ∧ (berthsOn s l).all (fun e => e.2.preempted) ∧ s.sec.tenancy ≠ .teardown ∧ !lcluOut s l ∧ !migrating s l
     ∧ !s.lost.lost then
    setSavePhase s l .restoring
  else s
def execRestoreStart (l : BitVec 4) (s : State) : Host.Outcome State Fault Refusal := .next (restoreStart s l.toNat)

/-- tile-ns and bytes of programming the resident records of a cluster. -/
def restoreWork (s : State) (l : Nat) : Nat × Nat :=
  (copiesOn s l).foldl (fun a e =>
    let m := ((module s (BitVec.ofNat 8 e.1)).desc.models[e.2.model]?).getD {}
    (a.1 + copyNs m, a.2 + sumNat ((m.recs.filter (fun r => !r.streamed)).map (fun r => progBytes (lrOf r.raw))))) (0, 0)

/-- Resident cells are programmed again from the module images (R135 step 3). -/
def reprogram (s : State) (l : Nat) : State :=
  (copiesOn s l).foldl (fun s e =>
    let slot := BitVec.ofNat 8 e.1
    ((((module s slot).desc.models[e.2.model]?).getD {}).recs.filter (fun r => !r.streamed)).foldl
      (fun s r => loadRecord s slot e.2 r) s) s

/-- The generator of the cluster goes on from the image; whether it is FAILED, and which requests wait on it, stay as they are. -/
def putGen (s : State) (l : Nat) (d : Drbg) : State :=
  let g := genOf s (physOf s l)
  setGen s (physOf s l) { d with state := if g.state = 3 ∨ !g.waiting.isEmpty then g.state else d.state, katOk := g.katOk, waiting := g.waiting }

/-- The image returns: store ranges, tiles, generator, contexts with every STOPPED thread SLEEPING, engine queues and streams. -/
def putImage (s : State) (l : Nat) (m : Image) : State :=
  let b := storeBase (physOf s l)
  let st0 := m.wins.foldl (fun st w => memZero st (b + w.base) w.len) s.store
  let st1 := m.store.foldl (fun st c => memPut st (b + c.1) c.2) st0
  let s1 : State := { s with store := st1 }
  let s2 := (servedSlots s1 l).foldl (fun s j =>
    let k := tabGet {} m.tiles j
    modTile s (tileOfSlot s l j) (fun t => { t with params := k.params, banks := k.banks, nextBank := k.nextBank })) s1
  let s3 := m.threads.foldl (fun s e =>
    setThread s (BitVec.ofNat 12 e.1) { e.2 with st := if e.2.st = .stopped then .sleeping else e.2.st }) s2
  putGen { s3 with queues := m.queues.foldl (fun q e => tabSet [] q (8 * l + e.1) e.2) s3.queues,
                   streams := tabSet [] s3.streams l m.streams } l m.gen

/-- Berths that left while their context lay in the image: the thread goes IDLE and their memory is freed (R138). -/
def freeVoids (s : State) (l : Nat) : State :=
  (berthsOn s l).foldl (fun s e => if e.2.st = .draining then freeBerth s (BitVec.ofNat 12 e.1) else s) s

end Sys2Proof.Machine
end

