-- ==== Sys2Proof/Machine/Random.lean ====
section
/-! DEFINITION. The noise source, its health tests and the generators' waiting requests (R203–R208, R221, R222). -/

namespace Sys2Proof.Machine
open Sys2Proof

/-- The noise source runs. -/
def ntEnabled (s : State) : Bool := decide (regField s rngOff 0 0 = 1)

/-- Raw bits pass. -/
def rawPassed (s : State) (n : Nat) : State :=
  { s with rng := { s.rng with sinceFail := Nat.min (2 ^ 20 + 1) (s.rng.sinceFail + n) } }

/-- A continuous health test failed: the count, the flag, and ERROR for a second failure within 2^20 raw bits (R205). -/
def healthFail (s : State) (f : Flag) : State :=
  let s1 := bump (setFlag s f) (rngCtr 1)
  let again := decide (s.rng.nt = .ok ∧ s.rng.sinceFail ≤ 2 ^ 20)
  { s1 with rng := { s1.rng with sinceFail := 0, nt := if again then .error else s1.rng.nt } }

/-- The raw bits of a command, the earliest first. -/
def rawBits (n : Nat) (lo hi : BitVec n) : List Bool := (upTo n).map lo.getLsbD ++ (upTo n).map hi.getLsbD

/-- The repetition-count test over bits from position i on: where a run reaches 41 identical bits, and the run at the end (R204). -/
def rctScan (last : Bool) (run i : Nat) : List Bool → List Nat × Bool × Nat
  | [] => ([], last, run)
  | b :: t =>
    let n := if run = 0 ∨ b ≠ last then 1 else run + 1
    let r := rctScan b n (i + 1) t
    if n = 41 then (i :: r.1, r.2) else r

/-- The adaptive-proportion test of one window: where its first bit stands for the 794th time (R204). -/
def aptScan (first : Bool) (n i : Nat) : List Bool → Option Nat
  | [] => none
  | b :: t =>
    let m := if b = first then n + 1 else n
    if m = 794 then some i else aptScan first m (i + 1) t

/-- The failure of a window of 1,024 bits that begins at position i. -/
def aptFail (i : Nat) (bits : List Bool) : Option Nat := aptScan (bits.headD false) 0 i bits

/-- Which tests fail on raw bits in disjoint windows of 1,024, in the order of the bits (R204). -/
def ntFails (s : State) (bits : List Bool) : List (Nat × Flag) :=
  let rct := (rctScan s.rng.last s.rng.run 0 bits).1
  let apt := (upTo (bits.length / 1024)).filterMap (fun k => aptFail (1024 * k) ((bits.drop (1024 * k)).take 1024))
  (upTo bits.length).flatMap (fun i =>
    (if rct.contains i then [(i, fRctFail)] else []) ++ (if apt.contains i then [(i, fAptFail)] else []))

/-- Raw bits leave their run behind. -/
def keepRun (s : State) (bits : List Bool) : State :=
  let r := (rctScan s.rng.last s.rng.run 0 bits).2
  { s with rng := { s.rng with last := r.1, run := r.2 } }

/-- The failures of n raw bits, of which `i` are behind, each in its turn. -/
def healthFails (s : State) (i n : Nat) : List (Nat × Flag) → State
  | [] => rawPassed s (n - i)
  | (p, f) :: t => healthFails (healthFail (rawPassed s (p + 1 - i)) f) (p + 1) n t

/-- The generators whose requests wait, or that a teardown left to be instantiated again, lowest first (R207, R208). -/
def needy (s : State) : Option Nat :=
  (upTo 19).find? (fun g =>
    let d := genOf s g
    decide (d.state ≠ 3) && (decide (d.state = 2) || !d.waiting.isEmpty || (!d.inst && d.katOk)))

/-- Items that wait for a generator may be taken up again. -/
def unholdWaiters (s : State) (ws : List (Option Waiter)) : State :=
  { s with clients := s.clients.map (fun e => (e.1, { e.2 with items := e.2.items.map (fun i =>
      if i.held && ws.contains (some ⟨BitVec.ofNat 10 e.1, i.seq⟩) then { i with held := false } else i) })) }

/-- The latest block goes to a generator that needs one; its requests are served. -/
def serveBlock (s : State) : State :=
  match needy s with
  | none => s
  | some g =>
    let ws := (genOf s g).waiting
    let s1 := seedGen s g
    let s2 := unholdWaiters (setGen s1 g { genOf s1 g with waiting := [] }) ws
    if ws.contains none then giveNonce s2 else s2

/-- The raw bits of a command as 32-bit words, the earliest first. -/
def rawWords (lo hi : BitVec 512) : List (BitVec 32) :=
  (upTo 32).map (fun k => ((if k < 16 then lo else hi) >>> (32 * (k % 16))).setWidth 32)

/-- NOISE_BLOCK_READY: 1,024 raw bits meet the continuous tests; in OK bits that no test fails on make a good block (R203–R205). -/
def noiseBlock (s : State) (lo hi : BitVec 512) : State :=
  if !ntEnabled s || decide (s.rng.nt = .startup) then s
  else
    let bits := rawBits 512 lo hi
    let fs := ntFails s bits
    let s1 := keepRun (healthFails s 0 1024 fs) bits
    match s1.rng.nt with
    | .tap => { s1 with rng := { s1.rng with raw := s1.rng.raw ++ (rawWords lo hi).take (1024 - s1.rng.raw.length) } }
    | .ok =>
      if fs.isEmpty then
        serveBlock (bump { s1 with rng := { s1.rng with block := some (conditionRaw (hi ++ lo).toNat 128) } } (rngCtr 0))
      else s1
    | _ => s1
def execNoiseBlockReady (lo hi : BitVec 512) (s : State) : Host.Outcome State Fault Refusal := .next (noiseBlock s lo hi)

/-- STARTUP_TEST_END: 4,096 raw bits have met both tests; `retest` clears (R204, R205).  A start-up test that fails counts once in
`nt_fail` (DEDUCED, log 188). -/
def startupEnd (s : State) (lo hi : BitVec 2048) : State :=
  if s.rng.nt ≠ .startup ∨ !ntEnabled s then s
  else
    let bits := rawBits 2048 lo hi
    let s0 : State := setRegField { s with rng := { s.rng with run := 0, block := none } } rngOff 1 1 0
    match ntFails s0 bits with
    | [] => keepRun (rawPassed { s0 with rng := { s0.rng with nt := .ok } } 4096) bits
    | f :: fs =>
      let s1 := ((f :: fs).map (·.2)).eraseDups.foldl setFlag (bump s0 (rngCtr 1))
      keepRun { s1 with rng := { s1.rng with nt := .error, sinceFail := 4095 - ((f :: fs).getLast?.getD f).1 } } bits
def execStartupTestEnd (lo hi : BitVec 2048) (s : State) : Host.Outcome State Fault Refusal := .next (startupEnd s lo hi)

/-- `nt_en` takes a new value: clearing it stops the source, and setting it again starts the start-up test (R205). -/
def setNtEn (s : State) (on : Bool) : State :=
  let s1 := setRegField s rngOff 0 0 (if on then 1 else 0)
  if on then s1 else { s1 with rng := { s1.rng with nt := .startup, block := none } }

/-- `retest` written 1 in ERROR: the start-up test starts (R205, R221). -/
def startRetest (s : State) : State := setRegField { s with rng := { s.rng with nt := .startup } } rngOff 1 1 1

/-- `tap_en` takes a new value (R205, R221). -/
def setTapEn (s : State) (on : Bool) : State :=
  let s1 := setRegField s (rngOff + 0x10) 0 0 (if on then 1 else 0)
  if on then
    (if s.rng.nt = .ok ∨ s.rng.nt = .error then { s1 with rng := { s1.rng with nt := .tap, block := none, raw := [] } } else s1)
  else (if s.rng.nt = .tap then { s1 with rng := { s1.rng with nt := .startup } } else s1)

/-- RAW_DATA_READ: the next 32 raw bits leave the buffer, 0 from an empty one. -/
def rawRead (s : State) : State :=
  match s.rng.raw with
  | [] => emit s (.readData (rngOff + 0x14) 0)
  | w :: t => emit { s with rng := { s.rng with raw := t } } (.readData (rngOff + 0x14) w)
def execRawDataRead (s : State) : Host.Outcome State Fault Refusal := .next (rawRead s)

/-- A request that waited for entropy is refused: an item ends with OUT_OF_SERVICE, a CHALLENGE shifts nothing out (R207). -/
def refuseWaiter (s : State) (w : Option Waiter) : State :=
  let s1 := bump (genUnwait s w) (rngCtr 3)
  match w.bind (fun w => (findItem s1 w.client w.item).map (fun i => (w.client, i))) with
  | none => s1
  | some (c, i) =>
    let s2 := if i.op = 0x10 then bump s1 (seqDevCtr 4) else s1
    completeItem s2 c i stOutOfService (if namesBerth i.op then berthDetail i.berth else [])

/-- ENTROPY_WAIT_TIMEOUT: the oldest request of a generator has waited 1 ms; a block in the same cycle wins (R457). -/
def entropyExpired (s : State) (g : Nat) (met : Bool) : State :=
  match (genOf s g).waiting with
  | [] => s
  | w :: _ => if met then bump s (obsCtr 9) else refuseWaiter s w
def execEntropyWaitTimeout (gen : Nat) (met : Bool) (s : State) : Host.Outcome State Fault Refusal :=
  onUnit (decide (gen < 19)) (entropyExpired s gen met)

/-- Every generator loses its state (R208). -/
def clearGens (s : State) : State :=
  let clr (d : Drbg) : Drbg := if d.state = 3 then { d with waiting := [] } else { katOk := d.katOk }
  { s with rng := { s.rng with
      gens := (s.rng.gens.map (fun e => (e.1, clr e.2))).filter (fun e => decide (e.2 ≠ {})) } }

end Sys2Proof.Machine
end

