-- ==== Sys2Proof/Machine/Audio.lean ====
section
/-! DEFINITION. Audio streams in service: the oscillator, the PLLs, start and stop, transmission, reception, lock and rate (R333–R350, R354). -/

namespace Sys2Proof.Machine
open Sys2Proof

def streamExists (st : Nat) : Bool := decide (st < 112)

/-! ## The oscillator (R333, R346) -/

def oscMode (s : State) : Nat := regField s (audOff + 0x10) 1 0
def oscSrc (s : State) : Nat := regField s (audOff + 0x10) 8 2
def tideGain (s : State) : Nat := regField s (audOff + 0x10) 12 9

/-- The mode in force: TRACK and TIDE act as HOLD while their stream is not one of their kind, LOCKED or RUN (R353, R354). -/
def oscInForce (s : State) : Nat :=
  let st := oscSrc s
  match oscMode s with
  | 1 => if isRx st ∧ (aud s st).lock = .locked then 1 else 3
  | 2 => if isTx st ∧ aBit31 s st ∧ (aud s st).phase = .run then 2 else 3
  | m => m

/-- The loop demands a pull: it is held at ±`pull_lim`, and PINNED is entered or left (R107, R333). -/
def setPull (s : State) (want : Int) : State :=
  let lim : Int := (Nat.min 200 (aPullLim s (oscSrc s)) : Nat) * 100
  let v := clampInt (-lim) lim want
  let past := decide (v ≠ want)
  let s1 : State := { s with aud := { s.aud with pull := v }, cal := { s.cal with pinTide := past } }
  if past && !s.cal.pinTide then setFlag s1 fPinTide else s1

/-- TRACK at a block end of its receiver: 1 ppm a block at most. -/
def trackPull (s : State) (st : Nat) (ppm : Int) : State :=
  if oscInForce s = 1 ∧ oscSrc s = st then
    setPull s (s.aud.pull + clampInt (-100) 100 (ppm - s.aud.pull))
  else s

/-- The tide gauge at frame 0 of a block of its transmitter; a block with underruns makes no change. -/
def tidePull (s : State) (st : Nat) : State :=
  let a := aud s st
  if oscInForce s = 2 ∧ oscSrc s = st ∧ !a.udrBlock then
    let e : Int := (level a : Int) - (aTarget s st : Int)
    bump (setPull s (s.aud.pull + rneDivInt (100 * e) (2 ^ tideGain s))) (audDevCtr 1)
  else s

/-- A new mode: REFCLK pulls nothing. -/
def oscChanged (s : State) : State :=
  if oscMode s = 0 then { s with aud := { s.aud with pull := 0 }, cal := { s.cal with pinTide := false } } else s

/-! ## Loss and lock (R334, R349) -/

/-- Loss is declared: FREEWHEEL, with its flags and count. -/
def declareLoss (s : State) (st : Nat) : State :=
  if (aud s st).lock = .locked then
    setFlag (setFlag (modAud s st (fun a => { a with lock := .freewheel, good := 0, bad := 0, off := 0, zSeen := false })) (fLoss st)) fLossEv
  else s

/-- A receiver of a word-select port in master mode is timed by its PLL. -/
def pllTimed (s : State) (st : Nat) : Bool := isRx st && isWs st && aMaster s st

/-- A PLL locks: receivers that it times are LOCKED. -/
def pllLock (s : State) (b : Bool) : State :=
  if (if b then s.aud.lockB else s.aud.lockA) ∨ regField s audOff 0 0 = 0 then s
  else
    let s1 : State := { s with aud := if b then { s.aud with lockB := true } else { s.aud with lockA := true } }
    (upTo 112).foldl (fun s st =>
      let a := aud s st
      if pllTimed s st && decide (onPllB (aRate s st) = b) && decide (a.lock = .acquire ∨ a.lock = .freewheel) then
        let s2 := setAud s st { a with lock := .locked, rateMeas := aRate s st }
        if a.lock = .freewheel then bump s2 (audCtr st 8) else s2
      else s) s1
def execAudioPllLock (b : Bool) (s : State) : Host.Outcome State Fault Refusal := .next (pllLock s b)

/-- A PLL loses lock. -/
def pllUnlock (s : State) (b : Bool) : State :=
  if !(if b then s.aud.lockB else s.aud.lockA) then s
  else
    let s1 := setIrqFlag { s with aud := if b then { s.aud with lockB := false } else { s.aud with lockA := false } } fPllUnlock
    (upTo 112).foldl (fun s st => if pllTimed s st && decide (onPllB (aRate s st) = b) then declareLoss s st else s) s1
def execAudioPllUnlock (b : Bool) (s : State) : Host.Outcome State Fault Refusal := .next (pllUnlock s b)

/-- `aud_en` takes a new value: the PLLs lock when it is written 1 (R334). -/
def setAudEn (s : State) (on : Bool) : State :=
  let s1 := setRegField s audOff 0 0 (if on then 1 else 0)
  if on then s1 else { s1 with aud := { s1.aud with lockA := false, lockB := false } }

/-! ## Enable, stop and trigger (R338, R347, R348, R353) -/

/-- The clock source of a transmitter is one it may have. -/
def clockOk (s : State) (st : Nat) : Bool :=
  match aClkSrc s st with
  | 0 => true
  | 1 => isRx (aClkRef s st) && decide (aRate s (aClkRef s st) = aRate s st)
  | 2 => isWs st && !aMaster s st
  | _ => false

/-- A word-select stream agrees with its enabled partner in `rate`, `master`, `ws_fmt` and `wlen`. -/
def partnerOk (s : State) (st : Nat) : Bool :=
  !isWs st || !aEn s (wsPartner st) ||
    decide (aRate s st = aRate s (wsPartner st) ∧ aMaster s st = aMaster s (wsPartner st) ∧ aWlen s st = aWlen s (wsPartner st)
      ∧ regField s (audCfg st) 28 28 = regField s (audCfg (wsPartner st)) 28 28)

/-- The configuration lets the stream be enabled; `mon` and `src` are the monitor fields written with `en`. -/
def configOk (s : State) (st : Nat) (mon : Bool) (src : Nat) : Bool :=
  decide (rateHz (aRate s st) ≠ 0) && partnerOk s st && (isRx st || clockOk s st)
  && (!mon || (decide (src < 112) && decide (onPllB (aRate s src) = onPllB (aRate s st))))

/-- The stream starts: a transmitter goes to LEAD or ARMED, a receiver to ACQUIRE (R347, R349). -/
def enableStream (s : State) (st : Nat) (arm : Bool) : State :=
  modAud s st (fun a =>
    let clean (x : Slot) : Slot := { bound := x.bound }
    let b : AStream := { a with frame := 0, blk := 0, inPhase := 0, cur := 0, udrBlock := false, good := 0, bad := 0, off := 0,
                                zSeen := false, waitTrig := isRx st && arm, s0 := clean a.s0, s1 := clean a.s1, sent := (0, 0) }
    if isTx st then { b with phase := if arm then .armed else .lead }
    else if pllTimed s st && pllLocked s (aRate s st) then { b with lock := .locked, rateMeas := aRate s st }
    else { b with lock := .acquire, rateMeas := 7 })

/-- The stream stops at once. -/
def disableStream (s : State) (st : Nat) : State :=
  let s1 := modAud s st (fun a => { a with phase := .idle, lock := .disabled, waitTrig := false })
  if isTx st then emit s1 (.lineLow st) else s1

/-- Silent stop of a transmitter. -/
def stopStream (s : State) (st : Nat) : State :=
  modAud s st (fun a => match a.phase with
    | .run => { a with phase := .fade, inPhase := 0 }
    | .lead | .armed => { a with phase := .tail, inPhase := 0 }
    | _ => a)

/-- A write of _CTL: none where it is ignored, for a monitor that the stream may not have, an enable with an inconsistent
configuration, or a pull limit that is held (R339, R353, R449). -/
def writeCtl (s : State) (st : Nat) (w : Nat) (held : Bool) : Option State :=
  let en := decide (bitsOf w 0 0 = 1)
  let mon := decide (bitsOf w 3 3 = 1)
  let a := aud s st
  let lim := clampNat 1 200 (bitsOf w 18 11)
  let was := aEn s st
  let s1 := setRegField (setRegField (setRegField (setRegField s (audCtl st) 3 3 (if mon then 1 else 0)) (audCtl st) 10 4 (bitsOf w 10 4))
    (audCtl st) 2 2 (bitsOf w 2 2)) (audCtl st) 18 11 lim
  if mon && !(isTx st && isWs st && a.s0.bound.isNone && a.s1.bound.isNone) then none
  else if en && !was && !configOk s1 st mon (bitsOf w 10 4) then none
  else if held && decide (lim ≠ aPullLim s st) then none
  else
    let s2 := setRegField s1 (audCtl st) 0 0 (if en then 1 else 0)
    let s3 := if en && !was then enableStream s2 st (decide (bitsOf w 2 2 = 1)) else if was && !en then disableStream s2 st else s2
    let s4 := setRegField s3 (audCtl st) 1 1 (if isTx st then bitsOf w 1 1 else 0)
    some (if en && decide (bitsOf w 1 1 = 1) && isTx st then stopStream s4 st else s4)

/-- The streams of the start mask that are armed. -/
def armedStreams (s : State) : List Nat :=
  (upTo 112).filter (fun st =>
    (regWord s (audOff + 0x20 + 4 * (st / 32))).getLsbD (st % 32)
    && (decide ((aud s st).phase = .armed) || (aud s st).waitTrig))

/-- The start trigger. -/
def trigger (s : State) : State :=
  let l := armedStreams s
  if l.isEmpty then setFlag s fStartIgn
  else
    l.foldl (fun s st => modAud s st (fun a =>
      { a with phase := if a.phase = .armed then .lead else a.phase, frame := 0, blk := 0, inPhase := 0, waitTrig := false }))
      (bump s (audDevCtr 2))

/-- SYNC_IN: a rising edge fires the trigger while `sync_src` is 1. -/
def execSyncIn (s : State) : Host.Outcome State Fault Refusal :=
  .next (if regField s (audOff + 8) 1 1 = 1 then trigger s else s)

/-! ## Channel status (R337) -/

/-- One step of the CRC of AES3 over a byte, least significant bit first. -/
def crccByte (c b : Nat) : Nat :=
  (upTo 8).foldl (fun c i => if (c ^^^ (b / 2 ^ i)) % 2 = 1 then (c / 2) ^^^ 0xB8 else c / 2) c
/-- The CRCC of bytes 0–22 of a channel's status. -/
def crcc (cs : BitVec 192) : Nat := (upTo 23).foldl (fun c k => crccByte c (bitsOf cs.toNat (8 * k + 7) (8 * k))) 0xFF

def professional (cs : BitVec 192) : Bool := cs.getLsbD 0
/-- The bits sent: a professional channel carries the CRCC in byte 23. -/
def sentStatus (cs : BitVec 192) : BitVec 192 :=
  if professional cs then BitVec.ofNat 192 (cs.toNat % 2 ^ 184 + crcc cs * 2 ^ 184) else cs

/-- 192 bits held in six register words. -/
def bits192 (s : State) (off : Nat) : BitVec 192 :=
  BitVec.ofNat 192 ((upTo 6).foldl (fun v k => v + (regWord s (off + 4 * k)).toNat * 2 ^ (32 * k)) 0)
def putBits192 (s : State) (off : Nat) (v : BitVec 192) : State :=
  (upTo 6).foldl (fun s k => setRegWord s (off + 4 * k) (BitVec.ofNat 32 (v.toNat / 2 ^ (32 * k)))) s

/-! ## Transmission (R343–R347) -/

/-- The clock of a transmitter runs: its PLL is locked, or it follows a LOCKED receiver or a slave bit clock. -/
def txClocked (s : State) (st : Nat) : Bool :=
  match aClkSrc s st with
  | 1 => decide ((aud s (aClkRef s st)).lock = .locked) || pllLocked s (aRate s st)
  | 2 => true
  | _ => pllLocked s (aRate s st)

/-- A slave port whose bit clock is lost holds its last bit. -/
def bitClockLost (s : State) (st : Nat) : Bool :=
  decide (aClkSrc s st = 2 ∧ (aud s (wsPartner st)).lock = .freewheel)

/-- The value that a slot holds for the present frame. -/
def slotHead (x : Slot) : Option Int := x.q.head?

/-- The policy's value for sample j of a run of missing values (R344); the reserved code 3 acts as 2 does (DESIGN CHOICE, log 190). -/
def underrunValue (ufl : Nat) (last : Int) (j : Nat) : Int :=
  match ufl with
  | 0 => last
  | 1 => 0
  | _ => if 32 ≤ j then 0 else rneDivInt (last * (32 - j : Nat)) 32

/-- What a slot sends in RUN: the value, its validity bit and whether the policy applied. -/
def slotSend (ufl : Nat) (x : Slot) : Int × Bool × Bool :=
  match slotHead x with
  | some w => (w, false, false)
  | none => if x.bound.isSome then (underrunValue ufl x.last (x.missing + 1), true, true) else (0, true, false)

/-- The slot after its frame. -/
def slotNext (x : Slot) : Slot :=
  match x.q with
  | w :: t => { x with q := t, last := w, missing := 0 }
  | [] => if x.bound.isSome then { x with missing := x.missing + 1 } else x

/-- A frame leaves the device, saturated words counted. -/
def sendFrame (s : State) (st : Nat) (v0 v1 : Int × Bool) : State :=
  let a := aud s st
  let n := portBits s st
  let p0 := wToWord n v0.1
  let p1 := wToWord n v1.1
  let bp := !isWs st
  let s0 := setAud s st { a with sent := (v0.1, v1.1) }
  let s1 := if p0.2 then bump s0 (audCtr st 15) else s0
  let s2 := if p1.2 then bump s1 (audCtr st 15) else s1
  let s3 := emit s2 (.txFrame st (BitVec.ofNat 32 p0.1) (BitVec.ofNat 32 p1.1) (bp && v0.2) (bp && v1.2)
    (bp && a.s0.cs.getLsbD a.blk) (bp && a.s1.cs.getLsbD a.blk) (bp && a.s0.ub.getLsbD a.blk) (bp && a.s1.ub.getLsbD a.blk)
    (bp && decide (a.blk = 0)))
  bump s3 (audCtr st 0)

/-- The frame and block counts move on. -/
def frameDone (s : State) (st : Nat) : State :=
  modAud s st (fun a => { a with frame := a.frame + 1, blk := (a.blk + 1) % 192, inPhase := a.inPhase + 1 })

/-- At frame 0 of a block the transmitter latches its channel status and user bits. -/
def latchBlock (s : State) (st : Nat) : State :=
  if isWs st || decide ((aud s st).blk ≠ 0) then s
  else
    let p := st - 48
    modAud s st (fun a => { a with
      s0 := { a.s0 with cs := sentStatus (bits192 s (audCsTx p)), ub := bits192 s (audUbTx p) },
      s1 := { a.s1 with cs := sentStatus (bits192 s (audCsTx p + 24)), ub := bits192 s (audUbTx p + 24) } })

/-- The latest frame of the stream that a monitor copies: as sent for a transmitter, as received for a receiver (R339; DEDUCED, log 43). -/
def monValues (s : State) (st : Nat) : Int × Int :=
  let m := aud s (aMonSrc s st)
  if isTx (aMonSrc s st) then m.sent else (m.s0.last, m.s1.last)

/-- A bound slot has no value for the present frame. -/
def missingNow (x : Slot) : Bool := x.bound.isSome && x.q.isEmpty

/-- What the slip test of R345 decides at frame 0: 0 nothing, 1 a drop, 2 a repeat. -/
def slipTest (s : State) (st : Nat) : Nat :=
  let a := aud s st
  if a.blk = 0 && aBit31 s st && !missingNow a.s0 && !missingNow a.s1 then
    if aTarget s st + aSlipWin s st < level a then 1
    else if 0 < level a ∧ level a + aSlipWin s st < aTarget s st then 2
    else 0
  else 0

/-- The berths of slots that ran under the policy in this frame, each counted once. -/
def countUnderruns (s : State) (st : Nat) (bs : List (BitVec 12)) : State :=
  if bs.isEmpty then s
  else
    let s1 := bump (setFlag s (fUdr st)) (audCtr st 13)
    bs.eraseDups.foldl (fun s b => modBerth s b (fun e => { e with underruns := e.underruns + 1 }))
      (modAud s1 st (fun a => { a with udrBlock := true }))

/-- At a block's end each berth with underruns is told. -/
def endBlock (s : State) (st : Nat) : State :=
  let a := aud s st
  if a.blk ≠ 191 then s
  else (a.s0.bound.toList ++ a.s1.bound.toList).eraseDups.foldl (fun s b =>
    let n := (berth s b).underruns
    if n = 0 then s
    else
      let s1 := modBerth s b (fun e => { e with underruns := 0 })
      notice s1 (berth s b).client 0x86 stUnderrun (berth s b).tag (natLe b.toNat 2 ++ [0, 0] ++ natLe n 4)) s

/-- One frame in RUN. -/
def runFrameTx (s : State) (st : Nat) : State :=
  if aMon s st then
    let v := monValues s st
    frameDone (sendFrame s st (v.1, false) (v.2, false)) st
  else
    let s1 := if (aud s st).blk = 0 then modAud (tidePull s st) st (fun a => { a with udrBlock := false }) else s
    match slipTest s1 st with
    | 2 =>
      let a := aud s1 st
      let s2 := bump (setFlag s1 (fSlip st)) (audCtr st 12)
      frameDone (sendFrame s2 st (a.s0.last, a.s0.bound.isNone) (a.s1.last, a.s1.bound.isNone)) st
    | k =>
      let s2 := if k = 1 then
          bump (setFlag (modAud s1 st (fun a => { a with cur := a.cur + 1, s0 := { a.s0 with q := a.s0.q.drop 1 },
                                                          s1 := { a.s1 with q := a.s1.q.drop 1 } })) (fSlip st)) (audCtr st 11)
        else s1
      let a := aud s2 st
      let u := aUfl s st
      let v0 := slotSend u a.s0
      let v1 := slotSend u a.s1
      let late := (if v0.2.2 then a.s0.bound.toList else []) ++ (if v1.2.2 then a.s1.bound.toList else [])
      let s3 := countUnderruns (sendFrame s2 st (v0.1, v0.2.1) (v1.1, v1.2.1)) st late
      let s4 := modAud s3 st (fun a => { a with cur := a.cur + 1, s0 := slotNext a.s0, s1 := slotNext a.s1 })
      frameDone (endBlock s4 st) st

/-- The value that FADE scales for a slot: the one queued, else the last one; a slot that no berth holds sends 0 (R344; DEDUCED, log 44). -/
def fadeValue (x : Slot) : Int := (slotHead x).getD (if x.bound.isSome then x.last else 0)

/-- One frame of FADE: the values times (32 - j) / 32. -/
def fadeFrameTx (s : State) (st : Nat) : State :=
  let a := aud s st
  let scale (w : Int) : Int := rneDivInt (w * (32 - (a.inPhase + 1) : Nat)) 32
  let v := if aMon s st then monValues s st else (fadeValue a.s0, fadeValue a.s1)
  let s1 := sendFrame s st (scale v.1, true) (scale v.2, true)
  let s2 := frameDone (modAud s1 st (fun a => { a with cur := a.cur + 1, s0 := slotNext a.s0, s1 := slotNext a.s1 })) st
  if 32 ≤ a.inPhase + 1 then
    modAud s2 st (fun a => { a with phase := .tail, inPhase := 0, s0 := { a.s0 with q := [] }, s1 := { a.s1 with q := [] } })
  else s2

/-- TAIL is over: the line is low, and `en` and `stop` clear. -/
def endTail (s : State) (st : Nat) : State :=
  emit (setRegField (modAud s st (fun a => { a with phase := .idle })) (audCtl st) 1 0 0) (.lineLow st)

/-- A frame boundary of a transmitter. -/
def txFrame (s : State) (st : Nat) : State :=
  let a := aud s st
  if a.phase = .idle ∨ a.phase = .armed then s
  else if !txClocked s st then emit s (.lineLow st)
  else
    let s1 := latchBlock s st
    match a.phase with
    | .lead =>
      let s2 := frameDone (sendFrame s1 st (0, true) (0, true)) st
      if 192 * leadBlk s ≤ a.inPhase + 1 ∧ (aMon s st ∨ aTarget s st ≤ level a) then
        modAud s2 st (fun a => { a with phase := .run, inPhase := 0 })
      else s2
    | .run => if bitClockLost s st then
        frameDone (modAud s1 st (fun a => { a with cur := a.cur + 1, s0 := slotNext a.s0, s1 := slotNext a.s1 })) st
      else runFrameTx s1 st
    | .fade => fadeFrameTx s1 st
    | _ =>
      if 192 * tailBlk s ≤ a.inPhase then endTail s st
      else
        let s2 := frameDone (sendFrame s1 st (0, true) (0, true)) st
        if 192 * tailBlk s ≤ a.inPhase + 1 then endTail s2 st else s2
def execTxFrame (st : Nat) (s : State) : Host.Outcome State Fault Refusal := onUnit (isTx st) (txFrame s st)

/-! ## Reception and routes (R336, R337, R342, R349) -/

/-- One slot value of a routed frame; the value of a slot that a route does not mask is not stated. -/
def routedBytes (s : State) (fmt mask : Nat) (pack : Bool) (v : Int × Int) : List (BitVec 8) :=
  let n := if fmt = 2 then 2 else 4
  let slot (k : Nat) (w : Int) : List (BitVec 8) :=
    if mask / 2 ^ k % 2 = 1 then wToMem fmt w
    else if pack then [] else natLe (Config.freeWord (s.free + k)).toNat n
  slot 0 v.1 ++ slot 1 v.2

/-- Deliver a frame of a receiver to one of its routes (R342). -/
def routeFrame (s : State) (st k : Nat) (v : Int × Int) : State :=
  let off := audRoute (routeIx st) k
  if regField s off 15 15 = 0 then s
  else
    let b := BitVec.ofNat 12 (regField s off 11 0)
    let e := berth s b
    let m := berthModel s e
    if e.st = .free ∨ e.st = .draining then s
    else if e.inDepth ≤ e.framesIn + e.framesDue - e.framesFreed then bump s (audCtr st 5)
    else
      let bs := routedBytes s (regField s off 18 16) (regField s off 13 12) (decide (regField s off 14 14 = 1)) v
      let a := frameAddr e m e.framesIn
      let s1 := hubPm (pmPut s a (bs.take m.frameBytes)) e.client true a m.frameBytes
      { setBerth s1 b { e with framesIn := e.framesIn + 1 } with free := s1.free + 2 }

/-- A frame of samples reaches the routes, unless the receiver waits for the trigger. -/
def deliverRx (s : State) (st : Nat) (v : Int × Int) : State :=
  if (aud s st).waitTrig then s else routeFrame (routeFrame s st 0 v) st 1 v

/-- A complete block has been received: its bits are written, but for a professional block whose CRCC fails. -/
def blockReceived (s : State) (st : Nat) : State :=
  let a := aud s st
  let fails := [a.s0.cs, a.s1.cs].any (fun c => professional c && decide (bitsOf c.toNat 191 184 ≠ crcc c))
  let seq (s : State) (off : Nat) : State := setRegWord s (off + 48) (regWord s (off + 48) + 1)
  let s1 := if fails then bump s (audCtr st 4)
    else seq (putBits192 (putBits192 s (audCsRx st) a.s0.cs) (audCsRx st + 24) a.s1.cs) (audCsRx st)
  let s2 := seq (putBits192 (putBits192 s1 (audUbRx st) a.s0.ub) (audUbRx st + 24) a.s1.ub) (audUbRx st)
  modAud s2 st (fun a => { a with nonaudio := a.s0.cs.getLsbD 1 })

/-- Set bit i of a block's bits. -/
def putBit192 (v : BitVec 192) (i : Nat) (b : Bool) : BitVec 192 :=
  BitVec.ofNat 192 (v.toNat - (if v.getLsbD i then 2 ^ i else 0) + (if b then 2 ^ i else 0))

/-- A frame period of a LOCKED receiver: samples, block count, block bits. -/
def lockedFrame (s : State) (st : Nat) (f : RxFrame) : State :=
  let ok := f.good && !f.off
  let bits := portBits s st
  let a := aud s st
  let mis := ok && f.z && decide (a.blk ≠ 0) && !isWs st
  let blk := if ok && f.z && !isWs st then 0 else a.blk
  let inv := (if f.inv0 then 1 else 0) + (if f.inv1 then 1 else 0)
  let s1 := if ok then addCtr s (audCtr st 2) (if isWs st then 0 else inv) else bump s (audCtr st 1)
  let s2 := if mis then bump s1 (audCtr st 3) else s1
  let upd (x : Slot) (w : BitVec 32) (c u : Bool) : Slot :=
    if ok then { x with last := wordToW bits w.toNat, cs := putBit192 x.cs blk c, ub := putBit192 x.ub blk u } else x
  let s3 := modAud s2 st (fun a => { a with s0 := upd a.s0 f.w0 f.c0 f.u0, s1 := upd a.s1 f.w1 f.c1 f.u1, blk := blk,
                                            zSeen := if ok && f.z then true else a.zSeen,
                                            bad := if ok then 0 else a.bad + 1 })
  let b := aud s3 st
  let s4 := deliverRx (bump s3 (audCtr st 0)) st (b.s0.last, b.s1.last)
  let s5 := if blk = 191 then
      trackPull (if !isWs st && b.zSeen then blockReceived s4 st else s4) st f.ppm
    else s4
  modAud s5 st (fun a => { a with frame := a.frame + 1, blk := (a.blk + 1) % 192 })

/-- The run of off-period frames or the block mean asks for RELOCK. -/
def wantsRelock (a : AStream) (f : RxFrame) : Bool := decide (4 ≤ a.off + (if f.off then 1 else 0)) || decide (100000 < f.ppm.natAbs)

/-- The criteria of ACQUIRE are met with this frame. -/
def lockMet (st : Nat) (a : AStream) (f : RxFrame) : Bool :=
  f.good && !f.off && decide (f.ppm.natAbs ≤ 100000)
  && (if isWs st then decide (2 ≤ a.good + 1) else decide (8 ≤ a.good + 1) && (a.zSeen || f.z))

/-- A frame period of a receiver that acquires or freewheels with a signal present. -/
def acquireFrame (s : State) (st : Nat) (f : RxFrame) : State :=
  let a := aud s st
  if f.off && decide (4 ≤ a.off + 1) || (f.good && decide (100000 < f.ppm.natAbs)) then
    setAud s st { a with lock := .relock, rateMeas := 7, good := 0, off := 0, zSeen := false, inPhase := 0 }
  else if lockMet st a f then
    let s1 := setAud s st { a with lock := .locked, rateMeas := aRate s st, good := 0, off := 0, bad := 0, zSeen := f.z,
                                   blk := if f.z then 1 else (a.blk + 1) % 192, inPhase := 0 }
    if a.lock = .freewheel then bump s1 (audCtr st 8) else s1
  else
    let ok := f.good && !f.off
    setAud s st { a with good := if ok then a.good + 1 else 0, zSeen := if ok then a.zSeen || f.z else false,
                         off := if f.off then a.off + 1 else 0, blk := if f.z then 1 else (a.blk + 1) % 192 }

/-- RELOCK: one block is measured, then a new rate or FREEWHEEL, where `rate_meas` reads what was measured (DEDUCED, log 190). -/
def relockFrame (s : State) (st : Nat) (f : RxFrame) : State :=
  let a := aud s st
  if a.inPhase + 1 < 192 then setAud s st { a with inPhase := a.inPhase + 1 }
  else if f.mean ≠ 7 ∧ aFollow s st then
    let r := f.mean.toNat
    let s1 := setRegField (setAud s st { a with lock := .locked, rateMeas := r, inPhase := 0, blk := 0, bad := 0, off := 0,
                                                zSeen := false }) (audCfg st) 2 0 r
    let s2 := setRegField (setRegField s1 (audRoute (routeIx st) 0) 15 15 0) (audRoute (routeIx st) 1) 15 15 0
    setFlag (setFlag s2 (fRateChg st)) fRateEv
  else
    bump (setAud s st { a with lock := .freewheel, rateMeas := f.mean.toNat, inPhase := 0, good := 0, off := 0, zSeen := false }) (audCtr st 9)

/-- RX_FRAME: a frame period of a receiver with what it brought. -/
def rxFrame (s : State) (st : Nat) (f : RxFrame) : State :=
  let a := aud s st
  match a.lock with
  | .disabled => s
  | .locked =>
    if wantsRelock a f && !pllTimed s st then
      setAud s st { a with lock := .relock, rateMeas := 7, off := 0, good := 0, zSeen := false, inPhase := 0 }
    else lockedFrame (setAud s st { a with off := if f.off then a.off + 1 else 0 }) st f
  | .relock => relockFrame s st f
  | _ => acquireFrame s st f
def execRxFrame (st : Nat) (f : RxFrame) (s : State) : Host.Outcome State Fault Refusal := onUnit (isRx st) (rxFrame s st f)

/-- LOSS_DECLARED: four frame periods have passed with no good frame; an arrival in the same cycle wins (R349). -/
def execLossDeclared (st : Nat) (met : Bool) (s : State) : Host.Outcome State Fault Refusal :=
  onUnit (isRx st) (if met then bump s (audCtr st 7) else declareLoss s st)

/-- FREEWHEEL_FRAME: a family-PLL frame boundary while the receiver freewheels or relocks: a zero sample per slot, unless `rx_fw`. -/
def freewheelFrame (s : State) (st : Nat) : State :=
  let a := aud s st
  if (a.lock = .freewheel ∨ a.lock = .relock) ∧ !aBit31 s st ∧ pllLocked s (aRate s st) then
    deliverRx (modAud s st (fun a => { a with frame := a.frame + 1, s0 := { a.s0 with last := 0 }, s1 := { a.s1 with last := 0 } })) st (0, 0)
  else s
def execFreewheelFrame (st : Nat) (s : State) : Host.Outcome State Fault Refusal := onUnit (isRx st) (freewheelFrame s st)

/-! ## Route writes (R342) -/

/-- The route may feed its berth. -/
def routeOk (s : State) (r k : Nat) (w : Nat) : Bool :=
  let e := berth s (BitVec.ofNat 12 (bitsOf w 11 0))
  let fmt := bitsOf w 18 16
  let mask := bitsOf w 13 12
  let vals := perFrame mask (decide (bitsOf w 14 14 = 1))
  let other := audRoute r (1 - k)
  decide (e.st = .admitted ∨ e.st = .running ∨ e.st = .parked ∨ e.st = .locked)
  && decide (fmt = 2 ∨ fmt = 3 ∨ fmt = 6)
  && decide ((berthModel s e).frameBytes = vals * (if fmt = 2 then 2 else 4))
  && !(decide (regField s other 15 15 = 1) && decide (regField s other 13 12 &&& mask ≠ 0))

/-- A write of a route register; none where it sets `en` against R342. -/
def writeRoute (s : State) (r k : Nat) (w : Nat) : Option State :=
  if bitsOf w 15 15 = 1 ∧ !routeOk s r k w then none
  else some (setRegWord s (audRoute r k) (BitVec.ofNat 32 (w % 2 ^ 19)))

/-! ## Tenant teardown (R354) -/

/-- Every transmitter stops silently and every route is cleared. -/
def audioTeardown (s : State) : State :=
  let s1 := (upTo 112).foldl (fun s st => if isTx st then stopStream s st else s) s
  (upTo 112).foldl (fun s i => setRegField s (audRoute (i / 2) (i % 2)) 15 15 0) s1

/-- Buffers and the channel-status and user registers are scrubbed with the hub. -/
def audioScrub (s : State) : State :=
  { s with
    regs := s.regs.filter (fun e => !(decide (audOff + 0x2000 ≤ e.1 ∧ e.1 < audOff + 0x6000)))
    aud := { s.aud with str := s.aud.str.map (fun e =>
      let z (x : Slot) : Slot := { x with q := [], last := 0, cs := 0, ub := 0 }
      (e.1, { e.2 with s0 := z e.2.s0, s1 := z e.2.s1 })) } }

end Sys2Proof.Machine
end

