-- ==== Sys2Proof/Machine/Chain.lean ====
section
/-! DEFINITION. The chain: ports and lanes, forwarding, frames, and routes (R356–R370, R374). -/

namespace Sys2Proof.Machine
open Sys2Proof

/-! ## Registers and parts (R373) -/

def chnPortCfg (k : Nat) : Nat := chnOff + 0x100 + 0x10 * k
def chnRtData (i : Nat) : Nat := chnOff + 0x404 + 4 * i
def chnEn (s : State) : Bool := decide (regField s chnOff 0 0 = 1)
def devId (s : State) : Nat := regField s (chnOff + 4) 12 0
def portEn (s : State) (k : Nat) : Bool := decide (regField s (chnPortCfg k) 0 0 = 1)
def rateMax (s : State) (k : Nat) : Nat := regField s (chnPortCfg k) 2 1
def laneEn (s : State) (k : Nat) : Nat := regField s (chnPortCfg k) 11 3
def rtSel (s : State) : Nat := regField s (chnOff + 0x400) 11 0

/-- The forwarding-table entry of a destination (R361). -/
def fwdOf (s : State) (id : Nat) : Nat := regField s (chnOff + 0x1000 + 4 * (id / 8)) (4 * (id % 8) + 3) (4 * (id % 8))

def fChnWign : Flag := ⟨chnOff + 8, 0, flagCtr 3664⟩
def fLinkEv : Flag := ⟨chnOff + 8, 1, flagCtr 3665⟩
def fRouteFlt : Flag := ⟨chnOff + 8, 2, flagCtr 3666⟩
def fRtBad : Flag := ⟨chnOff + 8, 3, flagCtr 3667⟩
def fDupId : Flag := ⟨chnOff + 8, 4, flagCtr 3668⟩

def portOf (s : State) (k : Nat) : Port := tabGet {} s.chn.ports k
def setPort (s : State) (k : Nat) (p : Port) : State := { s with chn := { s.chn with ports := tabSet {} s.chn.ports k p } }
def chnLane (s : State) (k j : Nat) : UnitState := tabGet .spare s.chn.lanes (9 * k + j)
def setLane (s : State) (k j : Nat) (u : UnitState) : State :=
  unitChanged { s with chn := { s.chn with lanes := tabSet .spare s.chn.lanes (9 * k + j) u } } (unitLane k j) (chnLane s k j) u
/-- A lane that fails a test is QUARANTINED; the third entry since power-on asks for its fuse (R98). -/
def failLane (s : State) (k j : Nat) : State :=
  let s1 := setLane s k j .quarantined
  if 3 ≤ quarCount s1 (unitLane k j) then { s1 with fw := { s1.fw with fuseQ := s1.fw.fuseQ ++ [.retireLane k j] } } else s1
/-- A lane may serve or stand spare: only its unit test takes it back from OUT_OF_SERVICE, and nothing from QUARANTINED or RETIRED that
names a lane (R98). -/
def laneUsable (s : State) (k j : Nat) : Bool := decide (chnLane s k j = .active ∨ chnLane s k j = .spare)

/-- The key of a sequence: entry, direction (0 sent, 1 received), job and epoch (R367, R372). -/
def seqKey (rt dir job epoch : Nat) : Nat := ((2 * rt + dir) * 65536 + job) * 256 + epoch
def seqOf (s : State) (k : Nat) : Nat := tabGet 0 s.chn.seqs k
def stepSeq (s : State) (k : Nat) : State := { s with chn := { s.chn with seqs := tabMod 0 s.chn.seqs k (· + 1) } }

/-- The live keys of a job, the oldest first (R364, R392). -/
def jobKeys (s : State) (job : Nat) : List TKey := s.sec.keys.filter (fun k => decide (k.kind = 3 ∧ k.id.toNat = job))
def jobKey (s : State) (job epoch : Nat) : Option TKey := (jobKeys s job).find? (fun k => decide (k.epoch.toNat = epoch))
def currentKey (s : State) (job : Nat) : Option TKey := (jobKeys s job).getLast?

/-! ## Frames (R363, R364) -/

/-- The 32-byte header. -/
def chainHeader (type dst src hops kepoch job route seq len credits : Nat) : List (BitVec 8) :=
  natLe (type + dst * 2 ^ 8 + src * 2 ^ 24 + hops * 2 ^ 40 + kepoch * 2 ^ 56 + job * 2 ^ 64 + route * 2 ^ 80 + seq * 2 ^ 96
    + len * 2 ^ 144 + credits * 2 ^ 160) 32

/-- A header field of a frame. -/
def hdr (f : List (BitVec 8)) (hi lo : Nat) : Nat := bitsOf (leAt f 0 32) hi lo

/-- The header with another hop limit. -/
def setHops (f : List (BitVec 8)) (h : Nat) : List (BitVec 8) := natLe (putBits (leAt f 0 32) 52 40 h) 32 ++ f.drop 32

def chainNonce (dst src route seq : Nat) (credit : Bool) : List Nat :=
  toNats (natLe (dst + src * 2 ^ 13 + route * 2 ^ 26 + seq * 2 ^ 38 + (if credit then 2 ^ 95 else 0)) 12)

/-- Seal a payload behind its header. -/
def sealFrame (k : TKey) (h : List (BitVec 8)) (payload : List (BitVec 8)) : List (BitVec 8) :=
  let key := toNats (natLe k.key.toNat 32)
  let n := chainNonce (hdr h 20 8) (hdr h 36 24) (hdr h 91 80) (hdr h 143 96) (decide (hdr h 3 0 = 2))
  let ct := gcmCrypt key n (toNats payload)
  h ++ ofNats ct ++ ofNats (gcmTag key n (toNats (setHops h 0)) ct)

/-- Open a frame: its payload when the tag verifies. -/
def openFrame (k : TKey) (f : List (BitVec 8)) : Option (List (BitVec 8)) :=
  let key := toNats (natLe k.key.toNat 32)
  let n := chainNonce (hdr f 20 8) (hdr f 36 24) (hdr f 91 80) (hdr f 143 96) (decide (hdr f 3 0 = 2))
  let ct := toNats ((f.drop 32).take (hdr f 156 144))
  if gcmTag key n (toNats (setHops (f.take 32) 0)) ct = toNats (f.drop (32 + hdr f 156 144)) then some (ofNats (gcmCrypt key n ct))
  else none

/-! ## Faults of routes (R370) -/

/-- A route enters FAULT: its berth leaves as for loss of a unit. -/
def faultRoute (s : State) (rt : Nat) (cause : Nat) : State :=
  let r := routeAt s rt
  if r.st ≠ 1 then s
  else
    let s1 := bump (setIrqFlag (setRoute s rt { r with st := 2, cause := cause }) fRouteFlt) (chnDevCtr 7)
    let e := berth s1 r.berth
    if e.st = .free ∨ e.st = .draining then s1 else drainBerth s1 r.berth .outOfService

/-- Every UP route that satisfies a test faults. -/
def faultRoutes (s : State) (p : Route → Bool) (cause : Nat) : State :=
  s.chn.routes.foldl (fun s e => if e.2.st = 1 && p e.2 then faultRoute s e.1 cause else s) s

/-! ## Ports and lanes (R357–R359) -/

def portExists (k : Nat) : Bool := decide (k < 4)

/-- Negotiation starts. -/
def startNegotiation (s : State) (k : Nat) : State :=
  if chnEn s && portEn s k then bump (setPort s k { portOf s k with link := 1 }) (portCtr k 7) else s

/-- The port is UP no longer: frames in transit through it are dropped, and SEND routes through it fault. -/
def portLost (s : State) (k : Nat) (link : Nat) : State :=
  let p := portOf s k
  if p.link ≠ 2 then setPort s k { p with link := link }
  else
    let s1 := setFlag (setPort s k { link := link }) fLinkEv
    let s2 := addCtr (bump s1 (portCtr k 6)) (chnDevCtr 0) (p.transit.length + p.spill.length)
    faultRoutes s2 (fun r => !r.recv && decide (fwdOf s r.peerId.toNat = k)) 1

/-- The first lanes of a mask, at most n. -/
def firstLanes (mask n : Nat) : List Nat := ((upTo 9).filter (fun j => decide (mask / 2 ^ j % 2 = 1))).take n

/-- The combinations of R356 in table order: rate code and whether ×4. -/
def combos : List (Nat × Bool) := [(0, false), (1, false), (0, true), (2, false), (1, true), (2, true)]

/-- Usable lanes of a port, as a mask. -/
def usableLanes (s : State) (k : Nat) : Nat := ((upTo 9).filter (laneUsable s k)).foldl (fun m j => m + 2 ^ j) 0

/-- Usable lanes both ends enable that pass at a rate. -/
def passing (s : State) (k : Nat) (r : Negotiated) (rate : Nat) : Nat :=
  usableLanes s k &&& laneEn s k &&& r.plane.toNat &&& (match rate with | 0 => r.pass0.toNat | 1 => r.pass1.toNat | _ => r.pass2.toNat)

/-- The first combination, from the highest rate that both permit, with enough passing lanes. -/
def negotiate (s : State) (k : Nat) (r : Negotiated) : Option (Nat × Bool) :=
  let top := Nat.max (rateMax s k) r.prate
  combos.find? (fun c => decide (top ≤ c.1 ∧ (if c.2 then 4 else 8) ≤ (firstLanes (passing s k r c.1) 9).length))

/-- Lane states when the port comes up, or fails to: serving lanes ACTIVE, other passing lanes SPARE, and lanes that fail at every
rate tried QUARANTINED. -/
def settleLanes (s : State) (k : Nat) (r : Negotiated) (up : Option (Nat × Bool)) : State :=
  let top := Nat.max (rateMax s k) r.prate
  let serve := match up with | some c => firstLanes (passing s k r c.1) (if c.2 then 4 else 8) | none => []
  let good := match up with | some c => firstLanes (passing s k r c.1) 9 | none => []
  let tried := (upTo 3).filter (fun x => decide (top ≤ x))
  (upTo 9).foldl (fun s j =>
    if (laneEn s k &&& r.plane.toNat) / 2 ^ j % 2 = 0 ∨ !laneUsable s k j then s
    else if serve.contains j then setLane s k j .active
    else if good.contains j then setLane s k j .spare
    else if tried.all (fun x => !(firstLanes (passing s k r x) 9).contains j) then failLane s k j
    else setLane s k j .spare) s

/-- NEGOTIATION_DONE (R357); a HELD port stays so until the partner's ID, or this device's, is another one. -/
def negotiated (s : State) (k : Nat) (r : Negotiated) : State :=
  let p := portOf s k
  if p.link ≠ 1 ∧ (p.link ≠ 3 ∨ r.partner.toNat = devId s) then s
  else if r.partner.toNat = devId s then setFlag (setPort s k { p with link := 3, partner := r.partner, pport := r.pport }) fDupId
  else
    let up := negotiate s k r
    let s1 := settleLanes s k r up
    match up with
    | some (rate, x4) =>
      setFlag (setPort s1 k { p with link := 2, rate := rate, x4 := x4, partner := r.partner, pport := r.pport }) fLinkEv
    | none => setPort s1 k { p with link := 0 }
def execNegotiationDone (k : Nat) (r : Negotiated) (s : State) : Host.Outcome State Fault Refusal :=
  onUnit (portExists k) (negotiated s k r)

/-- NEGOTIATION_RETRY: a DOWN port tries again. -/
def execNegotiationRetry (k : Nat) (s : State) : Host.Outcome State Fault Refusal :=
  onUnit (portExists k) (if (portOf s k).link = 0 then startNegotiation s k else s)

/-- A lane leaves service: the lowest spare takes its place and the lane drains and goes OUT_OF_SERVICE, or the port negotiates again,
which decides what becomes of the lane (R359). -/
def switchLane (s : State) (k lane : Nat) : State :=
  if (portOf s k).link ≠ 2 ∨ chnLane s k lane ≠ .active then s
  else match (upTo 9).find? (fun j => decide (chnLane s k j = .spare ∧ laneEn s k / 2 ^ j % 2 = 1)) with
    | some j => bump (setLane (setLane (setLane s k j .active) k lane .draining) k lane .outOfService) (portCtr k 5)
    | none => startNegotiation (portLost s k 0) k
def execLaneFail (k lane : Nat) (s : State) : Host.Outcome State Fault Refusal :=
  onUnit (portExists k && decide (lane < 9)) (switchLane s k lane)

/-- CONTROL_FRAME: the partner names a lane to be switched; the frame acts only on the link it crosses (R359, R364). -/
def execControlFrame (k lane : Nat) (s : State) : Host.Outcome State Fault Refusal :=
  onUnit (portExists k && decide (lane < 9))
    (if (portOf s k).link = 2 then switchLane (bump s (portCtr k 1)) k lane else s)

/-- LINK_DOWN: eight failed replays of one flit (R358); the port then negotiates again (R357). -/
def execLinkDown (k : Nat) (s : State) : Host.Outcome State Fault Refusal :=
  onUnit (portExists k)
    (if (portOf s k).link = 2 then startNegotiation (portLost (addCtr s (portCtr k 4) 8) k 0) k else s)

/-- A device that is lost stops its ports (R371). -/
def stopPorts (s : State) : State := (upTo 4).foldl (fun s k => portLost s k 0) s

/-! ## Sending (R361, R365, R368) -/

def framesLen (l : List (List (BitVec 8))) : Nat := sumNat (l.map (·.length))

/-- The transit spill area of a port, 16 MiB of the device reserve of die 1 (R365). -/
def transitArea (k : Nat) : Nat := paOf 1 (0xC000000 + k * 2 ^ 24)

/-- A frame is written into its port's spill area, behind those that wait there, round the area as a ring (DESIGN CHOICE, log 187). -/
def spillTransit (s : State) (k : Nat) (f : List (BitVec 8)) : State :=
  let p := portOf s k
  let at0 := (p.spillAt + framesLen p.spill) % 2 ^ 24
  let room := 2 ^ 24 - at0
  let s1 := pmPut (pmPut s (transitArea k + at0) (f.take room)) (transitArea k) (f.drop room)
  let s2 := countPm (countPm s1 true (transitArea k + at0) (Nat.min room f.length)) true (transitArea k) (f.length - room)
  bump (setPort s2 k { p with spill := p.spill ++ [f] }) (portCtr k 8)

/-- The first spilled frame is read back into the transit buffer. -/
def unspillTransit (s : State) (k : Nat) (f : List (BitVec 8)) (rest : List (List (BitVec 8))) : State :=
  let p := portOf s k
  let room := 2 ^ 24 - p.spillAt
  let s1 := countPm (countPm s false (transitArea k + p.spillAt) (Nat.min room f.length)) false (transitArea k) (f.length - room)
  setPort s1 k { p with spill := rest, transit := p.transit ++ [f], spillAt := (p.spillAt + f.length) % 2 ^ 24 }

/-- A transit frame goes to its port's buffer, its spill area, or nowhere (R365). -/
def queueTransit (s : State) (k : Nat) (f : List (BitVec 8)) : State :=
  let p := portOf s k
  if p.spill.isEmpty ∧ framesLen p.transit + f.length ≤ 262144 then setPort s k { p with transit := p.transit ++ [f] }
  else if framesLen p.spill + f.length ≤ 16777216 then spillTransit s k f
  else bump s (portCtr k 9)

/-- A frame leaves on a port. -/
def sendOn (s : State) (k : Nat) (f : List (BitVec 8)) : State :=
  addCtr (bump (emit s (.chainTx k f)) (portCtr k 0)) (portCtr k 2) f.length

/-- One device tick of a port that is UP: its front frame leaves, transit before its own, and a spilled frame is read back. -/
def portTick (s : State) (k : Nat) : State :=
  let p := portOf s k
  if p.link ≠ 2 then s
  else
    let s1 := match p.transit, p.egress with
      | f :: t, _ => sendOn (setPort s k { p with transit := t }) k f
      | [], f :: t => sendOn (setPort s k { p with egress := t }) k f
      | [], [] => s
    let q := portOf s1 k
    match q.spill with
    | f :: t => if framesLen q.transit + f.length ≤ 262144 then unspillTransit s1 k f t else s1
    | [] => s1

def chainTick (s : State) : State := (upTo 4).foldl portTick s

/-- Chain payload bytes of a berth's client (R259). -/
def chainBytes (s : State) (c : BitVec 10) (n : Nat) : State := modAct s c (fun a => { a with chainBytes := a.chainBytes + n })

/-! ## Receiving (R361–R364, R369) -/

/-- A DATA frame for a local route. -/
def localData (s : State) (f : List (BitVec 8)) : State :=
  let rt := hdr f 91 80
  let r := routeAt s rt
  let job := hdr f 79 64
  match jobKey s job (hdr f 63 56) with
  | none => bump s (chnDevCtr 3)
  | some k =>
    if r.st ≠ 1 ∨ !r.recv ∨ r.peerId.toNat ≠ hdr f 36 24 ∨ r.job.toNat ≠ job then bump s (chnDevCtr 6)
    else
      match openFrame k f with
      | none => faultRoute (bump s (chnDevCtr 4)) rt 3
      | some payload =>
        let q := seqKey rt 1 job (hdr f 63 56)
        if hdr f 143 96 ≠ seqOf s q then faultRoute (bump s (chnDevCtr 5)) rt 4
        else
          let e := berth s r.berth
          let m := berthModel s e
          let a := frameAddr e m e.framesIn
          let s1 := hubPm (pmPut (stepSeq s q) a (payload.take m.frameBytes)) e.client true a m.frameBytes
          chainBytes (setBerth s1 r.berth { e with framesIn := e.framesIn + 1 }) e.client payload.length

/-- A CREDIT frame for a local route; it also reaches a disabled entry whose credits have not all returned (R370). -/
def localCredit (s : State) (f : List (BitVec 8)) : State :=
  let rt := hdr f 91 80
  let r := routeAt s rt
  let job := hdr f 79 64
  let live := decide (r.st = 1) || (decide (r.st = 0) && decide (r.avail < r.credits))
  match jobKey s job (hdr f 63 56) with
  | none => bump s (chnDevCtr 3)
  | some k =>
    if !live ∨ r.recv ∨ r.peerId.toNat ≠ hdr f 36 24 ∨ r.job.toNat ≠ job then bump s (chnDevCtr 6)
    else
      match openFrame k f with
      | none => bump s (chnDevCtr 4)
      | some _ =>
        let q := seqKey rt 1 job (hdr f 63 56)
        if hdr f 143 96 ≠ seqOf s q then bump s (chnDevCtr 5)
        else
          let n := Nat.min r.credits (r.avail + hdr f 175 160)
          setRoute (stepSeq s q) rt { r with avail := n, quiet := r.quiet || (decide (r.st = 0) && decide (n = r.credits)) }

/-- A frame for this device. -/
def localFrame (s : State) (f : List (BitVec 8)) : State := if hdr f 3 0 = 2 then localCredit s f else localData s f

/-- A frame arrives on port k: it is delivered, forwarded or dropped.  A control frame acts on the link alone and comes as CONTROL_FRAME;
a frame whose length is none that R363 allows counts as one of a reserved type does (DEDUCED, log 186). -/
def frameArrives (s : State) (k : Nat) (f : List (BitVec 8)) : State :=
  if (portOf s k).link ≠ 2 then s
  else
    let s1 := addCtr (bump s (portCtr k 1)) (portCtr k 3) f.length
    if hdr f 3 0 = 3 then s1
    else if (hdr f 3 0 ≠ 1 ∧ hdr f 3 0 ≠ 2) ∨ 4096 < hdr f 156 144 ∨ f.length ≠ 48 + hdr f 156 144 then bump s1 (chnDevCtr 2)
    else if hdr f 20 8 = devId s ∨ fwdOf s (hdr f 20 8) = 4 then localFrame s1 f
    else if hdr f 52 40 = 0 then bump s1 (chnDevCtr 1)
    else
      let p := fwdOf s (hdr f 20 8)
      if 4 ≤ p ∨ p = k ∨ (portOf s p).link ≠ 2 then bump s1 (chnDevCtr 0)
      else queueTransit s1 p (setHops f (hdr f 52 40 - 1))

def execDataFrame (k : Nat) (bytes : List (BitVec 8)) (s : State) : Host.Outcome State Fault Refusal :=
  onUnit (portExists k) (frameArrives s k bytes)

/-- CREDIT_FRAME: a route that a credit leaves with something to send acts at its berth's next boundary (R368). -/
def creditArrives (s : State) (k : Nat) (f : List (BitVec 8)) : State := frameArrives s k f
def execCreditFrame (k : Nat) (bytes : List (BitVec 8)) (s : State) : Host.Outcome State Fault Refusal :=
  onUnit (portExists k) (creditArrives s k bytes)

/-- A sealed frame of this device goes toward a destination: delivered here, queued for egress, or dropped. -/
def dispatchFrame (s : State) (dst : Nat) (f : List (BitVec 8)) : State :=
  let p := fwdOf s dst
  if dst = devId s ∨ p = 4 then localFrame s f
  else if 4 ≤ p ∨ (portOf s p).link ≠ 2 then bump s (chnDevCtr 0)
  else setPort s p { portOf s p with egress := (portOf s p).egress ++ [f] }

/-! ## Route commands (R367, R370, R373) -/

/-- The entry that DATA_0 to DATA_3 spell. -/
def routeOfData (s : State) : Route :=
  { berth := BitVec.ofNat 12 (regField s (chnRtData 0) 11 0), recv := decide (regField s (chnRtData 0) 12 12 = 1),
    job := BitVec.ofNat 16 (regField s (chnRtData 0) 31 16), peerId := BitVec.ofNat 13 (regField s (chnRtData 1) 12 0),
    peerRt := BitVec.ofNat 12 (regField s (chnRtData 1) 27 16), area := regField s (chnRtData 2) 24 0,
    credits := regField s (chnRtData 2) 31 25, len := regField s (chnRtData 3) 12 0,
    hopLim := BitVec.ofNat 13 (regField s (chnRtData 3) 25 13) }

/-- The enable of R367 is accepted. -/
def routeAccepted (s : State) (rt : Nat) (r : Route) : Bool :=
  let e := berth s r.berth
  decide (e.st = .admitted ∨ e.st = .running ∨ e.st = .parked ∨ e.st = .locked)
  && (currentKey s r.job.toNat).isSome
  && (r.recv || decide (r.area + r.len ≤ e.stRes * 64 ∧ 1 ≤ r.credits ∧ r.credits ≤ 64))
  && decide (r.len % 64 = 0 ∧ 64 ≤ r.len ∧ r.len ≤ 4096)
  && !s.chn.routes.any (fun x => decide (x.1 ≠ rt ∧ x.2.st ≠ 0 ∧ x.2.berth = r.berth ∧ x.2.recv = r.recv))
  && (!r.recv || (decide (r.len = (berthModel s e).frameBytes) &&
        (upTo 112).all (fun i => !(decide (regField s (audRoute (i / 2) (i % 2)) 15 15 = 1)
          && decide (regField s (audRoute (i / 2) (i % 2)) 11 0 = r.berth.toNat)))))

/-- A CHN_RT_CMD is in progress: a disable of a SEND entry waits for the boundary (R370, R453). -/
def routeBusy (s : State) : Bool := s.chn.routes.any (fun e => e.2.offDue)

/-- CHN_RT_CMD 1. -/
def enableRoute (s : State) : State :=
  let rt := rtSel s
  let r := routeOfData s
  if (routeAt s rt).st ≠ 0 ∨ !routeAccepted s rt r then setFlag s fRtBad
  else setRoute s rt { r with st := 1, avail := if r.recv then 0 else r.credits, credited := (berth s r.berth).framesFreed }

/-- CHN_RT_CMD 2: a SEND entry that is UP goes OFF at the next boundary. -/
def disableRoute (s : State) : State :=
  let rt := rtSel s
  let r := routeAt s rt
  if r.st = 0 then s
  else if r.st = 1 ∧ !r.recv then setRoute s rt { r with offDue := true }
  else setRoute s rt { r with st := 0, cause := 0 }

/-- CHN_RT_CMD 3: the entry is read into DATA_0 to DATA_3. -/
def readRoute (s : State) : State :=
  let r := routeAt s (rtSel s)
  let put (s : State) (i v : Nat) : State := setRegWord s (chnRtData i) (BitVec.ofNat 32 v)
  put (put (put (put s 0 (r.berth.toNat + (if r.recv then 2 ^ 12 else 0) + r.job.toNat * 2 ^ 16))
    1 (r.peerId.toNat + r.peerRt.toNat * 2 ^ 16)) 2 (r.area + r.credits * 2 ^ 25)) 3 (r.len + r.hopLim.toNat * 2 ^ 13)


/-- ROUTE_TIMEOUT: no credit has returned to a route whose berth wants to send; a credit in the same cycle wins (R370). -/
def routeExpired (s : State) (rt : BitVec 12) (met : Bool) : State :=
  let r := routeAt s rt.toNat
  if r.st ≠ 1 ∨ r.recv ∨ r.avail ≠ 0 ∨ regField s (chnOff + 0xC) 15 0 = 0 then s
  else if met then bump s (chnDevCtr 8)
  else faultRoute s rt.toNat 2
def execRouteTimeout (rt : BitVec 12) (met : Bool) (s : State) : Host.Outcome State Fault Refusal := .next (routeExpired s rt met)

/-! ## Routes at a boundary (R368–R370) -/

/-- CHAIN_SEND: at commit the send area leaves as one DATA frame. -/
def chainSend (s : State) (b : BitVec 12) : State :=
  match routeOf s b false with
  | none => s
  | some (rt, r) =>
    let e := berth s b
    let job := r.job.toNat
    match currentKey s job with
    | none => s
    | some k =>
      let q := seqKey rt 0 job k.epoch.toNat
      let p := fwdOf s r.peerId.toNat
      if r.peerId.toNat ≠ devId s ∧ 5 ≤ p then faultRoute s rt 1
      else
        let bytes := storeBytes s (lcluOf e.lthread) (e.winBase + r.area) r.len
        let h := chainHeader 1 r.peerId.toNat (devId s) r.hopLim.toNat (k.epoch.toNat % 256) job r.peerRt.toNat (seqOf s q) r.len 0
        dispatchFrame (chainBytes (stepSeq s q) e.client r.len) r.peerId.toNat (sealFrame k h bytes)

/-- Credits for the frames that the boundary's commits consumed; no rule states the hop limit of a CREDIT frame. -/
def returnCredits (s : State) : State :=
  s.chn.routes.foldl (fun s x =>
    let r := routeAt s x.1
    let n := (berth s r.berth).framesFreed - r.credited
    if r.st ≠ 1 ∨ !r.recv ∨ n = 0 then s
    else match currentKey s r.job.toNat with
      | none => s
      | some k =>
        let q := seqKey x.1 0 r.job.toNat k.epoch.toNat
        let hops := (Config.freeWord s.free).toNat % 8192
        let h := chainHeader 2 r.peerId.toNat (devId s) hops (k.epoch.toNat % 256) r.job.toNat r.peerRt.toNat (seqOf s q) 0 n
        dispatchFrame (setRoute (useFree (stepSeq s q)) x.1 { r with credited := r.credited + n }) r.peerId.toNat (sealFrame k h [])) s

/-- Disables of SEND entries take effect. -/
def routeDisables (s : State) : State :=
  { s with chn := { s.chn with routes := s.chn.routes.map (fun e =>
      (e.1, if e.2.offDue then { e.2 with st := 0, offDue := false, quiet := decide (e.2.avail = e.2.credits) } else e.2)) } }

/-- An epoch of a job is retired: its key goes, and the routes of the job fault with cause 5 when they sealed under it, which is when
it was the current one (R370, R392). -/
def retireEpoch (s : State) (job : Nat) (epoch : BitVec 32) : State :=
  let current := decide ((currentKey s job).map (·.epoch) = some epoch)
  let gone (k : TKey) : Bool := decide (k.kind = 3 ∧ k.id.toNat = job ∧ k.epoch = epoch)
  let s1 : State := { s with sec := { s.sec with keys := s.sec.keys.filter (fun k => !gone k) } }
  if current then faultRoutes s1 (fun r => decide (r.job.toNat = job)) 5 else s1

end Sys2Proof.Machine
end

