-- ==== Sys2Proof/Machine/Calib.lean ====
section
/-! DEFINITION. Background calibration, the repair map, and repairs level by level (R84–R104, R107, R109, R110). -/

namespace Sys2Proof.Machine
open Sys2Proof

/-! ## Policy fields (R110) -/

def calEn (s : State) : Bool := decide (regField s calOff 0 0 = 1)
def holdReq (s : State) : Bool := decide (regField s calOff 1 1 = 1)
def degradeOn (s : State) : Bool := decide (regField s calOff 3 3 = 1)
def dtTrig (s : State) : Nat := regField s (calOff + 8) 23 16
def holdMs (s : State) : Nat := regField s (calOff + 0xC) 15 0
def offBnd (s : State) : Nat := regField s (calOff + 0x10) 7 0
def gainBnd (s : State) : Nat := regField s (calOff + 0x10) 15 8

/-- The harbourmaster commit window is open (R440). -/
def hmWindow (s : State) : Bool := decide (s.fw.hm.phase = .window)

/-- The thermal trip holds the migrations of a die (R109). -/
def tripped (s : State) (n : Nat) : Bool := decide ((tabGet {} s.thm.dies (dieOf n)).st = .trip)

/-! ## Who serves what -/

/-- The logical cluster that a physical cluster serves, and the slot that a tile serves. -/
def lcluServed (s : State) (n : Nat) : Option Nat := (upTo 16).find? (fun l => decide (physOf s l = n))
def slotServed (s : State) (n t : Nat) : Option Nat := (upTo 16).find? (fun j => decide (slotTile s n j = t))

/-- The resident records that slot j of logical cluster l holds, with their module slots. -/
def residentRecs (s : State) (l j : Nat) : List (BitVec 8 × RecDesc) :=
  (copiesOn s l).flatMap (fun e =>
    let slot := BitVec.ofNat 8 e.1
    let m := ((module s slot).desc.models[e.2.model]?).getD {}
    e.2.slots.zipIdx.flatMap (fun p =>
      if p.1 = j then (m.recs.filter (fun r => decide (r.tile = p.2) && !r.streamed)).map (fun r => (slot, r)) else []))

/-- The resident records of a physical tile. -/
def tileResident (s : State) (n t : Nat) : List (BitVec 8 × RecDesc) :=
  match lcluServed s n, slotServed s n t with
  | some l, some j => residentRecs s l j
  | _, _ => []

/-- A tile or cluster that takes calibration slots: it serves, leaves service, or is SPARE (R97). -/
def calibrated (u : UnitState) : Bool := decide (u = .active ∨ u = .draining ∨ u = .spare)

/-! ## Repairs that begin (R99–R104) -/

/-- A change of the map falls due once. -/
def mapDue (s : State) (c : MapChange) : State :=
  if s.map.due.contains c then s else { s with map := { s.map with due := s.map.due ++ [c] } }

/-- The SPARE tile of a cluster, and the SPARE cluster of a die, that no migration has chosen. -/
def spareTile (s : State) (n : Nat) : Option Nat :=
  (upTo 17).find? (fun t => decide (tileState s n t = .spare) && !s.cal.tileMigr.any (fun m => decide (m.clu = n ∧ m.new = t)))
def spareClu (s : State) (d : Nat) : Option Nat :=
  (upTo 18).find? (fun n => decide (dieOf n = d ∧ cluState s n = .spare) && !s.cal.cluMigr.any (fun m => decide (m.new = n)))

/-- A cluster must migrate: to the SPARE cluster of its die, or as R104 states when there is none. -/
def askCluster (s : State) (n : Nat) : State :=
  match lcluServed s n with
  | none => s
  | some l =>
    if s.cal.cluMigr.any (fun m => decide (m.old = n)) ∨ cluState s n ≠ .active then s
    else if hmWindow s then
      (if s.cal.owedClus.contains n then s else { s with cal := { s.cal with owedClus := s.cal.owedClus ++ [n] } })
    else match spareClu s (dieOf n) with
      | some m => { s with cal := { s.cal with cluMigr := s.cal.cluMigr ++ [{ lclu := BitVec.ofNat 4 l, old := n, new := m }] } }
      | none => if degradeOn s then s else mapDue s (.cluOut l)

/-- A tile must migrate: to its cluster's SPARE tile, else the cluster migrates; dropped while its cluster does (R101, R102, R109). -/
def askTile (s : State) (n t : Nat) : State :=
  match lcluServed s n, slotServed s n t with
  | some l, some j =>
    if s.cal.cluMigr.any (fun m => decide (m.old = n)) ∨ s.cal.tileMigr.any (fun m => decide (m.clu = n ∧ m.old = t))
       ∨ tileState s n t ≠ .active then s
    else if hmWindow s ∨ savePhase s l ≠ .none then
      (if s.cal.owedTiles.contains (tileKey n t) then s
       else { s with cal := { s.cal with owedTiles := s.cal.owedTiles ++ [tileKey n t] } })
    else match spareTile s n with
      | some k => { s with cal := { s.cal with tileMigr := s.cal.tileMigr ++ [{ clu := n, old := t, new := k, slot := j }] } }
      | none => askCluster s n
  | _, _ => s

/-- The logical column that a physical column serves. -/
def colServed (t : Tile) (c : Nat) : Option Nat :=
  if c % 33 = 32 then
    (match tabGet 0 t.spokes (c / 33) with | 0 => none | j + 1 => some j)
  else
    let j := c - c / 33
    if t.spokes.any (fun e => decide (e.2 = j + 1)) then none else some j

/-- A spare spoke serves no column and has not failed. -/
def spokeFree (t : Tile) (k : Nat) : Bool := decide (tabGet 0 t.spokes k = 0) && !tabGet false t.spokeFailed k

/-- Distance of a spare spoke from a physical column. -/
def spokeDist (c k : Nat) : Nat := (33 * k + 32 - c) + (c - (33 * k + 32))

/-- The spoke that a failing physical column moves to: its own block's, else the nearest free one, the lower on a tie; one that is about
to be marked failed is not free (R99). -/
def chooseSpoke (t : Tile) (failing : List Nat) (c : Nat) : Option Nat :=
  let free (k : Nat) : Bool := spokeFree t k && !failing.contains k
  if free (c / 33) then some (c / 33)
  else ((upTo 32).filter free).foldl (fun a k =>
    match a with
    | none => some k
    | some b => if spokeDist c k < spokeDist c b then some k else a) none

/-- Spokes of a tile that the next boundary marks failed, and ladders that it replaces. -/
def failingSpokes (s : State) (n t : Nat) : List Nat :=
  s.map.due.filterMap (fun c => match c with | .spokeFail a b k => if a = n ∧ b = t then some k else none | _ => none)
def swapsDue (s : State) (n t : Nat) : List Nat :=
  s.map.due.filterMap (fun c => match c with | .ladder a b ld => if a = n ∧ b = t then some ld else none | _ => none)

/-- The columns, and the ladders, that a tile has found out of tolerance, in order. -/
def badCols (t : Tile) : List Nat := t.bad.filterMap (fun b => match b with | .col c => some c | .ladder _ => none)
def badLadders (t : Tile) : List Nat := t.bad.filterMap (fun b => match b with | .ladder ld => some ld | .col _ => none)

/-- The move of the first column that waits for one: to a spare spoke, or the tile migrates (R99, R101). -/
def repairColumn (s : State) (n t : Nat) : State :=
  let k := tileAt s (tileKey n t)
  if k.move.isSome then s
  else match (badCols k).find? (fun c => (colServed k c).isSome) with
    | none => s
    | some c =>
      match colServed k c, chooseSpoke k (failingSpokes s n t) c with
      | some j, some p =>
        let skip := k.shadow || (tileResident s n t).isEmpty
        let prog := k.shadow || k.recs.any (fun e => e.2.streamed)
        setTile s (tileKey n t) { k with move := some { col := j, spoke := p, written := skip, routed := !prog } }
      | _, _ => askTile s n t

/-- The spare ladder takes the place of one ladder; it is gone when it serves, has failed or is about to do either (R100). -/
def spareLadderGone (s : State) (n t ld : Nat) : Bool :=
  let k := tileAt s (tileKey n t)
  tabGet false k.ladderFailed 4 || k.ladders.any (fun e => decide (e.2 = 4)) || s.map.due.contains (.ladderFail n t 4)
  || (swapsDue s n t).any (fun x => decide (x ≠ ld))

/-- The swap of a ladder, or the tile's migration for want of a spare one. -/
def repairLadder (s : State) (n t ld : Nat) : State :=
  if spareLadderGone s n t ld then askTile s n t else mapDue s (.ladder n t ld)

/-- The repairs of a tile's columns and ladders, in the order they were found; in a commit window none begins (R109). -/
def repairTile (s : State) (n t : Nat) : State :=
  if hmWindow s then
    (if s.cal.owedRepairs.contains (tileKey n t) then s
     else { s with cal := { s.cal with owedRepairs := s.cal.owedRepairs ++ [tileKey n t] } })
  else (tileAt s (tileKey n t)).bad.foldl (fun s b =>
    match b with
    | .col _ => repairColumn s n t
    | .ladder ld => repairLadder s n t ld) s

/-- Repairs that waited begin, where nothing holds them any longer. -/
def beginOwed (s : State) : State :=
  let s1 : State := { s with cal := { s.cal with owedTiles := [], owedClus := [], owedRepairs := [] } }
  let s2 := s.cal.owedClus.foldl askCluster (s.cal.owedTiles.foldl (fun s k => askTile s (k / 17) (k % 17)) s1)
  s.cal.owedRepairs.foldl (fun s k => repairTile s (k / 17) (k % 17)) s2

/-! ## Slots (R84–R88, R107) -/

/-- The array cycles of the last 2^20 at which forced slots of a tile of cluster n were taken (R86). -/
def recentForced (s : State) (n : Nat) (k : Tile) : List Nat :=
  k.forced.filter (fun a => decide (arrayNow s (dieOf n) < a + 2 ^ 20))

/-- Trims needed, held at the bound of R107; and the columns whose need lies beyond it. -/
def takeTrims (bnd : Nat) (needs : List (Nat × Nat × Int)) (t : Tab Int) : Tab Int :=
  needs.foldl (fun m e => tabSet 0 m (4 * e.1 + e.2.1) (clampInt (-(bnd : Int)) bnd e.2.2)) t
def heldCols (bnd : Nat) (needs : List (Nat × Nat × Int)) : List Nat :=
  (needs.filter (fun e => decide (bnd < e.2.2.natAbs))).map (·.1)

/-- The columns of a slot whose trims are held at a bound (R84, R107): the offset slot, and the second gain slot. -/
def slotHeld (s : State) (k : Tile) (m : CalMeas) : List Nat :=
  match k.passSlot with
  | 0 => heldCols (offBnd s) m.off
  | 2 => heldCols (gainBnd s) m.gain
  | _ => []

/-- The columns that a slot finds out of tolerance: their trims are held, or a residual at one of its four taps is above 0.5 LSB. -/
def slotCols (s : State) (k : Tile) (m : CalMeas) : List Nat :=
  slotHeld s k m ++
    (m.resid.filter (fun e => decide (3 ≤ k.passSlot ∧ k.passSlot ≤ 6 ∧ e.2.1 / 4 + 3 = k.passSlot ∧ 500 < e.2.2))).map (·.1)

/-- The ladders that the last slot of a pass finds out of tolerance: above 0.05 % of full scale. -/
def slotLadders (k : Tile) (m : CalMeas) : List Nat :=
  if k.passSlot = 11 then (m.ladders.filter (fun e => decide (500 < e.2))).map (·.1) else []

/-- The groups of the records that cover a logical column, in ascending row order: record index and group (R84). -/
def columnGroups (k : Tile) (j : Nat) : List (Nat × Nat) :=
  (upTo 512).flatMap (fun row =>
    (k.recs.filter (fun e =>
      let lr := lrOf e.2.raw
      decide (lr.rowBase = row ∧ lr.colBase ≤ j ∧ j < lr.colBase + lr.cols))).flatMap (fun e =>
        (upTo (lrGroups (lrOf e.2.raw))).map (fun g => (e.1, g))))

/-- The group that the present pass checks of a logical column: one for each pass, in turn (R84). -/
def passGroup (k : Tile) (j : Nat) : Option (Nat × Nat) :=
  let gs := columnGroups k j
  gs[k.passes % Nat.max 1 gs.length]?

/-- A cell-sum deviation beyond E0(G, 0) / 4 (R78, R87). -/
def driftBad (G : Nat) (milli : Int) : Bool := decide (adcBound G 0 0 0 * 1000 < 4 * milli.natAbs * adcUnit 0)

/-- The rows of a group of a record. -/
def groupWin (lr : LR) (g : Nat) : Win := ⟨lr.rowBase + g * lrG lr, groupRows lr g⟩

/-- The serving columns whose group of this pass has drifted, each with its record and group; the last of the four slots has the mean
of their conversions. -/
def slotDrift (k : Tile) (m : CalMeas) : List (Nat × Nat × Nat) :=
  if k.passSlot ≠ 10 then []
  else m.drift.filterMap (fun e =>
    match (colServed k e.1).bind (passGroup k) with
    | some (r, g) => if driftBad (lrG (lrAt k r)) e.2 then some (e.1, r, g) else none
    | none => none)

/-- A drifted column is refreshed, or is worn when it drifts again within 64 passes of a refresh (R88). -/
def worn (k : Tile) (c : Nat) : Bool :=
  let r := tabGet 0 k.refreshed c
  decide (r ≠ 0 ∧ k.passes + 1 ≤ r + 64)

/-- The trims that a slot leaves: a pass starts from those in force. -/
def slotTrims (s : State) (k : Tile) (m : CalMeas) : Trims :=
  match k.passSlot with
  | 0 => { k.trims with off := takeTrims (offBnd s) m.off k.trims.off }
  | 2 => { k.trimWork with gain := takeTrims (gainBnd s) m.gain k.trimWork.gain }
  | _ => k.trimWork

/-- What a slot found on a tile in service (R87, R88). -/
def takeFindings (s : State) (n t : Nat) (cols ladders : List Nat) (drift : List (Nat × Nat × Nat)) : State :=
  let k := tileAt s (tileKey n t)
  let bad := cols ++ (drift.filter (fun e => worn k e.1)).map (·.1)
  let spares := bad.filter (fun c => decide (c % 33 = 32) && spokeFree k (c / 33))
  let newCols := (bad.filter (fun c => (colServed k c).isSome && !(badCols k).contains c)).eraseDups
  let newLds := (ladders.filter (fun ld => (upTo 4).any (fun q => decide (tabGet q k.ladders q = ld))
    && !(badLadders k).contains ld)).eraseDups
  let streamed (r : Nat) : Bool := ((recAt k r).map (·.streamed)).getD false
  let refresh := (drift.filter (fun e => !worn k e.1 && !k.shadow && !streamed e.2.1)).map (fun e => (e.1, groupWin (lrAt k e.2.1) e.2.2))
  let s1 := setTile s (tileKey n t)
    { k with bad := k.bad ++ newCols.map BadUnit.col ++ newLds.map BadUnit.ladder, refreshDue := k.refreshDue ++ refresh }
  let s2 := spares.foldl (fun s c => mapDue s (.spokeFail n t (c / 33))) s1
  let s3 := if ladders.contains 4 && !k.ladders.any (fun e => decide (e.2 = 4)) then
      mapDue { s2 with map := { s2.map with due := s2.map.due.filter (fun c => !(swapsDue s2 n t).any (fun ld => decide (c = .ladder n t ld))) } }
        (.ladderFail n t 4)
    else s2
  if bad.isEmpty && ladders.isEmpty then s3 else repairTile s3 n t

/-- The trims of a tile are held at a bound, or are so no longer; the flag is set at each entry of the loop (R107). -/
def setPinTrim (s : State) (key : Nat) (on : Bool) : State :=
  let was := s.cal.pinTrim
  let l := if on then (if was.contains key then was else was ++ [key]) else was.filter (fun x => decide (x ≠ key))
  let s1 : State := { s with cal := { s.cal with pinTrim := l } }
  if was.isEmpty && !l.isEmpty then setFlag s1 fPinTrim else s1

/-- The end of a pass: its trims wait for the next commit. -/
def endPass (s : State) (n t : Nat) (temp : Int) : State :=
  let key := tileKey n t
  let k := tileAt s key
  let s1 := setTile s key { k with pend := some (temp, k.trimWork), passes := k.passes + 1, passSlot := 0, pinSeen := false }
  setPinTrim (bump s1 (calCtr 0)) key k.pinSeen

/-- A forced check slot finds the new column's cells out of tolerance, or the spoke's own converter (R99). -/
def forcedBad (k : Tile) (m : SpokeMove) (meas : CalMeas) : Bool :=
  let c := 33 * m.spoke + 32
  let G := match (columnGroups k m.col)[4 - m.left]? with | some (r, _) => lrG (lrAt k r) | none => 128
  meas.drift.any (fun e => decide (e.1 = c) && driftBad G e.2) || meas.resid.any (fun e => decide (e.1 = c ∧ 500 < e.2.2))

/-- A forced check slot of a spoke move: the new column is in tolerance, or the spoke fails and another is chosen (R86, R99). -/
def forcedSlot (s : State) (n t : Nat) (m : SpokeMove) (meas : CalMeas) : State :=
  let key := tileKey n t
  let k := tileAt s key
  let k1 := { k with forced := recentForced s n k ++ [arrayNow s (dieOf n)] }
  if forcedBad k m meas then repairTile (mapDue (setTile s key { k1 with move := none }) (.spokeFail n t m.spoke)) n t
  else
    let s1 := setTile s key { k1 with move := some { m with left := m.left - 1 } }
    if m.left ≤ 1 then mapDue s1 (.spoke n t m.col m.spoke) else s1

/-- The move's cells are in place and its first forced slot has not been taken. -/
def moveReady (m : SpokeMove) : Bool := m.written && m.routed && decide (m.left = 4)

/-- Ladder swaps that the tile found before the column of a move, and that wait (R86). -/
def laddersBefore (k : Tile) (col : Nat) : Nat :=
  (badLadders { k with bad := k.bad.takeWhile (fun b => match b with | .col c => decide (c ≠ physCol k col) | .ladder _ => true) }).length

/-- A forced slot of the tile's move may be taken now: a first one leaves room for all four, and for the swaps found before it. -/
def forcedDue (s : State) (n : Nat) (k : Tile) : Option SpokeMove :=
  match k.move with
  | some m =>
    if m.written && m.routed && decide (0 < m.left)
       && (decide (m.left < 4) || decide ((recentForced s n k).length + 4 + 12 * laddersBefore k m.col ≤ 48)) then some m
    else none
  | none => none

/-- A SPARE unit with a measurement outside tolerance is QUARANTINED; of a SPARE cluster, whichever of its tiles it was, the cluster is
(DESIGN CHOICE, log 162). -/
def spareFailed (s : State) (n t : Nat) : State :=
  if cluState s n = .spare then mapDue s (.cluster n .quarantined) else mapDue s (.tile n t .quarantined)

/-- A tile's sensor reports a temperature, which the products under way meet too (R77, R82). -/
def sensed (k : Tile) (v : Int) : Tile := { k with temp := v, actives := k.actives.map (fun a => { a with temps := a.temps ++ [v] }) }

/-- The next scheduled slot of a tile's pass (R84, R87). -/
def scheduledSlot (s : State) (n t : Nat) (meas : CalMeas) : State :=
  let key := tileKey n t
  let k := tileAt s key
  let held := !(slotHeld s k meas).isEmpty
  let cols := slotCols s k meas
  let lds := slotLadders k meas
  let drift := slotDrift k meas
  let s1 := setTile s key
    { sensed k meas.temp with passSlot := k.passSlot + 1, trimWork := slotTrims s k meas, pinSeen := k.pinSeen || held }
  let s2 := if held then setPinTrim s1 key true else s1
  let s3 :=
    if cluState s n = .spare ∨ tileState s n t = .spare then
      (if cols.isEmpty && lds.isEmpty && drift.isEmpty then s2 else spareFailed s2 n t)
    else takeFindings s2 n t cols lds drift
  if 12 ≤ k.passSlot + 1 then endPass s3 n t meas.temp else s3

/-- The convolution under way on a cluster has some of its products behind it (R241). -/
def advanceOn (s : State) (n : Nat) : State :=
  match lcluServed s n with | some l => advanceConv s l | none => s

/-- One slot of a tile: a forced one when a move awaits it, else the next of the pass. -/
def runSlot (s : State) (n t : Nat) (meas : CalMeas) : State :=
  if !calEn s || s.lost.lost || !calibrated (cluState s n) || !calibrated (tileState s n t) then s
  else
    let s1 := sysWork (bump (advanceOn s n) (tileCtr n t 8)) 16 0
    match forcedDue s n (tileAt s (tileKey n t)) with
    | some m => forcedSlot s1 n t m meas
    | none => scheduledSlot s1 n t meas

/-- CAL_SLOT: a slot falls due and takes the next gap between products (R61, R85). -/
def execCalSlot (n t : Nat) (meas : CalMeas) (s : State) : Host.Outcome State Fault Refusal :=
  onUnit (tileExists n t) (runSlot s n t meas)
/-- SLOT_DEFER_LIMIT: a slot deferred for 1,024 array cycles is taken before any further product (R61). -/
def execSlotDeferLimit (n t : Nat) (meas : CalMeas) (s : State) : Host.Outcome State Fault Refusal :=
  onUnit (tileExists n t) (runSlot s n t meas)

/-- The codes of a logical column in the rows of resident records go to a spoke's cells (R99 step 1). -/
def writeSpoke (t : Tile) (rs : List RecDesc) (j k : Nat) : Tile :=
  rs.foldl (fun t r =>
    let lr := lrOf r.raw
    { t with cells := (upTo lr.rows).foldl (fun cs i =>
        let b := ((r.codes[512 * i + j / 2]?).getD 0).toNat
        tabSet 0 cs (1056 * (lr.rowBase + i) + 33 * k + 32) (BitVec.ofNat 4 (if j % 2 = 0 then b else b / 16))) t.cells }) t

/-- SPOKE_CELLS_WRITTEN: steps 1 and 2 of R99. -/
def spokeWritten (s : State) (n t : Nat) : State :=
  let k := tileAt s (tileKey n t)
  match k.move with
  | some m =>
    if m.written then s
    else setTile s (tileKey n t)
      { writeSpoke k ((tileResident s n t).map (fun e => e.2)) m.col m.spoke with move := some { m with written := true } }
  | none => s
def execSpokeCellsWritten (n t : Nat) (s : State) : Host.Outcome State Fault Refusal :=
  onUnit (tileExists n t) (spokeWritten s n t)

/-! ## Commits (R89–R93) -/

/-- The calibrated tiles of the device: those that take slots (R97). -/
def calTiles (s : State) : List Tile :=
  (s.tiles.filter (fun e => calibrated (cluState s (e.1 / 17)) && calibrated (tileState s (e.1 / 17) (e.1 % 17)))).map (·.2)

/-- Some column's age has reached `hold_ms` under hold (R90). -/
def holdReached (s : State) : Bool :=
  holdReq s && (calTiles s).any (fun k => decide (100000 * holdMs s ≤ s.tick.toNat - k.cal.tick))

/-- COMMIT_INTERVAL: `commit_ms` has lapsed, or under hold a column's age has reached `hold_ms`. -/
def commitInterval (s : State) : State :=
  if !holdReq s then { s with cal := { s.cal with dueTime := true } }
  else if holdReached s then { s with cal := { s.cal with dueForced := true } }
  else s
def execCommitInterval (s : State) : Host.Outcome State Fault Refusal := .next (commitInterval s)

/-- Some tile has reached the temperature trigger. -/
def dtReached (s : State) : Bool := (calTiles s).any (fun k => decide (8 * dtTrig s ≤ colDt k))

/-- A commit: pending trims are installed, age and ΔT restart, the epoch advances. -/
def commitCal (s : State) (forced : Bool) : State :=
  let wrap := decide (s.cal.epoch = 0xFFFFFFFF)
  let s1 : State := { s with
    tiles := s.tiles.map (fun e => (e.1, match e.2.pend with
      | some v => { e.2 with cal := ⟨s.tick.toNat, v.1⟩, trims := v.2, pend := none }
      | none => e.2))
    cal := { s.cal with epoch := if wrap then 1 else s.cal.epoch + 1, epochTick := s.tick, dueTime := false, dueForced := false } }
  let s2 := setRegField (bump s1 (calCtr 1)) calOff 2 2 0
  let s3 := if forced then bump s2 (calCtr 2) else s2
  let s4 := if holdReq s then setFlag s3 fHoldBrk else s3
  let s5 := if wrap then bump s4 (calCtr 18) else s4
  logEvent s5 3 0xFFFF s5.cal.epoch.toNat

/-! ## Changes of the map (R94–R104) -/

/-- `map_seq` counts a change. -/
def mapStep (s : State) : State := bumpView { s with map := { s.map with seq := s.map.seq + 1 } }

/-- A cluster or tile takes a state; the third entry into QUARANTINED retires it. -/
def changeClu (s : State) (n : Nat) (u : UnitState) : State :=
  let s1 := unitChanged (setCluState s n u) (unitClu n) (cluState s n) u
  let s2 := if u = .active ∨ u = .draining ∨ u = .outOfService then s1
    else { s1 with map := { s1.map with clu := s1.map.clu.filter (fun e => decide (e.2 ≠ n)) } }
  if u = .quarantined ∧ 3 ≤ quarCount s2 (unitClu n) then { s2 with fw := { s2.fw with fuseQ := s2.fw.fuseQ ++ [.retireCluster n] } } else s2
def changeTile (s : State) (n t : Nat) (u : UnitState) : State :=
  let s1 := unitChanged (setTileState s n t u) (unitTile n t) (tileState s n t) u
  if u = .quarantined ∧ 3 ≤ quarCount s1 (unitTile n t) then { s1 with fw := { s1.fw with fuseQ := s1.fw.fuseQ ++ [.retireTile n t] } } else s1

/-- What a unit keeps when it holds no work: its calibration, its spoke and ladder maps. -/
def emptyTile (k : Tile) : Tile :=
  { temp := k.temp, spokes := k.spokes, spokeFailed := k.spokeFailed, ladders := k.ladders, ladderFailed := k.ladderFailed,
    cal := k.cal, trims := k.trims, trimWork := k.trimWork, pend := k.pend, passSlot := k.passSlot, passes := k.passes, refreshed := k.refreshed, forced := k.forced }

/-- A logical cluster goes OUT_OF_SERVICE for want of a spare: RUNNING and PARKED berths move, in berth order, where another
cluster holds their model and takes them; the others leave (R104). -/
def cluOutOf (s : State) (l : Nat) : State :=
  let others := (upTo 16).filter (fun k => decide (k ≠ l))
  let s2 := changeClu s (physOf s l) .outOfService
  (berthsOn s l).foldl (fun s e =>
    let b := BitVec.ofNat 12 e.1
    let x := berth s b
    if x.st = .draining then s
    else if (x.st = .running ∨ x.st = .parked) ∧ !x.copying then
      match (if x.moveThr.isSome then (Place.noThread, 0) else moveTarget s x others) with
      | (.at lt, base) => setBerth s b { x with moveThr := some (lt, base), moving := true }
      | _ => if x.moveThr.isSome then setBerth s b { x with moving := true } else drainBerth s b .outOfService
    else drainBerth s b .outOfService) s2

/-- A move whose four forced slots are ready and that the tile found before a ladder goes first (R86). -/
def moveBefore (k : Tile) (ld : Nat) : Nat :=
  match k.move with
  | some m =>
    if moveReady m && (k.bad.takeWhile (fun b => decide (b ≠ .ladder ld))).contains (.col (physCol k m.col)) then 4 else 0
  | none => 0

/-- A change may take effect now: a ladder swap has room for its twelve forced slots, and for those of a move before it (R86, R100); a
cluster that is pre-empted goes out of service only when its restore is complete, as R109 states for its migration (DEDUCED, log 184). -/
def changeReady (s : State) : MapChange → Bool
  | .ladder n t ld =>
    let k := tileAt s (tileKey n t)
    decide ((recentForced s n k).length + 12 + moveBefore k ld ≤ 48)
  | .cluOut l => decide (savePhase s l = .none)
  | _ => true

/-- Carry out one change of the map. -/
def applyChange (s : State) (c : MapChange) : State :=
  match c with
  | .cluster n u => mapStep (changeClu s n u)
  | .tile n t u =>
    let s1 := changeTile s n t u
    mapStep (if u = .outOfService then modTile s1 (tileKey n t) emptyTile else s1)
  | .spoke n t j k =>
    let key := tileKey n t
    let x := tileAt s key
    let old := physCol x j
    let sp := x.spokes.map (fun e => if e.2 = j + 1 then (e.1, 0) else e)
    let fl := x.spokes.foldl (fun m e => if e.2 = j + 1 then tabSet false m e.1 true else m) x.spokeFailed
    let x1 := { x with spokes := tabSet 0 (sp.filter (fun e => decide (e.2 ≠ 0))) k (j + 1), spokeFailed := fl,
                       bad := x.bad.filter (fun b => decide (b ≠ .col old)), move := none }
    repairTile (mapStep (bump (setTile s key x1) (calCtr 5))) n t
  | .spokeFail n t k => mapStep (modTile s (tileKey n t) (fun x => { x with spokeFailed := tabSet false x.spokeFailed k true }))
  | .ladder n t ld =>
    let key := tileKey n t
    let x := tileAt s key
    match (upTo 4).find? (fun q => decide (tabGet q x.ladders q = ld)) with
    | none => s
    | some q =>
      let x1 := { x with ladders := tabPut x.ladders q 4, ladderFailed := tabSet false x.ladderFailed ld true,
                         bad := x.bad.filter (fun b => decide (b ≠ .ladder ld)),
                         forced := recentForced s n x ++ List.replicate 12 (arrayNow s (dieOf n)) }
      mapStep (bump (sysWork (addCtr (setTile s key x1) (tileCtr n t 8) 12) 192 0) (calCtr 6))
  | .ladderFail n t ld => mapStep (modTile s (tileKey n t) (fun x => { x with ladderFailed := tabSet false x.ladderFailed ld true }))
  | .cluOut l => mapStep (cluOutOf s l)

/-! ## Tile and cluster migration (R101, R102) -/

/-- tile-ns and bytes of programming resident records (R56, R255). -/
def programWork (rs : List (BitVec 8 × RecDesc)) : Nat × Nat :=
  (sumNat (rs.map (fun e => progCycles (lrOf e.2.raw) * 2 / 3)), sumNat (rs.map (fun e => progBytes (lrOf e.2.raw))))

/-- Records, parameter memory and mode by direct copy, resident cells by row programming (R101 step 2). -/
def copyTileTo (s : State) (src dst : Nat) (rs : List (BitVec 8 × RecDesc)) : State :=
  let o := tileAt s src
  let w := programWork rs
  modTile (sysWork s w.1 w.2) dst (fun x =>
    let y := rs.foldl (fun x e => tileRecord e.1 e.2 x) { x with recs := o.recs, params := o.params, shadow := o.shadow }
    { y with recs := o.recs, params := o.params })

/-- TILE_MIGR_COPY_DONE: step 2 of the first migration under way. -/
def tileCopied (s : State) : State :=
  match s.cal.tileMigr.find? (fun m => !m.copied && !tripped s m.clu) with
  | none => s
  | some m =>
    let s1 := copyTileTo s (tileKey m.clu m.old) (tileKey m.clu m.new) (tileResident s m.clu m.old)
    { s1 with cal := { s1.cal with tileMigr := s1.cal.tileMigr.map (fun x => if x = m then { x with copied := true } else x) } }
def execTileMigrCopyDone (s : State) : Host.Outcome State Fault Refusal := .next (tileCopied s)

/-- The queue and the tile hold no program request. -/
def noPrograms (k : Tile) : Bool :=
  k.progs.isEmpty && k.queue.all (fun j => match j with | .program _ => false | .product _ => true)

/-- Step 3 is due at this boundary. -/
def switchDue (s : State) (m : TileMigr) : Bool :=
  m.copied && !m.switched && noPrograms (tileAt s (tileKey m.clu m.old)) && !tripped s m.clu

/-- Step 3: the spare serves the slot, and the old tile drains. -/
def switchTile (s : State) (m : TileMigr) : State :=
  let s1 : State := { s with map := { s.map with tile := tabPut s.map.tile (16 * m.clu + m.slot) m.new } }
  let s2 := changeTile (changeTile s1 m.clu m.new .active) m.clu m.old .draining
  let s3 := modTile s2 (tileKey m.clu m.old) (fun k => { k with move := none })
  mapStep { s3 with cal := { s3.cal with tileMigr := s3.cal.tileMigr.map (fun x => if x = m then { x with switched := true } else x) } }

/-- TILE_DRAINED: the old tile has completed its products (steps 4 and 5). -/
def tileDrainedAt (s : State) (n t : Nat) : State :=
  let k := tileAt s (tileKey n t)
  if tileState s n t = .draining ∧ k.queue.isEmpty ∧ k.actives.isEmpty ∧ k.progs.isEmpty
     ∧ s.cal.tileMigr.any (fun m => decide (m.clu = n ∧ m.old = t) && m.switched) then
    let s1 : State := { s with cal := { s.cal with tileMigr := s.cal.tileMigr.filter (fun m => !decide (m.clu = n ∧ m.old = t)) } }
    bump (mapDue s1 (.tile n t .outOfService)) (calCtr 7)
  else s
def execTileDrained (n t : Nat) (s : State) : Host.Outcome State Fault Refusal := onUnit (tileExists n t) (tileDrainedAt s n t)

/-- Step 4 of R102: store, accumulators and generator go to the spare. -/
def moveCluster (s : State) (m : CluMigr) : State :=
  let l := m.lclu.toNat
  let bo := storeBase m.old
  let bn := storeBase m.new
  let st := (usedWins s l).foldl (fun st w =>
    memPutBytes (memZero st (bn + w.base) w.len) (bn + w.base) (memBytes s.store (bo + w.base) w.len)) s.store
  let s1 := (upTo 16).foldl (fun s j =>
    let o := tileAt s (tileKey m.old (slotTile s m.old j))
    modTile s (tileKey m.new (slotTile s m.new j)) (fun x => { x with banks := o.banks, nextBank := o.nextBank }))
    { s with store := st }
  setGen (setGen s1 m.new (genOf s m.old)) m.old { katOk := (genOf s m.old).katOk }

/-- CLUSTER_COPY_DONE: step 2 or step 4 of the first migration that awaits it. -/
def clusterCopied (s : State) : State :=
  match s.cal.cluMigr.find? (fun m => !tripped s m.old && (!m.copied || (m.stopped && !m.moved && enginesStopped s m.lclu.toNat))) with
  | none => s
  | some m =>
    let put (s : State) (v : CluMigr) : State :=
      { s with cal := { s.cal with cluMigr := s.cal.cluMigr.map (fun x => if x = m then v else x) } }
    if m.copied then put (moveCluster s m) { m with moved := true }
    else
      let s1 := (upTo 16).foldl (fun s j =>
        copyTileTo s (tileKey m.old (slotTile s m.old j)) (tileKey m.new (slotTile s m.new j)) (residentRecs s m.lclu.toNat j)) s
      put (setRegWord s1 (cluOff m.new + 4) (regWord s1 (cluOff m.old + 4))) { m with copied := true }
def execClusterCopyDone (s : State) : Host.Outcome State Fault Refusal := .next (clusterCopied s)

/-- Step 3 is due at this boundary: the copy is done and no pre-emption holds the cluster. -/
def stopDue (s : State) (m : CluMigr) : Bool :=
  m.copied && !m.stopped && !tripped s m.old && decide (savePhase s m.lclu.toNat = .none)

/-- Step 3 at a boundary: the cluster stops and is left out; its state changes with the commit of the boundary (R96). -/
def stopMigrating (s : State) (m : CluMigr) : State :=
  let s1 := mapStep (changeClu (stopCluster s m.lclu.toNat) m.old .draining)
  { s1 with cal := { s1.cal with cluMigr := s1.cal.cluMigr.map (fun x => if x = m then { x with stopped := true } else x) } }

/-- Steps 5 and 6 at a boundary. -/
def switchCluster (s : State) (m : CluMigr) : State :=
  let l := m.lclu.toNat
  let s1 : State := { s with
    map := { s.map with clu := tabPut s.map.clu l m.new }
    threads := s.threads.map (fun e => (e.1, if e.1 / 256 = l ∧ e.2.st = .stopped then { e.2 with st := .sleeping } else e.2))
    cal := { s.cal with cluMigr := s.cal.cluMigr.filter (fun x => decide (x ≠ m)),
                        tileMigr := s.cal.tileMigr.filter (fun x => decide (x.clu ≠ m.old)) } }
  let s2 := changeClu (changeClu s1 m.new .active) m.old .outOfService
  let s3 := (upTo 17).foldl (fun s t => modTile s (tileKey m.old t) emptyTile) s2
  mapStep (unhold (bump s3 (calCtr 8)) (fun _ => true))

def cluSwitchDue (s : State) (m : CluMigr) : Bool := m.moved && !tripped s m.old

/-! ## Unit tests and requests (R98, R110) -/

/-- A tile after the 16 passes that a unit test ends with. -/
def retested (s : State) (k : Tile) : Tile :=
  { k with cal := ⟨s.tick.toNat, k.temp⟩, pend := none, passes := k.passes + 16, bad := [] }

/-- A cluster's test ends; one that an ACTIVE cluster fails starts its migration (R98, R102). -/
def cluTested (s : State) (n : Nat) (pass : Bool) : State :=
  if cluState s n = .active then (if pass then s else askCluster s n)
  else if cluState s n ≠ .outOfService ∨ s.cal.cluMigr.any (fun m => decide (m.old = n)) then s
  else if pass then
    let ts := (upTo 17).filter (fun t => calibrated (tileState s n t))
    let s1 := ts.foldl (fun s t => modTile s (tileKey n t) (retested s)) s
    mapDue (addCtr s1 (calCtr 0) (16 * ts.length)) (.cluster n .spare)
  else mapDue s (.cluster n .quarantined)

/-- A tile's test ends. -/
def tileTested (s : State) (n t : Nat) (pass : Bool) : State :=
  if tileState s n t ≠ .outOfService then s
  else if pass then mapDue (addCtr (modTile s (tileKey n t) (retested s)) (calCtr 0) 16) (.tile n t .spare)
  else mapDue s (.tile n t .quarantined)

/-- The state of a control core. -/
def coreState (s : State) (k : Nat) : UnitState := tabGet .outOfService s.fw.cores k
def setCore (s : State) (k : Nat) (u : UnitState) : State :=
  unitChanged { s with fw := { s.fw with cores := tabSet .outOfService s.fw.cores k u } } (unitCore k) (coreState s k) u

/-- A control core that fails a test is QUARANTINED; the third entry since power-on asks for its fuse. -/
def failCore (s : State) (k : Nat) : State :=
  let s1 := setCore s k .quarantined
  if 3 ≤ quarCount s1 (unitCore k) then { s1 with fw := { s1.fw with fuseQ := s1.fw.fuseQ ++ [.retireCore k] } } else s1

/-- The unit test of a control core, or of a chain lane, ends. -/
def coreTested (s : State) (k : Nat) (pass : Bool) : State :=
  if coreState s k ≠ .outOfService then s else if pass then setCore s k .spare else failCore s k
def laneTested (s : State) (p j : Nat) (pass : Bool) : State :=
  if chnLane s p j ≠ .outOfService then s else if pass then setLane s p j .spare else failLane s p j

/-- UNIT_TEST_DONE: a unit that passes has completed its 16 passes and is SPARE from the next boundary; one that fails is QUARANTINED.
Beyond the tiles and clusters, n = 18 names control core t and n = 19 + p lane t of chain port p (log 176). -/
def unitTested (s : State) (n t : Nat) (cluster pass : Bool) : State :=
  if !s.clk.ready then s
  else if n = 18 then coreTested s t pass
  else if 18 < n then laneTested s (n - 19) t pass
  else if cluster then cluTested s n pass
  else tileTested s n t pass
def execUnitTestDone (n t : Nat) (cluster pass : Bool) (s : State) : Host.Outcome State Fault Refusal :=
  onUnit (testUnit n t) (unitTested s n t cluster pass)

/-- A CAL_REQ action on physical cluster n and tile t; none where it is refused (R110). -/
def calRequest (s : State) (action n t : Nat) : Option State :=
  if 17 < n then none
  else match action with
    | 0 => some s
    | 1 =>
      if t < 17 ∧ tileState s n t = .active ∧ cluState s n = .active ∧ (spareTile s n).isSome then some (askTile s n t) else none
    | 2 | 5 => if cluState s n = .active ∧ (spareClu s (dieOf n)).isSome then some (askCluster s n) else none
    | 3 =>
      if cluState s n = .quarantined then some (mapDue s (.cluster n .outOfService))
      else if t < 17 ∧ tileState s n t = .quarantined then some (mapDue s (.tile n t .outOfService)) else none
    | 4 =>
      if cluState s n = .quarantined then some { s with fw := { s.fw with fuseQ := s.fw.fuseQ ++ [.retireCluster n] } }
      else if t < 17 ∧ tileState s n t = .quarantined then some { s with fw := { s.fw with fuseQ := s.fw.fuseQ ++ [.retireTile n t] } }
      else none
    | _ => none

/-! ## The calibration part of a boundary (R88–R96, R252) -/

/-- The rows of a resident record within a range are written again from the module image. -/
def refreshRows (w : Win) (k : Tile) (r : RecDesc) : Tile :=
  let lr := lrOf r.raw
  (upTo lr.rows).foldl (fun k i =>
    if w.base ≤ lr.rowBase + i ∧ lr.rowBase + i < w.base + w.len then writeRow k (lr.rowBase + i) ((r.codes.drop (512 * i)).take 512)
    else k) k

/-- The refresh of one tile (R88): every row that carries a group that drifted. -/
def refreshTile (s : State) (key : Nat) : State :=
  let k := tileAt s key
  if k.refreshDue.isEmpty then s
  else
    let rs := (tileResident s (key / 17) (key % 17)).map (·.2)
    let k1 := k.refreshDue.foldl (fun k d => rs.foldl (refreshRows d.2) k) k
    let rows := sumNat ((k.refreshDue.map (·.2)).eraseDups.map (·.len))
    let k2 : Tile := { k1 with refreshDue := [],
                               refreshed := k.refreshDue.foldl (fun m d => tabPut m d.1 (k.passes + 1)) k.refreshed }
    bump (setTile (sysWork s ((rows + 16) * 2 / 3) (512 * rows)) key k2) (calCtr 4)

/-- Tiles whose cells drifted are rewritten from the module images. -/
def refreshTiles (s : State) : State := s.tiles.foldl (fun s e => refreshTile s e.1) s

/-- Refreshes, map changes and at most one commit (R90).  With `cal_en` = 0 these still take place: it stops the slots alone (DESIGN
CHOICE, log 160). -/
def calBoundary (s : State) : State :=
  let s1 := refreshTiles (beginOwed (advanceConvs s))
  let now := s1.map.due.filter (changeReady s1)
  let tsw := s1.cal.tileMigr.filter (switchDue s1)
  let csw := s1.cal.cluMigr.filter (cluSwitchDue s1)
  let stops := s1.cal.cluMigr.filter (stopDue s1)
  let changes := !(now.isEmpty && tsw.isEmpty && csw.isEmpty && stops.isEmpty)
  let forced := changes || dtReached s1 || holdReached s1 || s1.cal.dueForced
  let lapse := s1.cal.dueTime && !holdReq s1
  let asked := decide (regField s1 calOff 2 2 = 1)
  let s2 : State := { s1 with map := { s1.map with due := s1.map.due.filter (fun c => !changeReady s1 c) } }
  let s3 := stops.foldl stopMigrating (csw.foldl switchCluster (tsw.foldl switchTile (now.foldl applyChange s2)))
  if forced || lapse || asked then commitCal s3 forced else s3

end Sys2Proof.Machine
end

