-- ==== Sys2Proof/Machine/Boundary.lean ====
section
/-! DEFINITION. The step boundary: commits, visibility, manifests, shares, accounting, deadlines and rebalancing (R27–R31,
R244–R262, R268, R283). -/

namespace Sys2Proof.Machine
open Sys2Proof

/-- Some berth of the step has not committed. -/
def stepOpen (s : State) : Bool := s.berths.any (fun e => e.2.inStep && !e.2.committed)

/-- The numbers of the berths that satisfy a test. -/
def berthsWhere (s : State) (p : Berth → Bool) : List (BitVec 12) :=
  (s.berths.filter (fun e => p e.2)).map (fun e => BitVec.ofNat 12 e.1)

/-! ## Step 1: commits (R166, R252, R255) -/

/-- Energy adds to a client's record, the remainder below 1 µJ kept. -/
def addEnergy (s : State) (c : BitVec 10) (fj : Nat) : State :=
  let a := acctOf s c
  let t := a.energyRem + fj
  setAcct s c { a with energy := a.energy + BitVec.ofNat 64 (t / 10 ^ 9), energyRem := t % 10 ^ 9 }

/-- The berth after the boundary that commits its step. -/
def stepped (e : Berth) (adv : Nat) (dstep : BitVec 64) : Berth :=
  { e with step := e.step + adv, lastDstep := dstep.setWidth 32, staged := [], emitting := 0, tile3 := 0, engCyc := 0, vecCyc := 0,
           prefill := none, sub := { e.sub with ord := 0 }, inStep := false, committed := false, lastStep := false }

/-- Trace of a commit: STEP, whose times no rule makes exact, and the first bytes of its output (R500). -/
def traceStep (s : State) (b : BitVec 12) (e : Berth) (m : ModelDecl) : State :=
  let n := physOf s (lcluOf e.lthread)
  let s1 := if cluTrc s n 0 then useFree (traceRec s 3 n b (freeBytes s 6)) else s
  let vals := e.staged.flatMap (fun v => natLe v (valBytes m))
  if cluTrc s n 0 && trcData s && !vals.isEmpty then traceRec s1 0x10 n b (vals.take 6 ++ List.replicate (6 - vals.length) 0) else s1

/-- One committed berth: its outputs are released, its chain frame leaves, its step advances, by the largest P of its prefills where it ran
any (R187), and a stream that has ended drains. -/
def commitBerth (s : State) (b : BitVec 12) : State :=
  let e := berth s b
  let m := berthModel s e
  let adv := e.prefill.getD 1
  let ended := e.lastStep || decide (e.stepLast.toNat < e.step + adv)
  let s1 := if e.destAudio then deliverAudio s e (m.outFmt % 8) e.staged else deliverHost s b e.step ended e.staged
  let s2 := traceStep (chainSend s1 b) b e m
  let s3 := takeCharges s2 e 1
  let s4 := modBerth s3 b (fun x => stepped x adv s.sched.dstep)
  let s5 := setThread s4 e.lthread { thread s4 e.lthread with issued := 0 }
  if (berth s5 b).st = .draining then s5
  else if ended then drainBerth s5 b .stream else s5

/-- Virtual times take the charges of the committed berths (R256). -/
def addCharge (s : State) (c : BitVec 10) (chi : Nat) : State :=
  let a := acctOf s c
  setAcct s c { a with v := a.v + BitVec.ofNat 64 (chi * 65536 / Nat.max 1 (weightOf s c)) }
def clientCharge (es : List Berth) (c : BitVec 10) : Nat :=
  sumNat ((es.filter (fun e => decide (e.client = c))).map chargeOfStep)

/-! ## Accounting (R259–R261): the records change in cycles 0–31 only -/

/-- The energy of a client's activity since the last boundary, in femtojoules: each activity times its coefficient (R260). -/
def activityEnergy (v : Activity) : Nat :=
  v.tileNs * Config.energyCoef 0 + v.laneOps * Config.energyCoef 1 + v.auxCyc * Config.energyCoef 2 + v.storeB * Config.energyCoef 3
    + (v.pmRd + v.pmWr) * Config.energyCoef 4 + (v.hostBytes + v.chainBytes) * Config.energyCoef 5

/-- Activity since the last boundary, V and the counts of berths go to a client's record. -/
def takeActivity (s : State) (c : BitVec 10) : State :=
  let v := activity s c
  let a := acctOf s c
  let mine := (heldBerths s).filter (fun e => decide (e.2.client = c))
  let a1 := { a with
    tileNs := a.tileNs + BitVec.ofNat 64 v.tileNs, vecCycles := a.vecCycles + BitVec.ofNat 64 v.vecCyc,
    auxCycles := a.auxCycles + BitVec.ofNat 64 v.auxCyc, pmRd := a.pmRd + BitVec.ofNat 64 v.pmRd, pmWr := a.pmWr + BitVec.ofNat 64 v.pmWr,
    hostBytes := a.hostBytes + BitVec.ofNat 64 v.hostBytes, chainBytes := a.chainBytes + BitVec.ofNat 64 v.chainBytes,
    berthSteps := a.berthSteps + BitVec.ofNat 64 v.steps, deferred := a.deferred + BitVec.ofNat 64 v.deferred,
    lateSteps := a.lateSteps + BitVec.ofNat 64 v.late, vtime := a.v,
    running := BitVec.ofNat 16 (mine.filter (fun e => decide (e.2.st = .running))).length, held := BitVec.ofNat 16 mine.length,
    weight := BitVec.ofNat 16 (weightOf s c) }
  addEnergy (setAcct s c a1) c (activityEnergy v)

/-- The clients whose records a boundary brings up to date: those with activity, a record, a context or a weight. -/
def accountClients (s : State) : List (BitVec 10) :=
  let ws := (s.sched.pol.filter (fun e => decide (bthOff + 0x1000 ≤ e.1))).map (fun e => (e.1 - bthOff - 0x1000) / 4)
  ((s.act.map Prod.fst ++ s.acct.map Prod.fst ++ s.clients.map Prod.fst ++ ws).eraseDups).map (BitVec.ofNat 10)

def accountStep (s : State) : State :=
  let s1 := (accountClients s).foldl takeActivity s
  { s1 with act := [] }

/-- Step 1 of the boundary: commits, charges, faults, leaves and the accounting records. -/
def commitStep (s : State) : State :=
  let done := berthsWhere s (fun e => e.inStep && e.committed)
  let es := done.map (berth s)
  let cs := (es.map (fun e => e.client)).eraseDups
  let s1 := done.foldl commitBerth s
  let s2 := cs.foldl (fun s c => addCharge s c (clientCharge es c)) s1
  let s3 := (berthsWhere s2 (faultedNow s2)).foldl dropFaulted s2
  let s4 := s3.clients.foldl (fun s e => if e.2.resetBoundary then resetAtBoundary s (BitVec.ofNat 10 e.1) else s) s3
  let s5 := (berthsWhere s4 (fun e => e.leaveDue && decide (e.st ≠ .draining ∧ e.st ≠ .free))).foldl (fun s b => drainBerth s b .leave) s4
  accountStep (routeDisables (returnCredits s5))

/-! ## Step 2: visibility (R27) -/

/-- A PARKED berth that auto-park put there awaits its frame, and nothing holds its window (R245). -/
def wakesOnFrame (s : State) (e : Berth) : Bool :=
  decide (e.st = .parked ∧ e.framesTaken < e.framesVis) && e.autoPk && !e.copying && !e.unparkDue && !awayNow s e

/-- FRAME items whose frames become visible complete, and those refused behind them in their turn (R313); a berth parked by auto-park
is copied back when its frame is visible. -/
def framesVisible (s : State) : State :=
  let s1 : State := { s with berths := s.berths.map (fun e => (e.1, { e.2 with framesVis := e.2.framesIn })) }
  let s2 := completeAll s1 (fun i => i.begun && decide (i.op = 4 ∧ i.aux = 1)) stOk
    (fun i => berthDetail i.berth ++ natLe (frameCount i) 1 ++ [0] ++ natLe s.sched.dstep.toNat 4)
  let bad := s2.clients.flatMap (fun e => (e.2.items.filter (fun i => decide (i.op = 4 ∧ i.aux = 2))).map (fun i => (BitVec.ofNat 10 e.1, i)))
  let s3 := bad.foldl (fun s x => if frameBefore s x.1 x.2 then s else badItem s x.1 x.2 0 7) s2
  let s4 := unhold s3 (fun i => decide (i.op = 4))
  (berthsWhere s4 (wakesOnFrame s4)).foldl (fun s b => modBerth s b (fun e => { e with copying := true, copyBack := true })) s4

/-! ## Step 3: what takes effect (R245, R264, R267, R283) -/

/-- Values of room at a berth's destination. -/
def roomOf (s : State) (e : Berth) : Nat := if e.destAudio then audioRoom s e else hostRoom e

/-- A berth becomes RUNNING at a boundary, from ADMITTED or from PARKED (R245). -/
def nowRunning (s : State) (b : BitVec 12) : State :=
  let was := (berth s b).st
  unholdBerth (setRunning (countPark s was .running) b (fun e => { e with unparkDue := false, autoPk := false })) b

/-- The start condition of an ADMITTED berth. -/
def startMet (s : State) (e : Berth) : Bool :=
  let m := berthModel s e
  decide (e.st = .admitted ∧ m.startFrames ≤ e.framesVis - e.framesTaken ∧ m.outPerStep ≤ roomOf s e)
  && !awayNow s e && !lcluOut s (lcluOf e.lthread)

/-- A lock that was due is granted to its item. -/
def grantDue (s : State) (b : BitVec 12) : State :=
  let e := berth s b
  match e.lockDue with
  | none => s
  | some w =>
    match findItem s w.client w.item with
    | some i =>
      if e.st ≠ .running then setBerth s b { e with lockDue := none }
      else if awayNow s e then s
      else grantLock s b w.client i
    | none => setBerth s b { e with lockDue := none }

/-- A RUNNING berth parks: its streams end, and its window is copied out (R194, R245, R288). -/
def parkNow (s : State) (b : BitVec 12) (auto : Bool) : State :=
  let s1 := countPark (dropStreams s b) .running .parked
  let s2 := modBerth s1 b (fun e => { e with st := .parked, parkDue := false, autoPk := auto, copying := true, copyBack := false })
  if auto then bump s2 (bthCtr 6) else s2

/-- The berth window that compaction moves next on logical cluster l: the lowest-placed one that can move upward. -/
def compactPick (s : State) (l : Nat) : Option (BitVec 12 × Nat) :=
  let mine := (berthsOn s l).filter (fun e =>
    decide (e.2.st = .running ∨ e.2.st = .parked) && !e.2.preempted && e.2.moveThr.isNone && !e.2.copying && !e.2.unparkDue && !e.2.parkDue)
  let goal (e : Nat × Berth) : Option Nat :=
    let own : Win := ⟨e.2.winBase, e.2.stRes * 64⟩
    let used := (berthWins s l ++ modWins s l).filter (fun w => decide (w ≠ own))
    (fitTop own.len (gaps 0 storeSize (sortWins used))).bind (fun x => if own.base < x then some x else none)
  let cands := mine.filterMap (fun e => (goal e).map (fun x => (e.1, e.2.winBase, x)))
  (cands.foldl (fun a c => match a with
    | none => some c
    | some d => if c.2.1 < d.2.1 then some c else some d) none).map (fun c => (BitVec.ofNat 12 c.1, c.2.2))

/-- Compaction of one cluster's berth windows: one move, or the range is free and the requests that wait go on. -/
def compactOne (s : State) (l n : Nat) : State :=
  if ((storeGaps s l).any (fun g => decide (n ≤ g.len))) then
    unhold { s with sched := { s.sched with compact := tabErase s.sched.compact l } } (fun i => decide (i.op = 1 ∨ i.op = 3))
  else if stopping s l ∨ savePhase s l = .restoring ∨ migrating s l ∨ (berthsOn s l).any (fun e => e.2.moveThr.isSome) then s
  else match compactPick s l with
    | some (b, base) => modBerth s b (fun e => { e with moveThr := some (e.lthread, base), moving := true })
    | none => s

def takeEffect (s : State) : State :=
  let s1 := (berthsWhere s (fun e => e.lockDue.isSome)).foldl grantDue s
  let s2 := (berthsWhere s1 (fun e => e.parkDue && decide (e.st = .running) && !awayNow s1 e)).foldl (fun s b => parkNow s b false) s1
  let s3 := (berthsWhere s2 (fun e => e.unparkDue && decide (e.st = .parked))).foldl nowRunning s2
  let s4 : State := { s3 with berths := s3.berths.map (fun e =>
    (e.1, if e.2.moveThr.isSome ∧ e.2.st = .running ∧ !frozenNow s3 e.2 then { e.2 with moving := true } else e.2)) }
  let s5 := (berthsWhere s4 (startMet s4)).foldl nowRunning s4
  s5.sched.compact.foldl (fun s e => compactOne s e.1 e.2) s5

/-- Virtual times are brought down at the boundary after the one that took one beyond 2^62 (R256). -/
def lowerVtimes (s : State) : State :=
  if s.acct.any (fun e => decide (2 ^ 62 < e.2.v.toNat)) then
    match vFloor s with
    | some v => { s with acct := s.acct.map (fun e => (e.1, { e.2 with v := BitVec.ofNat 64 (e.2.v.toNat - v) })) }
    | none => s
  else s

/-! ## Step 3: the manifests (R253–R257) -/

/-- The berth's next step needs a frame that is not visible (R28): every frame visible to it has been consumed, and its model needs
one at this step, which only the model's program tells (log 61). -/
def needsLate (e : Berth) (m : ModelDecl) (digest : Nat) : Bool :=
  decide (m.frameBytes ≠ 0 ∧ e.framesVis ≤ e.framesTaken) && Config.needsFrame digest e.model e.step e.framesTaken

/-- Why a RUNNING berth is left out, the lowest cause first; 0 for a candidate (R244, R254). -/
def outCauseOf (s : State) (e : Berth) : Nat :=
  let l := lcluOf e.lthread
  let m := berthModel s e
  if frozenNow s e then 1
  else if migrating s l then 2
  else if e.moving || lcluOut s l then 3
  else if needsLate e m (module s e.modSlot).desc.digest.toNat then 4
  else if decide (roomOf s e < m.outPerStep) || noCredit s (thread s e.lthread).berth then 5
  else 0

/-- A berth is left out with a cause. -/
def leaveOut (s : State) (b : BitVec 12) (cause : Nat) : State :=
  let e := berth s b
  let l := lcluOf e.lthread
  let run := BitVec.ofNat 16 (Nat.min 65535 (e.outRun.toNat + 1))
  let s1 := bump (setBerth s b { e with outCause := cause, outRun := run }) (lcluCtr l (cause - 1))
  let s2 := if cause = 2 then bump s1 (calCtr 9) else s1
  if cause = 6 then modAct (bump s2 (bthCtr 14)) e.client (fun a => { a with deferred := a.deferred + 1 })
  else
    let waits := s2.clients.any (fun k => k.2.items.any (fun i => namesBerth i.op && decide (i.berth = b) && i.held))
    if cause = 4 ∧ autoParkOn s ∧ parkAfter s ≤ run.toNat ∧ e.waiters.isEmpty ∧ e.lockDue.isNone ∧ !waits then parkNow s2 b true
    else s2

/-- A candidate: its number, client, tag, critical path and step cost. -/
structure Cand where
  b : BitVec 12
  c : BitVec 10
  tag : Nat := 0
  crit : Nat := 0
  cost : Nat := 0
deriving DecidableEq, Repr

/-- Insert a candidate by a strict order. -/
def insCand (lt : Cand → Cand → Bool) (x : Cand) : List Cand → List Cand
  | [] => [x]
  | y :: t => if lt y x then y :: insCand lt x t else x :: y :: t
def sortCands (lt : Cand → Cand → Bool) (l : List Cand) : List Cand := l.foldr (insCand lt) []

/-- The candidates of a logical cluster in the order of R257. -/
def orderedCands (s : State) (bs : List (BitVec 12)) : List Cand :=
  let byTime (x y : BitVec 12) : Bool :=
    let a := (berth s x).lastDstep.toNat
    let b := (berth s y).lastDstep.toNat
    decide (a < b ∨ (a = b ∧ x.toNat < y.toNat))
  let rank (b : BitVec 12) : Nat :=
    (bs.filter (fun x => decide ((berth s x).client = (berth s b).client) && byTime x b)).length
  let mk (b : BitVec 12) : Cand :=
    let e := berth s b
    let m := berthModel s e
    { b := b, c := e.client, crit := m.critNs, cost := m.stepCost,
      tag := (acctOf s e.client).v.toNat + rank b * (m.chargeEst * 65536 / Nat.max 1 (weightOf s e.client)) }
  sortCands (fun x y => decide (x.tag < y.tag ∨ (x.tag = y.tag ∧ (x.c.toNat < y.c.toNat ∨ (x.c = y.c ∧ x.b.toNat < y.b.toNat)))))
    (bs.map mk)

/-- Take candidates in order while the cap allows: those taken, those that find no place for the record of a block, those left out
by the cap, and E (R257, R295). -/
structure Taking where
  took : List Cand := []
  full : List Cand := []
  left : List Cand := []
  crit : Nat := 0
  cost : Nat := 0
  e : Nat := 0
deriving DecidableEq, Repr

/-- A candidate finds no place for the records of the blocks that its step can close: those of its client are all owed, or taken in this
manifest (R295). -/
def noPlace (s : State) (a : Taking) (x : Cand) : Bool :=
  let due (y : Cand) : Nat := blocksDue s (berth s y.b)
  decide (0 < due x ∧
    recordPlaces s x.c < owedRecords s x.c + sumNat ((a.took.filter (fun y => decide (y.c = x.c))).map due) + due x)

def takeCand (s : State) (cap : Nat) (a : Taking) (x : Cand) : Taking :=
  let first := a.took.isEmpty
  let crit := Nat.max a.crit x.crit
  let cost := if first then 0 else a.cost + x.cost
  let e := crit + 2 * cost
  if !(decide (cap = 0) || first || decide (e ≤ cap)) then { a with left := a.left ++ [x] }
  else if noPlace s a x then { a with full := a.full ++ [x] }
  else { a with took := a.took ++ [x], crit := crit, cost := cost, e := e }
def takeCands (s : State) (cap : Nat) (l : List Cand) : Taking := l.foldl (takeCand s cap) {}

/-- A berth enters the step as entry k of its manifest: its thread is READY, after those of the entries before it, with rank, count,
frames and room (R114, R167, R253). -/
def enterStep (s : State) (b : BitVec 12) (k rank count : Nat) : State :=
  let e := berth s b
  let s1 := takeCredit (setBerth s b { e with inStep := true, committed := false, lastStep := false, outRun := 0 }) b
  setThread s1 e.lthread { thread s1 e.lthread with
    st := .ready, since := readyAt s k, rank := rank, count := count, frames := e.framesVis - e.framesTaken, room := roomOf s e }

/-- The berths of one module copy among the entries. -/
def sameCopy (s : State) (l : List Cand) (b : BitVec 12) : List Cand :=
  l.filter (fun x => decide ((berth s x.b).modSlot = (berth s b).modSlot ∧ (berth s x.b).model = (berth s b).model))

/-- The manifest of one logical cluster. -/
def buildManifest (s : State) (l : Nat) : State :=
  let bs := berthsWhere s (fun e => decide (e.st = .running ∧ lcluOf e.lthread = l) && !e.inStep)
  let s1 := bs.foldl (fun s b => match outCauseOf s (berth s b) with | 0 => s | k => leaveOut s b k) s
  let cands := bs.filter (fun b => decide (outCauseOf s (berth s b) = 0))
  let t := takeCands s (stepCapNs s) (orderedCands s cands)
  let s2 := t.left.foldl (fun s x => leaveOut s x.b 6) (t.full.foldl (fun s x => leaveOut s x.b 5) s1)
  let s3 := t.took.zipIdx.foldl (fun s x =>
    let same := sameCopy s t.took x.1.b
    enterStep s x.1.b x.2 (same.takeWhile (fun y => decide (y ≠ x.1))).length same.length) s2
  let n := physOf s l
  let s3 := if cluTrc s n 1 then t.took.foldl (fun s x =>
      let h := thread s (berth s x.b).lthread
      traceRec s 2 n x.b (natLe ((berth s x.b).lthread.toNat % 256) 2 ++ natLe h.rank 2 ++ natLe h.count 2)) s3 else s3
  let entries := t.took.map (fun x =>
    let lt := (berth s3 x.b).lthread
    { thread := lt.toNat % 256, berth := x.b, rank := (thread s3 lt).rank, count := (thread s3 lt).count : MfEntry })
  if t.took.isEmpty then { s3 with sched := { s3.sched with mf := tabErase s3.sched.mf n, mfE := tabErase s3.sched.mfE n } }
  else
    { s3 with sched := { s3.sched with
        mf := tabPut s3.sched.mf n entries, mfE := tabPut s3.sched.mfE n t.e,
        rbSum := tabSet 0 s3.sched.rbSum l (tabGet 0 s3.sched.rbSum l + t.e),
        rbCnt := tabSet 0 s3.sched.rbCnt l (tabGet 0 s3.sched.rbCnt l + 1) } }

/-! ## The whole boundary (R252) -/

/-- The end of a step.  Berths that were DRAINING at its start reach FREE at its end. -/
def boundary (s : State) : State :=
  let goers := berthsWhere s (fun e => decide (e.st = .draining) && !e.preempted && !e.void && !e.moving)
  let s0 : State := lowerVtimes (latchPolicy { s with sched := { s.sched with dstep := s.sched.dstep + 1 } })
  let done := (berthsWhere s (fun e => e.inStep && e.committed)).length
  let s1 := commitStep (if trcOn s then traceRec s0 1 trcHub 0 (natLe s0.sched.dstep.toNat 4 ++ natLe done 2) else s0)
  let s2 := framesVisible s1
  let s3 := takeEffect (calBoundary s2)
  let s4 := (upTo 16).foldl buildManifest s3
  let s5 := if s.sec.tenancy = .teardown then s4 else goers.foldl freeBerth s4
  { s5 with sched := { s5.sched with running := stepOpen s5, rbSteps := s5.sched.rbSteps + 1, dlMissed := false } }

/-- STEP_BOUNDARY: the last commit request of the step has come, or no step is under way. -/
def execStepBoundary (s : State) : Host.Outcome State Fault Refusal :=
  .next (if stepOpen s || s.lost.lost || !s.clk.ready then s else boundary s)

/-- STEP_DEADLINE: `step_dl_ns` has passed; a last commit request in the same cycle wins (R262). -/
def stepLate (s : State) (met : Bool) : State :=
  if stepDlNs s = 0 ∨ !s.sched.running ∨ s.sched.dlMissed then s
  else if met then bump s (bthCtr 16)
  else
    let late := berthsWhere s (fun e => e.inStep && !e.committed)
    let s1 := late.foldl (fun s b => modAct s (berth s b).client (fun a => { a with late := a.late + 1 })) (bump s (bthCtr 15))
    { s1 with sched := { s1.sched with dlMissed := true } }
def execStepDeadline (met : Bool) (s : State) : Host.Outcome State Fault Refusal := .next (stepLate s met)

/-! ## Rebalancing (R268) -/

/-- The mean E of a logical cluster over the period. -/
def meanE (s : State) (l : Nat) : Nat := tabGet 0 s.sched.rbSum l / Nat.max 1 (tabGet 0 s.sched.rbCnt l)

/-- The first cluster of a list with the largest, or the smallest, mean E. -/
def pickE (s : State) (big : Bool) (ls : List Nat) : Option Nat :=
  ls.foldl (fun a l => match a with
    | none => some l
    | some k => if (big && decide (meanE s k < meanE s l)) || (!big && decide (meanE s l < meanE s k)) then some l else some k) none

/-- Clusters in service that hold a model. -/
def holders (s : State) (slot : BitVec 8) (model : Nat) : List Nat :=
  (upTo 16).filter (fun l => (copyOn s slot model l).isSome && !lcluOut s l)

/-- A proposal to the berth's client: berth, clusters and their E (R268, R326). -/
def propose (s : State) (b : BitVec 12) (hi lo : Nat) : State :=
  let c := (berth s b).client
  let proposal := natLe b.toNat 2 ++ natLe hi 1 ++ natLe lo 1 ++ natLe (meanE s hi) 4 ++ natLe (meanE s lo) 4 ++ natLe 0 4
    ++ natLe s.sched.dstep.toNat 8
  let m : Message := { type := 0x82, sndEpoch := s.host.fwEpoch, payload := proposal }
  let s1 : State := { s with sched := { s.sched with proposals := s.sched.proposals ++ [{ berth := b, hi := hi, lo := lo }] } }
  bump (if outboxRoom s1 c then queueMsg s1 c m else bump s1 (hifCtr 18)) (bthCtr 8)

/-- The moves that one model wants: source, target and berths. -/
def rebalanceModel (s : State) (slot : BitVec 8) (model : Nat) : List (BitVec 12 × Nat × Nat) :=
  let m := ((module s slot).desc.models[model]?).getD {}
  let hs := holders s slot model
  let room := hs.filter (fun l => (idleThread s l).isSome && storeTakes s l (storeOf m))
  match pickE s true hs, pickE s false room with
  | some hi, some lo =>
    if meanE s lo + rbThreshNs s < meanE s hi then
      let k := ceilDiv (meanE s hi - meanE s lo) (4 * m.stepCost * 2)
      let bs := (berthsWhere s (fun e => decide (e.modSlot = slot ∧ e.model = model ∧ lcluOf e.lthread = hi ∧ (e.st = .running ∨ e.st = .parked)))).reverse
      (bs.take k).map (fun b => (b, hi, lo))
    else []
  | _, _ => []

/-- REBALANCE_PERIOD: `rb_period` steps have passed. -/
def rebalance (s : State) : State :=
  let clr (s : State) : State := { s with sched := { s.sched with rbSum := [], rbCnt := [], rbSteps := 0 } }
  let s : State := { s with sched := { s.sched with proposals := [] } }
  if !rbEn s then clr s
  else
    let all := s.mods.flatMap (fun e => (upTo e.2.desc.models.length).flatMap (fun k =>
      if e.2.st = .loaded then rebalanceModel s (BitVec.ofNat 8 e.1) k else []))
    let wants := decide (rbRate s < all.length)
    let s1 := (all.take (rbRate s)).foldl (fun s x => propose s x.1 x.2.1 x.2.2) s
    let s2 := if wants && !s.cal.pinPlace then setFlag s1 fPinPlace else s1
    clr { s2 with cal := { s2.cal with pinPlace := wants } }
def execRebalancePeriod (s : State) : Host.Outcome State Fault Refusal := .next (rebalance s)

end Sys2Proof.Machine
end

