-- ==== Sys2Proof/Machine/FwState.lean ====
section
/-! DEFINITION. The update phases, the flash slots and the fuses: their small operations (R430, R435, R438). -/

namespace Sys2Proof.Machine
open Sys2Proof

/-- One kind of firmware: `wd` names the warden, else harbourmaster. -/
def fwOf (s : State) (wd : Bool) : FwKind := if wd then s.fw.wd else s.fw.hm
def modFw (s : State) (wd : Bool) (f : FwKind → FwKind) : State :=
  if wd then { s with fw := { s.fw with wd := f s.fw.wd } } else { s with fw := { s.fw with hm := f s.fw.hm } }

/-- The kind's code (R434). -/
def fwCode (wd : Bool) : Nat := if wd then 2 else 1

/-- Codes of the phases (R422). -/
def phaseCode : FwPhase → Nat
  | .idle => 0 | .staging => 1 | .staged => 2 | .window => 3 | .persist => 4

/-- A phase changes: the event log records it (R438, R496). -/
def setPhase (s : State) (wd : Bool) (p : FwPhase) : State :=
  if (fwOf s wd).phase = p then s
  else logEvent (modFw s wd (fun k => { k with phase := p })) 7 0xFFFF (fwCode wd + 16 * phaseCode p)

/-- BOOT_SRC and CLK_MODE as sampled (R429). -/
def strapBoot (s : State) : Nat := regField s (clkOff + 4) 8 7
def strapClk (s : State) : Nat := regField s (clkOff + 4) 10 9
/-- The boot source is SPI flash; the reserved value is taken as it. -/
def fromFlash (s : State) : Bool := decide (strapBoot s = 0 ∨ strapBoot s = 3)
/-- In test bypass no firmware boots; its reserved neighbour is taken as 100 MHz. -/
def testBypass (s : State) : Bool := decide (strapClk s = 2)

/-- Flash slots: harbourmaster A and B are 0 and 1, warden A and B are 2 and 3. -/
def slotNo (wd b : Bool) : Nat := (if wd then 2 else 0) + (if b then 1 else 0)
def flashSlot (s : State) (i : Nat) : FlashSlot := tabGet {} s.fw.slots i
def modSlot (s : State) (i : Nat) (f : FlashSlot → FlashSlot) : State :=
  { s with fw := { s.fw with slots := tabSet {} s.fw.slots i (f (flashSlot s i)) } }
/-- The slot that the running image of a kind did not boot from. -/
def spareSlot (s : State) (wd : Bool) : Nat := slotNo wd (!(fwOf s wd).slotB)
def bootSlot (s : State) (wd : Bool) : Nat := slotNo wd (fwOf s wd).slotB

/-- A staged image goes: with flash its slot is marked RETIRED. -/
def dropPending (s : State) (wd : Bool) : State :=
  let s1 := if fromFlash s then modSlot s (spareSlot s wd) (fun x => { x with retired := true }) else s
  modFw s1 wd (fun k => { k with pending := none, len := 0, chunks := [], flashed := false, coreLoaded := false })

/-- A window aborts: the old image runs on everywhere (R438, R443). -/
def abortWindow (s : State) (wd : Bool) : State :=
  if (fwOf s wd).phase = .window then bump (setPhase (dropPending s wd) wd .idle) (clkCtr 6) else s

/-- Flash is being programmed: a staged image not yet in its slot, or the state bytes of PERSIST (R438). -/
def flashBusy (s : State) : Bool :=
  fromFlash s && [s.fw.hm, s.fw.wd].any (fun k => decide (k.phase = .persist) || (decide (k.phase = .staged) && !k.flashed))

/-- A commit window is open (R438). -/
def windowOpen (s : State) : Bool := decide (s.fw.hm.phase = .window) || decide (s.fw.wd.phase = .window)

end Sys2Proof.Machine
end

