-- ==== Sys2Proof/Machine/Teardown.lean ====
section
/-! DEFINITION. The end of a tenancy and of a device: levels in force, TDI, teardown, scrub and loss (R141, R376, R394–R399, R497, R503). -/

namespace Sys2Proof.Machine
open Sys2Proof

/-- The debug levels in force, as byte 456 [4:0] of the report (R503): the JTAG level, `trc_data`, the memory-read level, `tap_en`,
and profiling. -/
def levelsNow (s : State) : BitVec 5 :=
  let tap := decide (regField s (rngOff + 0x10) 0 0 = 1)
  let prof := trcOn s || (upTo 18).any (fun n => cluTrc s n 0 || cluTrc s n 1 || cluTrc s n 2)
  let b (x : Bool) (k : Nat) : Nat := if x then 2 ^ k else 0
  BitVec.ofNat 5 (b (s.sec.levels.getLsbD 0) 0 + b (trcData s) 1 + b (s.sec.levels.getLsbD 2) 2 + b tap 3 + b prof 4)

/-- A level that counts as open is in force (R386, R406). -/
def dbgOpen (s : State) : Bool := decide ((levelsNow s).toNat % 16 ≠ 0)

/-- Write the levels that are open: closing data trace clears `trc_data`, closing the RNG tap clears `tap_en` (R503). -/
def setLevels (s : State) (v : BitVec 5) : State :=
  if v = s.sec.levels then s
  else
    let s1 := bumpView { s with sec := { s.sec with levels := v, openSince := s.sec.openSince || decide (v.toNat % 16 ≠ 0 ∧ s.sec.tenancy = .bound) } }
    let s2 := if v.getLsbD 1 then s1 else setRegField s1 (dbgOff + 4) 1 1 0
    let s3 := if v.getLsbD 3 then s2 else setTapEn s2 false
    logEvent s3 8 0xFFFF (levelsNow s3).toNat

/-- Debug opens since power-on, in the retained SRAM (R386, R432). -/
def dbgOpens (s : State) : Nat := memLe s.ret 0x1200 4

/-- Open levels at once: each newly opened one that counts as open is counted (R407). -/
def openLevels (s : State) (v : BitVec 5) : State :=
  let fresh := v &&& ~~~ s.sec.levels
  let n := ((upTo 4).filter (fun k => fresh.getLsbD k)).length
  let s1 := addCtr s (secCtr 14) n
  setLevels { s1 with ret := memPutBytes s1.ret 0x1200 (natLe (dbgOpens s1 + n) 4) } (s.sec.levels ||| v)

/-! ## Teardown (R396, R397) -/

/-- Steps 1 and 2: a CONV runs to its next checkpoint and an MGATH stops at a block; what R131 would halt is aborted, and everything
but queued products and vector commands is gone (R241, R396). -/
def abortEngines (s : State) : State :=
  let s1 := (upTo 16).foldl (fun s l => haltGather (endConv s l) l) s
  { s1 with queues := s1.queues.filter (fun e => decide (e.1 % 8 = 1)), streams := [] }

/-- Every berth ends with reason 3; its staged outputs are discarded. -/
def endBerths (s : State) : State :=
  let s1 : State := { s with berths := s.berths.map (fun e => (e.1, { e.2 with inStep := false, committed := false, staged := [] })) }
  (berthsWhere s1 (fun e => decide (e.st ≠ .free ∧ e.st ≠ .draining))).foldl (fun s b => startDrain s b .teardown stTeardown []) s1

/-- Every item ends, every enabled client is told, and every client whose records are written is reset. -/
def endClients (s : State) : State :=
  let s1 := completeAll s (fun _ => true) stTeardown (fun _ => [])
  let s2 := s1.clients.foldl (fun s e => notice s (BitVec.ofNat 10 e.1) 0x83 stTeardown 0 []) s1
  s2.clients.foldl (fun s e => if (client s (BitVec.ofNat 10 e.1)).spill.isEmpty then resetNow s (BitVec.ofNat 10 e.1) else s) s2

/-- Every route goes OFF, and every job epoch is retired. -/
def endRoutes (s : State) : State :=
  { s with chn := { s.chn with routes := s.chn.routes.map (fun e => (e.1, { e.2 with st := 0, offDue := false })) },
           sec := { s.sec with keys := s.sec.keys.filter (fun k => decide (k.kind ≠ 3)) } }

/-- What waits for tenants' requests waits no longer: generators, compaction, loads, pre-emption items. -/
def endWaits (s : State) : State :=
  { s with
      rng := { s.rng with gens := s.rng.gens.map (fun e => (e.1, settle { e.2 with waiting := [] })) }
      sched := { s.sched with compact := [], running := false }
      mods := s.mods.filter (fun e => decide (e.2.st ≠ .loading))
      pre := { s.pre with item := [] } }

/-- Steps 1–4 of a teardown. -/
def beginTeardown (s : State) : State :=
  let s1 := bumpView { s with sec := { s.sec with tenancy := .teardown, tdStart := s.tick, tdStep := 1, tdDue := false } }
  let s2 := (upTo 16).foldl stopCluster s1
  endWaits (endRoutes (endClients (endBerths (audioTeardown (abortEngines s2)))))

/-- A teardown cause: while BOUND it starts the teardown; otherwise it has no effect (R376, R409). -/
def teardown (s : State) : State := if s.sec.tenancy = .bound then beginTeardown s else s

/-- EVICT, TENANT_RELEASE and `td_req` wait for the end of a commit window (R409). -/
def teardownAsked (s : State) : State :=
  if s.sec.tenancy = .bound ∧ windowOpen s then { s with sec := { s.sec with tdDue := true } } else teardown s

/-- The step in progress (R396, R408): fades, records and resets, idle engines, the scrub. -/
def tdStepNow (s : State) : Nat :=
  if s.sec.tenancy ≠ .teardown then 0
  else if s.sec.tdStep = 6 then 6
  else if s.aud.str.any (fun e => decide (e.2.phase = .fade)) then 2
  else if s.clients.any (fun e => decide (e.2.st ≠ .disabled)) && !s.lost.lost then 3
  else 5

/-- Every engine, hub engine and DMA is idle: no command, product, save, restore, migration or move is under way (R396 step 5, R397). -/
def allIdle (s : State) : Bool :=
  s.queues.all (fun e => e.2.isEmpty)
  && s.tiles.all (fun e => e.2.queue.isEmpty && e.2.actives.isEmpty && e.2.progs.isEmpty)
  && s.pre.phase.all (fun e => decide (e.2 ≠ .stopping ∧ e.2 ≠ .restoring))
  && s.cal.tileMigr.isEmpty && s.cal.cluMigr.isEmpty
  && s.berths.all (fun e => !(e.2.moving && e.2.moveThr.isSome))

/-- Step 5: the tenant's keys are zeroised and its session ends; trace records with payload leave first (R505). -/
def zeroise (s : State) : State :=
  let s1 := if trcData s then s.dbg.trc.foldl (fun s r => bump (emit s (.trace r)) (obsCtr 5)) s else s
  let fifo := if trcData s then [] else s1.dbg.trc
  { s1 with sec := { s1.sec with keys := [], tsess := none, bindPub := none, tdStep := 6 }, dbg := { s1.dbg with trc := fifo } }

/-- TEARDOWN_KEYS_ZEROISE. -/
def keysZeroised (s : State) : State := if tdStepNow s = 5 ∧ allIdle s then zeroise s else s
def execTeardownKeysZeroise (s : State) : Host.Outcome State Fault Refusal := .next (keysZeroised s)

/-- TEARDOWN_RECORD_TIMEOUT: 1 ms into step 3 the records not yet written are discarded and every client is reset; a last record in
the same cycle wins (R457). -/
def recordsDropped (s : State) (met : Bool) : State :=
  if s.sec.tenancy ≠ .teardown ∨ s.lost.lost then s
  else if met then bump s (obsCtr 9)
  else s.clients.foldl (fun s e =>
    let c := BitVec.ofNat 10 e.1
    if (client s c).spill.isEmpty then s else resetNow (addCtr s (secCtr 2) (client s c).spill.length) c) s
def execTeardownRecordTimeout (met : Bool) (s : State) : Host.Outcome State Fault Refusal := .next (recordsDropped s met)

/-! ## Scrub (R398) -/

/-- The client contexts of HIF. -/
def inHifCtx (o : Nat) : Bool := decide (hifOff + 0x4000 ≤ o ∧ o < hifOff + 0x10000)

/-- Registers that the scrub returns to their reset values. -/
def scrubReg (o : Nat) : Bool :=
  inHifCtx o || decide (audOff + 0x1000 ≤ o ∧ o < audOff + 0x11C0) || decide (bthOff + 0x1000 ≤ o ∧ o < bthOff + 0x2000)

/-- A scrubbed tile: cells at code 0, shells cleared. -/
def scrubTile (k : Tile) : Tile := { emptyTile k with bad := k.bad }

/-- Chain egress buffers are scrubbed; transit buffers and spill areas hold sealed frames of other jobs and are not. -/
def scrubPort (p : Port) : Port := { p with egress := [] }

/-- What a client context keeps: its epochs (R307), and its count of items. -/
def scrubClient (k : Client) : Client := { fepoch := k.fepoch, cepoch := k.cepoch, itemSeq := k.itemSeq }

/-- A package address lies in a save slot that holds an image (R134, R280). -/
def inHeldSlot (s : State) (a : Nat) : Bool :=
  let o := a % 2 ^ 36
  decide (0x10000000 ≤ o ∧ o < modPoolBase) && slotHolds s (8 * (a / 2 ^ 36) + (o - 0x10000000) / 0x2200000)

/-- A package address that the scrub leaves: the device reserve, with the chain transit spill areas of die 1 (R280, R398). -/
def reserveAt (a : Nat) : Bool := decide (a % 2 ^ 36 < 0xC000000 ∨ (a / 2 ^ 36 = 1 ∧ a % 2 ^ 36 < 0x10000000))

/-- Step 6: everything of the tenant's is zero, the client contexts unless `keep`, with which a held save image stays too (R136).  The
work is charged to no client; how much it is, no rule states exactly.  Every berth reaches FREE (R274). -/
def scrub (s : State) (keep : Bool) : State :=
  let s1 : State := { s with
    tiles := s.tiles.map (fun e => (e.1, scrubTile e.2))
    threads := [], queues := [], streams := [], store := []
    pm := s.pm.filter (fun c => reserveAt c.1 || (keep && inHeldSlot s c.1))
    berths := [], mods := [], pre := if keep then s.pre else {}, acct := [], act := []
    clients := if keep then s.clients else s.clients.map (fun e => (e.1, scrubClient e.2))
    regs := s.regs.filter (fun e => !scrubReg e.1 || (keep && inHifCtx e.1))
    sched := { s.sched with pol := s.sched.pol.filter (fun e => !scrubReg e.1), proposals := [] }
    chn := { s.chn with routes := [], seqs := [], ports := s.chn.ports.map (fun e => (e.1, scrubPort e.2)) }
    aud := { s.aud with str := s.aud.str.map (fun e => (e.1, { e.2 with s0 := { e.2.s0 with bound := none }, s1 := { e.2.s1 with bound := none } })) } }
  let w (k : Nat) : Nat := bitsOf (Config.freeWord (s.free + k)).toNat 40 0
  let s2 := (upTo 8).foldl (fun s st => addCtr s (stackCtr st 1) (w st)) { s1 with free := s.free + 9 }
  let s3 := sysWork s2 (w 8) (sumNat ((upTo 8).map w))
  clearGens (audioScrub (addCtr s3 (bthCtr 3) (heldBerths s).length))

/-- The TDI changes state, which the view counts (R404). -/
def setTdi (s : State) (t : Tdi) : State := if s.sec.tdi = t then s else bumpView { s with sec := { s.sec with tdi := t } }

/-- Step 7: the device is VACANT. -/
def vacate7 (s : State) : State :=
  let us := (s.tick - s.sec.tdStart).toNat / 100
  let s0 := if s.sec.tdiStop then setTdi s .unlocked else s
  let s1 := bumpView { s0 with sec := { s0.sec with
    tenancy := .vacant, tenantId := 0, tEpoch := 0, tdisp := false, dbgTeardown := false, tdStep := 0, tdTick := s.tick, tdiStop := false } }
  let s2 := logEvent (bump (setIrqFlag s1 fTdDone) (secCtr 1)) 6 0xFFFF us
  let s3 := if s2.sec.levelsDue = 0 then s2 else setLevels s2 (s2.sec.levels ||| s2.sec.levelsDue)
  { s3 with sec := { s3.sec with levelsDue := 0 } }

/-- SCRUB_DONE. -/
def scrubbed (s : State) : State := if s.sec.tenancy = .teardown ∧ s.sec.tdStep = 6 ∧ !s.lost.lost then vacate7 (scrub s false) else s
def execScrubDone (s : State) : Host.Outcome State Fault Refusal := .next (scrubbed s)

/-! ## The device is lost (R141, R497) -/

/-- The 4 KiB report in the retained SRAM; its valid byte counts as written last. -/
def lossReport (s : State) (cls unit detail : Nat) : List (BitVec 8) :=
  natLe 0x54534F4C 4 ++ natLe 1 1 ++ natLe 0 3 ++ natLe s.tick.toNat 8 ++ natLe s.sched.dstep.toNat 8 ++ natLe cls 1 ++ natLe 0 1
    ++ natLe unit 2 ++ natLe detail 4 ++ natLe s.cal.epoch.toNat 4 ++ natLe s.fw.hm.running.ver.toNat 2 ++ natLe s.fw.wd.running.ver.toNat 2
    ++ natLe s.fw.boots 4 ++ List.replicate (0x400 - 0x2C) 0 ++ (upTo 384).flatMap (fun j => natLe (ctr s j).toNat 8)

/-- The unit of a number of R496 goes OUT_OF_SERVICE; a tile's or a cluster's change is one of the repair map (R96). -/
def unitOut (s : State) (unit : Nat) : State :=
  if unit < 18 then
    (if cluState s unit = .active then mapStep (unitChanged (setCluState s unit .outOfService) unit .active .outOfService) else s)
  else if unit < 324 then
    let k := unit - 18
    if tileState s (k / 17) (k % 17) = .active then
      mapStep (unitChanged (setTileState s (k / 17) (k % 17) .outOfService) unit .active .outOfService)
    else s
  else if unit < 329 then (if coreState s (unit - 324) = .active then setCore s (unit - 324) .outOfService else s)
  else if unit < 365 then
    (if chnLane s ((unit - 329) / 9) ((unit - 329) % 9) = .active then setLane s ((unit - 329) / 9) ((unit - 329) % 9) .outOfService else s)
  else s

/-- Steps 1–4 of R141, and the tenancy's step to TEARDOWN.  Nothing leaves the engines any more. -/
def loseDevice (s : State) (cls unit detail : Nat) : State :=
  if s.lost.lost then s
  else
    let s1 := unitOut s unit
    let s2 : State := { s1 with
      ret := memPutBytes s1.ret 0 (lossReport s1 cls unit detail)
      queues := [], streams := []
      tiles := s1.tiles.map (fun e => (e.1, { e.2 with queue := [], actives := [], progs := [] })) }
    let s3 := completeAll (logEvent s2 0xC 0xFFFF cls) (fun _ => true) stDeviceLost (fun _ => [])
    let s4 := stopPorts s3
    let s5 := if s4.sec.tenancy = .bound then
        bumpView { s4 with sec := { s4.sec with tenancy := .teardown, tdStart := s4.tick, tdStep := 5, tdDue := false } } else s4
    let s6 := abortWindow (abortWindow s5 false) true
    msix0 { s6 with
      sched := { s6.sched with running := false }
      lost := { lost := true, cls := cls, unit := unit, detail := detail, tick := s.tick, valid := true } }

/-- Step 5 of R141: the keys are destroyed and the device scrubs; the clients keep their contexts, since later doorbells are still
answered (R141 step 4).  A device in CRITICAL runs no scrub (R480). -/
def lostScrub (s : State) : State :=
  if !s.lost.lost ∨ s.lost.scrubbed ∨ s.clk.stopped then s
  else
    let s1 := scrub { s with sec := { s.sec with keys := [], tsess := none, bindPub := none } } true
    let s2 : State := { s1 with lost := { s1.lost with scrubbed := true } }
    if s2.sec.tenancy = .teardown then vacate7 s2 else s2

/-- UNCORRECTABLE_FAULT: one of the classes of R497 that the device detects in an array, an engine, the bridge or an image. -/
def execUncorrectableFault (cls : Nat) (unit detail : Nat) (s : State) : Host.Outcome State Fault Refusal :=
  onUnit (decide (1 ≤ cls ∧ cls ≤ 11 ∧ (unit < 365 ∨ unit = 0xFFFF))) (loseDevice s cls unit detail)

/-- ENGINE_PROGRESS_TIMEOUT: an engine of cluster n made no progress on an accepted command for 1 ms; progress in the same cycle wins
(R140, R457). -/
def execEngineProgressTimeout (n eng : Nat) (met : Bool) (s : State) : Host.Outcome State Fault Refusal :=
  onUnit (decide (n < 18 ∧ eng < 6)) (if met then bump s (obsCtr 9) else loseDevice s 4 (unitClu n) eng)

end Sys2Proof.Machine
end

