-- ==== Sys2Proof/Machine/MemRows.lean ====
section
/-! DEFINITION. Package memory's patrol and spares, and the control cores (R105, R279). -/

namespace Sys2Proof.Machine
open Sys2Proof

/-- The address lies in the 96 GiB of package memory (R275, R276). -/
def pmExists (a : Nat) : Bool := decide (a / 2 ^ 36 < 2 ∧ a % 2 ^ 36 < 48 * 2 ^ 30)

/-- The address lies in an allocated area (R279, R280): the device reserve and the spill area, a save slot that holds an image, a
module image, or a berth's range. -/
def pmHeld (s : State) (a : Nat) : Bool :=
  let d := a / 2 ^ 36
  let o := a % 2 ^ 36
  if o < 0x10000000 then true
  else if o < modPoolBase then slotHolds s (8 * d + (o - 0x10000000) / 0x2200000)
  else
    let free (g : List Win) : Bool := g.any (fun w => decide (w.base ≤ o ∧ o < w.base + w.len))
    !free (mpGaps s d) && !free (bpGaps s d)

/-- Detail of a class 2 loss: stack [3:0], die-local offset [35:8] in [31:4] (R497). -/
def pmDetail (a : Nat) : Nat := stackOf a + a % 2 ^ 36 / 256 * 16

/-- PATROL_READ of the 64-byte line at `a`, in row `row` of its pseudo-channel: `err` is 0 for none, 1 for a corrected error and 2 for an
uncorrectable one. -/
def patrol (s : State) (a row : Nat) (err : BitVec 2) : State :=
  let line := a / 64 * 64
  if regField s (memOff + 4) 0 0 = 0 ∨ !s.clk.ready then s
  else
    let s1 := countPm (sysWork s 0 64) false line 64
    match err.toNat with
    | 0 => s1
    | 1 => pmCorrected s1 line row
    | _ =>
      if pmHeld s line then loseDevice s1 2 0xFFFF (pmDetail a)
      else bump (countPm (sysWork (pmPut s1 line (List.replicate 64 0)) 0 64) true line 64) (stackCtr (stackOf line) 3)
def execPatrolRead (a row : Nat) (err : BitVec 2) (s : State) : Host.Outcome State Fault Refusal :=
  onUnit (pmExists a) (patrol s a row err)

/-- A spare pseudo-channel of a stack is left: neither in service nor being filled (R105). -/
def pcSpareLeft (s : State) (st : Nat) : Bool :=
  decide (tabGet 0 s.mem.pcSpared st + (s.mem.pcCopies.filter (fun k => decide (k / 32 = st))).length < 2)

/-- A repair copy reads and writes `n` bytes within stack st, for no client (R300, R491). -/
def copyWork (s : State) (st n : Nat) : State :=
  sysWork (addCtr (addCtr s (stackCtr st 0) n) (stackCtr st 1) n) 0 (2 * n)

/-- MEMORY_ROW_REPAIR_DONE: the row's data is in its spare; 16 spared rows start the copy of the pseudo-channel while a spare one is
left.  The size of a row is not stated. -/
def rowRepaired (s : State) (st pc : Nat) : State :=
  let k := 32 * st + pc
  if !s.mem.rowCopies.contains k then s
  else
    let n := tabGet 0 s.mem.pcRows k + 1
    let copy := decide (n = 16) && pcSpareLeft s st
    let s1 := copyWork (useFree s) st (bitsOf (Config.freeWord s.free).toNat 31 0)
    { s1 with mem := { s1.mem with
        rowCopies := s1.mem.rowCopies.erase k, pcRows := tabSet 0 s1.mem.pcRows k n,
        rowsSpared := tabSet 0 s1.mem.rowsSpared st (Nat.min 255 (tabGet 0 s1.mem.rowsSpared st + 1)),
        pcCopies := if copy then s1.mem.pcCopies ++ [k] else s1.mem.pcCopies } }
def execMemoryRowRepairDone (stack pch : Nat) (s : State) : Host.Outcome State Fault Refusal :=
  onUnit (decide (stack < 8 ∧ pch < 32)) (rowRepaired s stack pch)

/-- PC_COPY_DONE: the 384 MiB are in the spare pseudo-channel, and the map switches.  A copy that no spared row started is one that a
failed interface lane did, for which the table has no row of its own (DESIGN CHOICE, log 175). -/
def pcCopied (s : State) (st pc : Nat) : State :=
  let k := 32 * st + pc
  if !s.mem.pcCopies.contains k && !pcSpareLeft s st then s
  else
    let s1 := copyWork s st (384 * 2 ^ 20)
    { s1 with mem := { s1.mem with
        pcCopies := s1.mem.pcCopies.erase k, pcRows := tabSet 0 s1.mem.pcRows k 0,
        pcSpared := tabSet 0 s1.mem.pcSpared st (tabGet 0 s1.mem.pcSpared st + 1) } }
def execPcCopyDone (stack pch : Nat) (s : State) : Host.Outcome State Fault Refusal :=
  onUnit (decide (stack < 8 ∧ pch < 32)) (pcCopied s stack pch)

/-! ## Control cores (R105, R443) -/

/-- The core that is SPARE. -/
def spareCore (s : State) : Option Nat := (upTo 5).find? (fun k => decide (coreState s k = .spare))

/-- A core fails: a window aborts, the SPARE core takes its duties; a failing SPARE core is QUARANTINED. -/
def coreFailed (s : State) (k : Nat) : State :=
  if !s.clk.ready then s
  else
    let s1 := abortWindow (abortWindow s false) true
    let noLoad (s : State) : State := modFw s false (fun f => { f with coreLoaded := false })
    match coreState s k with
    | .active =>
      match spareCore s1 with
      | some j => noLoad (setCore (setCore s1 k .outOfService) j .active)
      | none => setCore s1 k .outOfService
    | .spare =>
      noLoad (failCore s1 k)
    | _ => s

end Sys2Proof.Machine
end

