-- ==== Sys2Proof/Machine/Reports.lean ====
section
/-! DEFINITION. The attestation report and the firmware's end of the mailboxes (R324–R326, R384–R389). -/

namespace Sys2Proof.Machine
open Sys2Proof

/-! ## The report (R384–R386) -/

/-- A 384-bit digest as bytes. -/
def digestBytes (d : BitVec 384) : List (BitVec 8) := natLe d.toNat 48

/-- A unit byte: state and what it serves, 31 for none; a DRAINING unit is reported OUT_OF_SERVICE (R385). -/
def unitByte (u : UnitState) (serves : Option Nat) : Nat :=
  match u with
  | .active => 0 + 8 * serves.getD 31
  | .draining => 5 + 8 * 31
  | v => stateCode v + 8 * 31

/-- Units RETIRED: clusters, tiles, control cores and lanes. -/
def retiredCount (s : State) : Nat :=
  ((upTo 18).filter (fun n => decide (cluState s n = .retired))).length
    + ((upTo 306).filter (fun k => decide (tileState s (k / 17) (k % 17) = .retired))).length
    + ((upTo 5).filter (fun k => decide (coreState s k = .retired))).length
    + ((upTo 36).filter (fun k => decide (chnLane s (k / 9) (k % 9) = .retired))).length

def tenancyCode : Tenancy → Nat
  | .vacant => 0 | .bound => 1 | .teardown => 2
def tdiCode : Tdi → Nat
  | .unlocked => 0 | .locked => 1 | .run => 2 | .error => 3

/-- A verified image of a kind awaits its commit. -/
def pendingImage (s : State) (wd : Bool) : Option FwImage := if (fwOf s wd).phase = .staged then (fwOf s wd).pending else none
def bit (b : Bool) (k : Nat) : Nat := if b then 2 ^ k else 0

/-- Bytes 424–463: fuses, debug and tenancy. -/
def stateBytes (s : State) : List (BitVec 8) :=
  natLe Config.lifecycle.toNat 1 ++ natLe (bit s.sec.anchor.isSome 0 + bit s.fw.dbgDisable 1) 1 ++ natLe s.fw.floorHm.toNat 2
    ++ natLe s.fw.floorWd.toNat 2 ++ natLe (retiredCount s) 2 ++ (digestBytes (s.sec.anchor.getD 0)).take 24
    ++ natLe ((levelsNow s).toNat + bit s.sec.openSince 5) 1
    ++ natLe (tenancyCode s.sec.tenancy + 4 * tdiCode s.sec.tdi + bit s.sec.tsess.isSome 4 + bit s.sec.polLock 5) 1 ++ [0, 0]
    ++ natLe (dbgOpens s) 4

/-- Bytes 464–828: the partition. -/
def partitionBytes (s : State) : List (BitVec 8) :=
  (upTo 18).flatMap (fun n => natLe (unitByte (cluState s n) (lcluServed s n)) 1)
    ++ (upTo 306).flatMap (fun k => natLe (unitByte (tileState s (k / 17) (k % 17)) (slotServed s (k / 17) (k % 17))) 1)
    ++ (upTo 5).flatMap (fun k => natLe (unitByte (coreState s k) none) 1)
    ++ (upTo 36).flatMap (fun k => natLe (unitByte (chnLane s (k / 9) (k % 9)) none) 1)

/-- The report of this instant; the calibration digest and the signature are free values. -/
def reportBytes (s : State) (held : Bool) (nonce : BitVec 256) : List (BitVec 8) :=
  let free (i n : Nat) : List (BitVec 8) := (upTo n).map (fun k => Config.freeByte s.free (i + k))
  let vac := decide (s.sec.tenancy = .vacant)
  let pend (wd : Bool) : BitVec 384 := ((pendingImage s wd).map (·.digest)).getD 0
  let pending := (pendingImage s false).isSome || (pendingImage s true).isSome
  natLe 0x5441525A 4 ++ natLe 1 2 ++ natLe 0x9608 2 ++ natLe 0xB1 1
    ++ natLe (bit held 0 + bit pending 1 + bit (dbgOpen s) 2 + bit s.lost.lost 3) 1 ++ natLe 928 2
    ++ natLe (if vac then 0 else s.sec.tenantId.toNat) 4 ++ natLe (if vac then 0 else s.sec.tEpoch.toNat) 4 ++ natLe s.cal.epoch.toNat 4
    ++ natLe s.map.seq.toNat 4 ++ natLe s.tick.toNat 8 ++ natLe s.fw.hm.running.ver.toNat 2 ++ natLe s.fw.wd.running.ver.toNat 2
    ++ natLe nonce.toNat 32 ++ natLe Config.serial.toNat 16 ++ digestBytes Config.keyHash ++ digestBytes Config.romDigest
    ++ digestBytes s.fw.hm.running.digest ++ digestBytes s.fw.wd.running.digest ++ free 0 48 ++ digestBytes (pend false)
    ++ digestBytes (pend true) ++ stateBytes s ++ partitionBytes s ++ natLe (Nat.min 255 (ctr s (calCtr 18)).toNat) 1 ++ [0, 0] ++ free 48 96

/-- A report is signed. -/
def signReport (s : State) (held : Bool) (nonce : BitVec 256) : State × List (BitVec 8) :=
  (bump (useFree s) (secCtr 5), reportBytes s held nonce)

/-- A report request that finds a commit window open is held (R389). -/
def holdReport (s : State) (r : HeldReport) : State := bump { s with sec := { s.sec with held := s.sec.held ++ [r] } } (secCtr 6)

/-! ## Replies of the firmware (R324, R325, R388) -/

/-- A reply; one to an orphan carries the flags of the message it answers. -/
def reply (s : State) (c : BitVec 10) (reSeq : BitVec 32) (orph : Option (BitVec 16)) (status : Nat) (payload : List (BitVec 8)) : State :=
  queueMsg s c { type := 0x81, reply := true, orphan := orph.isSome, orphEpoch := orph.getD 0, sndEpoch := s.host.fwEpoch,
                 reSeq := reSeq, status := status, payload := payload }

/-- The five fragments of a report. -/
def reportReply (s : State) (c : BitVec 10) (reSeq : BitVec 32) (orph : Option (BitVec 16)) (status : Nat) (bs : List (BitVec 8)) : State :=
  (upTo 5).foldl (fun s i =>
    reply s c reSeq orph status (natLe i 1 ++ natLe 5 1 ++ natLe (220 * i) 2 ++ (bs.drop (220 * i)).take 220)) s

/-- A Cewieb response (R402). -/
def cwAnswer (s : State) (op status : Nat) (body : List (BitVec 8)) : State := emit s (.cewieb op status s.sec.mview body)

/-- When the windows have closed, the reports held for mailboxes and Cewieb are built and answered; those of SPDM wait for
RESPOND_IF_READY. -/
def answerHeld (s : State) : State :=
  if windowOpen s then s
  else
    let late := s.sec.held.filter (fun r => decide (r.path ≠ 0))
    let s1 : State := { s with sec := { s.sec with held := s.sec.held.filter (fun r => decide (r.path = 0)) } }
    late.foldl (fun s r =>
      let (s2, bs) := signReport s true r.nonce
      if r.path = 1 then reportReply s2 (BitVec.ofNat 10 r.who) r.seq r.orph stAttestHeld bs else cwAnswer s2 6 stAttestHeld bs) s1

/-! ## Messages that firmware takes (R325, R326) -/

/-- A well-formed H2F message (R324): reserved fields 0, at most 224 payload bytes. -/
def mailOk (m : List (BitVec 8)) : Bool :=
  decide (leAt m 1 1 = 0 ∧ leAt m 2 2 ≤ 224) && zeroAt m 17 15

def mailType (m : List (BitVec 8)) : Nat := leAt m 0 1
def mailPayload (m : List (BitVec 8)) : List (BitVec 8) := (m.drop 32).take (leAt m 2 2)

/-- The oldest message of client c that firmware has not taken: whether it is an orphan, and the state without it. -/
def takeMail (s : State) (c : BitVec 10) : Option (Option (BitVec 16) × State) :=
  let k := client s c
  match k.orph with
  | e :: rest => some (some e, bump (bump (setClient s c { k with orph := rest }) (hifCtr 14)) (hifCtr 17))
  | [] => if pageLive k && decide (k.h2fTail ≠ k.h2fHead) then
      some (none, hostBytes (bump (setClient s c { k with h2fHead := k.h2fHead + 1 }) (hifCtr 14)) c 256) else none

/-- Firmware takes a message of a type: a reserved type or a bad field is answered with BAD_DESCRIPTOR, and a message of another type
is another row's.  It takes none whose replies its outbox has no room for. -/
def onMail (s : State) (c : BitVec 10) (type : Nat) (m : List (BitVec 8)) (ok : Bool)
    (run : State → BitVec 32 → Option (BitVec 16) → State) : State :=
  let seq := BitVec.ofNat 32 (leAt m 4 4)
  let known := decide (mailType m = 1 ∨ mailType m = 2 ∨ mailType m = 3)
  if (known && decide (mailType m ≠ type)) || decide (64 < (client s c).outbox.length + (if type = 3 then 5 else 1)) then s
  else match takeMail s c with
    | none => s
    | some (orph, s1) => if known && mailOk m && ok then run s1 seq orph else reply s1 c seq orph stBadDesc []

/-- Harbourmaster takes requests: it runs and no window of its own is open (R440). -/
def hmTakes (s : State) : Bool := s.clk.ready && decide (s.fw.hm.phase ≠ .window)

def execEcho (c : BitVec 10) (slot : List (BitVec 8)) (s : State) : Host.Outcome State Fault Refusal :=
  .next (if hmTakes s then onMail s c 1 slot true (fun s q o => reply s c q o stOk (mailPayload slot)) else s)

/-- The running and pending digests and `fw_epoch`. -/
def infoPayload (s : State) : List (BitVec 8) :=
  let pend (wd : Bool) : BitVec 384 := ((pendingImage s wd).map (·.digest)).getD 0
  digestBytes s.fw.hm.running.digest ++ digestBytes s.fw.wd.running.digest ++ digestBytes (pend false) ++ digestBytes (pend true)
    ++ natLe s.host.fwEpoch.toNat 2
def execFirmwareInformation (c : BitVec 10) (slot : List (BitVec 8)) (s : State) : Host.Outcome State Fault Refusal :=
  .next (if hmTakes s then onMail s c 2 slot true (fun s q o => reply s c q o stOk (infoPayload s)) else s)

/-- REPORT_REQUEST: held while a window is open (R389, R409). -/
def execReportRequest (c : BitVec 10) (slot : List (BitVec 8)) (s : State) : Host.Outcome State Fault Refusal :=
  .next (if !s.clk.ready then s else onMail s c 3 slot (decide (leAt slot 2 2 = 32)) (fun s q o =>
    let nonce := BitVec.ofNat 256 (leAt slot 32 32)
    if windowOpen s then holdReport s { path := 1, who := c.toNat, seq := q, orph := o, nonce := nonce }
    else
      let (s1, bs) := signReport s false nonce
      reportReply s1 c q o stOk bs))

end Sys2Proof.Machine
end

