-- ==== Sys2Proof/Machine/Security.lean ====
section
/-! DEFINITION. SPDM, tenant messages, keys, IDE and TDISP (R304, R376–R383, R388–R397). -/

namespace Sys2Proof.Machine
open Sys2Proof

/-! ## The SPDM responder (R381, R390) -/

/-- An SPDM response. -/
def answer (s : State) (a : SpdmAnswer) : State := emit s (.spdm a)

/-- The warden takes an SPDM request: it answers nothing before boot has started it, and ResponseNotReady during its own commit window
(R441). -/
def onSpdm (s : State) (run : State → State) : State :=
  if !s.clk.ready then s else if s.fw.wd.phase = .window then answer s .notReady else run s

/-- A request that needs the connection to have come so far: 1 version, 2 capabilities, 3 algorithms. -/
def onStage (s : State) (n : Nat) (run : State → State) : State :=
  onSpdm s (fun s => if n ≤ s.sec.spdm then run s else answer s .error)

def setSpdm (s : State) (n : Nat) : State := { s with sec := { s.sec with spdm := n } }

def execGetVersion (s : State) : Host.Outcome State Fault Refusal := .next (onSpdm s (fun s => answer (setSpdm s 1) .version))
def execGetCapabilities (s : State) : Host.Outcome State Fault Refusal :=
  .next (onStage s 1 (fun s => answer (setSpdm s (Nat.max 2 s.sec.spdm)) .capabilities))

/-- NEGOTIATE_ALGORITHMS: `ok` says that the requester offers the one algorithm set of R381. -/
def execNegotiateAlgorithms (ok : Bool) (s : State) : Host.Outcome State Fault Refusal :=
  .next (onStage s 2 (fun s => if ok then answer (setSpdm s 3) .ok else answer s .error))

/-- GET_CERTIFICATE: only slot 0 holds a chain (R379). -/
def execGetCertificate (slot : Nat) (s : State) : Host.Outcome State Fault Refusal :=
  .next (onStage s 3 (fun s => if slot = 0 then answer s (.certificate Config.certChain) else answer s .error))

/-- SPDM_CHALLENGE: the signed response over the requester's nonce. -/
def execSpdmChallenge (nonce : BitVec 256) (s : State) : Host.Outcome State Fault Refusal :=
  .next (onStage s 3 (fun s => answer s (.challenge nonce)))

/-- The six digests of the report in the order of R381, indices 1–6. -/
def measurement (s : State) (ix : Nat) : List (BitVec 8) := ((reportBytes s false 0).drop (136 + 48 * (ix - 1))).take 48

/-- GET_MEASUREMENTS: index 0 is the count, 1–6 one digest, 0xFD and all (0xFF) the report, held over a commit window. -/
def measure (s : State) (ix : BitVec 8) (nonce : BitVec 256) : State :=
  let k := ix.toNat
  if k = 0 then answer s (.measurements ix nonce [7])
  else if k ≤ 6 then answer (useFree s) (.measurements ix nonce (measurement s k))
  else if k = 0xFD ∨ k = 0xFF then
    if windowOpen s then answer (holdReport s { path := 0, who := k, nonce := nonce }) .notReady
    else
      let (s1, bs) := signReport s false nonce
      answer s1 (.measurements ix nonce ((if k = 0xFF then (bs.drop 136).take 288 else []) ++ bs))
  else answer s .error
def execGetMeasurements (ix : BitVec 8) (nonce : BitVec 256) (s : State) : Host.Outcome State Fault Refusal :=
  .next (onStage s 3 (fun s => measure s ix nonce))

/-- RESPOND_IF_READY: the report held over a commit window, with flag [0] set (R389). -/
def respondReady (s : State) : State :=
  match s.sec.held.find? (fun r => decide (r.path = 0)) with
  | none => answer s .error
  | some r =>
    if windowOpen s then answer s .notReady
    else
      let (s1, bs) := signReport { s with sec := { s.sec with held := s.sec.held.erase r } } true r.nonce
      answer s1 (.measurements (BitVec.ofNat 8 r.who) r.nonce ((if r.who = 0xFF then (bs.drop 136).take 288 else []) ++ bs))
def execRespondIfReady (s : State) : Host.Outcome State Fault Refusal := .next (onStage s 3 respondReady)

/-! ## Sessions (R381, R383) -/

def sessionOf (s : State) (sn : Nat) : Option Session := tabFind s.sec.sessions sn
/-- A session whose set-up is complete. -/
def live (s : State) (sn : Nat) : Bool := match sessionOf s sn with | some x => x.finished | none => false
def setSessions (s : State) (t : Tab Session) : State := { s with sec := { s.sec with sessions := t } }

/-- KEY_EXCHANGE: the lowest free of the four sessions opens. -/
def keyExchange (s : State) : State :=
  match (upTo 4).find? (fun k => (sessionOf s k).isNone) with
  | some k => answer (bump (setSessions s (tabPut s.sec.sessions k {})) (secCtr 3)) (.session k)
  | none => answer s .error
def execKeyExchange (s : State) : Host.Outcome State Fault Refusal := .next (onStage s 3 keyExchange)

/-- FINISH completes session `sn`; `pub` is the digest of the requester's public key when it is mutually authenticated. -/
def finishSession (s : State) (sn : Nat) (pub : Option (BitVec 384)) : State :=
  match sessionOf s sn with
  | some x =>
    if x.finished then answer s .error
    else answer (setSessions s (tabPut s.sec.sessions sn { finished := true, mutualAuth := pub.isSome, pub := pub.getD 0 })) .ok
  | none => answer s .error
def execFinish (sn : Nat) (pub : Option (BitVec 384)) (s : State) : Host.Outcome State Fault Refusal :=
  .next (onStage s 3 (fun s => finishSession s sn pub))

/-- A session ends; a tenant whose session it was stays BOUND (R383). -/
def endSession (s : State) (sn : Nat) : State :=
  { s with sec := { s.sec with sessions := tabErase s.sec.sessions sn, tsess := if s.sec.tsess = some sn then none else s.sec.tsess } }

/-- A request within a live session. -/
def inSession (s : State) (sn : Nat) (run : State → State) : State :=
  onSpdm s (fun s => if live s sn then run s else answer s .error)

def execEndSession (sn : Nat) (s : State) : Host.Outcome State Fault Refusal :=
  .next (inSession s sn (fun s => answer (endSession s sn) .ok))
def execHeartbeat (sn : Nat) (s : State) : Host.Outcome State Fault Refusal := .next (inSession s sn (fun s => answer s .ok))
def execKeyUpdate (sn : Nat) (s : State) : Host.Outcome State Fault Refusal :=
  .next (inSession s sn (fun s => answer { s with sec := { s.sec with keyUpdates := s.sec.keyUpdates + 1 } } .ok))

/-- HEARTBEAT_LAPSE: a heartbeat in the same cycle wins (R457). -/
def execHeartbeatLapse (sn : Nat) (met : Bool) (s : State) : Host.Outcome State Fault Refusal :=
  .next (if !live s sn then s else if met then bump s (obsCtr 9) else endSession s sn)

/-! ## IDE and TDISP (R393, R394) -/

def ideOf (s : State) (st : Nat) : Ide := tabGet {} s.sec.ide st
def setIde (s : State) (st : Nat) (v : Ide) : State := { s with sec := { s.sec with ide := tabSet {} s.sec.ide st v } }
/-- The stream is in the Secure state: one of its key sets is in use. -/
def secure (s : State) (st : Nat) : Bool := decide ((ideOf s st).go ≠ 0)
def keyedSet (v : Ide) (set : Bool) : Bool := if set then v.keyed1 else v.keyed0
def putSet (v : Ide) (set on : Bool) : Ide := if set then { v with keyed1 := on } else { v with keyed0 := on }

/-- The TDI leaves CONFIG_LOCKED or RUN for ERROR; a tenant bound with `tdisp` is torn down (R376, R394, R409). -/
def tdiError (s : State) : State :=
  if s.sec.tdi = .locked ∨ s.sec.tdi = .run then
    let s1 := setTdi s .error
    if s1.sec.tdisp then teardown s1 else s1
  else s

def execKeyProg (sn st : Nat) (set : Bool) (s : State) : Host.Outcome State Fault Refusal :=
  .next (inSession s sn (fun s => if st < 4 then answer (setIde s st (putSet (ideOf s st) set true)) .ok else answer s .error))
def execKSetGo (sn st : Nat) (set : Bool) (s : State) : Host.Outcome State Fault Refusal :=
  .next (inSession s sn (fun s =>
    if st < 4 && keyedSet (ideOf s st) set then answer (setIde s st { ideOf s st with go := if set then 2 else 1 }) .ok else answer s .error))

/-- K_SET_STOP: the key set ends, and with it the Secure state of a stream that uses it. -/
def stopSet (s : State) (st : Nat) (set : Bool) : State :=
  let v := putSet (ideOf s st) set false
  let s1 := setIde s st { v with go := if v.go = (if set then 2 else 1) then 0 else v.go }
  if secure s st && !secure s1 st && decide (s.sec.tdiStream = st) then tdiError s1 else s1
def execKSetStop (sn st : Nat) (set : Bool) (s : State) : Host.Outcome State Fault Refusal :=
  .next (inSession s sn (fun s => if st < 4 then answer (stopSet s st set) .ok else answer s .error))
def execQuery (sn st : Nat) (s : State) : Host.Outcome State Fault Refusal :=
  .next (inSession s sn (fun s =>
    if st < 4 then answer s (.keyStatus st (ideOf s st).keyed0 (ideOf s st).keyed1 (ideOf s st).go) else answer s .error))

/-- LOCK_INTERFACE_REQUEST, binding the TDI to IDE stream `st`. -/
def execLockInterfaceRequest (sn st : Nat) (s : State) : Host.Outcome State Fault Refusal :=
  .next (inSession s sn (fun s =>
    if s.sec.tdi = .unlocked ∧ st < 4 ∧ secure s st then
      answer (setTdi { s with sec := { s.sec with tdiStream := st } } .locked) .ok
    else answer s .error))

def execStartInterfaceRequest (sn : Nat) (s : State) : Host.Outcome State Fault Refusal :=
  .next (inSession s sn (fun s =>
    if s.sec.tdi = .locked ∧ s.sec.tenancy = .bound ∧ s.sec.tdisp then answer (setTdi s .run) .ok else answer s .error))

/-- STOP_INTERFACE_REQUEST: a tenant bound with `tdisp` is torn down first; the TDI unlocks when no teardown is left to complete. -/
def stopInterface (s : State) : State :=
  if s.sec.tdi = .unlocked then s
  else
    let s1 := if s.sec.tdisp then teardown s else s
    if s1.sec.tenancy = .teardown then { s1 with sec := { s1.sec with tdiStop := true } } else setTdi s1 .unlocked
def execStopInterfaceRequest (sn : Nat) (s : State) : Host.Outcome State Fault Refusal :=
  .next (inSession s sn (fun s => answer (stopInterface s) .ok))

/-- GET_DEVICE_INTERFACE_REPORT: windows 0 and 2, once the TDI is locked. -/
def execGetDeviceInterfaceReport (sn : Nat) (s : State) : Host.Outcome State Fault Refusal :=
  .next (inSession s sn (fun s =>
    if s.sec.tdi = .locked ∨ s.sec.tdi = .run then answer s (.interfaceReport [0, 2]) else answer s .error))

/-- HOST_LINK_RESET (R304, R393, R394): every client that is not DISABLED is reset, unless the TDI's error tears a `tdisp` tenant down; a
hot reset and a link down end the IDE keys. -/
def linkReset (s : State) (kind : LinkReset) : State :=
  let s1 := match kind with
    | .functionLevel => s
    | .hot => { s with sec := { s.sec with ide := [] } }
    | .linkDown => { s with sec := { s.sec with ide := [] }, host := { s.host with linkUp := false, rate := 0, width := 0 } }
  let torn := s1.sec.tdisp && decide (s1.sec.tdi = .locked ∨ s1.sec.tdi = .run)
  let s2 := tdiError s1
  if torn then s2
  else s2.clients.foldl (fun s e =>
    if s.sec.tenancy = .teardown then resetNow s (BitVec.ofNat 10 e.1) else resetClient s (BitVec.ofNat 10 e.1)) s2
def execHostLinkReset (kind : LinkReset) (s : State) : Host.Outcome State Fault Refusal :=
  .next (if s.clk.ready then linkReset s kind else s)

/-! ## Tenant messages (R380–R383, R392) -/

/-- The answer to a tenant message: code, status, `t_epoch` and body. -/
def tenantAnswer (s : State) (code status : Nat) (body : List (BitVec 8)) : State :=
  let s1 := if status = stOk then s else bump s (secCtr 4)
  emit s1 (.tenant code status s.sec.tEpoch body)

/-- A tenant message in a live session: refused during a teardown, and for a reserved byte. -/
def onTenant (s : State) (sn code : Nat) (resv : BitVec 24) (run : State → State) : State :=
  inSession s sn (fun s =>
    if s.sec.tenancy = .teardown then tenantAnswer s code stTeardown []
    else if resv ≠ 0 then tenantAnswer s code stBadDesc []
    else run s)

/-- A message that only the tenant session may send. -/
def asTenant (s : State) (sn code : Nat) (resv : BitVec 24) (run : State → State) : State :=
  onTenant s sn code resv (fun s =>
    if s.sec.tenancy = .bound ∧ s.sec.tsess = some sn then run s else tenantAnswer s code stBadDesc [])

/-- The conditions of R383 for a bind. -/
def mayBind (s : State) (sn : Nat) (flags : BitVec 32) : Bool :=
  let auth := match sessionOf s sn with | some x => x.mutualAuth | none => false
  decide (s.sec.tenancy = .vacant ∧ flags.toNat < 8) && (!s.sec.bindMutual || auth)
  && (!(flags.getLsbD 0 || s.sec.tdispReq) || decide (s.sec.tdi = .locked)) && !(flags.getLsbD 2 && dbgOpen s)

/-- TENANT_BIND is accepted. -/
def bindTenant (s : State) (sn : Nat) (id flags : BitVec 32) : State :=
  let pub := match sessionOf s sn with | some x => if x.mutualAuth then some x.pub else none | none => none
  let s1 := bumpView { s with sec := { s.sec with
    tenancy := .bound, tenantId := id, tEpoch := 1, tsess := some sn, bindPub := pub, tdisp := flags.getLsbD 0,
    dbgTeardown := flags.getLsbD 1, openSince := dbgOpen s } }
  logEvent (bump s1 (secCtr 0)) 5 0xFFFF id.toNat
def execTenantBind (sn : Nat) (resv : BitVec 24) (id flags : BitVec 32) (s : State) : Host.Outcome State Fault Refusal :=
  .next (onTenant s sn 1 resv (fun s =>
    if mayBind s sn flags && !s.lost.lost then tenantAnswer (bindTenant s sn id flags) 1 stOk [] else tenantAnswer s 1 stBadDesc []))

/-- TENANT_RESUME: the same tenant, the same public key as at the bind, while no tenant session is live. -/
def mayResume (s : State) (sn : Nat) (id : BitVec 32) : Bool :=
  decide (s.sec.tenancy = .bound ∧ s.sec.tenantId = id ∧ s.sec.tsess = none ∧ s.sec.bindPub.isSome)
  && (match sessionOf s sn with | some x => x.mutualAuth && decide (s.sec.bindPub = some x.pub) | none => false)
def execTenantResume (sn : Nat) (resv : BitVec 24) (id : BitVec 32) (s : State) : Host.Outcome State Fault Refusal :=
  .next (onTenant s sn 2 resv (fun s =>
    if mayResume s sn id then tenantAnswer { s with sec := { s.sec with tsess := some sn } } 2 stOk [] else tenantAnswer s 2 stBadDesc []))

def execTenantRelease (sn : Nat) (resv : BitVec 24) (s : State) : Host.Outcome State Fault Refusal :=
  .next (asTenant s sn 3 resv (fun s => tenantAnswer (teardownAsked s) 3 stOk []))

/-- Live job keys. -/
def liveJobs (s : State) : List (BitVec 32) := ((s.sec.keys.filter (fun k => decide (k.kind = 3))).map (fun k => k.id)).eraseDups
def keysOf (s : State) (kind : Nat) : List TKey := s.sec.keys.filter (fun k => decide (k.kind = kind))
def addKey (s : State) (k : TKey) : State := { s with sec := { s.sec with keys := s.sec.keys ++ [k] } }

/-- What a KEY_PUT does: the status that refuses it, or the state with the key. -/
def keyPut (s : State) (kind : Nat) (id : BitVec 32) (epoch : BitVec 8) (key : BitVec 256) : Nat ⊕ State :=
  let now := s.sec.tEpoch
  match kind with
  | 1 =>
    if (keysOf s 1).any (fun k => decide (k.epoch = now)) then .inl stBadDesc
    else if 2 ≤ (keysOf s 1).length then .inl stNoFit
    else .inr (addKey s { kind := 1, id := id, epoch := now, key := key })
  | 2 =>
    let same (k : TKey) : Bool := decide (k.kind = 2 ∧ k.id = id ∧ k.epoch = now)
    let s1 : State := { s with sec := { s.sec with keys := s.sec.keys.filter (fun k => !same k) } }
    if 4096 ≤ (keysOf s1 2).length then .inl stNoFit else .inr (addKey s1 { kind := 2, id := id, epoch := now, key := key })
  | 3 =>
    let job := id.toNat
    let ep := epoch.setWidth 32
    if 2 ^ 16 ≤ job ∨ (jobKeys s job).any (fun k => decide (k.epoch = ep)) then .inl stBadDesc
    else if (jobKeys s job).isEmpty ∧ 1024 ≤ (liveJobs s).length then .inl stNoFit
    else
      let s1 := match jobKeys s job with
        | old :: _ :: _ => retireEpoch s job old.epoch
        | _ => s
      .inr (addKey s1 { kind := 3, id := id, epoch := ep, key := key })
  | _ => .inl stBadDesc
def execKeyPut (sn : Nat) (resv : BitVec 24) (kind : BitVec 8) (id : BitVec 32) (epoch : BitVec 8) (key : BitVec 256) (s : State) :
    Host.Outcome State Fault Refusal :=
  .next (asTenant s sn 4 resv (fun s => match keyPut s kind.toNat id epoch key with
    | .inl st => tenantAnswer s 4 st []
    | .inr t => tenantAnswer (bump t (secCtr 7)) 4 stOk []))

/-- A load under way ends: what it has written is zeroed and freed (R391). -/
def endLoad (s : State) (slot : BitVec 8) (status : Nat) : State :=
  let m := module s slot
  let s1 := m.copies.foldl (fun s c => storePut (clearRecords s slot c) c.lclu.toNat c.mw.base (List.replicate c.mw.len 0)) s
  let s2 := m.images.foldl (fun s i => { s with pm := s.pm.filter (fun c =>
    !decide (paOf i.1 i.2 ≤ c.1 ∧ c.1 < paOf i.1 i.2 + imageBytes m.desc)) }) s1
  let s3 := bump (setModule s2 slot {}) (bthCtr 18)
  match findItem s3 m.client m.item with
  | some i => completeItem s3 m.client i status []
  | none => s3

/-- KEY_ROLL: the epoch advances, and state and bundle keys two epochs old are zeroised; a load whose key goes ends with KEY_EPOCH
(R382, R409). -/
def keyRoll (s : State) : State :=
  let now := s.sec.tEpoch + 1
  let old (k : TKey) : Bool := decide (k.kind ≠ 3 ∧ k.epoch.toNat + 2 ≤ now.toNat)
  let s1 : State := { s with sec := { s.sec with tEpoch := now, keys := s.sec.keys.filter (fun k => !old k) } }
  let cut := s1.mods.filter (fun e => decide (e.2.st = .loading) && !e.2.desc.bundles.all (bundleKey s1))
  bump (cut.foldl (fun s e => endLoad s (BitVec.ofNat 8 e.1) stKeyEpoch) s1) (secCtr 8)
def execKeyRoll (sn : Nat) (resv : BitVec 24) (s : State) : Host.Outcome State Fault Refusal :=
  .next (asTenant s sn 5 resv (fun s => tenantAnswer (keyRoll s) 5 stOk []))

/-- KEY_RETIRE of an epoch that is live. -/
def execKeyRetire (sn : Nat) (resv : BitVec 24) (job : BitVec 16) (epoch : BitVec 8) (s : State) : Host.Outcome State Fault Refusal :=
  .next (asTenant s sn 6 resv (fun s =>
    if (jobKey s job.toNat epoch.toNat).isSome then tenantAnswer (retireEpoch s job.toNat (epoch.setWidth 32)) 6 stOk []
    else tenantAnswer s 6 stBadDesc []))

/-- KEY_STATUS: the slots in use, state keys, bundle keys and jobs. -/
def execKeyStatus (sn : Nat) (resv : BitVec 24) (s : State) : Host.Outcome State Fault Refusal :=
  .next (asTenant s sn 7 resv (fun s =>
    tenantAnswer s 7 stOk (natLe (keysOf s 1).length 4 ++ natLe (keysOf s 2).length 4 ++ natLe (liveJobs s).length 4)))

end Sys2Proof.Machine
end

