-- ==== Sys2Proof/Machine/Clocks.lean ====
section
/-! DEFINITION. Roots, gears and the reference (R411–R425, R443). -/

namespace Sys2Proof.Machine
open Sys2Proof

/-- Something outside the device can reach it: the internal reset is not asserted, and CRITICAL has not stopped the clocks. -/
def alive (s : State) : Bool := !s.clk.inReset && !s.clk.stopped

/-- A root is locked; 0 port die, 1 starboard die, 2 hub (R412, R422). -/
def rootLocked (s : State) (r : Nat) : Bool := tabGet false s.clk.lock r
def setRoot (s : State) (r : Nat) (on : Bool) : State := { s with clk := { s.clk with lock := tabSet false s.clk.lock r on } }

/-- The software bound of a die's gear. -/
def gearCeil (s : State) (d : Nat) : Nat := regField s clkOff (4 * d + 2) (4 * d)

/-- The gear in force on a die (R417). -/
def gearInForce (s : State) (d : Nat) : Nat :=
  Nat.max (gearCeil s d) (Nat.max (tabGet 0 s.clk.guardGear d)
    (Nat.max (tabGet {} s.thm.dies d).gt (if rootLocked s d then 0 else 5)))

/-- The gear whose ratios the die's dividers hold. -/
def gearLoaded (s : State) (d : Nat) : Nat := tabGet 5 s.clk.gear d
def setGear (s : State) (d g : Nat) : State :=
  { s with clk := { s.clk with gear := tabSet 5 s.clk.gear d g, arr := tabSet 0 s.clk.arr d (arrayTwelfths s d),
                               arrAt := tabSet 0 s.clk.arrAt d s.tick.toNat } }

/-- 1 µs has passed since a die's latest change to a faster gear (R418; the tick measures it, DEDUCED, log 193). -/
def mayClimb (s : State) (d : Nat) : Bool := decide (tabGet 0 s.clk.climbAt d ≤ s.tick.toNat)

/-- A die climbs one gear, and no further for 1 µs. -/
def climb (s : State) (d : Nat) : State :=
  let s1 := setGear s d (gearLoaded s d - 1)
  { s1 with clk := { s1.clk with climbAt := tabSet 0 s1.clk.climbAt d (s.tick.toNat + 100) } }

/-- GEAR_CHANGE: the dividers drop to any slower gear at once, and climb one gear a µs (R418). -/
def gearChange (s : State) (d : Nat) : State :=
  let want := gearInForce s d
  let now := gearLoaded s d
  if !alive s || decide (want = now) then s
  else if now < want then bump (setGear s d want) (clkCtr 0)
  else if mayClimb s d then bump (climb s d) (clkCtr 0)
  else s
def execGearChange (die : Nat) (s : State) : Host.Outcome State Fault Refusal := onUnit (decide (die < 2)) (gearChange s die)

/-- The roots that are out of lock, as a mask. -/
def rootsOut (s : State) : Nat := ((upTo 3).filter (fun r => !rootLocked s r)).foldl (fun m r => m + 2 ^ r) 0

/-- ROOT_UNLOCK: a compute die goes on from the hub root at gear 5, the hub from a die root; two roots out lose the device
(R423–R425). -/
def rootUnlocked (s : State) (r : Nat) : State :=
  if !alive s || !rootLocked s r then s
  else
    let s1 := setRoot s r false
    let s2 := bump { s1 with clk := { s1.clk with attempts := tabSet 0 s1.clk.attempts r 0 } } (clkCtr 1)
    let s3 := if r < 2 then setGear s2 r 5 else s2
    if (upTo 3).any (fun q => decide (q ≠ r) && !rootLocked s q) then loseDevice s3 10 0xFFFF (rootsOut s3) else s3
def execRootUnlock (root : Nat) (s : State) : Host.Outcome State Fault Refusal := onUnit (decide (root < 3)) (rootUnlocked s root)

/-- ROOT_LOCK_CONFIRMED. -/
def rootConfirmed (s : State) (r : Nat) : State :=
  if !alive s || !s.clk.refValid || tabGet false s.clk.rootDown r then s
  else { s with clk := { s.clk with lock := tabSet false s.clk.lock r true, attempts := tabSet 0 s.clk.attempts r 0 } }
def execRootLockConfirmed (root : Nat) (s : State) : Host.Outcome State Fault Refusal :=
  onUnit (decide (root < 3)) (rootConfirmed s root)

/-- ROOT_LOCK_TIMEOUT: 1 ms without lock; a lock in the same cycle wins (R457), and the third failure leaves the root down. -/
def rootExpired (s : State) (r : Nat) (met : Bool) : State :=
  if !alive s || rootLocked s r || tabGet false s.clk.rootDown r then s
  else if met then bump s (obsCtr 9)
  else
    let n := tabGet 0 s.clk.attempts r + 1
    let s1 : State := { s with clk := { s.clk with attempts := tabSet 0 s.clk.attempts r n } }
    if n < 3 then s1
    else setIrqFlag { s1 with clk := { s1.clk with rootDown := tabSet false s1.clk.rootDown r true } } fRootFail
def execRootLockTimeout (root : Nat) (met : Bool) (s : State) : Host.Outcome State Fault Refusal :=
  onUnit (decide (root < 3)) (rootExpired s root met)

/-- REFCLK_LOSS: in service the device is lost; a boot waits (R414). -/
def refLost (s : State) : State :=
  let s1 : State := { s with clk := { s.clk with refValid := false } }
  if s.clk.ready then loseDevice s1 8 0xFFFF 0 else s1
def execRefclkLoss (s : State) : Host.Outcome State Fault Refusal := .next (refLost s)

/-- REFCLK_VALID: a boot that waits at hub-root lock goes on (R414, R433). -/
def refFound (s : State) : State :=
  let s1 : State := { s with clk := { s.clk with refValid := true } }
  if alive s && !s.clk.ready then (upTo 3).foldl (fun s r => setRoot s r (!tabGet false s.clk.rootDown r)) s1 else s1
def execRefclkValid (s : State) : Host.Outcome State Fault Refusal := .next (refFound s)

end Sys2Proof.Machine
end

