-- ==== Sys2Proof/Machine/Update.lean ====
section
/-! DEFINITION. Firmware images and the update phases up to the opening of a commit window (R434–R439, R442). -/

namespace Sys2Proof.Machine
open Sys2Proof

/-! ## Refusals (R422) -/

def setImgErr (s : State) (e : Nat) : State := { s with fw := { s.fw with imgErr := e } }

/-- `img_err` is set: to the one cause that its table lists, or, where several causes hold or one that it does not list (`other`), to
a value that no rule states. -/
def imgRefused (s : State) (causes : List Nat) (other : Bool) : State :=
  match other, causes.eraseDups with
  | false, [e] => setImgErr s e
  | _, _ => setImgErr (useFree s) (1 + (Config.freeWord s.free).toNat % 8)

/-! ## Images (R434, R436) -/

/-- SHA-384 of bytes. -/
def digestOf (bs : List (BitVec 8)) : List (BitVec 8) := (sha384 (bs.map (·.toNat))).map (BitVec.ofNat 8 ·)

/-- What names the image of a file: its digest is that of header and body together. -/
def fileImage (f : FwFile) : FwImage :=
  { ver := BitVec.ofNat 16 (leAt f.header 16 2), seq := BitVec.ofNat 32 (leAt f.header 20 4),
    digest := BitVec.ofNat 384 (leNat (digestOf (f.header ++ f.body))) }

/-- The fused floor of a kind. -/
def floorOf (s : State) (wd : Bool) : BitVec 16 := if wd then s.fw.floorWd else s.fw.floorHm

/-- The longest body of a kind. -/
def bodyMax (wd : Bool) : Nat := if wd then 524288 else 1048576

/-- Magic, format version, signer index, zero fields and body digest: checks that name no code of `img_err`. -/
def formOk (f : FwFile) : Bool :=
  decide (f.header.length = 256 ∧ leAt f.header 0 4 = 0x4D57465A ∧ leAt f.header 4 2 = 1 ∧ leAt f.header 11 1 ≤ 3)
  && zeroAt f.header 7 1 && zeroAt f.header 18 2 && zeroAt f.header 72 8 && zeroAt f.header 176 80
  && decide ((f.header.drop 24).take 48 = digestOf f.body)

/-- Kind, part and stepping. -/
def partOk (wd : Bool) (f : FwFile) : Bool := decide (leAt f.header 6 1 = fwCode wd ∧ leAt f.header 8 2 = 0x9608 ∧ leAt f.header 10 1 = 0xB1)

/-- The length of the body is as the header states and within the kind's bound. -/
def lengthOk (wd : Bool) (f : FwFile) : Bool := decide (leAt f.header 12 4 = f.body.length ∧ f.body.length ≤ bodyMax wd)

/-- The listed causes for which a file is not a valid image of a kind. -/
def imageCauses (s : State) (wd : Bool) (f : FwFile) : List Nat :=
  (if f.sigOk then [] else [1]) ++ (if (floorOf s wd).toNat ≤ leAt f.header 16 2 then [] else [2])
    ++ (if partOk wd f then [] else [3]) ++ (if lengthOk wd f then [] else [4])

/-- A file is a valid image of a kind (R436). -/
def imageValid (s : State) (wd : Bool) (f : FwFile) : Bool := formOk f && (imageCauses s wd f).isEmpty

/-- `img_err` for an invalid file. -/
def invalidImage (s : State) (wd : Bool) (f : FwFile) : State :=
  imgRefused s (imageCauses s wd f) (!formOk f)

/-! ## Staging (R438, R439) -/

/-- A stage request is accepted in IDLE only: the inactive slot of the device reserve is cleared. -/
def stageBegin (s : State) (wd : Bool) (len : Nat) (cw : Bool) : State :=
  setPhase (modFw s wd (fun k => { k with pending := none, len := len, chunks := [], byCewieb := cw, flashed := false, coreLoaded := false }))
    wd .staging

/-- A stage ends without an image. -/
def stageEnd (s : State) (wd : Bool) : State :=
  bump (setPhase (modFw s wd (fun k => { k with pending := none, len := 0, chunks := [] })) wd .idle) (clkCtr 4)

/-- Bytes of a stage that have arrived. -/
def chunkBytes (k : FwKind) : Nat := sumNat (k.chunks.map (fun c => c.2.length))

/-- Every byte of the stage is there. -/
def stageFull (k : FwKind) : Bool := !k.byCewieb || decide (k.len ≤ chunkBytes k)

/-- The byte that the chunks of a stage left at an offset: the latest chunk that holds it. -/
def chunkByte (cs : List (Nat × List (BitVec 8))) (a : Nat) : BitVec 8 :=
  match cs.reverse.find? (fun c => decide (c.1 ≤ a ∧ a < c.1 + c.2.length)) with
  | some c => c.2.getD (a - c.1) 0
  | none => 0

/-- The image that a stage holds: over Cewieb the bytes of its chunks, over the host path the file that was read. -/
def stagedFile (k : FwKind) (f : FwFile) : FwFile :=
  if k.byCewieb then
    { f with header := (upTo (Nat.min 256 k.len)).map (chunkByte k.chunks),
             body := (upTo (k.len - 256)).map (fun i => chunkByte k.chunks (256 + i)) }
  else f

/-- The staged image is programmed into the inactive flash slot, which is cleared for it. -/
def clearSpare (s : State) (wd : Bool) : State := if fromFlash s then modSlot s (spareSlot s wd) (fun _ => {}) else s

/-- The last byte is written and the image is checked; none stands for an error of host memory (R305). -/
def stageDone (s : State) (wd : Bool) (file : Option FwFile) : State :=
  let k := fwOf s wd
  if k.phase ≠ .staging ∨ !stageFull k ∨ !alive s then s
  else match file with
    | none => stageEnd (setImgErr s 5) wd
    | some g =>
      let f := stagedFile k g
      if !imageValid s wd f then stageEnd (invalidImage s wd f) wd
      else if f.body.length + 256 ≠ k.len then stageEnd (setImgErr s 4) wd
      else
        let load (k : FwKind) : FwKind := { k with pending := some (fileImage f), coreLoaded := !wd && (spareCore s).isSome }
        setPhase (modFw (clearSpare s wd) wd load) wd .staged
def execStageDone (wd : Bool) (file : Option FwFile) (s : State) : Host.Outcome State Fault Refusal := .next (stageDone s wd file)

/-- FLASH_WRITE_DONE: the staged image is in its flash slot with its STAGED byte, or the write failed. -/
def flashDone (s : State) (wd ok : Bool) : State :=
  let k := fwOf s wd
  if !alive s then s
  else match k.phase, k.pending with
    | .staged, some im =>
      if !fromFlash s || k.flashed then s
      else if ok then modFw (modSlot s (spareSlot s wd) (fun _ => { image := some im, staged := true })) wd (fun k => { k with flashed := true })
      else setImgErr s 8
    | .persist, _ => if ok then s else setImgErr s 8
    | _, _ => s
def execFlashWriteDone (wd ok : Bool) (s : State) : Host.Outcome State Fault Refusal := .next (flashDone s wd ok)

/-! ## Requests -/

/-- A stage request over the host path. -/
def hostStage (s : State) (kind len : Nat) : State :=
  if kind ≠ 1 ∧ kind ≠ 2 then setImgErr s 3
  else if (fwOf s (decide (kind = 2))).phase ≠ .idle ∨ !s.clk.ready then setImgErr s 6
  else stageBegin s (decide (kind = 2)) len false

/-- The conditions of R439 that a commit does not meet: the codes of `img_err` for those that have one. -/
def commitCauses (s : State) (wd : Bool) : List Nat :=
  let k := fwOf s wd
  (if (fwOf s (!wd)).phase = .window then [6] else []) ++ (if wd || (k.coreLoaded && (spareCore s).isSome) then [] else [7])
    ++ (if fromFlash s && !k.flashed && decide (s.fw.imgErr = 8) then [8] else [])
/-- …and whether one without a code holds. -/
def commitOther (s : State) (wd : Bool) : Bool := (fromFlash s && !(fwOf s wd).flashed && decide (s.fw.imgErr ≠ 8)) || s.lost.lost

/-- A commit request for a kind: whether it was accepted, and the state after it. -/
def commitKind (s : State) (wd : Bool) : Bool × State :=
  if (fwOf s wd).phase ≠ .staged then (false, setImgErr s 6)
  else if (commitCauses s wd).isEmpty && !commitOther s wd then (true, setPhase s wd .window)
  else (false, imgRefused s (commitCauses s wd) (commitOther s wd))

/-- A cancel request: in STAGING it ends the stage and sets `img_err`, in STAGED it drops the image (R438). -/
def cancelKind (s : State) (wd : Bool) : Bool × State :=
  match (fwOf s wd).phase with
  | .staging => (true, stageEnd (imgRefused s [] true) wd)
  | .staged => (true, setPhase (dropPending s wd) wd .idle)
  | _ => (false, setImgErr s 6)

/-- A request for one of the two kinds. -/
def onKind (s : State) (kind : Nat) (run : Bool → State) : State :=
  if kind = 1 then run false else if kind = 2 then run true else setImgErr s 3

/-- PERSIST_DONE: the new slot is ACTIVE, then the old one RETIRED. -/
def persisted (s : State) (wd : Bool) : State :=
  if (fwOf s wd).phase ≠ .persist ∨ !alive s then s
  else
    let s1 := modSlot s (spareSlot s wd) (fun x => { x with active := true })
    let s2 := modSlot s1 (bootSlot s wd) (fun x => { x with retired := true })
    setPhase (modFw s2 wd (fun k => { k with slotB := !k.slotB })) wd .idle
def execPersistDone (wd : Bool) (s : State) : Host.Outcome State Fault Refusal := .next (persisted s wd)

/-! ## Images for the boot ROM (R436, R437) -/

/-- The boot ROM waits for images on the host path: that is the boot source, or no slot of flash was valid. -/
def waitsHost (s : State) : Bool := alive s && !s.clk.ready && !testBypass s && (decide (strapBoot s = 1) || s.fw.waitBundle)
/-- …and on the management path, once the operator anchor is fused. -/
def waitsManagement (s : State) : Bool :=
  alive s && !s.clk.ready && !testBypass s && s.sec.anchor.isSome && (decide (strapBoot s = 2) || s.fw.waitBundle)

/-- One image is supplied to the boot ROM: an invalid one sets `img_err`, and the boot ROM waits for a boot bundle. -/
def supply (s : State) (wd : Bool) (f : FwFile) : State :=
  if imageValid s wd f then
    { s with fw := if wd then { s.fw with bootWd := some (fileImage f) } else { s.fw with bootHm := some (fileImage f) } }
  else
    let s1 := invalidImage s wd f
    { s1 with fw := { s1.fw with waitBundle := true, bootHm := none, bootWd := none } }

/-- A boot bundle, warden first: none stands for an error of host memory. -/
def bootLoad (s : State) (files : Option (FwFile × FwFile)) : State :=
  if !waitsHost s then setImgErr s 6
  else match files with
    | none => setImgErr s 5
    | some (w, h) => if imageValid s true w then supply (supply s true w) false h else supply s true w

end Sys2Proof.Machine
end

