-- ==== Sys2Proof/Machine/RegRead.lean ====
section
/-! DEFINITION. What window 0 reads: registers, status and counters (R110, R221, R353, R373, R408, R459–R466, R488–R492, R504). -/

namespace Sys2Proof.Machine
open Sys2Proof

/-! ## Counters by index (R488, R492) -/

/-- The counter that a chapter names for a flag number, where it names one. -/
def namedFlagCtr (j : Nat) : Option Nat :=
  if j = 1 then some (obsCtr 0) else if j = 6 then some (clkCtr 2)
  else if 11 ≤ j ∧ j < 3083 ∧ j % 3 = 2 then some (hifCtr 10)
  else if 11 ≤ j ∧ j < 3083 ∧ j % 3 = 0 then some (hifCtr 8)
  else if j = 3089 then some (calCtr 17) else if j = 3090 then some (calCtr 3)
  else if 3091 ≤ j ∧ j ≤ 3096 then some (calCtr (j - 3080))
  else if j = 3100 then some (audDevCtr 3) else if j = 3101 then some (audDevCtr 0)
  else if 3104 ≤ j ∧ j < 3664 ∧ (j - 3104) % 5 = 1 then some (audCtr ((j - 3104) / 5) 6)
  else if 3104 ≤ j ∧ j < 3664 ∧ (j - 3104) % 5 = 4 then some (audCtr ((j - 3104) / 5) 10)
  else if j = 3673 then some (obsCtr 8) else none

/-- Where the counter of an index is kept. -/
def ctrHome (i : Nat) : Nat := if 0x8000 ≤ i then (namedFlagCtr (i - 0x8000)).getD i else i

/-- The live counter of an index. -/
def ctrAt (s : State) (i : Nat) : BitVec 48 := ctr s (ctrHome i)

/-- The counter of an index in the snapshot bank. -/
def bankAt (s : State) (i : Nat) : BitVec 48 := tabGet 0 s.dbg.bank (ctrHome i)

/-! ## Flags and RO fields by block -/

def b2n (b : Bool) : Nat := if b then 1 else 0

/-- Bits of a byte string as a little-endian word. -/
def wordAt (bs : List (BitVec 8)) (i : Nat) : Nat := leAt bs (4 * i) 4

/-- The low or the high word of a 64-bit register. -/
def half (v : Nat) (hi : Bool) : Nat := if hi then v / 2 ^ 32 else v % 2 ^ 32

def readGlb (s : State) (o : Nat) (r : Nat) : Nat :=
  if o = 0 then 0xB19608
  else if o = 4 then r + 2 * b2n s.lost.lost + 2 ^ 6 * b2n s.guardOpen
  else if 0x10 ≤ o ∧ o < 0x20 then half (Config.serial.toNat / 2 ^ (8 * (o - 0x10))) false
  else if o = 0x20 then half s.tick.toNat false
  else if o = 0x24 then half s.tick.toNat true
  else if o = 0x28 then
    b2n s.lost.lost + 2 * b2n (flagOn s fCfgPar) + 4 * b2n s.clk.ready + 8 * b2n (flagOn s fRootFail) + 16 * b2n (flagOn s fTdDone)
      + 32 * b2n (flagOn s fRouteFlt) + 64 * b2n (flagOn s fPllUnlock) + 128 * b2n (flagOn s fTAlarm)
  else if o = 8 then 0
  else r

def readClk (s : State) (o : Nat) (r : Nat) : Nat :=
  if o = 0 then r + gearInForce s 0 * 2 ^ 16 + gearInForce s 1 * 2 ^ 20
  else if o = 4 then r + 2 * b2n (rootLocked s 0) + 4 * b2n (rootLocked s 1) + 8 * b2n (rootLocked s 2) + 2 ^ 6 * b2n s.clk.ready
  else if o = 0x14 then
    r + s.fw.imgErr * 2 ^ 8 + phaseCode s.fw.hm.phase * 2 ^ 12 + phaseCode s.fw.wd.phase * 2 ^ 16
  else r

def readSec (s : State) (o : Nat) (r : Nat) : Nat :=
  if o = 0 then
    r + tenancyCode s.sec.tenancy + 4 * tdiCode s.sec.tdi + 2 ^ 4 * b2n s.sec.tsess.isSome + 2 ^ 5 * b2n s.sec.polLock
      + 2 ^ 6 * b2n (dbgOpen s) + 2 ^ 7 * b2n ((pendingImage s false).isSome || (pendingImage s true).isSome) + 2 ^ 8 * b2n (windowOpen s)
  else if o = 4 then s.sec.tenantId.toNat
  else if o = 8 then s.sec.tEpoch.toNat
  else if o = 0xC then 2 * tdStepNow s
  else if o = 0x10 then (keysOf s 2).length + (liveJobs s).length * 2 ^ 13 + (keysOf s 1).length * 2 ^ 24
  else if o = 0x18 then half s.sec.mview.toNat false
  else if o = 0x1C then half s.sec.mview.toNat true
  else if o = 0x20 then (levelsNow s).toNat
  else if o = 0x24 then b2n s.sec.bindMutual + 2 * b2n s.sec.tdispReq
  else if o = 0x28 then half s.sec.tdTick.toNat false
  else if o = 0x2C then half s.sec.tdTick.toNat true
  else r

/-- Codes of the client states (R309). -/
def cstateCode : CState → Nat
  | .disabled => 0 | .active => 1 | .flushing => 2 | .halted => 3 | .resetting => 4

def readHif (s : State) (o : Nat) (r : Nat) : Nat :=
  if o = 0 then
    r + 2 * b2n s.host.linkUp + 4 * s.host.rate.toNat + 2 ^ 5 * s.host.width.toNat
      + 2 ^ 10 * b2n (s.clients.any (fun e => decide (e.2.st = .halted)))
  else if 0x4000 ≤ o ∧ (o - 0x4000) % 0x30 = 0x2C then r + cstateCode (client s (BitVec.ofNat 10 ((o - 0x4000) / 0x30))).st
  else r

def readBth (s : State) (o : Nat) (r : Nat) : Nat :=
  if o = 0 then
    r + 2 * (s.berths.filter (fun e => decide (e.2.st = .running))).length
      + 2 ^ 14 * (s.berths.filter (fun e => decide (e.2.st ≠ .free))).length
  else if o = 8 then half s.sched.dstep.toNat false
  else if o = 0xC then half s.sched.dstep.toNat true
  else if o = 0x44 then s.sched.capBerth.toNat + s.sched.capSeq.toNat * 2 ^ 12
  else if 0x80 ≤ o ∧ o < 0xC0 then wordAt s.sched.capData ((o - 0x80) / 4)
  else if 0x180 ≤ o ∧ o < 0x200 then wordAt (acctBytes s (acctOf s (BitVec.ofNat 10 (regField s (bthOff + 0x100) 9 0)))) ((o - 0x180) / 4)
  else r

/-- MiB of free space and of the largest free range, as R464 counts them. -/
def poolWord (g : List Win) : Nat :=
  Nat.min 65535 (freeTotal g / 2 ^ 20) + Nat.min 65535 (maxNat (g.map (·.len)) / 2 ^ 20) * 2 ^ 16

def readMem (s : State) (o : Nat) (r : Nat) : Nat :=
  if o = 0 then r + 2 * s.mem.trained.toNat
  else if o = 0x20 ∨ o = 0x28 then poolWord (bpGaps s ((o - 0x20) / 8))
  else if o = 0x24 ∨ o = 0x2C then poolWord (mpGaps s ((o - 0x24) / 8))
  else if 0x100 ≤ o ∧ o < 0x120 then
    let st := (o - 0x100) / 4
    b2n (s.mem.trained.getLsbD st) + 2 * (tabGet 0 s.mem.pcSpared st) + 2 ^ 8 * Nat.min 255 (tabGet 0 s.mem.rowsSpared st)
  else r

/-- States of the noise source, coded as `nt_state`. -/
def ntCode : NtState → Nat
  | .startup => 0 | .ok => 1 | .error => 2 | .tap => 3

def genWord (d : Drbg) : Nat := d.state + 4 * b2n d.katOk + 2 ^ 8 * d.since.toNat

def readRng (s : State) (o : Nat) (r : Nat) : Nat :=
  if o = 4 then r + 2 * ntCode s.rng.nt + 2 ^ 6 * b2n (s.rng.gens.any (fun e => !e.2.waiting.isEmpty))
  else if o = 8 then 41 + 794 * 2 ^ 16
  else if o = 0x10 then r + 2 * b2n (decide (1024 ≤ s.rng.raw.length))
  else if o = 0x14 then (s.rng.raw.headD 0).toNat
  else if 0x100 ≤ o ∧ o < 0x148 then genWord (genOf s ((o - 0x100) / 4))
  else if o = 0x180 then genWord (genOf s hubGen)
  else r

/-- The unit state of a ladder: in service, spare, or out.  R97 and R98 list no ladders, so what a failed one reads is a DESIGN CHOICE:
QUARANTINED (log 161). -/
def ladderState (k : Tile) (i : Nat) : UnitState :=
  if tabGet false k.ladderFailed i then .quarantined
  else if (upTo 4).any (fun q => decide (tabGet q k.ladders q = i)) then .active else .spare

/-- CAL_MAP_DATA for a selection (R110). -/
def mapData (s : State) (sel : Nat) : Nat :=
  let n := bitsOf sel 4 0
  let t := bitsOf sel 9 5
  let ix := bitsOf sel 20 16
  let k := tileAt s (tileKey n t)
  match bitsOf sel 11 10 with
  | 0 => if n < 18 ∧ ix < 17 then
      stateCode (tileState s n ix) + (match slotServed s n ix with | some j => 2 ^ 4 * j + 2 ^ 8 | none => 0) else 0
  | 1 => if n < 18 ∧ t < 17 then
      (match tabGet 0 k.spokes ix with | 0 => 0 | c => c - 1 + 2 ^ 10) + 2 ^ 11 * b2n (tabGet false k.spokeFailed ix) else 0
  | 2 => if n < 18 ∧ t < 17 ∧ ix < 5 then
      stateCode (ladderState k ix)
        + (match (upTo 4).find? (fun q => decide (tabGet q k.ladders q = ix)) with | some q => 2 ^ 4 * q + 2 ^ 6 | none => 0) else 0
  | _ => 0

def readCal (s : State) (o : Nat) (r : Nat) : Nat :=
  if o = 0x20 then r + 2 * b2n (holdReq s) + 8 * b2n (!s.cal.tileMigr.isEmpty || !s.cal.cluMigr.isEmpty)
  else if o = 0x24 then s.cal.epoch.toNat
  else if o = 0x28 then half s.cal.epochTick.toNat false
  else if o = 0x2C then half s.cal.epochTick.toNat true
  else if o = 0x30 then s.map.seq.toNat
  else if 0x100 ≤ o ∧ o < 0x140 then
    let l := (o - 0x100) / 4
    (if lcluOut s l then 31 else physOf s l) + 2 ^ 8 * b2n (lcluOut s l)
  else if 0x140 ≤ o ∧ o < 0x188 then
    let n := (o - 0x140) / 4
    let u := cluState s n
    stateCode u + (match lcluServed s n with | some l => 2 ^ 4 * l | none => 0) + 2 ^ 8 * b2n (decide (u = .active ∨ u = .draining))
  else if o = 0x204 then mapData s (regWord s (calOff + 0x200)).toNat
  else r

/-- Codes of the lock states and the transmitter phases (R347, R349). -/
def lockCode : RxLock → Nat
  | .disabled => 0 | .acquire => 1 | .locked => 2 | .freewheel => 3 | .relock => 4
def txCode : TxPhase → Nat
  | .idle => 0 | .armed => 1 | .lead => 2 | .run => 3 | .fade => 4 | .tail => 5

def readAud (s : State) (o : Nat) (r : Nat) : Nat :=
  if o = 4 then r + 2 ^ 3 * b2n s.aud.lockA + 2 ^ 4 * b2n s.aud.lockB
  else if o = 8 then r % 4 / 2 * 2
  else if o = 0xC then r + 2 ^ 4 * b2n s.aud.io18
  else if o = 0x14 then wrapOf 16 s.aud.pull + 2 ^ 16 * oscInForce s + 2 ^ 18 * b2n s.cal.pinTide
  else if 0x100 ≤ o ∧ o < 0xF00 then
    let st := (o - 0x100) / 0x20
    let a := aud s st
    match (o - 0x100) % 0x20 with
    | 8 => r + lockCode a.lock + 8 * txCode a.phase + 2 ^ 6 * a.rateMeas + 2 ^ 9 * b2n a.nonaudio
    | 0xC => Nat.min 511 (level a)
    | 0x10 => half a.frame.toNat false
    | 0x14 => half a.frame.toNat true
    | _ => r
  else r

def readChn (s : State) (o : Nat) (r : Nat) : Nat :=
  if 0x100 ≤ o ∧ o < 0x140 ∧ o % 16 = 4 then
    let p := portOf s ((o - 0x100) / 16)
    p.link + 4 * p.rate + 2 ^ 4 * b2n p.x4 + 2 ^ 5 * p.partner.toNat + 2 ^ 18 * p.pport.toNat
  else if 0x100 ≤ o ∧ o < 0x140 ∧ o % 16 = 8 then
    (upTo 9).foldl (fun v j => v + 8 ^ j * stateCode (chnLane s ((o - 0x100) / 16) j)) 0
  else if o = 0x414 then r + 4 * b2n (routeBusy s)
  else if o = 0x418 then
    let x := routeAt s (rtSel s)
    x.st + 4 * x.avail + 2 ^ 9 * b2n x.quiet + 2 ^ 10 * x.cause
  else r

def readTel (s : State) (o : Nat) (r : Nat) : Nat :=
  if o = 8 then half s.dbg.snapTick.toNat false
  else if o = 0xC then half s.dbg.snapTick.toNat true
  else if o = 0x10 then s.dbg.snapSeq.toNat
  else if o = 0x24 ∨ o = 0x28 then
    let i := regField s (telOff + 0x20) 15 0
    half (if regField s (telOff + 0x20) 16 16 = 1 then ctrAt s i else bankAt s i).toNat (decide (o = 0x28))
  else if o = 0x40 ∨ o = 0x44 then wrapOf 12 (tabGet {} s.thm.dies ((o - 0x40) / 4)).own
  else if o = 0x48 then wrapOf 12 s.thm.hub
  else r

def readDbg (s : State) (o : Nat) (r : Nat) : Nat := if o = 0 then r + 8 * b2n (s.sec.levels.getLsbD 0) else r

/-- Threads of the logical cluster that a physical cluster serves. -/
def threadsOn (s : State) (n : Nat) (p : Thread → Bool) : Nat :=
  match lcluServed s n with
  | none => 0
  | some l => (s.threads.filter (fun e => decide (e.1 / 256 = l) && p e.2)).length

/-- A tile's status word (R466). -/
def tileWord (k : Tile) : Nat :=
  b2n k.shadow + ((upTo 8).filter (fun r => (tabFind k.recs r).isSome)).foldl (fun v r => v + 2 ^ (1 + r)) 0
    + 2 ^ 9 * (k.queue.filter (fun j => match j with | .product _ => true | .program _ => false)).length
    + 2 ^ 12 * b2n (!k.actives.isEmpty || !k.progs.isEmpty)

def readClu (s : State) (n o : Nat) (r : Nat) : Nat :=
  let oos := decide (cluState s n = .outOfService)
  if o = 0 then n + 2 ^ 5 * dieOf n
  else if o = 8 then r + 8 * b2n oos
  else if oos then 0
  else if o = 0xC then threadsOn s n (fun t => decide (t.st ≠ .idle)) + 2 ^ 9 * threadsOn s n (fun t => decide (t.st = .ready))
  else if o = 0x10 then (tabGet [] s.sched.mf n).length + 2 ^ 9 * Nat.min (2 ^ 23 - 1) (tabGet 0 s.sched.mfE n)
  else if o = 0x14 then (tabGet (0, 0, 0) s.sched.excReg n).1 + 2 ^ 8 * (tabGet (0, 0, 0) s.sched.excReg n).2.1
  else if o = 0x18 then (tabGet (0, 0, 0) s.sched.excReg n).2.2
  else if 0x100 ≤ o ∧ o < 0x144 then tileWord (tileAt s (tileKey n ((o - 0x100) / 4)))
  else r

/-- The word at a word-aligned offset of window 0 as a read returns it: unassigned offsets read 0, and before `ready` only GLB and
the boot fields of CLK serve (R433, R446). -/
def readWord (s : State) (off : Nat) : BitVec 32 :=
  let o := off % 0x10000
  let r := (regWord s off).toNat
  let blk := off / 0x10000
  if !s.clk.ready && !(decide (blk = 0) || (decide (blk = 1) && decide (4 ≤ o))) then 0
  else BitVec.ofNat 32 (match blk with
    | 0x0 => readGlb s o r
    | 0x1 => readClk s o r
    | 0x2 => readSec s o r
    | 0x3 => readHif s o r
    | 0x4 => readBth s o r
    | 0x5 => readMem s o r
    | 0x6 => readRng s o r
    | 0x7 => readCal s o r
    | 0x8 => readAud s o r
    | 0x9 => readChn s o r
    | 0xA => readTel s o r
    | 0xB => readDbg s o r
    | b => if 0x10 ≤ b ∧ b < 0x22 then readClu s (b - 0x10) o r else r)

/-- A read of window 0 of 1 or 2 bytes, or one that is not aligned: each byte comes from the word that holds it (R446). -/
def readBytes (s : State) (off n : Nat) : List (BitVec 8) :=
  (upTo n).map (fun k => (readWord s ((off + k) / 4 * 4) >>> (8 * ((off + k) % 4))).setWidth 8)

/-! ## The host link: identity, windows and doorbell pages (R301, R303, R309) -/

/-- A word of the configuration header: the device's identity, with the subsystem of the boot flash image where it holds one. -/
def pciWord (o : Nat) : Nat :=
  match o with
  | 0x00 => 0x1D7C + 0x9608 * 2 ^ 16
  | 0x08 => 0xB1 + 0x120000 * 2 ^ 8
  | 0x2C => match Config.subsystem with
    | some (v, d) => v % 2 ^ 16 + d % 2 ^ 16 * 2 ^ 16
    | none => 0x1D7C + 0x9608 * 2 ^ 16
  | _ => 0

/-- Bytes of the host windows: BAR0 and BAR1 are window 0, BAR2 and BAR3 window 2. -/
def window0Bytes : Nat := 64 * 2 ^ 20
def window2Bytes : Nat := 4 * 2 ^ 20

/-- What a read of client c's doorbell page returns: 0 while the client is DISABLED or RESETTING, but for DB_CSTATE. -/
def readPage (s : State) (c : BitVec 10) (o : Nat) : Nat :=
  let k := client s c
  if o = 0x34 then cstateCode k.st
  else if k.st = .disabled ∨ k.st = .resetting then 0
  else match o with
    | 0x00 => k.sqTail.toNat
    | 0x04 => k.cqHead.toNat
    | 0x08 => b2n k.arm + 2 * b2n k.mask
    | 0x0C => k.h2fTail.toNat
    | 0x10 => k.f2hHead.toNat
    | 0x20 => k.sqHead.toNat
    | 0x24 => k.cqTail.toNat
    | 0x28 => k.fepoch.toNat + 2 ^ 16 * k.cepoch.toNat
    | 0x2C => s.host.fwEpoch.toNat + 2 ^ 16 * b2n s.lost.lost
    | 0x30 => k.h2fHead.toNat
    | _ => 0

/-- A read of window 2. -/
def readWindow2 (s : State) (off : Nat) : Nat := if off < window2Bytes then readPage s (BitVec.ofNat 10 (off / 0x1000)) (off % 0x1000) else 0

end Sys2Proof.Machine
end

