-- ==== Sys2Proof/Machine/RegWrite.lean ====
section
/-! DEFINITION. Writes of window 0: the register conventions and every register's own rule (R445–R453, R458–R466). -/

namespace Sys2Proof.Machine
open Sys2Proof

/-- What a write of one word comes to: it is applied, some rule ignores it, or no register lies there. -/
inductive Wrote where
  | done (s : State)
  | ignored (s : State)
  | unmapped

/-- The operator's policy lock holds a field against the host (R405). -/
def lockHolds (s : State) (cw : Bool) : Bool := s.sec.polLock && !cw

/-- A policy field is written: `mview` counts it (R404). -/
def policyWrite (s : State) (cw : Bool) (run : Wrote) : Wrote :=
  if lockHolds s cw then .ignored s
  else match run with
    | .done t => .done (bumpView t)
    | x => x

/-- A key-guarded write: from the host it needs the guard, which it closes (R451). -/
def guarded (s : State) (cw : Bool) (run : State → Wrote) : Wrote :=
  if cw then run s else if s.guardOpen then run { s with guardOpen := false } else .ignored (setFlag s fKgMiss)

/-- A write to W1C bits (R446, R455). -/
def clearBits (s : State) (off : Nat) (w : BitVec 32) (mask : Nat) : Wrote :=
  .done (setRegWord s off (regWord s off &&& ~~~ (w &&& BitVec.ofNat 32 mask)))

/-- A plain write of the bits of a mask; the others read 0. -/
def putMasked (s : State) (off : Nat) (w : BitVec 32) (mask : Nat) : Wrote := .done (setRegWord s off (w &&& BitVec.ofNat 32 mask))

def putNat (s : State) (off v : Nat) : State := setRegWord s off (BitVec.ofNat 32 v)

/-- A write of a register with CFG fields of an owner: ignored while the owner is enabled and a CFG bit would change (R448). -/
def cfgWrite (s : State) (off : Nat) (v cfgMask : Nat) (enabled : Bool) (run : Wrote) : Wrote :=
  if enabled && decide ((regWord s off &&& BitVec.ofNat 32 cfgMask) ≠ (BitVec.ofNat 32 v &&& BitVec.ofNat 32 cfgMask)) then .ignored s else run

/-! ## GLB and CLK (R460, R461) -/

/-- GLB_UNLOCK: the key opens the guard, any other value closes it (R451). -/
def unlockWrite (s : State) (w : BitVec 32) : State := { s with guardOpen := decide (w.toNat % 2 ^ 16 = 0x6A3D) }

def writeGlb (s : State) (o : Nat) (w : BitVec 32) : Wrote :=
  if o = 4 then clearBits s (glbOff + 4) w 0x3D
  else if o = 8 then .done (unlockWrite s w)
  else if o = 0x30 ∨ (0x40 ≤ o ∧ o < 0x80) then .done (setRegWord s (glbOff + o) w)
  else if o = 0 ∨ o = 0xC ∨ (0x10 ≤ o ∧ o ≤ 0x28) ∨ o = 0x80 then .done s
  else .unmapped

/-- CLK_IMG_CMD: the kind first, then the command; 0 and 5–7 are ignored.  `files` is what a boot load finds in host memory (R437–R439,
R461). -/
def writeImgCmd (s : State) (w : Nat) (files : Option (FwFile × FwFile)) : Wrote :=
  let kind := bitsOf w 5 4
  let s1 := putNat s (clkOff + 0x14) (kind * 2 ^ 4)
  match bitsOf w 2 0 with
  | 1 => .done (if kind = 3 then bootLoad s1 files else setImgErr s1 3)
  | 2 => .done (hostStage s1 kind (regWord s (clkOff + 0x10)).toNat)
  | 3 => .done (onKind s1 kind (fun wd => (commitKind s1 wd).2))
  | 4 => .done (onKind s1 kind (fun wd => (cancelKind s1 wd).2))
  | _ => .ignored s

def writeClk (s : State) (o : Nat) (w : BitVec 32) (files : Option (FwFile × FwFile)) : Wrote :=
  let v := w.toNat
  if o = 0 then .done (putNat s clkOff (Nat.min 5 (bitsOf v 2 0) + Nat.min 5 (bitsOf v 6 4) * 2 ^ 4 + bitsOf v 8 8 * 2 ^ 8))
  else if o = 4 then clearBits s (clkOff + 4) w 0x31
  else if o = 8 then putMasked s (clkOff + 8) w 0xFFFFF000
  else if o = 0xC ∨ o = 0x10 then .done (setRegWord s (clkOff + o) w)
  else if o = 0x14 then writeImgCmd s v files
  else .unmapped

/-! ## SEC (R408) -/

def writeSec (s : State) (cw : Bool) (o : Nat) (w : BitVec 32) : Wrote :=
  if o = 0 then clearBits s secOff w 0x600
  else if o = 0xC then
    guarded s cw (fun t => if w.getLsbD 0 then (if t.sec.tenancy = .bound then .done (teardownAsked t) else .ignored t) else .done t)
  else if o = 4 ∨ o = 8 ∨ o = 0x10 ∨ (0x18 ≤ o ∧ o ≤ 0x2C) then .done s
  else .unmapped

/-! ## HIF (R306, R308, R394, R462) -/

/-- The ring fields of a context are locked while the TDI is CONFIG_LOCKED or RUN. -/
def ringsLocked (s : State) : Bool := decide (s.sec.tdi = .locked ∨ s.sec.tdi = .run)

/-- _SIZE as stored: the nearest end of each range. -/
def sizeWord (v : Nat) : Nat :=
  clampNat 4 16 (bitsOf v 4 0) + clampNat 4 16 (bitsOf v 12 8) * 2 ^ 8 + clampNat 2 8 (bitsOf v 19 16) * 2 ^ 16
    + clampNat 2 8 (bitsOf v 27 24) * 2 ^ 24

/-- _CTL: `coal_us` and `en`; a 1 enables, unless the device is not BOUND, and a 0 requests a client reset. -/
def writeClientCtl (s : State) (c : BitVec 10) (v : Nat) : Wrote :=
  cfgWrite s (hifC c 0x28) v 0xFFFF (decide ((client s c).st ≠ .disabled))
    (if bitsOf v 16 16 = 1 ∧ s.sec.tenancy ≠ .bound then .ignored (setFlag s (fCfgBad c))
     else
       let s1 := putNat s (hifC c 0x28) (v % 2 ^ 17)
       .done (if bitsOf v 16 16 = 1 then enableClient s1 c else resetClient s1 c))

def writeCtx (s : State) (c : BitVec 10) (o : Nat) (w : BitVec 32) : Wrote :=
  let off := hifC c o
  let v := w.toNat
  let on := decide ((client s c).st ≠ .disabled)
  if o < 0x20 then
    let x := if o % 8 = 0 then v / 4096 * 4096 else v
    if ringsLocked s then .ignored s else cfgWrite s off x 0xFFFFFFFF on (.done (putNat s off x))
  else if o = 0x20 then
    if ringsLocked s then .ignored s else cfgWrite s off (sizeWord v) 0xFFFFFFFF on (.done (putNat s off (sizeWord v)))
  else if o = 0x24 then
    let x := clampNat 1 1024 (bitsOf v 10 0) + clampNat 1 256 (bitsOf v 24 16) * 2 ^ 16
    cfgWrite s off x 0xFFFFFFFF on (.done (putNat s off x))
  else if o = 0x28 then writeClientCtl s c v
  else clearBits s off w 0x38

def writeHif (s : State) (o : Nat) (w : BitVec 32) : Wrote :=
  if o = 0 then clearBits s hifOff w 1
  else if 0x4000 ≤ o then writeCtx s (BitVec.ofNat 10 ((o - 0x4000) / 0x30)) ((o - 0x4000) % 0x30) w
  else .unmapped

/-! ## BTH (R272, R463) -/

/-- A time of 0, or 1,000 and more: the nearest of the two ranges. -/
def zeroOrNs (v : Nat) : Nat := if v < 500 then 0 else Nat.max 1000 v

/-- The 64 bytes of a berth-table entry (R243). -/
def berthCode : BState → Nat
  | .free => 0 | .admitted => 1 | .running => 2 | .parked => 3 | .locked => 4 | .abandoned => 5 | .draining => 6
def heldCode : BState → Nat
  | .running => 1 | .parked => 2 | _ => 0
def berthBytes (e : Berth) : List (BitVec 8) :=
  natLe (berthCode e.st + 2 ^ 3 * heldCode e.heldFrom + 2 ^ 5 * b2n e.replay + 2 ^ 6 * b2n e.destAudio + 2 ^ 7 * b2n e.preempted
    + 2 ^ 8 * b2n e.moving + 2 ^ 9 * b2n e.autoPk + 2 ^ 10 * e.client.toNat + 2 ^ 20 * e.modSlot.toNat + 2 ^ 28 * e.lthread.toNat
    + 2 ^ 40 * (e.step % 2 ^ 24) + 2 ^ 64 * e.stepLast.toNat + 2 ^ 88 * e.lkOwner.toNat + 2 ^ 98 * e.lkEpoch.toNat
    + 2 ^ 114 * e.lkSeq.toNat + 2 ^ 128 * e.outRun.toNat + 2 ^ 144 * e.outCause + 2 ^ 148 * e.waiters.length
    + 2 ^ 152 * (e.step / 2 ^ 24) + 2 ^ 160 * e.lastDstep.toNat + 2 ^ 192 * e.stRes + 2 ^ 212 * e.pmRes + 2 ^ 256 * e.pmBase) 64

/-- BTH_BSEL: the selected entry is captured. -/
def captureBerth (s : State) (w : BitVec 32) : State :=
  let b := BitVec.ofNat 12 w.toNat
  let s1 := putNat s (bthOff + 0x40) b.toNat
  { s1 with sched := { s1.sched with capBerth := b, capSeq := s1.sched.capSeq + 1, capData := berthBytes (berth s b) } }

def writeBth (s : State) (cw : Bool) (o : Nat) (w : BitVec 32) : Wrote :=
  let v := w.toNat
  let put (x : Nat) : Wrote := policyWrite s cw (.done (putNat s (bthOff + o) x))
  if o = 0 then clearBits s bthOff w 1
  else if o = 0x10 ∨ o = 0x14 then put (zeroOrNs (bitsOf v 23 0))
  else if o = 0x18 then put (bitsOf v 0 0 + Nat.max 16 (bitsOf v 31 16) * 2 ^ 16)
  else if o = 0x1C ∨ o = 0x20 then put (bitsOf v 0 0 + clampNat 1 256 (bitsOf v 16 8) * 2 ^ 8)
  else if o = 0x24 then put (Nat.max 64 (bitsOf v 15 0))
  else if o = 0x28 then put (Nat.max 100 (bitsOf v 23 0))
  else if o = 0x40 then .done (captureBerth s w)
  else if o = 0x100 then putMasked s (bthOff + 0x100) w 0x3FF
  else if 0x1000 ≤ o ∧ o < 0x2000 then put (Nat.max 1 (bitsOf v 15 0))
  else if o = 8 ∨ o = 0xC ∨ o = 0x44 ∨ (0x80 ≤ o ∧ o < 0xC0) ∨ (0x180 ≤ o ∧ o < 0x200) then .done s
  else .unmapped

/-! ## MEM (R298, R464) -/

/-- A module image or a berth range lies on a die. -/
def dieHolds (s : State) (d : Nat) : Bool :=
  s.berths.any (fun e => decide (e.2.st ≠ .free ∧ e.2.pmRes ≠ 0 ∧ e.2.pmDie = d))
  || s.mods.any (fun e => decide (e.2.st ≠ .free) && e.2.images.any (fun i => decide (i.1 = d)))

def writeMem (s : State) (cw : Bool) (o : Nat) (w : BitVec 32) : Wrote :=
  let v := w.toNat
  let put (x : Nat) : Wrote := policyWrite s cw (.done (putNat s (memOff + o) x))
  if o = 0 then clearBits s memOff w 1
  else if o = 4 then put (bitsOf v 0 0 + Nat.max 4 (bitsOf v 15 8) * 2 ^ 8)
  else if o = 8 then put (clampNat 500 16000 (bitsOf v 13 0))
  else if o = 0x10 ∨ o = 0x14 then
    if dieHolds s ((o - 0x10) / 4) then .ignored s else put (clampNat 1024 32768 (bitsOf v 15 0) / 64 * 64)
  else if (0x20 ≤ o ∧ o < 0x30) ∨ (0x100 ≤ o ∧ o < 0x120) then .done s
  else .unmapped

/-! ## RNG (R205, R221) -/

/-- RNG_CTRL as stored, but for `retest`. -/
def rngCtrlWord (v : Nat) : Nat := bitsOf v 0 0 + clampNat 10 20 (bitsOf v 6 2) * 2 ^ 2

def writeRngCtrl (s : State) (v : Nat) : Wrote :=
  cfgWrite s rngOff (rngCtrlWord v) 0x7C (ntEnabled s)
    (if bitsOf v 1 1 = 1 ∧ s.rng.nt ≠ .error then .ignored s
     else
       let s1 := setRegField s rngOff 6 2 (clampNat 10 20 (bitsOf v 6 2))
       let s2 := if bitsOf v 1 1 = 1 then startRetest s1 else s1
       .done (if ntEnabled s2 = decide (bitsOf v 0 0 = 1) then s2 else setNtEn s2 (decide (bitsOf v 0 0 = 1))))

/-- RNG_RAW_CTRL: `tap_en` takes a 1 only while the RNG-tap level is open. -/
def writeTap (s : State) (v : Nat) : Wrote :=
  if bitsOf v 0 0 = 1 ∧ !s.sec.levels.getLsbD 3 then .ignored s
  else if decide (bitsOf v 0 0 = 1) = decide (regField s (rngOff + 0x10) 0 0 = 1) then .done s
  else .done (setTapEn s (decide (bitsOf v 0 0 = 1)))

def writeRng (s : State) (cw : Bool) (o : Nat) (w : BitVec 32) : Wrote :=
  if o = 0 then policyWrite s cw (writeRngCtrl s w.toNat)
  else if o = 4 then clearBits s (rngOff + 4) w 0x39
  else if o = 0x10 then guarded s cw (fun t => writeTap t w.toNat)
  else if o = 8 ∨ o = 0x14 ∨ (0x100 ≤ o ∧ o < 0x148) ∨ o = 0x180 then .done s
  else .unmapped

/-! ## CAL (R92, R110) -/

/-- CAL_AVS_BND as stored: both fields clamped to the rail limits, and the ceiling in both where the floor would exceed it. -/
def avsWord (v : Nat) : Nat :=
  let hi := clampNat 675 850 (bitsOf v 25 16)
  Nat.min hi (clampNat 675 850 (bitsOf v 9 0)) + hi * 2 ^ 16

/-- CAL_CTRL: a 1 in `commit_now` requests a commit, a 0 leaves a request standing. -/
def calCtrlWord (s : State) (v : Nat) : Nat :=
  v % 2 ^ 4 + (if bitsOf v 2 2 = 0 ∧ regField s calOff 2 2 = 1 then 4 else 0)

/-- CAL_REQ. -/
def writeCalReq (s : State) (v : Nat) : State :=
  let s1 := putNat s (calOff + 0x300) (v % 2 ^ 13)
  (calRequest s1 (bitsOf v 12 10) (bitsOf v 4 0) (bitsOf v 9 5)).getD (setFlag s1 fReqRefused)

def writeCal (s : State) (cw : Bool) (o : Nat) (w : BitVec 32) : Wrote :=
  let v := w.toNat
  let put (x : Nat) : Wrote := policyWrite s cw (.done (putNat s (calOff + o) x))
  if o = 0 then put (calCtrlWord s v)
  else if o = 4 then
    let x := Nat.max 512 (bitsOf v 15 0)
    cfgWrite s (calOff + 4) x 0xFFFF (calEn s) (.done (putNat s (calOff + 4) x))
  else if o = 8 then put (clampNat 1000 50000 (bitsOf v 15 0) + clampNat 1 16 (bitsOf v 23 16) * 2 ^ 16)
  else if o = 0xC then put (clampNat 1000 50000 (bitsOf v 15 0))
  else if o = 0x10 then put (bitsOf v 7 0 + Nat.min 82 (bitsOf v 15 8) * 2 ^ 8)
  else if o = 0x14 then put (avsWord v)
  else if o = 0x20 then clearBits s (calOff + 0x20) w 0x7F5
  else if o = 0x200 then putMasked s (calOff + 0x200) w 0x1F0FFF
  else if o = 0x300 then guarded s cw (fun t => policyWrite t cw (.done (writeCalReq t v)))
  else if (0x24 ≤ o ∧ o ≤ 0x30) ∨ (0x100 ≤ o ∧ o < 0x188) ∨ o = 0x204 then .done s
  else .unmapped

/-! ## AUD (R353) -/

/-- _CFG as stored. -/
def cfgStrWord (v : Nat) : Nat := putBits (putBits v 19 12 (clampNat 2 240 (bitsOf v 19 12))) 23 20 (Nat.max 1 (bitsOf v 23 20))

def writeStream (s : State) (cw : Bool) (st o : Nat) (w : BitVec 32) : Wrote :=
  if o = 0 then
    if bitsOf w.toNat 25 24 = 3 ∧ isTx st then .ignored s
    else cfgWrite s (audCfg st) (cfgStrWord w.toNat) 0xFFFFFFFF (aEn s st) (.done (putNat s (audCfg st) (cfgStrWord w.toNat)))
  else if o = 4 then
    match writeCtl s st w.toNat (lockHolds s cw) with
    | none => .ignored s
    | some t => .done (if aPullLim t st = aPullLim s st then t else bumpView t)
  else if o = 8 then clearBits s (audStat st) w 0x7C00
  else if o = 0xC ∨ o = 0x10 ∨ o = 0x14 then .done s
  else .unmapped

/-- AUD_START: `go` fires the trigger and clears; `sync_src` stays. -/
def writeStart (s : State) (v : Nat) : State :=
  let s1 := putNat s (audOff + 8) (bitsOf v 1 1 * 2)
  if bitsOf v 0 0 = 1 then trigger s1 else s1

/-- AUD_CTRL. -/
def writeAudCtrl (s : State) (v : Nat) : Wrote :=
  let x := bitsOf v 0 0 + Nat.max 1 (bitsOf v 7 4) * 2 ^ 4 + bitsOf v 11 8 * 2 ^ 8
  let was := decide (regField s audOff 0 0 = 1)
  let en := decide (bitsOf v 0 0 = 1)
  cfgWrite s audOff x 0xFF0 was (.done (let s1 := putNat s audOff x; if was = en then s1 else setAudEn s1 en))

def writeAud (s : State) (cw : Bool) (o : Nat) (w : BitVec 32) : Wrote :=
  let v := w.toNat
  if o = 0 then writeAudCtrl s v
  else if o = 4 then clearBits s (audOff + 4) w 0xE7
  else if o = 8 then .done (writeStart s v)
  else if o = 0xC then putMasked s (audOff + 0xC) w 0xF
  else if o = 0x10 then policyWrite s cw (.done (oscChanged (putNat s (audOff + 0x10) (v % 2 ^ 13))))
  else if 0x20 ≤ o ∧ o < 0x30 then .done (setRegWord s (audOff + o) w)
  else if 0x100 ≤ o ∧ o < 0xF00 then writeStream s cw ((o - 0x100) / 0x20) ((o - 0x100) % 0x20) w
  else if 0x1000 ≤ o ∧ o < 0x11C0 then
    match writeRoute s ((o - 0x1000) / 8) ((o - 0x1000) / 4 % 2) v with
    | some t => .done t
    | none => .ignored (setFlag s fRouteBad)
  else if (0x2000 ≤ o ∧ o < 0x2C00) ∨ (0x4000 ≤ o ∧ o < 0x4C00) then
    if o % 0x40 < 0x30 then .done (setRegWord s (audOff + o) w) else .done s
  else if o = 0x14 ∨ (0x3000 ≤ o ∧ o < 0x3C00) ∨ (0x5000 ≤ o ∧ o < 0x5C00) then .done s
  else .unmapped

/-! ## CHN (R361, R370, R373) -/

/-- CHN_PORT_k_CFG as stored. -/
def portCfgWord (v : Nat) : Nat :=
  bitsOf v 0 0 + Nat.min 2 (bitsOf v 2 1) * 2 + bitsOf v 11 3 * 2 ^ 3 + clampNat 6 15 (bitsOf v 15 12) * 2 ^ 12

def writePortCfg (s : State) (k : Nat) (v : Nat) : Wrote :=
  let was := portEn s k
  let en := decide (bitsOf v 0 0 = 1)
  cfgWrite s (chnPortCfg k) (portCfgWord v) 0xFFFE was
    (.done (let s1 := putNat s (chnPortCfg k) (portCfgWord v)
            if was = en then s1 else if en then startNegotiation s1 k else portLost s1 k 0))

/-- CHN_CTRL. -/
def writeChnCtrl (s : State) (v : Nat) : State :=
  let was := chnEn s
  let s1 := putNat s chnOff (v % 2)
  if was = decide (v % 2 = 1) then s1 else if v % 2 = 1 then (upTo 4).foldl startNegotiation s1 else stopPorts s1

/-- Which bits of CHN_RT_DATA_i are fields. -/
def rtDataMask (i : Nat) : Nat := match i with
  | 0 => 0xFFFF1FFF | 1 => 0x0FFF1FFF | 2 => 0xFFFFFFFF | _ => 0x03FFFFFF

/-- CHN_RT_CMD. -/
def routeCmd (s : State) (v : Nat) : State :=
  let s1 := putNat s (chnOff + 0x414) (v % 4)
  match v % 4 with
  | 1 => enableRoute s1
  | 2 => disableRoute s1
  | 3 => readRoute s1
  | _ => s1

/-- CHN_FWD_n: SEND routes whose peer's entry now says drop fault. -/
def writeFwd (s : State) (o : Nat) (w : BitVec 32) : State :=
  faultRoutes (setRegWord s (chnOff + o) w)
    (fun r => !r.recv && decide (r.st = 1 ∧ r.peerId.toNat / 8 = (o - 0x1000) / 4)
      && decide (4 < fwdOf (setRegWord s (chnOff + o) w) r.peerId.toNat)) 1

def writeChn (s : State) (cw : Bool) (o : Nat) (w : BitVec 32) : Wrote :=
  let v := w.toNat
  if o = 0 then .done (writeChnCtrl s v)
  else if o = 4 then policyWrite s cw (cfgWrite s (chnOff + 4) v 0x1FFF (chnEn s) (putMasked s (chnOff + 4) w 0x1FFF))
  else if o = 8 then clearBits s (chnOff + 8) w 0x1F
  else if o = 0xC then putMasked s (chnOff + 0xC) w 0xFFFF
  else if 0x100 ≤ o ∧ o < 0x140 then
    if o % 16 = 0 then policyWrite s cw (writePortCfg s ((o - 0x100) / 16) v) else if o % 16 < 12 then .done s else .unmapped
  else if o = 0x400 then putMasked s (chnOff + 0x400) w 0xFFF
  else if 0x404 ≤ o ∧ o < 0x414 then putMasked s (chnOff + o) w (rtDataMask ((o - 0x404) / 4))
  else if o = 0x414 then (if routeBusy s then .ignored s else .done (routeCmd s v))
  else if o = 0x418 then .done s
  else if 0x1000 ≤ o ∧ o < 0x2000 then policyWrite s cw (.done (writeFwd s o w))
  else .unmapped

/-! ## TEL and DBG (R465, R494, R498, R503, R504) -/

/-- A snapshot of every counter. -/
def takeSnap (s : State) : State :=
  { s with dbg := { s.dbg with bank := s.ctrs, snapTick := s.tick, snapSeq := s.dbg.snapSeq + 1 } }

def writeTel (s : State) (o : Nat) (w : BitVec 32) : Wrote :=
  if o = 0 then clearBits s telOff w 3
  else if o = 4 then .done (if w.getLsbD 0 then takeSnap s else s)
  else if o = 0x20 then putMasked s (telOff + 0x20) w 0x3FFFF
  else if o = 0x50 then putMasked s (telOff + 0x50) w 0xFF
  else if o = 8 ∨ o = 0xC ∨ o = 0x10 ∨ o = 0x24 ∨ o = 0x28 ∨ (0x40 ≤ o ∧ o ≤ 0x48) then .done s
  else .unmapped

/-- A word of the retained SRAM; the boot record and the table of corrected rows hold bytes whose layout no rule gives (R432). -/
def retWord (s : State) (ix : Nat) : BitVec 32 :=
  let a := 4 * ix
  if (0x1000 ≤ a ∧ a < 0x1040) ∨ (0x2000 ≤ a ∧ a < 0x4000) then BitVec.ofNat 32 (Config.freeWord s.free).toNat
  else BitVec.ofNat 32 (memLe s.ret a 4)

/-- DBG_RET_ADDR: the word at the new address is fetched. -/
def fetchRet (s : State) (w : BitVec 32) : State :=
  let ix := w.toNat % 2 ^ 14
  useFree (setRegWord (putNat s (dbgOff + 8) ix) (dbgOff + 0xC) (retWord s ix))

def writeTrc (s : State) (v : Nat) : Wrote :=
  if bitsOf v 1 1 = 1 ∧ !s.sec.levels.getLsbD 1 then .ignored s
  else .done (putNat s (dbgOff + 4) (v % 4 + Nat.min 2 (bitsOf v 3 2) * 4))

def writeDbg (s : State) (o : Nat) (w : BitVec 32) : Wrote :=
  if o = 0 then clearBits s dbgOff w 7
  else if o = 4 then writeTrc s w.toNat
  else if o = 8 then .done (fetchRet s w)
  else if o = 0xC then .done s
  else .unmapped

/-! ## CLU_n (R452, R466) and the MSI-X table -/

/-- A write of masked bits [2:0]. -/
def maskedWord (old w : BitVec 32) : BitVec 32 :=
  let m := (w >>> 16) &&& 7
  (old &&& ~~~ m) ||| (w &&& m)

def writeClu (s : State) (n o : Nat) (w : BitVec 32) : Wrote :=
  if !(decide (o ≤ 0x18) || decide (0x100 ≤ o ∧ o < 0x144)) then .unmapped
  else if cluState s n = .outOfService then .ignored s
  else if o = 4 then .done (setRegWord s (cluOff n + 4) (maskedWord (regWord s (cluOff n + 4)) w))
  else if o = 8 then clearBits s (cluOff n + 8) w 7
  else .done s

/-- A word of the MSI-X table, which PCI Express defines: a change while the TDI is locked is an error (R394). -/
def writeMsix (s : State) (o : Nat) (w : BitVec 32) : Wrote :=
  if 0x4010 ≤ o then .unmapped
  else
    let s1 := setRegWord s (0xC0000 + o) w
    .done (if ringsLocked s && decide (regWord s (0xC0000 + o) ≠ w) then tdiError s1 else s1)

/-! ## The window -/

/-- A write of one word at an offset that is a multiple of 4, from the host or from Cewieb (`cw`). -/
def applyWord (s : State) (cw : Bool) (files : Option (FwFile × FwFile)) (off : Nat) (w : BitVec 32) : Wrote :=
  let o := off % 0x10000
  let blk := off / 0x10000
  if !s.clk.ready && !(decide (blk = 0) || (decide (blk = 1) && decide (4 ≤ o))) then .done s
  else match blk with
    | 0x0 => writeGlb s o w
    | 0x1 => writeClk s o w files
    | 0x2 => writeSec s cw o w
    | 0x3 => writeHif s o w
    | 0x4 => writeBth s cw o w
    | 0x5 => writeMem s cw o w
    | 0x6 => writeRng s cw o w
    | 0x7 => writeCal s cw o w
    | 0x8 => writeAud s cw o w
    | 0x9 => writeChn s cw o w
    | 0xA => writeTel s o w
    | 0xB => writeDbg s o w
    | 0xC => writeMsix s o w
    | 0xD => if o < 0x88 then .done s else .unmapped
    | b => if 0x10 ≤ b ∧ b < 0x22 then writeClu s (b - 0x10) o w else .unmapped

/-- The `wign` that an ignored write sets (R449). -/
def wignOf (off : Nat) : Flag :=
  let o := off % 0x10000
  match off / 0x10000 with
  | 0x0 => fGlbWign
  | 0x1 => fClkWign
  | 0x2 => fSecWign
  | 0x3 => fHifWign
  | 0x4 => fBthWign
  | 0x5 => fMemWign
  | 0x6 => fRngWign
  | 0x7 => fCalWign
  | 0x8 => if 0x100 ≤ o ∧ o < 0xF00 then fStrWign ((o - 0x100) / 0x20) else fAudWign
  | 0x9 => fChnWign
  | 0xA => fTelWign
  | 0xB => fDbgWign
  | b => fCluWign (b - 0x10)

/-- A write that changed the debug levels in force is recorded: the view, the log, and a level that counts as open during a tenancy
(R386, R404, R496). -/
def levelsMoved (s t : State) : State :=
  if levelsNow t = levelsNow s then t
  else
    let opened := decide ((levelsNow t &&& ~~~ levelsNow s).toNat % 16 ≠ 0 ∧ t.sec.tenancy = .bound)
    bumpView (logEvent { t with sec := { t.sec with openSince := t.sec.openSince || opened } } 8 0xFFFF (levelsNow t).toNat)

/-- A host write of one word. -/
def hostWordWith (files : Option (FwFile × FwFile)) (s : State) (off : Nat) (w : BitVec 32) : State :=
  if !alive s then s
  else match applyWord s false files off w with
    | .done t => levelsMoved s t
    | .ignored t => setFlag t (wignOf off)
    | .unmapped => setFlag s fUnmapWr
def hostWord (s : State) (off : Nat) (w : BitVec 32) : State := hostWordWith none s off w

/-- A host write of a register: 4 or 8 aligned bytes, low word first; other forms set `narrow_wr` (R445, R446). -/
def hostWrite (s : State) (off : Nat) (w : BitVec 64) (width : Nat) : State :=
  if width = 4 ∧ off % 4 = 0 then hostWord s off (w.setWidth 32)
  else if width = 8 ∧ off % 8 = 0 then hostWord (hostWord s off (w.setWidth 32)) (off + 4) ((w >>> 32).setWidth 32)
  else if alive s then setFlag s fNarrowWr else s

end Sys2Proof.Machine
end

