-- ==== Sys2Proof/Machine/RegRows.lean ====
section
/-! DEFINITION. The commands that write a register of window 0, each a host write of its word (R447), and the guard, the parity check
and the reads with an effect. -/

namespace Sys2Proof.Machine
open Sys2Proof

/-- A word with a field set. -/
def withField (w : BitVec 32) (hi lo v : Nat) : BitVec 32 := BitVec.ofNat 32 (putBits w.toNat hi lo v)

/-! ## Clients, calibration and random bits -/

def execClientEnable (c : BitVec 10) (s : State) : Host.Outcome State Fault Refusal :=
  .next (hostWord s (hifC c 0x28) (withField (regWord s (hifC c 0x28)) 16 16 1))
def execClientReset (c : BitVec 10) (s : State) : Host.Outcome State Fault Refusal :=
  .next (hostWord s (hifC c 0x28) (withField (regWord s (hifC c 0x28)) 16 16 0))
def execCommitNow (s : State) : Host.Outcome State Fault Refusal := .next (hostWord s calOff (withField (regWord s calOff) 2 2 1))

/-- A write of CAL_REQ with an action. -/
def calReqWord (s : State) (w : BitVec 32) (action : Nat) : State := hostWord s (calOff + 0x300) (withField w 12 10 action)
def execCalReqMigrateTile (w : BitVec 32) (s : State) : Host.Outcome State Fault Refusal := .next (calReqWord s w 1)
def execCalReqMigrateCluster (w : BitVec 32) (s : State) : Host.Outcome State Fault Refusal := .next (calReqWord s w 2)
def execCalReqRetest (w : BitVec 32) (s : State) : Host.Outcome State Fault Refusal := .next (calReqWord s w 3)
def execCalReqRetire (w : BitVec 32) (s : State) : Host.Outcome State Fault Refusal := .next (calReqWord s w 4)
def execCalReqOutOfService (w : BitVec 32) (s : State) : Host.Outcome State Fault Refusal := .next (calReqWord s w 5)

def execRetest (w : BitVec 32) (s : State) : Host.Outcome State Fault Refusal := .next (hostWord s rngOff (withField w 1 1 1))
def execNtEn (w : BitVec 32) (s : State) : Host.Outcome State Fault Refusal := .next (hostWord s rngOff w)
def execTapEn (w : BitVec 32) (s : State) : Host.Outcome State Fault Refusal := .next (hostWord s (rngOff + 0x10) w)

/-! ## Audio, chain and tenancy -/

def execAudEnable (w : BitVec 32) (s : State) : Host.Outcome State Fault Refusal := .next (hostWord s audOff w)
def execStreamEnable (st : Nat) (w : BitVec 32) (s : State) : Host.Outcome State Fault Refusal :=
  onUnit (streamExists st) (hostWord s (audCtl st) w)
def execStreamStop (st : Nat) (w : BitVec 32) (s : State) : Host.Outcome State Fault Refusal :=
  onUnit (streamExists st) (hostWord s (audCtl st) (withField w 1 1 1))
def execGo (w : BitVec 32) (s : State) : Host.Outcome State Fault Refusal := .next (hostWord s (audOff + 8) (withField w 0 0 1))
def execRouteWrite (r k : Nat) (w : BitVec 32) (s : State) : Host.Outcome State Fault Refusal :=
  onUnit (decide (r < 56 ∧ k < 2)) (hostWord s (audRoute r k) w)
def execPortEnable (k : Nat) (w : BitVec 32) (s : State) : Host.Outcome State Fault Refusal :=
  onUnit (portExists k) (hostWord s (chnPortCfg k) w)
def execRouteEnable (s : State) : Host.Outcome State Fault Refusal := .next (hostWord s (chnOff + 0x414) 1)
def execRouteDisable (s : State) : Host.Outcome State Fault Refusal := .next (hostWord s (chnOff + 0x414) 2)
def execRouteRead (s : State) : Host.Outcome State Fault Refusal := .next (hostWord s (chnOff + 0x414) 3)
def execTdReq (s : State) : Host.Outcome State Fault Refusal := .next (hostWord s (secOff + 0xC) 1)

/-! ## Firmware images (R437–R439) -/

/-- A write of CLK_IMG_CMD with a command. -/
def imgCmdWord (s : State) (w : BitVec 32) (cmd : Nat) (files : Option (FwFile × FwFile)) : State :=
  hostWordWith files s (clkOff + 0x14) (withField w 2 0 cmd)
def execImgBootLoad (w : BitVec 32) (files : Option (FwFile × FwFile)) (s : State) : Host.Outcome State Fault Refusal :=
  .next (imgCmdWord s w 1 files)
def execImgStage (w : BitVec 32) (s : State) : Host.Outcome State Fault Refusal := .next (imgCmdWord s w 2 none)
def execImgCommit (w : BitVec 32) (s : State) : Host.Outcome State Fault Refusal := .next (imgCmdWord s w 3 none)
def execImgCancel (w : BitVec 32) (s : State) : Host.Outcome State Fault Refusal := .next (imgCmdWord s w 4 none)

/-! ## The window itself -/

def execGlbUnlock (w : BitVec 32) (s : State) : Host.Outcome State Fault Refusal := .next (hostWord s (glbOff + 8) w)

/-- GUARD_EXPIRY: 1 ms after it opened the guard closes; a key-guarded write in the same cycle wins (R451, R457). -/
def guardExpired (s : State) (met : Bool) : State :=
  if !s.guardOpen then s else if met then bump s (obsCtr 1) else { s with guardOpen := false }
def execGuardExpiry (met : Bool) (s : State) : Host.Outcome State Fault Refusal := .next (guardExpired s met)

/-- PARITY_CHECK: a mismatch of the register at an offset is recorded and reloaded; a second within 1 s of the first loses the device
(R450). -/
def parityChecked (s : State) (bad : Option Nat) : State :=
  match bad with
  | none => s
  | some off =>
    if !alive s then s
    else
      let s1 := logEvent (setIrqFlag (putNat s (glbOff + 0xC) (off % 2 ^ 26 + 2 ^ 31)) fCfgPar) 9 0xFFFF off
      match s.dbg.parTick with
      | some t => if s.tick.toNat < t + 10 ^ 8 then loseDevice s1 7 0xFFFF off
                  else { s1 with dbg := { s1.dbg with parTick := some s.tick.toNat } }
      | none => { s1 with dbg := { s1.dbg with parTick := some s.tick.toNat } }
def execParityCheck (bad : Option Nat) (s : State) : Host.Outcome State Fault Refusal := .next (parityChecked s bad)

def execSnap (s : State) : Host.Outcome State Fault Refusal := .next (hostWord s (telOff + 4) 1)

/-- CDATA_HI_AUTO_READ: TEL_CDATA_HI is read, and with `auto` set `cidx` advances (R465). -/
def readCdataHi (s : State) : State :=
  if !alive s then s
  else
    let s1 := emit s (.readData (telOff + 0x28) (readWord s (telOff + 0x28)))
    if s.clk.ready ∧ regField s (telOff + 0x20) 17 17 = 1 then
      setRegField s1 (telOff + 0x20) 15 0 (regField s (telOff + 0x20) 15 0 + 1) else s1
def execCdataHiAutoRead (s : State) : Host.Outcome State Fault Refusal := .next (readCdataHi s)

def execBerthCapture (w : BitVec 32) (s : State) : Host.Outcome State Fault Refusal := .next (hostWord s (bthOff + 0x40) w)
def execRetAddrWrite (w : BitVec 32) (s : State) : Host.Outcome State Fault Refusal := .next (hostWord s (dbgOff + 8) w)
def execBackupWrite (k : Nat) (w : BitVec 32) (s : State) : Host.Outcome State Fault Refusal :=
  onUnit (decide (k < 16)) (hostWord s (glbOff + 0x40 + 4 * k) w)

/-- REGISTER_WRITE: in RUN a request without the T bit is dropped and counted (R395). -/
def registerWrite (s : State) (off : Nat) (w : BitVec 64) (width : Nat) (tbit : Bool) : State :=
  if s.sec.tdi = .run ∧ !tbit then (if alive s then bump s (secCtr 10) else s) else hostWrite s off w width
def execRegisterWrite (off : Nat) (w : BitVec 64) (width : Nat) (tbit : Bool) (s : State) : Host.Outcome State Fault Refusal :=
  .next (registerWrite s off w width tbit)

end Sys2Proof.Machine
end

