-- ==== Sys2Proof/Machine/Cewieb.lean ====
section
/-! DEFINITION. Cewieb, the management server (R401–R407, R439, R442, R495). -/

namespace Sys2Proof.Machine
open Sys2Proof

/-! ## Requests -/

/-- Cewieb serves: in service, with the operator anchor fused (R401). -/
def cwServes (s : State) : Bool := alive s && s.clk.ready && s.sec.anchor.isSome

/-- An operation `i` with code `op`: held over a warden's commit window, else counted and run (R402, R441). -/
def onCewieb (s : State) (i : Instr) (run : State → State) : State :=
  if !cwServes s then s
  else if s.fw.wd.phase = .window then { s with sec := { s.sec with cwHeld := s.sec.cwHeld ++ [i] } }
  else run (bump s (secCtr 12))

/-- An operation that checks the view takes effect only when its view is the present one (R404). -/
def onView (s : State) (op : Nat) (v : BitVec 64) (run : State → State) : State :=
  if v = s.sec.mview then run s else cwAnswer (bump s (secCtr 13)) op stStaleView []

/-- The answer to an operation that was accepted or refused. -/
def okOrBad (s : State) (op : Nat) (ok : Bool) : State := cwAnswer s op (if ok then stOk else stBadDesc) []

/-! ## Objects (R403) -/

/-- The fields of a register of window 0 that WRITE_OBJ may write, as bit ranges. -/
def policyFields (off : Nat) : List (Nat × Nat) :=
  let o := off % 0x10000
  match off / 0x10000 with
  | 0x4 => if o = 0x10 ∨ o = 0x14 ∨ o = 0x28 then [(23, 0)] else if o = 0x18 then [(0, 0), (31, 16)]
           else if o = 0x1C ∨ o = 0x20 then [(0, 0), (16, 8)] else if o = 0x24 ∨ (0x1000 ≤ o ∧ o < 0x2000 ∧ o % 4 = 0) then [(15, 0)] else []
  | 0x5 => if o = 4 then [(0, 0), (15, 8)] else if o = 8 then [(13, 0)] else if o = 0x10 ∨ o = 0x14 then [(15, 0)] else []
  | 0x6 => if o = 0 then [(0, 0), (1, 1), (6, 2)] else []
  | 0x7 => if o = 0 then [(0, 0), (1, 1), (2, 2), (3, 3)] else if o = 8 then [(15, 0), (23, 16)] else if o = 0xC then [(15, 0)]
           else if o = 0x10 then [(7, 0), (15, 8)] else if o = 0x14 then [(9, 0), (25, 16)]
           else if o = 0x300 then [(4, 0), (9, 5), (12, 10)] else []
  | 0x8 => if o = 0x10 then [(1, 0), (8, 2), (12, 9)] else if 0x100 ≤ o ∧ o < 0xF00 ∧ o % 0x20 = 4 then [(18, 11)] else []
  | 0x9 => if o = 4 then [(12, 0)] else if 0x100 ≤ o ∧ o < 0x140 ∧ o % 16 = 0 then [(0, 0), (2, 1), (11, 3), (15, 12)]
           else if 0x1000 ≤ o ∧ o < 0x2000 ∧ o % 4 = 0 then (upTo 8).map (fun m => (4 * m + 3, 4 * m)) else []
  | _ => []

/-- The word that a write of one field writes: the field in the register as it stands; a request bit not named is written 0. -/
def fieldWord (s : State) (off hi lo : Nat) (val : BitVec 64) : BitVec 32 :=
  let cur := (regWord s off).toNat
  let base := if off = rngOff then putBits cur 1 1 0 else cur
  BitVec.ofNat 32 (putBits base hi lo val.toNat)

/-- WRITE_OBJ on a policy field: none where the register conventions ignore the write. -/
def writeField (s : State) (off hi lo : Nat) (val : BitVec 64) : Option State :=
  if !(policyFields off).contains (hi, lo) then none
  else if 0x80100 ≤ off ∧ off < 0x80F00 then
    some (bumpView (setRegField s off 18 11 (clampNat 1 200 (bitsOf val.toNat 7 0))))
  else match applyWord s true none off (fieldWord s off hi lo val) with
    | .done t => some (levelsMoved s t)
    | _ => none

/-- The value of an object; none where there is no such object. -/
def readObject (s : State) : CwObject → Option Nat
  | .field off hi lo =>
    if off % 4 = 0 ∧ off < 0x4000000 ∧ lo ≤ hi ∧ hi < 32 then some (bitsOf (readWord s off).toNat hi lo) else none
  | .unit 0 n _ => if n < 18 then some (stateCode (cluState s n)) else none
  | .unit 1 n t => if n < 18 ∧ t < 17 then some (stateCode (tileState s n t)) else none
  | .unit 2 n _ => if n < 5 then some (stateCode (coreState s n)) else none
  | .unit 3 n t => if n < 4 ∧ t < 9 then some (stateCode (chnLane s n t)) else none
  | _ => none

def readObj (s : State) (o : CwObject) : State :=
  match readObject s o with
  | some v => cwAnswer s 1 stOk (natLe v 8)
  | none => cwAnswer s 1 stBadDesc []
def execReadObj (o : CwObject) (s : State) : Host.Outcome State Fault Refusal :=
  .next (onCewieb s (.readObj o) (fun s => readObj s o))

def writeObj (s : State) (o : CwObject) (val : BitVec 64) : State :=
  match o with
  | .field off hi lo => match writeField s off hi lo val with
    | some t => cwAnswer t 2 stOk []
    | none => cwAnswer s 2 stBadDesc []
  | _ => cwAnswer s 2 stBadDesc []
def execWriteObj (v : BitVec 64) (o : CwObject) (val : BitVec 64) (s : State) : Host.Outcome State Fault Refusal :=
  .next (onCewieb s (.writeObj v o val) (fun s => onView s 2 v (fun s => writeObj s o val)))

/-- UNIT_ACTION: actions 1–5 of CAL_REQ with the same refusals (R110). -/
def unitAction (s : State) (action n t : Nat) : State :=
  if action = 0 then cwAnswer s 3 stBadDesc []
  else match calRequest s action n t with
    | some u => cwAnswer u 3 stOk []
    | none => cwAnswer (setFlag s fReqRefused) 3 stBadDesc []
def execUnitAction (v : BitVec 64) (action n t : Nat) (s : State) : Host.Outcome State Fault Refusal :=
  .next (onCewieb s (.unitAction v action n t) (fun s => onView s 3 v (fun s => unitAction s action n t)))

/-- POLICY_LOCK (R405). -/
def setPolicyLock (s : State) (on : Bool) : State :=
  let s1 : State := { s with sec := { s.sec with polLock := on } }
  cwAnswer (if s.sec.polLock = on then s1 else bumpView s1) 4 stOk []
def execPolicyLock (v : BitVec 64) (on : Bool) (s : State) : Host.Outcome State Fault Refusal :=
  .next (onCewieb s (.policyLock v on) (fun s => onView s 4 v (fun s => setPolicyLock s on)))

/-- EVICT. -/
def execEvict (s : State) : Host.Outcome State Fault Refusal :=
  .next (onCewieb s .evict (fun s => cwAnswer (teardownAsked s) 5 stOk []))

/-- REPORT: held while a commit window is open (R389). -/
def cwReport (s : State) (nonce : BitVec 256) : State :=
  if windowOpen s then holdReport s { path := 2, nonce := nonce }
  else
    let (s1, bs) := signReport s false nonce
    cwAnswer s1 6 stOk bs
def execReport (nonce : BitVec 256) (s : State) : Host.Outcome State Fault Refusal :=
  .next (if cwServes s then cwReport (bump s (secCtr 12)) nonce else s)

/-! ## Debug levels (R406, R407) -/

/-- The levels of a request may be opened: JTAG, memory read and RNG tap may not once `dbg_disable` is fused. -/
def levelsAllowed (s : State) (l : BitVec 5) : Bool := !s.fw.dbgDisable || decide (l &&& 13 = 0)

/-- Levels that wait for VACANT are counted when they are asked for. -/
def countOpens (s : State) (n : Nat) : State :=
  let s1 := addCtr s (secCtr 14) n
  { s1 with ret := memPutBytes s1.ret 0x1200 (natLe (dbgOpens s1 + n) 4) }

/-- Open levels: for a tenant bound with `dbg_teardown`, one that counts as open waits for the teardown it starts. -/
def askLevels (s : State) (l : BitVec 5) : State :=
  let fresh := l &&& ~~~ s.sec.levels
  if s.sec.tenancy = .bound ∧ s.sec.dbgTeardown ∧ fresh.toNat % 16 ≠ 0 then
    let n := ((upTo 4).filter (fun k => fresh.getLsbD k)).length
    let s1 := countOpens s n
    teardown { s1 with sec := { s1.sec with levelsDue := s1.sec.levelsDue ||| l } }
  else openLevels s l

/-- Close levels. -/
def closeLevels (s : State) (l : BitVec 5) : State :=
  let s1 := setLevels s (s.sec.levels &&& ~~~ l)
  { s1 with sec := { s1.sec with levelsDue := s1.sec.levelsDue &&& ~~~ l }, dbg := { s1.dbg with byJtag := s1.dbg.byJtag &&& ~~~ l } }

def debugOp (s : State) (on : Bool) (l : BitVec 5) : State :=
  if !on then cwAnswer (closeLevels s l) 7 stOk []
  else if levelsAllowed s l then cwAnswer (askLevels s l) 7 stOk [] else cwAnswer s 7 stBadDesc []
def execDebugLevels (v : BitVec 64) (on : Bool) (levels : BitVec 5) (s : State) : Host.Outcome State Fault Refusal :=
  .next (onCewieb s (.debugLevels v on levels) (fun s => onView s 7 v (fun s => debugOp s on levels)))

/-- BIND_POLICY. -/
def bindPolicyOp (s : State) (m t : Bool) : State :=
  let s1 := if s.sec.bindMutual = m then s else bumpView { s with sec := { s.sec with bindMutual := m } }
  cwAnswer (if s1.sec.tdispReq = t then s1 else bumpView { s1 with sec := { s1.sec with tdispReq := t } }) 8 stOk []
def execBindPolicy (v : BitVec 64) (mutualAuth tdisp : Bool) (s : State) : Host.Outcome State Fault Refusal :=
  .next (onCewieb s (.bindPolicy v mutualAuth tdisp) (fun s => onView s 8 v (fun s => bindPolicyOp s mutualAuth tdisp)))

/-! ## Counters (R495) -/

def readCtrsOp (s : State) (first count : BitVec 16) (flags : BitVec 8) : State :=
  if flags.toNat / 4 ≠ 0 ∨ count = 0 ∨ 512 < count.toNat ∨ 65536 < first.toNat + count.toNat then cwAnswer s 9 stBadDesc []
  else
    let s1 := if flags.getLsbD 1 then takeSnap s else s
    let val (i : Nat) : BitVec 48 := if flags.getLsbD 0 then bankAt s1 i else ctrAt s1 i
    cwAnswer s1 9 stOk (natLe s1.dbg.snapTick.toNat 8 ++ (upTo count.toNat).flatMap (fun k => natLe (val (first.toNat + k)).toNat 8))
def execReadCtrs (first count : BitVec 16) (flags : BitVec 8) (s : State) : Host.Outcome State Fault Refusal :=
  .next (onCewieb s (.readCtrs first count flags) (fun s => readCtrsOp s first count flags))

/-! ## The anchor (R401) -/

/-- ANCHOR_SET: over I3C until the anchor is fused, in service or in boot; afterwards refused. -/
def anchorOp (s : State) (hash : BitVec 384) (i3c : Bool) : State :=
  let due := s.fw.fuseQ.any (fun j => match j with | .anchor _ => true | _ => false)
  if s.sec.anchor.isSome || due then cwAnswer s 0xB stBadDesc []
  else if i3c then cwAnswer { s with fw := { s.fw with fuseQ := s.fw.fuseQ ++ [.anchor hash] } } 0xB stOk []
  else s
def execAnchorSet (hash : BitVec 384) (i3c : Bool) (s : State) : Host.Outcome State Fault Refusal :=
  .next (if !alive s || testBypass s || (s.sec.anchor.isNone && !i3c) then s
    else if s.fw.wd.phase = .window then { s with sec := { s.sec with cwHeld := s.sec.cwHeld ++ [.anchorSet hash i3c] } }
    else anchorOp (bump s (secCtr 12)) hash i3c)

/-! ## Firmware (R439, R442) -/

/-- A kind of the FW operation. -/
def cwKind (s : State) (kind : Nat) (run : Bool → State) : State :=
  if kind = 1 then run false else if kind = 2 then run true else cwAnswer (setImgErr s 3) 0xA stBadDesc []

/-- STAGE_CHUNK: the first chunk in IDLE begins the stage; a chunk at the offset of an earlier one replaces it. -/
def stageChunk (s : State) (wd : Bool) (off : Nat) (data : List (BitVec 8)) : State :=
  let len := (regWord s (clkOff + 0x10)).toNat
  let k := fwOf s wd
  if k.phase ≠ .idle ∧ !(k.phase = .staging ∧ k.byCewieb) then cwAnswer (setImgErr s 6) 0xA stBadDesc []
  else if data = [] ∨ 4096 < data.length ∨ len < off + data.length then cwAnswer (setImgErr s 4) 0xA stBadDesc []
  else
    let s1 := if k.phase = .idle then stageBegin s wd len true else s
    cwAnswer (modFw s1 wd (fun k => { k with chunks := k.chunks.filter (fun c => decide (c.1 ≠ off)) ++ [(off, data)] })) 0xA stOk []
def execStageChunk (v : BitVec 64) (kind off : Nat) (data : List (BitVec 8)) (s : State) : Host.Outcome State Fault Refusal :=
  .next (onCewieb s (.stageChunk v kind off data) (fun s => onView s 0xA v (fun s => cwKind s kind (fun wd => stageChunk s wd off data))))

def execCommitImage (v : BitVec 64) (kind : Nat) (s : State) : Host.Outcome State Fault Refusal :=
  .next (onCewieb s (.commitImage v kind) (fun s => onView s 0xA v (fun s => cwKind s kind (fun wd =>
    okOrBad (commitKind s wd).2 0xA (commitKind s wd).1))))

def execCancelImage (v : BitVec 64) (kind : Nat) (s : State) : Host.Outcome State Fault Refusal :=
  .next (onCewieb s (.cancelImage v kind) (fun s => onView s 0xA v (fun s => cwKind s kind (fun wd =>
    okOrBad (cancelKind s wd).2 0xA (cancelKind s wd).1))))

/-- RAISE_FLOOR: accepted only in IDLE; the fuse record waits for its pulse. -/
def raiseFloorOp (s : State) (wd : Bool) : State :=
  if (fwOf s wd).phase ≠ .idle then cwAnswer (setImgErr s 6) 0xA stBadDesc []
  else cwAnswer { s with fw := { s.fw with fuseQ := s.fw.fuseQ ++ [.floor wd (fwOf s wd).running.ver] } } 0xA stOk []
def execRaiseFloor (v : BitVec 64) (kind : Nat) (s : State) : Host.Outcome State Fault Refusal :=
  .next (onCewieb s (.raiseFloor v kind) (fun s => onView s 0xA v (fun s => cwKind s kind (raiseFloorOp s))))

/-- BOOT_IMAGE: from the boot ROM only. -/
def execBootImage (v : BitVec 64) (kind : Nat) (file : FwFile) (s : State) : Host.Outcome State Fault Refusal :=
  .next (
    if waitsManagement s then
      onView (bump s (secCtr 12)) 0xA v (fun s => cwKind s kind (fun wd => okOrBad (supply s wd file) 0xA (imageValid s wd file)))
    else onCewieb s (.bootImage v kind file) (fun s => onView s 0xA v (fun s => cwAnswer s 0xA stBadDesc [])))

/-- CEWIEB_CONNECTION: refused in the handshake, or beside four sessions already open. -/
def connection (s : State) (ok : Bool) (others : Nat) : State :=
  if !alive s || (ok && decide (others < 4)) then s else bump s (secCtr 11)
def execCewiebConnection (ok : Bool) (others : Nat) (s : State) : Host.Outcome State Fault Refusal := .next (connection s ok others)

end Sys2Proof.Machine
end

