-- ==== Sys2Proof/Machine/Jtag.lean ====
section
/-! DEFINITION. JTAG and the trace port (R499–R503, R505). -/

namespace Sys2Proof.Machine
open Sys2Proof

/-- The JTAG level is open, or the device is in test bypass, where every instruction acts without unlock (R502). -/
def jtagOpen (s : State) : Bool := s.sec.levels.getLsbD 0 || testBypass s

/-- EXTEST: the device's I/O stops, and the host link and the chain ports go down until RESET_N. -/
def extest (s : State) : State :=
  if !jtagOpen s || s.dbg.ioStopped then s
  else
    let s1 := if s.clk.ready then linkReset s .linkDown else s
    stopPorts { s1 with dbg := { s1.dbg with ioStopped := true } }
def execExtest (s : State) : Host.Outcome State Fault Refusal := .next (extest s)

def execIdcode (s : State) : Host.Outcome State Fault Refusal := .next (emit s (.jtag (natLe 0xB960854F 4)))

/-- SAMPLE/PRELOAD moves the boundary register, whose cells no rule lists; nothing inside the device changes. -/
def execSamplePreload (s : State) : Host.Outcome State Fault Refusal := .next s

/-- CHALLENGE: a nonce of the hub generator and the serial. -/
def challenge (s : State) : State := if alive s then giveNonce s else s
def execChallenge (s : State) : Host.Outcome State Fault Refusal := .next (challenge s)

/-- A RESPONSE is good: a fresh nonce, a signature and chain that verify, no `dbg_disable`, and fewer than three refusals. -/
def responseGood (s : State) (mask : BitVec 8) (ok : Bool) : Bool :=
  ok && s.dbg.nonce.isSome && s.sec.anchor.isSome && !s.fw.dbgDisable && decide (s.dbg.refusals < 3 ∧ mask.toNat < 16)

/-- RESPONSE as judged: each nonce serves one. -/
def judgeResponse (s : State) (mask : BitVec 8) (ok : Bool) : State :=
  let s1 : State := { s with dbg := { s.dbg with nonce := none } }
  if responseGood s mask ok then
    let l := BitVec.ofNat 5 mask.toNat
    askLevels { s1 with dbg := { s1.dbg with byJtag := s1.dbg.byJtag ||| l } } l
  else setFlag { s1 with dbg := { s1.dbg with refusals := s1.dbg.refusals + 1 } } fUnlockFail

/-- RESPONSE: held over a commit window of the warden (R505). -/
def response (s : State) (mask : BitVec 8) (ok : Bool) : State :=
  if !alive s || !s.clk.ready then s
  else if s.fw.wd.phase = .window then { s with sec := { s.sec with cwHeld := s.sec.cwHeld ++ [.response mask ok] } }
  else judgeResponse s mask ok
def execResponse (mask : BitVec 8) (ok : Bool) (s : State) : Host.Outcome State Fault Refusal := .next (response s mask ok)

/-- LOCK closes every level opened through JTAG. -/
def execJtagLock (s : State) : Host.Outcome State Fault Refusal :=
  .next (if s.dbg.byJtag = 0 then s else closeLevels s s.dbg.byJtag)

/-- DBG_ACCESS: a word of a register, a store or package memory, with the JTAG and memory-read levels open.  The isolation wrapper of an
OUT_OF_SERVICE cluster completes the read of its store with an error, which returns zeros (R97; the value is a DESIGN CHOICE, log 177). -/
def dbgAccess (s : State) (o : DbgTarget) : State :=
  if !(testBypass s || (jtagOpen s && s.sec.levels.getLsbD 2)) then s
  else match o with
    | .reg off => emit s (.jtag (natLe (readWord s off).toNat 4))
    | .store n a =>
      emit s (.jtag (if cluState s n = .outOfService then [0, 0, 0, 0] else memBytes s.store (storeBase n + a) 4))
    | .package a => emit s (.jtag (pmBytes s a 4))

/-- What DBG_ACCESS may name. -/
def dbgExists : DbgTarget → Bool
  | .reg off => decide (off % 4 = 0 ∧ off < 0x4000000)
  | .store n a => decide (n < 18 ∧ a + 4 ≤ storeSize)
  | .package a => pmExists a && decide (a % 4 = 0)
def execDbgAccess (o : DbgTarget) (s : State) : Host.Outcome State Fault Refusal := onUnit (dbgExists o) (dbgAccess s o)

/-- BYPASS: one bit of delay between TDI and TDO; nothing of the device changes. -/
def execBypass (s : State) : Host.Outcome State Fault Refusal := .next s

/-- TRACE_RECORD_SEND: an OVERFLOW record once the FIFO has room after a drop, else the oldest record, else a record of type 0x00, whose
other bytes no rule gives. -/
def sendTrace (s : State) : State :=
  if !alive s || !trcOn s then s
  else if 0 < s.dbg.trcLost ∧ s.dbg.trc.length < 4096 then
    let r := natLe 0xF 1 ++ natLe trcHub 1 ++ [0, 0] ++ natLe s.tick.toNat 6 ++ natLe s.dbg.trcLost 6
    bump (emit { s with dbg := { s.dbg with trcLost := 0 } } (.trace r)) (obsCtr 5)
  else match s.dbg.trc with
    | r :: rest => bump (emit { s with dbg := { s.dbg with trc := rest } } (.trace r)) (obsCtr 5)
    | [] => useFree (emit s (.trace (0 :: freeBytes s 15)))
def execTraceRecordSend (s : State) : Host.Outcome State Fault Refusal := .next (sendTrace s)

end Sys2Proof.Machine
end

