-- ==== Sys2Proof/Machine/Thermal.lean ====
section
/-! DEFINITION. Temperature, supply and the voltage loops (R106–R108, R465, R473, R476, R479, R480). -/

namespace Sys2Proof.Machine
open Sys2Proof

/-! ## Thermal states (R479, R480) -/

def dieTherm (s : State) (d : Nat) : DieTherm := tabGet {} s.thm.dies d
def setDie (s : State) (d : Nat) (v : DieTherm) : State := { s with thm := { s.thm with dies := tabSet {} s.thm.dies d v } }

/-- Codes of the thermal states (R496). -/
def thCode : ThState → Nat
  | .normal => 0 | .throttle => 1 | .trip => 2 | .critical => 3

/-- A die changes its thermal state: the log records it. -/
def thState (s : State) (d : Nat) (st : ThState) : State :=
  if (dieTherm s d).st = st then s
  else logEvent (setDie s d { dieTherm s d with st := st }) 0xA 0xFFFF (d + 2 * thCode st)

/-- The thermal gear changes; one that rises above `gear_ceil` overrides it (R108, R479). -/
def thGear (s : State) (d g : Nat) : State :=
  let s1 := setDie s d { dieTherm s d with gt := g }
  if (dieTherm s d).gt < g ∧ gearCeil s d < g then setFlag s1 fThermOvr else s1

/-- CRITICAL: THERMTRIP_N asserts, the device is lost, every tenant key is zeroised, and every clock but the always-on clock stops once a
fuse pulse under way has completed (R480, R486). -/
def critical (s : State) (d : Nat) : State :=
  let s1 := thState s d .critical
  let s2 := loseDevice { s1 with thm := { s1.thm with tripPin := true } } 11 0xFFFF d
  { s2 with
    sec := { s2.sec with keys := [], tsess := none, bindPub := none }
    fw := { s2.fw with fuseQ := s2.fw.fuseQ.take 1 }
    clk := { s2.clk with stopped := true } }

/-- The temperature alarm of a TEL_TEMP value (R465): set and disarmed at the level, armed again 3 °C below it. -/
def alarm (s : State) (ix : Nat) (v : Int) : State :=
  let level : Int := 8 * (regField s (telOff + 0x50) 7 0 : Nat)
  let arm (s : State) (off : Bool) : State := { s with dbg := { s.dbg with alarmOff := tabSet false s.dbg.alarmOff ix off } }
  if level ≤ v then (if tabGet false s.dbg.alarmOff ix then s else arm (setIrqFlag s fTAlarm) true)
  else if v < level - 24 then arm s false
  else s

/-- The largest of some temperatures. -/
def hottest (l : List Int) : Option Int :=
  l.foldl (fun a x => some (match a with | none => x | some y => max y x)) none

/-- T of a sample: its own sensors, the hub's, and 10 °C above each stack's. -/
def sampleT (m : ThermSample) : Option Int := hottest (m.own.toList ++ m.hub.toList ++ m.stk.map (fun v => v + 80))

/-- The transitions of a sample. -/
def thermStep (s : State) (d : Nat) (t : Int) : State :=
  let s1 := setDie s d { dieTherm s d with temp := t }
  if 960 ≤ t then critical s1 d
  else match (dieTherm s d).st with
    | .normal =>
      if 880 ≤ t then bump (thGear (thState s1 d .trip) d 5) (thmCtr 1)
      else if 800 ≤ t then bump (thGear (thState s1 d .throttle) d (Nat.min 5 (gearInForce s d + 1))) (thmCtr 0)
      else s1
    | .throttle => if 880 ≤ t then bump (thGear (thState s1 d .trip) d 5) (thmCtr 1) else s1
    | _ => s1

/-- What a sample reports, without its effect on the state. -/
def readSensors (s : State) (d : Nat) (m : ThermSample) : State :=
  let s1 := m.tiles.foldl (fun s e =>
    if e.1 < 306 ∧ dieOf (e.1 / 17) = d then modTile s e.1 (fun k => sensed k e.2) else s) (addCtr s (thmCtr 2) m.fails)
  let s2 := match m.own with
    | some v => alarm (setDie s1 d { dieTherm s1 d with own := v }) d v
    | none => s1
  match m.hub with
  | some v => alarm { s2 with thm := { s2.thm with hub := v } } 2 v
  | none => s2

/-- SENSOR_SAMPLE. -/
def sensorSample (s : State) (d : Nat) (m : ThermSample) : State :=
  if !alive s then s
  else
    let s1 := readSensors (advanceConvs s) d m
    match sampleT m with
    | some t => thermStep s1 d t
    | none => s1
def execSensorSample (die : Nat) (m : ThermSample) (s : State) : Host.Outcome State Fault Refusal :=
  onUnit (decide (die < 2)) (sensorSample s die m)

/-- THROTTLE_DWELL: the samples since the last change of gear kept T at 100 °C or above for 100 µs (`up`), or below 97 °C for 1 ms, or
in TRIP below 100 °C for 10 ms.  The latest T must agree. -/
def dwell (s : State) (d : Nat) (up : Bool) : State :=
  let v := dieTherm s d
  if !alive s then s
  else match v.st, up with
    | .throttle, true => if 800 ≤ v.temp ∧ v.gt < 5 then thGear s d (v.gt + 1) else s
    | .throttle, false =>
      if 776 ≤ v.temp then s
      else
        let s1 := thGear s d (v.gt - 1)
        if v.gt ≤ 1 then thState s1 d .normal else s1
    | .trip, false => if v.temp < 800 then thState s d .throttle else s
    | _, _ => s
def execThrottleDwell (die : Nat) (up : Bool) (s : State) : Host.Outcome State Fault Refusal := onUnit (decide (die < 2)) (dwell s die up)

/-- SENSOR_TIMEOUT: no sensor of the die reported for 1 ms; a report in the same cycle wins (R457). -/
def sensorsLost (s : State) (d : Nat) (met : Bool) : State :=
  if !alive s then s else if met then bump s (obsCtr 9) else critical s d
def execSensorTimeout (die : Nat) (met : Bool) (s : State) : Host.Outcome State Fault Refusal :=
  onUnit (decide (die < 2)) (sensorsLost s die met)

/-- ALERT_N is asserted (R480). -/
def alertN (s : State) : Bool :=
  decide ((dieTherm s 0).st = .trip) || decide ((dieTherm s 1).st = .trip) || flagOn s fTAlarm || s.lost.lost

/-! ## Rails (R476) -/

/-- RAIL_FAULT: in service, a rail other than VDD_AO (5 in the order of R471) out of range for 2 µs loses the device. -/
def railFault (s : State) (rail : Nat) (met : Bool) : State :=
  if !alive s || !s.clk.ready || decide (rail = 5) then s
  else if met then bump s (obsCtr 9) else loseDevice s 9 0xFFFF rail
def execRailFault (rail : Nat) (met : Bool) (s : State) : Host.Outcome State Fault Refusal :=
  onUnit (decide (rail < 8)) (railFault s rail met)

/-! ## The voltage loops (R106–R108, R473) -/

def avsMin (s : State) : Nat := regField s (calOff + 0x14) 9 0
def avsMax (s : State) : Nat := regField s (calOff + 0x14) 25 16
/-- The acknowledged target of a die and the target last asked for, in mV; both start at 750. -/
def avsAcked (s : State) (d : Nat) : Nat := tabGet 750 s.thm.avs d
def avsWanted (s : State) (d : Nat) : Nat := tabGet 750 s.thm.avsWant d
def avsFails (s : State) (d : Nat) : Bool := tabGet false s.thm.avsBad d

/-- The loop of a die enters or leaves its pinned state: an entry sets `pin_avs` and counts (R107). -/
def setPinned (s : State) (d : Nat) (on : Bool) : State :=
  let was := tabGet false s.thm.pinned d
  let s1 : State := { s with thm := { s.thm with pinned := tabSet false s.thm.pinned d on } }
  if on && !was then setFlag s1 fPinAvs else s1

/-- The guard of a die begins or ends an override: a beginning sets `mvg_ovr` and counts (R108). -/
def setOverriding (s : State) (d : Nat) (on : Bool) : State :=
  let was := tabGet false s.thm.overriding d
  let s1 : State := { s with thm := { s.thm with overriding := tabSet false s.thm.overriding d on } }
  if on && !was then setFlag s1 fMvgOvr else s1

/-- A target is written to the die's regulator. -/
def writeAvs (s : State) (d mv : Nat) : State :=
  if avsWanted s d = mv then s
  else emit { s with thm := { s.thm with avsWant := tabSet 750 s.thm.avsWant d mv } } (.avs d mv)

/-- MARGIN_MONITOR_SAMPLE: the present core clock of a die needs `need` mV.  The loop follows within its bounds; the guard goes above
`avs_max_mv`, to 850 mV and no further, and lowers the divider where the rail cannot meet the need. -/
def marginSample (s : State) (d need : Nat) : State :=
  if !alive s || !s.clk.ready then s
  else
    let hi := avsMax s
    let target := if hi < need then Nat.min need 850 else Nat.max (avsMin s) need
    let g := tabGet 0 s.clk.guardGear d
    let short := decide (850 < need) || (avsFails s d && decide (avsAcked s d < need))
    let g1 := if short then Nat.min 5 (g + 1) else if need ≤ hi then g - 1 else g
    let s1 : State := { s with clk := { s.clk with guardGear := tabSet 0 s.clk.guardGear d g1 } }
    let s2 := setOverriding s1 d (decide (hi < need) || decide (gearCeil s d < g1))
    let s3 := setPinned s2 d (decide (hi < need) || decide (need < avsMin s) || avsFails s d)
    if avsFails s d then s3 else writeAvs s3 d target
def execMarginMonitorSample (die need : Nat) (s : State) : Host.Outcome State Fault Refusal :=
  onUnit (decide (die < 2)) (marginSample s die need)

/-- An AVSBus command failed: the loop holds, and is pinned. -/
def avsFailed (s : State) (d : Nat) : State :=
  let s1 : State := { s with thm := { s.thm with avsBad := tabSet false s.thm.avsBad d true } }
  setPinned (logEvent (bump s1 (thmCtr 4)) 0xB 0xFFFF d) d true

/-- AVSBUS_RESPONSE: the target asked for is acknowledged, or the status reports a fault. -/
def avsAnswered (s : State) (d : Nat) (fault : Bool) : State :=
  if !alive s || !s.clk.ready then s
  else if fault then avsFailed s d
  else
    let s1 : State := { s with thm := { s.thm with avsBad := tabSet false s.thm.avsBad d false } }
    if avsAcked s d = avsWanted s d then s1
    else bump { s1 with thm := { s1.thm with avs := tabSet 750 s1.thm.avs d (avsWanted s d) } } (thmCtr 3)
def execAvsbusResponse (die : Nat) (fault : Bool) (s : State) : Host.Outcome State Fault Refusal :=
  onUnit (decide (die < 2)) (avsAnswered s die fault)

/-- AVS_RESPONSE_TIMEOUT: no valid response within 100 µs; one in the same cycle wins (R457). -/
def avsExpired (s : State) (d : Nat) (met : Bool) : State :=
  if !alive s || !s.clk.ready then s else if met then bump s (obsCtr 9) else avsFailed s d
def execAvsResponseTimeout (die : Nat) (met : Bool) (s : State) : Host.Outcome State Fault Refusal :=
  onUnit (decide (die < 2)) (avsExpired s die met)

/-- AVS_RETRY: the target asked for is written again. -/
def avsRetried (s : State) (d : Nat) : State :=
  if !alive s || !s.clk.ready || !avsFails s d then s else emit s (.avs d (avsWanted s d))
def execAvsRetry (die : Nat) (s : State) : Host.Outcome State Fault Refusal := onUnit (decide (die < 2)) (avsRetried s die)

end Sys2Proof.Machine
end

