-- ==== Sys2Proof/Machine/Windows.lean ====
section
/-! DEFINITION. The ends of the commit windows, and what waited for them (R105, R325, R389, R409, R438–R441, R443). -/

namespace Sys2Proof.Machine
open Sys2Proof

/-! ## What waited -/

/-- The next state of an outcome that has one. -/
def nextOf (s : State) : Host.Outcome State Fault Refusal → State
  | .next t => t
  | _ => s

/-- An operation of Cewieb or JTAG that the window of the warden held. -/
def runHeld (s : State) (i : Instr) : State :=
  nextOf s (match i with
    | .readObj o => execReadObj o s
    | .writeObj v o val => execWriteObj v o val s
    | .unitAction v a n t => execUnitAction v a n t s
    | .policyLock v on => execPolicyLock v on s
    | .evict => execEvict s
    | .debugLevels v on l => execDebugLevels v on l s
    | .bindPolicy v m t => execBindPolicy v m t s
    | .readCtrs a b f => execReadCtrs a b f s
    | .stageChunk v k o d => execStageChunk v k o d s
    | .commitImage v k => execCommitImage v k s
    | .cancelImage v k => execCancelImage v k s
    | .raiseFloor v k => execRaiseFloor v k s
    | .bootImage v k f => execBootImage v k f s
    | .anchorSet h i3c => execAnchorSet h i3c s
    | .response m ok => execResponse m ok s
    | _ => .next s)

/-- A window has closed: held reports are answered, a held teardown cause is accepted, and held operations run in arrival order. -/
def closeWindow (s : State) : State :=
  if windowOpen s then s
  else
    let s1 := answerHeld s
    let s2 := if s1.sec.tdDue then teardown { s1 with sec := { s1.sec with tdDue := false } } else s1
    s2.sec.cwHeld.foldl runHeld { s2 with sec := { s2.sec with cwHeld := [] } }

/-! ## Harbourmaster (R325, R440) -/

/-- The firmware end of a client's mailboxes is reset: unread H2F messages are discarded with a notice, and outbox messages stay, as
orphans of the old epoch. -/
def resetMail (s : State) (c : BitVec 10) : State :=
  let k := client s c
  let unread := (k.h2fTail - k.h2fHead).toNat
  let n := k.orph.length + unread
  let s1 := setClient s c { k with
    orph := [], h2fHead := k.h2fTail
    outbox := k.outbox.map (fun m => if m.orphan then m else { m with orphan := true, orphEpoch := s.host.fwEpoch }) }
  let s2 := addCtr s1 (hifCtr 16) n
  if n = 0 then s2
  else if unread = 0 then notice (useFree s2) c 0x84 stReceiverReset 0 (natLe n 4 ++ natLe (bitsOf (Config.freeWord s2.free).toNat 31 0) 4)
  else notice s2 c 0x84 stReceiverReset 0 (natLe n 4 ++ natLe (k.h2fTail - 1).toNat 4)

/-- The firmware end of every mailbox is reset, and `fw_epoch` counts it. -/
def resetAllMail (s : State) : State :=
  let s1 := s.clients.foldl (fun s e => resetMail s (BitVec.ofNat 10 e.1)) s
  { s1 with host := { s1.host with fwEpoch := s1.host.fwEpoch + 1 } }

/-- The duty sets have moved: the core that was SPARE is ACTIVE, and the highest ACTIVE one is SPARE. -/
def moveDuties (s : State) : State :=
  match spareCore s, (upTo 5).reverse.find? (fun k => decide (coreState s k = .active)) with
  | some j, some k => setCore (setCore s j .active) k .spare
  | _, _ => s

/-- A switch completes: the staged image is the running one (R438). -/
def switched (s : State) (wd : Bool) : State :=
  let s1 := bump (setPhase s wd .persist) (clkCtr 5)
  let s2 := modFw s1 wd (fun k => { k with running := k.pending.getD k.running, pending := none, len := 0, chunks := [], flashed := false, coreLoaded := false })
  if fromFlash s2 then s2 else setPhase s2 wd .idle

/-- HM_WINDOW_DONE. -/
def hmClosed (s : State) (ok : Bool) : State :=
  if s.fw.hm.phase ≠ .window ∨ !alive s then s
  else if ok then closeWindow (switched (resetAllMail (moveDuties s)) false)
  else closeWindow (abortWindow s false)
def execHmWindowDone (ok : Bool) (s : State) : Host.Outcome State Fault Refusal := .next (hmClosed s ok)

/-- WD_WINDOW_DONE. -/
def wdClosed (s : State) (ok : Bool) : State :=
  if s.fw.wd.phase ≠ .window ∨ !alive s then s
  else if ok then closeWindow (switched s true)
  else closeWindow (abortWindow s true)
def execWdWindowDone (ok : Bool) (s : State) : Host.Outcome State Fault Refusal := .next (wdClosed s ok)

/-! ## Windows that abort -/

/-- CORE_WATCHDOG_EXPIRY: the watchdog was not served for 1 ms; a service in the same cycle wins (R457). -/
def watchdogExpired (s : State) (core : Nat) (met : Bool) : State :=
  if met then bump s (obsCtr 9) else closeWindow (coreFailed s core)
def execCoreWatchdogExpiry (core : Nat) (met : Bool) (s : State) : Host.Outcome State Fault Refusal :=
  onUnit (decide (core < 5)) (watchdogExpired s core met)

/-- CORE_SRAM_ERROR. -/
def execCoreSramError (core : Nat) (s : State) : Host.Outcome State Fault Refusal :=
  onUnit (decide (core < 5)) (closeWindow (coreFailed s core))

/-- DEVICE_LOST_SCRUB: what a window held when the device was lost is answered too (R389). -/
def execDeviceLostScrub (s : State) : Host.Outcome State Fault Refusal := .next (closeWindow (lostScrub s))

end Sys2Proof.Machine
end

