-- ==== Sys2Proof/Machine/Boot.lean ====
section
/-! DEFINITION. Resets, boot and the fuses (R95, R98, R208, R399, R427–R433, R436, R474, R476). -/

namespace Sys2Proof.Machine
open Sys2Proof

/-! ## What a reset leaves (R427) -/

/-- GLB_BACKUP_k lies in the retained domain (R432). -/
def isBackup (o : Nat) : Bool := decide (glbOff + 0x40 ≤ o ∧ o < glbOff + 0x80)

/-- The state after a reset: everything outside the retained domain is at its reset value; fuses and boot flash stay; a failed spoke,
a spared row and the retained domain stay until power-on. -/
def resetAll (s : State) (por : Bool) : State :=
  { pending := s.pending, emitted := s.emitted, free := s.free
    regs := if por then [] else s.regs.filter (fun e => isBackup e.1)
    ret := if por then [] else s.ret
    pm := if por then [] else s.pm
    tiles := if por then [] else
      s.tiles.filterMap (fun e => if e.2.spokeFailed = [] then none else some (e.1, { spokeFailed := e.2.spokeFailed }))
    mem := if por then {} else { rowErrs := s.mem.rowErrs, rowsSpared := s.mem.rowsSpared, pcRows := s.mem.pcRows }
    map := { cluFuse := s.map.cluFuse, tileFuse := s.map.tileFuse }
    aud := { io18 := s.aud.io18 }
    chn := { lanes := (s.fw.laneFuse.filter (·.2)).map (fun e => (e.1, UnitState.retired)) }
    sec := { anchor := s.sec.anchor }
    fw := { slots := s.fw.slots, coreFuse := s.fw.coreFuse, laneFuse := s.fw.laneFuse, floorHm := s.fw.floorHm, floorWd := s.fw.floorWd,
            dbgDisable := s.fw.dbgDisable, boots := if por then 0 else s.fw.boots }
    thm := { tripPin := s.thm.tripPin && !por }
    clk := { refValid := s.clk.refValid, porHeld := s.clk.porHeld, rstLow := s.clk.rstLow, inReset := true } }

/-- The internal reset asserts. -/
def assertReset (s : State) (delayed : Bool) : State :=
  let s1 := resetAll s false
  { s1 with clk := { s1.clk with rstDelayed := delayed } }

/-- RESET_N_ASSERT: a fuse pulse under way delays the reset, and no further one starts (R430).  While flash is being programmed, whether
a transfer is in progress at that moment is a free value (DESIGN CHOICE, log 192); the reset waits for its end, 11 µs or less, which
changes nothing else. -/
def resetAsserted (s : State) : State :=
  let s1 : State := { s with clk := { s.clk with rstLow := true } }
  if s.clk.inReset || s.clk.porHeld then s1
  else if s.fw.fuseQ.isEmpty then
    (if flashBusy s then useFree (assertReset s1 ((Config.freeWord s.free).getLsbD 0)) else assertReset s1 false)
  else { s1 with clk := { s1.clk with rstWaits := true }, fw := { s1.fw with fuseQ := s1.fw.fuseQ.take 1 } }
def execResetNAssert (s : State) : Host.Outcome State Fault Refusal := .next (resetAsserted s)

/-- The internal reset releases: the straps are sampled. -/
def releaseReset (s : State) (boot clk : BitVec 2) : State :=
  let w := putBits (putBits (regWord s (clkOff + 4)).toNat 8 7 boot.toNat) 10 9 clk.toNat
  let s1 := setRegWord { s with clk := { s.clk with inReset := false } }
    (clkOff + 4) (BitVec.ofNat 32 w)
  if boot = 3 ∨ clk = 3 then setFlag s1 fStrapBad else s1

/-- RESET_N_RELEASE. -/
def resetReleased (s : State) (boot clk : BitVec 2) : State :=
  let s1 : State := { s with clk := { s.clk with rstLow := false } }
  if s.clk.inReset && !s.clk.porHeld && !s.clk.rstWaits then releaseReset s1 boot clk else s1
def execResetNRelease (boot clk : BitVec 2) (s : State) : Host.Outcome State Fault Refusal := .next (resetReleased s boot clk)

/-- POWER_ON_RESET_RELEASE: the internal reset releases at the later of this and the release of RESET_N. -/
def porReleased (s : State) (boot clk : BitVec 2) : State :=
  if !s.clk.porHeld then s
  else
    let s1 : State := { s with clk := { s.clk with porHeld := false } }
    if s.clk.rstLow then s1 else releaseReset s1 boot clk
def execPowerOnResetRelease (boot clk : BitVec 2) (s : State) : Host.Outcome State Fault Refusal := .next (porReleased s boot clk)

/-- VDD_AO_LOW: power-on reset asserts at once. -/
def aoLow (s : State) : State :=
  let s1 := resetAll s true
  { s1 with clk := { s1.clk with porHeld := true } }
def execVddAoLow (s : State) : Host.Outcome State Fault Refusal := .next (aoLow s)

/-! ## Fuses (R98, R401, R430, R442) -/

/-- A fuse record takes effect; none lowers a floor (R442). -/
def fuseTakes (s : State) : FuseJob → State
  | .retireCluster n => mapDue { s with map := { s.map with cluFuse := tabSet false s.map.cluFuse n true } } (.cluster n .retired)
  | .retireTile n t => mapDue { s with map := { s.map with tileFuse := tabSet false s.map.tileFuse (tileKey n t) true } } (.tile n t .retired)
  | .retireLane p j => setLane { s with fw := { s.fw with laneFuse := tabSet false s.fw.laneFuse (9 * p + j) true } } p j .retired
  | .retireCore k => setCore { s with fw := { s.fw with coreFuse := tabSet false s.fw.coreFuse k true } } k .retired
  | .floor wd v =>
    let f := if (floorOf s wd).toNat ≤ v.toNat then v else floorOf s wd
    bump { s with fw := if wd then { s.fw with floorWd := f } else { s.fw with floorHm := f } } (clkCtr 7)
  | .anchor h => { s with sec := { s.sec with anchor := some h } }

/-- FUSE_PULSE_DONE: the first record is written; a reset that waited for it asserts. -/
def fuseDone (s : State) : State :=
  match s.fw.fuseQ with
  | [] => s
  | j :: rest =>
    let s1 := fuseTakes { s with fw := { s.fw with fuseQ := rest } } j
    if s.clk.rstWaits then assertReset s1 true else s1
def execFusePulseDone (s : State) : Host.Outcome State Fault Refusal := .next (fuseDone s)

/-! ## The images of a boot (R436, R437) -/

/-- A flash slot holds a valid image of its kind. -/
def slotValid (s : State) (wd b : Bool) : Option FwImage :=
  match (flashSlot s (slotNo wd b)).image with
  | some i => if (floorOf s wd).toNat ≤ i.ver.toNat then some i else none
  | none => none

/-- The place of a slot in the order of R436. -/
def slotClass (x : FlashSlot) : Nat := if x.active && !x.retired then 1 else if x.staged || x.retired then 2 else 3

/-- The slot that boot takes from flash, and its image. -/
def flashChoice (s : State) (wd : Bool) : Option (Bool × FwImage) :=
  let pick (b : Bool) : Option (Nat × Bool × FwImage) :=
    let c := slotClass (flashSlot s (slotNo wd b))
    match slotValid s wd b with
    | some i => if c < 3 then some (c, b, i) else none
    | none => none
  match pick false, pick true with
  | some (ca, x), some (cb, y) => if cb < ca ∨ (cb = ca ∧ x.2.seq.toNat < y.2.seq.toNat) then some y else some x
  | some (_, x), none => some x
  | none, some (_, y) => some y
  | none, none => none

/-- The boot ROM reads the flash. -/
def bootsFlash (s : State) : Bool := fromFlash s && !s.fw.waitBundle

/-- The image of a kind that boot runs, and whether it came from slot B. -/
def bootImage (s : State) (wd : Bool) : Option (Bool × FwImage) :=
  if bootsFlash s then flashChoice s wd
  else (if wd then s.fw.bootWd else s.fw.bootHm).map (fun i => (false, i))

/-! ## The tests and the repair map of a boot (R95) -/

/-- Columns found out of tolerance move to spare spokes; none where no spoke is left. -/
def bootSpokes (k : Tile) (bad : List Nat) : Option Tile :=
  let k1 := bad.foldl (fun k c => if c % 33 = 32 then { k with spokeFailed := tabSet false k.spokeFailed (c / 33) true } else k)
    { k with spokes := [] }
  bad.foldl (fun a c => match a with
    | none => none
    | some k => match colServed k c with
      | none => some k
      | some j => match chooseSpoke k [] c with
        | some p => some { k with spokes := tabSet 0 k.spokes p (j + 1) }
        | none => none) (some k1)

/-- The first four ladders in tolerance serve the quarters; none where fewer are left. -/
def bootLadders (k : Tile) (bad : List Nat) : Option Tile :=
  let good := (upTo 5).filter (fun i => !bad.contains i)
  if good.length < 4 then none
  else some { k with
    ladders := good.zipIdx.foldl (fun m e => if e.2 < 4 ∧ e.1 ≠ e.2 then tabPut m e.2 e.1 else m) []
    ladderFailed := bad.foldl (fun m i => tabSet false m i true) [] }

/-- What boot reports of a tile. -/
def bootList (l : List (Nat × List Nat)) (k : Nat) : List Nat := (l.find? (fun e => decide (e.1 = k))).elim [] (·.2)

/-- A tile passes its boot test: the tile as the boot calibration leaves it. -/
def bootTile (s : State) (r : BootResult) (n t : Nat) : Option Tile :=
  let key := tileKey n t
  if tabGet false s.map.tileFuse key || r.failTile.contains key then none
  else match bootLadders (tileAt s key) (bootList r.badLadders key) with
    | none => none
    | some k => match bootSpokes k (bootList r.badCols key) with
      | none => none
      | some k1 =>
        let v := ((r.temps.find? (fun e => decide (e.1 = key))).map (·.2)).getD 0
        let b := (r.trims.find? (fun e => decide (e.tile = key))).getD {}
        let tr : Trims := { off := takeTrims (offBnd s) b.off [], gain := takeTrims (gainBnd s) b.gain [] }
        some { k1 with temp := v, cal := ⟨s.tick.toNat, v⟩, trims := tr, trimWork := tr, passes := 16 }

/-- A unit that does not pass is QUARANTINED, which its count records; a third entry asks for its fuse. -/
def bootFailed (s : State) (unit : Nat) (j : FuseJob) : State :=
  let a := 0x1040 + unit
  let s1 := bump { s with ret := memPut s.ret a (BitVec.ofNat 8 (Nat.min 255 ((memByte s.ret a).toNat + 1))) } (calCtr 10)
  if 3 ≤ quarCount s1 unit then { s1 with fw := { s1.fw with fuseQ := s1.fw.fuseQ ++ [j] } } else s1

/-- Tile t of cluster n takes its state and its slot; `m` tiles below it serve already. -/
def placeTile (s : State) (r : BootResult) (n t : Nat) : State :=
  match bootTile s r n t with
  | some k =>
    let m := ((upTo t).filter (fun u => decide (tileState s n u = .active))).length
    let s1 := addCtr (setTile s (tileKey n t) k) (calCtr 0) 16
    if m < 16 then
      setTileState { s1 with map := { s1.map with tile := tabSet 31 s1.map.tile (16 * n + m) t } } n t .active
    else setTileState s1 n t .spare
  | none =>
    if tabGet false s.map.tileFuse (tileKey n t) then setTileState s n t .retired
    else bootFailed (setTileState s n t .quarantined) (unitTile n t) (.retireTile n t)

/-- Cluster n passes its boot test: its own, its generator's, and 16 tiles'. -/
def cluPasses (s : State) (r : BootResult) (n : Nat) : Bool :=
  !tabGet false s.map.cluFuse n && !r.failClu.contains n && !r.failKat.contains n
  && decide (16 ≤ ((upTo 17).filter (fun t => decide (tileState s n t = .active))).length)

/-- Cluster n takes its state and its logical cluster. -/
def placeClu (s : State) (r : BootResult) (n : Nat) : State :=
  let s1 := (upTo 17).foldl (fun s t => placeTile s r n t) s
  let base := 9 * (n / 9)
  let m := ((upTo 9).filter (fun i => decide (base + i < n ∧ cluState s1 (base + i) = .active))).length
  if cluPasses s1 r n then
    (if m < 8 then setCluState { s1 with map := { s1.map with clu := tabSet 31 s1.map.clu (8 * (n / 9) + m) n } } n .active
     else setCluState s1 n .spare)
  else if tabGet false s.map.cluFuse n then setCluState s1 n .retired
  else bootFailed (setCluState s1 n .quarantined) (unitClu n) (.retireCluster n)

/-- Control core k takes its state: the first four that pass are ACTIVE, the fifth SPARE. -/
def placeCore (s : State) (r : BootResult) (k : Nat) : State :=
  let put (u : UnitState) : State := { s with fw := { s.fw with cores := tabSet .outOfService s.fw.cores k u } }
  if tabGet false s.fw.coreFuse k then put .retired
  else if r.failCore.contains k then bootFailed (put .quarantined) (unitCore k) (.retireCore k)
  else
    let m := ((upTo k).filter (fun i => decide (coreState s i = .active))).length
    if m < 4 then put .active else put .spare

/-- Generators are instantiated, each from a block that the source delivers meanwhile; one that fails its known-answer tests is FAILED, and the hub's sets `kat_fail` (R208). -/
def placeGen (s : State) (r : BootResult) (g : Nat) : State :=
  if r.failKat.contains g then
    (if g = hubGen then setFlag (setGen s g { state := 3 }) fKatFail else setGen s g { state := 3 })
  else bump (setGen s g (seeded { katOk := true } (conditionRaw (Config.freeRaw s.free g).toNat 128))) (rngCtr 0)

/-! ## The end of boot (R433) -/

/-- The edge-rate code that boot applies to the management pins: that of the flash, where it holds one (R483). -/
def slewCode (s : State) : BitVec 2 := if fromFlash s && decide (Config.slewByte ≠ 0xFF) then Config.slewByte.setWidth 2 else 1

/-- Steps 5–12 with both images at hand; the boot is counted. -/
def bootDone (s : State) (r : BootResult) (hm wd : Bool × FwImage) : State :=
  let s0 := (upTo 3).foldl (fun s q => setRoot s q (!tabGet false s.clk.rootDown q)) s
  let s1 : State := { s0 with
    fw := { s.fw with hm := { running := hm.2, slotB := hm.1 }, wd := { running := wd.2, slotB := wd.1 },
                      waitBundle := false, bootHm := none, bootWd := none, boots := s.fw.boots + 1 }
    host := { s.host with linkUp := true, rate := r.rate, width := r.width }
    mem := { s.mem with trained := r.trained, pcSpared := r.spared.foldl (fun m e => tabSet 0 m e.1 e.2) [] } }
  let s2 := scrub s1 false
  let s3 := (upTo 5).foldl (fun s k => placeCore s r k) s2
  let s4 := (upTo 18).foldl (fun s n => placeClu s r n) s3
  let s5 := useFree ((upTo 19).foldl (fun s g => placeGen s r g) s4)
  let s6 := setGear (setGear s5 0 (gearInForce s5 0)) 1 (gearInForce s5 1)
  let s7 := logEvent (bump { s6 with cal := { s6.cal with epoch := 1, epochTick := s6.tick } } (calCtr 1)) 3 0xFFFF 1
  let src := if bootsFlash s then 0 else strapBoot s % 3
  msix0 (logEvent { s7 with clk := { s7.clk with ready := true, slewMgt := slewCode s } } 1 0xFFFF (src + 4 * b2n hm.1 + 8 * b2n wd.1))

/-- BOOT_COMPLETE: boot waits for REFCLK, for the noise source and for its images; with flash as the source and no valid slot of a kind it
sets `img_err` and waits for a boot bundle. -/
def bootComplete (s : State) (r : BootResult) : State :=
  if !alive s || s.clk.ready || testBypass s || !s.clk.refValid || decide (s.rng.nt ≠ .ok) then s
  else match bootImage s false, bootImage s true with
    | some h, some w => bootDone s r h w
    | _, _ =>
      if bootsFlash s then
        let s1 := imgRefused s [] true
        { s1 with fw := { s1.fw with waitBundle := true } }
      else s
def execBootComplete (r : BootResult) (s : State) : Host.Outcome State Fault Refusal := .next (bootComplete s r)

end Sys2Proof.Machine
end

