-- ==== Sys2Proof/Machine/Control.lean ====
section
/-! DEFINITION. The control and berth instructions (R154, R167–R171). -/

namespace Sys2Proof.Machine
open Sys2Proof

/-- NOP: no effect beyond its issue (R154). -/
def execNop (lt : BitVec 12) (f : Fields) (s : State) : Host.Outcome State Fault Refusal :=
  .next (issueReg s lt 0x00 f id)
def execAdd (lt : BitVec 12) (f : Fields) (s : State) : Host.Outcome State Fault Refusal :=
  .next (aluOp s lt 0x01 f (fun a b => a + b))
def execSub (lt : BitVec 12) (f : Fields) (s : State) : Host.Outcome State Fault Refusal :=
  .next (aluOp s lt 0x02 f (fun a b => a - b))
/-- MUL: the low 64 bits of the product; its four cycles of pending are timing. -/
def execMul (lt : BitVec 12) (f : Fields) (s : State) : Host.Outcome State Fault Refusal :=
  .next (aluOp s lt 0x03 f (fun a b => a * b))
def execAnd (lt : BitVec 12) (f : Fields) (s : State) : Host.Outcome State Fault Refusal :=
  .next (aluOp s lt 0x04 f (fun a b => a &&& b))
def execOr (lt : BitVec 12) (f : Fields) (s : State) : Host.Outcome State Fault Refusal :=
  .next (aluOp s lt 0x05 f (fun a b => a ||| b))
def execXor (lt : BitVec 12) (f : Fields) (s : State) : Host.Outcome State Fault Refusal :=
  .next (aluOp s lt 0x06 f (fun a b => a ^^^ b))
/-- Shifts by s`y`[5:0]. -/
def execShl (lt : BitVec 12) (f : Fields) (s : State) : Host.Outcome State Fault Refusal :=
  .next (aluOp s lt 0x07 f (fun a b => a <<< (b.toNat % 64)))
def execShr (lt : BitVec 12) (f : Fields) (s : State) : Host.Outcome State Fault Refusal :=
  .next (aluOp s lt 0x08 f (fun a b => a >>> (b.toNat % 64)))
def execSra (lt : BitVec 12) (f : Fields) (s : State) : Host.Outcome State Fault Refusal :=
  .next (aluOp s lt 0x09 f (fun a b => a.sshiftRight (b.toNat % 64)))
/-- Signed minimum and maximum. -/
def execMin (lt : BitVec 12) (f : Fields) (s : State) : Host.Outcome State Fault Refusal :=
  .next (aluOp s lt 0x0A f (fun a b => if b.toInt < a.toInt then b else a))
def execMax (lt : BitVec 12) (f : Fields) (s : State) : Host.Outcome State Fault Refusal :=
  .next (aluOp s lt 0x0B f (fun a b => if a.toInt < b.toInt then b else a))
def execAddi (lt : BitVec 12) (f : Fields) (s : State) : Host.Outcome State Fault Refusal :=
  .next (issueReg s lt 0x0C f (fun t => writeS t f.d.toNat (readS t f.x.toNat + f.imm.signExtend 64)))
def execMovi (lt : BitVec 12) (f : Fields) (s : State) : Host.Outcome State Fault Refusal :=
  .next (issueReg s lt 0x0D f (fun t => writeS t f.d.toNat (f.imm.signExtend 64)))
/-- MOVHI: `imm` to bits [63:32], bits [31:0] kept. -/
def execMovhi (lt : BitVec 12) (f : Fields) (s : State) : Host.Outcome State Fault Refusal :=
  .next (issueReg s lt 0x0E f (fun t =>
    writeS t f.d.toNat (f.imm ++ (readS t f.d.toNat).setWidth 32)))

/-- The comparison that CMP's `imm`[3:0] names. -/
def cmpBy (k : Nat) (a b : BitVec 64) : Bool :=
  match k with
  | 0 => decide (a = b)
  | 1 => decide (a ≠ b)
  | 2 => decide (a.toInt < b.toInt)
  | 3 => decide (b.toInt ≤ a.toInt)
  | 4 => decide (a.toNat < b.toNat)
  | _ => decide (b.toNat ≤ a.toNat)

/-- CMP's second operand: s`y`, or `imm`[31:8] sign-extended when `imm`[4] is 1. -/
def cmpOperand (t : Thread) (f : Fields) : BitVec 64 :=
  if immBits f 4 4 = 1 then BitVec.ofInt 64 (signedOf 24 (immBits f 31 8)) else readS t f.y.toNat

def execCmp (lt : BitVec 12) (f : Fields) (s : State) : Host.Outcome State Fault Refusal :=
  .next (issueReg s lt 0x0F f (fun t =>
    writeP t f.d.toNat (allBits (cmpBy (immBits f 3 0) (readS t f.x.toNat) (cmpOperand t f)))))

/-- The lane-wise operation of PLOG's `imm`[2:0]. -/
def plogBy (k : Nat) (a b : BitVec 1024) : BitVec 1024 :=
  match k with
  | 0 => a &&& b
  | 1 => a ||| b
  | 2 => a ^^^ b
  | 3 => a &&& ~~~ b
  | _ => ~~~ a

def execPlog (lt : BitVec 12) (f : Fields) (s : State) : Host.Outcome State Fault Refusal :=
  .next (issueReg s lt 0x10 f (fun t =>
    writeP t f.d.toNat (plogBy (immBits f 2 0) (readP t f.x.toNat) (readP t f.y.toNat))))

/-- Bytes of an LD or ST by its size code. -/
def sizeOf (f : Fields) : Nat := 2 ^ (f.z.toNat % 4)

/-- Address of an LD or ST: s`x` + `imm` sign-extended. -/
def ldAddr (t : Thread) (f : Fields) : Nat := addrPlus (readS t f.x.toNat) (immInt f)

/-- LD: 1, 2, 4 or 8 bytes, sign- or zero-extended by `z`[2].  `ecc` counts the single-bit errors that its cluster's store, context and
parameter memory have corrected up to this read, whichever reads met them (R123; DESIGN CHOICE, log 172). -/
def execLd (lt : BitVec 12) (f : Fields) (ecc : Nat) (s : State) : Host.Outcome State Fault Refusal :=
  .next (issue s lt 0x11 f
    (fun t => [chk (decide (ldAddr t f % sizeOf f = 0)) .misaligned, chkRead t ⟨ldAddr t f, sizeOf f⟩])
    noBlock
    (fun s' t =>
      let v := storeLe s' (lcluOf lt) (ldAddr t f) (sizeOf f)
      let r := if f.z.toNat / 4 = 1 then BitVec.ofInt 64 (signedOf (8 * sizeOf f) v) else BitVec.ofNat 64 v
      let n := physOf s' (lcluOf lt)
      let s1 := if ecc = 0 then s' else addCtr (setFlag s' (fEccEv n)) (cEccCorr n) ecc
      storeMoved (setThread s1 lt (writeS t f.d.toNat r)) t.client (sizeOf f)))

/-- ST: the low bytes of s`y` into the berth window. -/
def execSt (lt : BitVec 12) (f : Fields) (s : State) : Host.Outcome State Fault Refusal :=
  .next (issue s lt 0x12 f
    (fun t => [chk (decide (ldAddr t f % sizeOf f = 0)) .misaligned, chkWrite t ⟨ldAddr t f, sizeOf f⟩])
    noBlock
    (fun s' t => storeMoved
      (storePut (setThread s' lt t) (lcluOf lt) (ldAddr t f) (natLe (readS t f.y.toNat).toNat (sizeOf f))) t.client (sizeOf f)))

/-- A relative target: the instruction's own address plus `imm` × 8 (`t` has already advanced by 8). -/
def relTarget (t : Thread) (f : Fields) : BitVec 32 := t.pc - 8 + f.imm * 8

def execBr (lt : BitVec 12) (f : Fields) (s : State) : Host.Outcome State Fault Refusal :=
  .next (issueReg s lt 0x13 f (fun t => { t with pc := relTarget t f }))
def execJal (lt : BitVec 12) (f : Fields) (s : State) : Host.Outcome State Fault Refusal :=
  .next (issueReg s lt 0x14 f (fun t =>
    { writeS t f.d.toNat (t.pc.setWidth 64) with pc := relTarget t f }))
def execJr (lt : BitVec 12) (f : Fields) (s : State) : Host.Outcome State Fault Refusal :=
  .next (issue s lt 0x15 f (fun t => [chk (decide ((readS t f.x.toNat).toNat % 8 = 0)) .misaligned]) noBlock
    (fun s' t => setThread s' lt { t with pc := (readS t f.x.toNat).setWidth 32 }))

/-- Read and write the handle of the kind `imm`[0] selects (R146). -/
def readH (t : Thread) (f : Fields) (i : Nat) : BitVec 128 := if immBits f 0 0 = 1 then readA t i else readV t i
def writeH (t : Thread) (f : Fields) (i : Nat) (h : BitVec 128) : Thread :=
  if immBits f 0 0 = 1 then writeA t i h else writeV t i h

def execHset (lt : BitVec 12) (f : Fields) (s : State) : Host.Outcome State Fault Refusal :=
  .next (issueReg s lt 0x16 f (fun t => writeH t f f.d.toNat (readS t f.y.toNat ++ readS t f.x.toNat)))
def execHget (lt : BitVec 12) (f : Fields) (s : State) : Host.Outcome State Fault Refusal :=
  .next (issueReg s lt 0x17 f (fun t =>
    let h := readH t f f.x.toNat
    writeS t f.d.toNat (if immBits f 1 1 = 1 then (h >>> 64).setWidth 64 else h.setWidth 64)))

/-- Address of an HLD or HST: s`x` + `imm`[31:4] × 16, signed. -/
def hldAddr (t : Thread) (f : Fields) : Nat := addrPlus (readS t f.x.toNat) (signedOf 28 (immBits f 31 4) * 16)

def execHld (lt : BitVec 12) (f : Fields) (s : State) : Host.Outcome State Fault Refusal :=
  .next (issue s lt 0x18 f
    (fun t => [chk (decide (hldAddr t f % 16 = 0)) .misaligned, chkRead t ⟨hldAddr t f, 16⟩]) noBlock
    (fun s' t => storeMoved
      (setThread s' lt (writeH t f f.d.toNat (BitVec.ofNat 128 (storeLe s' (lcluOf lt) (hldAddr t f) 16)))) t.client 16))
def execHst (lt : BitVec 12) (f : Fields) (s : State) : Host.Outcome State Fault Refusal :=
  .next (issue s lt 0x19 f
    (fun t => [chk (decide (hldAddr t f % 16 = 0)) .misaligned, chkWrite t ⟨hldAddr t f, 16⟩]) noBlock
    (fun s' t => storeMoved
      (storePut (setThread s' lt t) (lcluOf lt) (hldAddr t f) (natLe (readH t f f.y.toNat).toNat 16)) t.client 16))

/-- The lowest bit of the address field that HADV's `imm`[2:1] names. -/
def hadvLo (f : Fields) : Nat :=
  match immBits f 2 1 with | 0 => 0 | 1 => 24 | 2 => 64 | _ => 96

/-- A handle with one 25-bit address field replaced. -/
def setAddrField (h : BitVec 128) (lo v : Nat) : BitVec 128 :=
  BitVec.ofNat 128 (h.toNat - bitsOf h.toNat (lo + 24) lo * 2 ^ lo + v % 2 ^ 25 * 2 ^ lo)

def execHadv (lt : BitVec 12) (f : Fields) (s : State) : Host.Outcome State Fault Refusal :=
  .next (issueReg s lt 0x1A f (fun t =>
    let h := readH t f f.x.toNat
    let a := bitsOf h.toNat (hadvLo f + 24) (hadvLo f)
    writeH t f f.d.toNat (setAddrField h (hadvLo f)
      (wrapOf 25 ((a : Int) + (readS t f.y.toNat).toNat + signedOf 29 (immBits f 31 3))))))

/-- The handles of WAIT's mask that are still pending. -/
def waitMask (t : Thread) (f : Fields) : Option WaitOn :=
  let vm := BitVec.ofNat 16 (immBits f 15 0)
  let am := BitVec.ofNat 16 (immBits f 31 16)
  if t.pendV &&& vm = 0 ∧ t.pendA &&& am = 0 then none else some (.operands 0 vm am 0)

def execWait (lt : BitVec 12) (f : Fields) (s : State) : Host.Outcome State Fault Refusal :=
  .next (issue s lt 0x1B f noChecks (fun t => waitMask t f) (fun s' t => setThread s' lt t))

/-- What FENCE and FSIG's release wait for (R168, R170). -/
def engineWait (t : Thread) (mask : Nat) : Option WaitOn :=
  if anyOutst t mask then some (.engines (BitVec.ofNat 6 mask)) else none

def execFence (lt : BitVec 12) (f : Fields) (s : State) : Host.Outcome State Fault Refusal :=
  .next (issue s lt 0x1C f noChecks (fun t => engineWait t (immBits f 5 0)) (fun s' t => setThread s' lt t))

/-- FSIG: after the release mask, the increment is added to the counter modulo 2^32 and waiters see it (R170, R175). -/
def execFsig (lt : BitVec 12) (f : Fields) (s : State) : Host.Outcome State Fault Refusal :=
  .next (issue s lt 0x1D f noChecks (fun t => engineWait t (immBits f 9 4)) (fun s' t =>
    let c := fenceCtr s' lt t (immBits f 3 0)
    wake (storePut (setThread s' lt t) (lcluOf lt) (fenceAddr t (immBits f 3 0))
      (natLe (c + BitVec.ofNat 32 (immBits f 31 16)).toNat 4)) (lcluOf lt)))

/-- FWAIT: waits until the counter has reached s`x`[31:0], then sets p`d` (R171). -/
def execFwait (lt : BitVec 12) (f : Fields) (s : State) : Host.Outcome State Fault Refusal :=
  .next (issue s lt 0x1E f noChecks
    (fun t =>
      let target := (readS t f.x.toNat).setWidth 32
      if reached (fenceCtr s lt t (immBits f 3 0)) target then none
      else some (.counter f.d (BitVec.ofNat 4 (immBits f 3 0)) target))
    (fun s' t => setThread s' lt (writeP t f.d.toNat (allBits true))))

/-- FWAIT's timeout: p`d` is cleared and `fw_tmo` counts; when the value arrives in that cycle the arrival wins and `fw_near`
counts (R171, R175). -/
def execFwaitTimeout (lt : BitVec 12) (met : Bool) (s : State) : Host.Outcome State Fault Refusal :=
  let t := thread s lt
  let n := physOf s (lcluOf lt)
  .next (if s.lost.lost then s else match t.st, t.wait with
    | .waiting, some (.counter d _ _) =>
      setThread (bump (countIssue s lt) (if met then cFwNear n else cFwTmo n)) lt
        (advance { writeP t d.toNat (allBits met) with st := .ready, wait := none, since := readyAt s 0 })
    | _, _ => s)

/-! ## Berth instructions (R167) -/

/-- BEND waits for every outstanding command of the thread. -/
def finishWait (t : Thread) : Option WaitOn := if anyOutst t 63 then some .finish else none

/-- The thread retires its step: SLEEPING, pc at the entry, and a commit request; `last` marks the end of the stream, as does
a step of index 16,777,215 (R35, R167). -/
def endStep (s : State) (lt : BitVec 12) (t : Thread) (last : Bool) : State :=
  modBerth (setThread s lt { t with st := .sleeping, pc := t.entryPc }) t.berth
    (fun b => { b with committed := true, lastStep := last || decide (b.step = 16777215) })

def execBend (lt : BitVec 12) (f : Fields) (s : State) : Host.Outcome State Fault Refusal :=
  .next (issue s lt 0xE0 f noChecks finishWait (fun s' t => endStep s' lt t false))
def execBlast (lt : BitVec 12) (f : Fields) (s : State) : Host.Outcome State Fault Refusal :=
  .next (issue s lt 0xE1 f noChecks finishWait (fun s' t => endStep s' lt t true))

/-- The berth information fields of R167. -/
def binfo (s : State) (lt : BitVec 12) (t : Thread) (k : Nat) : BitVec 64 :=
  match k with
  | 0 => t.berth.setWidth 64
  | 1 => lt.setWidth 64
  | 2 => t.client.setWidth 64
  | 3 => BitVec.ofNat 64 (berth s t.berth).step
  | 4 => BitVec.ofNat 64 t.rank
  | 5 => BitVec.ofNat 64 t.count
  | 6 => BitVec.ofNat 64 t.frames
  | 7 => BitVec.ofNat 64 t.room
  | 8 => s.cal.epoch.setWidth 64
  | 9 => s.tick
  | _ => if (berth s t.berth).replay then 1 else 0

def execBinfo (lt : BitVec 12) (f : Fields) (s : State) : Host.Outcome State Fault Refusal :=
  .next (issue s lt 0xE2 f noChecks noBlock
    (fun s' t => setThread s' lt (writeS t f.d.toNat (binfo s' lt t (immBits f 3 0)))))

end Sys2Proof.Machine
end

