-- ==== Sys2Proof/Machine/Restore.lean ====
section
/-! DEFINITION. The end of a restore: the image is checked, and comes back or the device is lost (R135, R136, R140). -/

namespace Sys2Proof.Machine
open Sys2Proof

/-- The image of a restoring cluster is back: its items are in place, its slot is released and its berths are pre-empted no more (R135
steps 2, 3 and 5, R136). -/
def restored (s : State) (l : Nat) (m : Image) : State :=
  let w := restoreWork s l
  let s0 := logEvent (sysWork (countPm s false (slotAt l) m.size) w.1 (w.2 + m.size)) 4 0xFFFF (2 ^ l + 65536)
  let s1 := putImage (reprogram s0 l) l m
  let s2 : State := { s1 with
    pre := { s1.pre with image := s1.pre.image.filter (fun e => decide (e.1 ≠ l)), owner := tabErase s1.pre.owner l }
    berths := s1.berths.map (fun e =>
      (e.1, if e.2.st ≠ .free ∧ lcluOf e.2.lthread = l then { e.2 with preempted := false } else e.2)) }
  let s3 := freeVoids (setSavePhase s2 l .none) l
  unhold (bump s3 (cRestores (physOf s3 l))) (fun _ => true)

/-- RESTORE_COMPLETE: a check word that the checksum does not match loses the device, class 6 (R135 step 4, R497). -/
def restoreDone (s : State) (l : Nat) : State :=
  match s.pre.image.find? (fun e => decide (e.1 = l)) with
  | none => s
  | some (_, m) =>
    if savePhase s l ≠ .restoring ∨ s.lost.lost then s
    else if imageGood s l m then restored s l m
    else loseDevice s 6 0xFFFF l
def execRestoreComplete (l : BitVec 4) (s : State) : Host.Outcome State Fault Refusal := .next (restoreDone s l.toNat)

end Sys2Proof.Machine
end

