-- ==== Sys2Proof/Machine/Sampler.lean ====
section
/-! DEFINITION. The sampler: berth substreams, SDRAW, SSORT and SRAND (R163, R209–R218). -/

namespace Sys2Proof.Machine
open Sys2Proof

/-! ## Exponential and logarithm within 2 ulp (R215): fixed-point values with 96 fraction bits give the pattern that the
free function of the same input is held to. -/

/-- `2 × atanh(p / q)` with 96 fraction bits, n terms of the series from exponent k. -/
def atanhFix (t t2 : Int) (k : Nat) : Nat → Int
  | 0 => 0
  | n + 1 => 2 * t / (k : Int) + atanhFix (t * t2 / 2 ^ 96) t2 (k + 2) n

/-- ln 2 with 96 fraction bits. -/
def ln2Fix : Int := atanhFix (2 ^ 96 / 3) (2 ^ 96 / 9) 1 32

/-- ln (n / d) of a positive fraction with 96 fraction bits. -/
def lnFix (n d : Nat) : Int :=
  let e := floorLog2 n d
  let m : Int := ((n * pow2Den e * 2 ^ 96 : Nat) : Int) / ((d * pow2Num e : Nat) : Int)
  let t := (m - 2 ^ 96) * 2 ^ 96 / (m + 2 ^ 96)
  e * ln2Fix + atanhFix t (t * t / 2 ^ 96) 1 32

/-- A fixed-point value with 96 fraction bits as a float. -/
def flOfFix (v : Int) : Fl := .fin (decide (v < 0)) v.natAbs (-96)

/-- exp r by n terms of its series, all with 96 fraction bits. -/
def expSeries (r term : Int) (k : Nat) : Nat → Int
  | 0 => 0
  | n + 1 => term + expSeries r (term * r / 2 ^ 96 / (k : Int)) (k + 1) n

/-- exp x rounded to FP32. -/
def expExact (x : Fl) : Fl :=
  match x with
  | .nan => .nan
  | .inf neg => if neg then .fin false 0 0 else .inf false
  | .fin neg m e =>
    if flLt (flOfInt 100) x then .inf false
    else if flLt x (flOfInt (-150)) then .fin false 0 0
    else
      let f : Int := ((m * pow2Num (e + 96) / pow2Den (e + 96) : Nat) : Int)
      let v : Int := if neg then -f else f
      let k := v / ln2Fix
      ieee32 (.fin false (expSeries (v - k * ln2Fix) (2 ^ 96) 1 40).natAbs (k - 96))

/-- ln x of a positive float rounded to FP32. -/
def lnExact (x : Fl) : Fl :=
  match x with
  | .nan => .nan
  | .inf neg => if neg then .nan else .inf false
  | .fin neg m e =>
    if m = 0 then .inf true else if neg then .nan
    else ieee32 (flOfFix (lnFix (m * pow2Num e) (pow2Den e)))

/-- A value within 2 ulp of an exact one, by a free function of the input. -/
def nearFl (free : BitVec 32) (exact : Fl) : Fl :=
  match exact with
  | .fin neg m e => if m = 0 then exact else ieeeOf .fp32 (near2ulp free.toNat (ieeeBits (.fin neg m e)))
  | v => v

/-- The sampler's exp of an FP32 value. -/
def smpExp (x : Fl) : Fl := nearFl (Config.fpExp (BitVec.ofNat 32 (ieeeBits x))) (expExact x)

/-- g of R215 for a noise word: u = (w + 0.5) × 2^-32 is exact. -/
def smpGumbel (w : Nat) : Fl :=
  let l := flNeg (nearFl (Config.fpLnU (BitVec.ofNat 32 w)) (ieee32 (flOfFix (lnFix (2 * w + 1) (2 ^ 33)))))
  flNeg (nearFl (Config.fpLn (BitVec.ofNat 32 (ieeeBits l))) (lnExact l))

/-! ## The substream (R210, R211) -/

/-- The four words of noise block `blk` of a command. -/
def noiseOf (ks : List (List Nat)) (step ord blk : Nat) : List Nat :=
  let ctr := blk % 2 ^ 14 + ord % 2 ^ 24 * 2 ^ 14 + step % 2 ^ 24 * 2 ^ 38
  let out := aesWith ks ((natLe ctr 16).map (·.toNat))
  (upTo 4).map (fun i => leNat (((out.drop (4 * i)).take 4).map (BitVec.ofNat 8 ·)))

/-- The words w[0] … of a command that uses n of them. -/
def noiseWords (key : BitVec 256) (step ord n : Nat) : List Nat :=
  let ks := aesSchedule ((natLe key.toNat 32).map (·.toNat))
  (upTo (ceilDiv n 4)).flatMap (fun b => noiseOf ks step ord b)

/-- The blocks a command generates are counted (R211). -/
def countBlocks (s : State) (c : Cmd) (n : Nat) : State :=
  addCtr (modBerth s c.berth (fun v => { v with sub := { v.sub with blocks := v.sub.blocks + BitVec.ofNat 64 n } }))
    (cSsBlocks (physOf s (lcluOf c.lt))) n

/-- Issue a command that takes the berth's next ordinal (R211). -/
def issueDraw (s : State) (lt : BitVec 12) (op : Nat) (f : Fields) (checks : Thread → List (Option Exc)) : State :=
  issue s lt op f checks
    (fun _ => if queueFull s (lcluOf lt) 3 then some (.room 3 0) else none)
    (fun s' t => modBerth (enqueue s' lt t 3 op f) t.berth (fun b => { b with sub := { b.sub with ord := b.sub.ord + 1 } }))

/-! ## SDRAW -/

/-- Temperature, top-k count and top-p mass of s`y` (R163). -/
def drawT (w : BitVec 64) : Fl := ieeeOf .bf16 (bitsOf w.toNat 15 0)
def drawK (w : BitVec 64) : Nat := bitsOf w.toNat 24 16
def drawP (w : BitVec 64) : Fl := ieeeOf .bf16 (bitsOf w.toNat 47 32)

def flZero : Fl := .fin false 0 0

/-- A zero of either sign. -/
def flIsZero (x : Fl) : Bool := flEq x flZero

/-- The limits of SDRAW (R163). -/
def drawOk (w : BitVec 64) (n : Nat) : Bool :=
  decide (n ≤ 65536 ∧ drawK w ≤ 256 ∧ bitsOf w.toNat 31 25 = 0 ∧ bitsOf w.toNat 63 48 = 0)
  && (match drawT w with | .fin neg m _ => !neg || decide (m = 0) | _ => false)
  && !flIsNan (drawP w) && !flLt (drawP w) flZero && !flLt (flOfInt 1) (drawP w)

/-- A score as the sampler takes it: NaN stands for −∞ (R216). -/
def score (x : Fl) : Fl := if flIsNan x then .inf true else x

/-- Position of the first largest of a list of (index, value) pairs. -/
def firstMax : List (Nat × Fl) → Option (Nat × Fl)
  | [] => none
  | p :: t =>
    match firstMax t with
    | none => some p
    | some q => if flLt p.2 q.2 then some q else some p

/-- The k largest in descending order, equal values lower index first. -/
def topK : Nat → List (Nat × Fl) → List (Nat × Fl)
  | 0, _ => []
  | k + 1, l =>
    match firstMax l with
    | none => []
    | some p => p :: topK k (l.filter (fun q => decide (q.1 ≠ p.1)))

/-- Insert by ascending index. -/
def insIx (p : Nat × Fl) : List (Nat × Fl) → List (Nat × Fl)
  | [] => [p]
  | q :: t => if p.1 < q.1 then p :: q :: t else q :: insIx p t

/-- The smallest prefix of the candidates whose q, summed by the pairwise tree in ascending index order, reaches the bound;
none when no prefix does (R215). -/
def nucleus (bound : Fl) (taken : List (Nat × Fl)) (n : Nat) : List (Nat × Fl) → Option Nat
  | [] => none
  | p :: t =>
    let now := insIx p taken
    if flLt (ieeeSum (now.map (·.2))) bound then nucleus bound now (n + 1) t else some (n + 1)

/-- What a draw gives: its index, margin, and the events that are counted. -/
structure Draw where
  index : Nat := 0
  margin : Fl := .fin false 0 0
  nan : Bool := false
  degen : Bool := false
  cap : Bool := false
deriving DecidableEq, Repr

/-- The candidates of R215 as indices, and whether a nucleus was cut. -/
def drawCands (ss xs : List (Nat × Fl)) (k : Nat) (p T : Fl) : List Nat × Bool :=
  if k = 0 && flIsZero p then (ss.map (·.1), false)
  else
    let cand := topK (if k = 0 then 256 else k) ss
    if flIsZero p || flIsZero T then (cand.map (·.1), false)
    else
      let mx := ((firstMax xs).map (·.2)).getD flZero
      let q := xs.map (fun x => (x.1, smpExp (ieeeSub x.2 mx)))
      let bound := ieeeMul p (ieeeSum (q.map (·.2)))
      let qs := cand.map (fun c => (c.1, ((q.find? (fun e => decide (e.1 = c.1))).map (·.2)).getD flZero))
      match nucleus bound [] 0 qs with
      | some c => ((cand.take c).map (·.1), false)
      | none => (cand.map (·.1), true)

/-- One draw from scores with a noise word for each index (R215, R216, R218). -/
def drawOne (scores : List Fl) (w : BitVec 64) (noise : List Nat) : Draw :=
  let T := drawT w
  let p := drawP w
  let k := drawK w
  let ss := scores.zipIdx.map (fun e => (e.2, score e.1))
  let r := ieeeRecip T
  let xs := if flIsZero T then ss else ss.map (fun e => (e.1, score (ieeeMul e.2 r)))
  let nan := scores.any flIsNan
  let tops := xs.filter (fun e => decide (e.2 = .inf false))
  match tops with
  | (i, _) :: rest =>
    let cand := if k = 0 && flIsZero p then xs.map (·.1) else (topK (if k = 0 then 256 else k) ss).map (·.1)
    let many := decide (2 ≤ (tops.filter (fun e => cand.contains e.1)).length)
    { index := i, margin := if many && !rest.isEmpty then flZero else .inf false, nan := nan }
  | [] =>
    if xs.all (fun e => decide (e.2 = .inf true)) then { index := 0, margin := flZero, nan := nan, degen := true }
    else
      let (cand, cap) := drawCands ss xs k p T
      let zs := (xs.filter (fun e => cand.contains e.1)).map (fun e =>
        (e.1, if flIsZero T then e.2 else ieeeAdd e.2 (smpGumbel ((noise[e.1]?).getD 0))))
      match firstMax zs with
      | none => { nan := nan, degen := true }
      | some b =>
        let m := match firstMax (zs.filter (fun e => decide (e.1 ≠ b.1))) with
          | none => .inf false
          | some o => ieeeSub b.2 o.2
        { index := b.1, margin := m, nan := nan, cap := cap }

/-- SDRAW uses noise. -/
def drawNoisy (w : BitVec 64) : Bool := !flIsZero (drawT w)

/-- The FP32 bit pattern of a score: a BF16 score converts exactly (R215, R217). -/
def scoreBits (s : State) (l : Nat) (h : VH) (i : Nat) : Nat :=
  let w := vhRead s.store (storeBase (physOf s l)) h i
  if vhFmt h = .bf16 then w * 65536 else w

/-- Score i of a handle (R215). -/
def scoreAt (s : State) (l : Nat) (h : VH) (i : Nat) : Fl := ieeeOf .fp32 (scoreBits s l h i)

/-- SDRAW's work (R215–R218). -/
def runDraw (s : State) (c : Cmd) : State :=
  let l := lcluOf c.lt
  let n := physOf s l
  let x := vhOf c.hx
  let cnt := vhCount x
  let b := berth s c.berth
  let noise := if drawNoisy c.sy then noiseWords b.sub.key c.step c.ord cnt else []
  let d := drawOne ((upTo cnt).map (scoreAt s l x)) c.sy noise
  let s1 := modOwn s c (fun t => writeS t c.fld.d.toNat (BitVec.ofNat 64 d.index))
  let s2 := if drawNoisy c.sy then countBlocks s1 c (ceilDiv cnt 4) else s1
  let s3 := bump s2 (cSmpDraws n)
  let s4 := if d.nan then bump s3 (cSmpNan n) else s3
  let s5 := if d.degen then bump s4 (cSmpDegen n) else s4
  let s6 := if d.cap then bump s5 (cToppCap n) else s5
  let fragile := b.sub.replay && flLt d.margin (ieeeOf .bf16 b.sub.margin.toNat)
  let s7 := if fragile then
      bump (modBerth s6 c.berth (fun v => { v with sub := { v.sub with fragile := v.sub.fragile + 1 } })) (cRpFragile n)
    else s6
  let more := decide (drawK c.sy ≠ 0) || !flIsZero (drawP c.sy)
  let s8 := if cluTrc s7 n 0 && trcData s7 then traceRec s7 0x11 n c.berth (natLe d.index 6) else s7
  chargeEngine s8 c (ceilDiv cnt 256 + (if more then ceilDiv cnt 256 + 16 else 0))

/-- The checks of SDRAW (R150, R163). -/
def sdrawChecks (f : Fields) (t : Thread) : List (Option Exc) :=
  chkVRead t (readV t f.x.toNat) ++
  [chk (isB32 (hX t f)) .badHandle, chk (drawOk (readS t f.y.toNat) (vhCount (hX t f))) .engineLimit]

/-- SDRAW: draws one index from a row of scores (R163, R215). -/
def execSdraw (lt : BitVec 12) (f : Fields) (s : State) : Host.Outcome State Fault Refusal :=
  .next (issueDraw s lt 0x80 f (sdrawChecks f))

/-- SSORT's work: the k largest scores in descending order as pairs (R217). -/
def runSort (s : State) (c : Cmd) : State :=
  let l := lcluOf c.lt
  let x := vhOf c.hx
  let cnt := vhCount x
  let k := immBits c.fld 8 0
  let xs := (upTo cnt).map (scoreAt s l x)
  let best := topK k (xs.zipIdx.map (fun e => (e.2, score e.1)))
  let pairs := best.flatMap (fun e => [some e.1, some (scoreBits s l x e.1)]) ++
    (List.replicate (k - best.length) [some 0xFFFFFFFF, some 0xFF800000]).flatten
  let s1 : State := { s with store := vhWriteAll s.store (storeBase (physOf s l)) (vhOf c.hd) 0 pairs }
  let s2 := if xs.any flIsNan then bump s1 (cSmpNan (physOf s l)) else s1
  chargeEngine s2 c (2 * ceilDiv cnt 256 + 16)

/-- The checks of SSORT (R150, R163). -/
def ssortChecks (f : Fields) (t : Thread) : List (Option Exc) :=
  let k := immBits f 8 0
  chkVWrite t (readV t f.d.toNat) ++ chkVRead t (readV t f.x.toNat) ++
  [chk (isB32 (hX t f) && decide (vhFmt (hD t f) = .int32)) .badHandle,
   chk (decide (vhCount (hX t f) ≤ 65536 ∧ 1 ≤ k ∧ k ≤ 256 ∧ 2 * k ≤ vhCount (hD t f))) .engineLimit]

/-- SSORT: writes the k largest scores with their indices (R163, R217). -/
def execSsort (lt : BitVec 12) (f : Fields) (s : State) : Host.Outcome State Fault Refusal :=
  .next (issueCmd s lt 3 0x81 f (ssortChecks f))

/-- SRAND's work: word w[i] to INT32 element i (R217). -/
def runRand (s : State) (c : Cmd) : State :=
  let l := lcluOf c.lt
  let d := vhOf c.hd
  let cnt := vhCount d
  let b := berth s c.berth
  let ws := ((noiseWords b.sub.key c.step c.ord cnt).take cnt).map some
  let s1 : State := { s with store := vhWriteAll s.store (storeBase (physOf s l)) d 0 ws }
  chargeEngine (countBlocks s1 c (ceilDiv cnt 4)) c (ceilDiv cnt 64)

/-- The checks of SRAND (R150, R163). -/
def srandChecks (f : Fields) (t : Thread) : List (Option Exc) :=
  chkVWrite t (readV t f.d.toNat) ++
  [chk (decide (vhFmt (hD t f) = .int32)) .badHandle, chk (decide (vhCount (hD t f) ≤ 65536)) .engineLimit]

/-- SRAND: fills a vector with words from the berth's random substream (R163, R217). -/
def execSrand (lt : BitVec 12) (f : Fields) (s : State) : Host.Outcome State Fault Refusal :=
  .next (issueDraw s lt 0x82 f (srandChecks f))

/-- The sampler's work on one command. -/
def runSampler (s : State) (c : Cmd) : State :=
  match c.op with
  | 0x80 => runDraw s c
  | 0x81 => runSort s c
  | _ => runRand s c

/-- SAMPLER_CMD_COMPLETE: the command at the head of the sampler queue completes (R163). -/
def execSamplerCmdComplete (l : BitVec 4) (s : State) : Host.Outcome State Fault Refusal :=
  .next (completeHead s l.toNat 3 runSampler)

end Sys2Proof.Machine
end

