-- ==== Sys2Proof/Machine/Dispatch.lean ====
section
/-! DEFINITION. The meaning of each command: one arm for each row of the opcode table. -/

namespace Sys2Proof.Machine
open Sys2Proof

def exec (i : Instr) (s : State) : Host.Outcome State Fault Refusal :=
  match i with
  | .nop lt f => Sys2Proof.Machine.execNop lt f s
  | .add lt f => Sys2Proof.Machine.execAdd lt f s
  | .sub lt f => Sys2Proof.Machine.execSub lt f s
  | .mul lt f => Sys2Proof.Machine.execMul lt f s
  | .and lt f => Sys2Proof.Machine.execAnd lt f s
  | .or lt f => Sys2Proof.Machine.execOr lt f s
  | .xor lt f => Sys2Proof.Machine.execXor lt f s
  | .shl lt f => Sys2Proof.Machine.execShl lt f s
  | .shr lt f => Sys2Proof.Machine.execShr lt f s
  | .sra lt f => Sys2Proof.Machine.execSra lt f s
  | .min lt f => Sys2Proof.Machine.execMin lt f s
  | .max lt f => Sys2Proof.Machine.execMax lt f s
  | .addi lt f => Sys2Proof.Machine.execAddi lt f s
  | .movi lt f => Sys2Proof.Machine.execMovi lt f s
  | .movhi lt f => Sys2Proof.Machine.execMovhi lt f s
  | .cmp lt f => Sys2Proof.Machine.execCmp lt f s
  | .plog lt f => Sys2Proof.Machine.execPlog lt f s
  | .ld lt f ecc => Sys2Proof.Machine.execLd lt f ecc s
  | .st lt f => Sys2Proof.Machine.execSt lt f s
  | .br lt f => Sys2Proof.Machine.execBr lt f s
  | .jal lt f => Sys2Proof.Machine.execJal lt f s
  | .jr lt f => Sys2Proof.Machine.execJr lt f s
  | .hset lt f => Sys2Proof.Machine.execHset lt f s
  | .hget lt f => Sys2Proof.Machine.execHget lt f s
  | .hld lt f => Sys2Proof.Machine.execHld lt f s
  | .hst lt f => Sys2Proof.Machine.execHst lt f s
  | .hadv lt f => Sys2Proof.Machine.execHadv lt f s
  | .wait lt f => Sys2Proof.Machine.execWait lt f s
  | .fence lt f => Sys2Proof.Machine.execFence lt f s
  | .fsig lt f => Sys2Proof.Machine.execFsig lt f s
  | .fwait lt f => Sys2Proof.Machine.execFwait lt f s
  | .fwaitTimeout lt met => Sys2Proof.Machine.execFwaitTimeout lt met s
  | .arr lt f => Sys2Proof.Machine.execArr lt f s
  | .aprog lt f => Sys2Proof.Machine.execAprog lt f s
  | .productStart n t => Sys2Proof.Machine.execProductStart n t s
  | .productComplete n t => Sys2Proof.Machine.execProductComplete n t s
  | .drainFenceRelease n t cycles => Sys2Proof.Machine.execDrainFenceRelease n t cycles s
  | .programRequestStart n t => Sys2Proof.Machine.execProgramRequestStart n t s
  | .programReady n t => Sys2Proof.Machine.execProgramReady n t s
  | .vadd lt f => Sys2Proof.Machine.execVadd lt f s
  | .vsub lt f => Sys2Proof.Machine.execVsub lt f s
  | .vmul lt f => Sys2Proof.Machine.execVmul lt f s
  | .vfma lt f => Sys2Proof.Machine.execVfma lt f s
  | .vmin lt f => Sys2Proof.Machine.execVmin lt f s
  | .vmax lt f => Sys2Proof.Machine.execVmax lt f s
  | .vabs lt f => Sys2Proof.Machine.execVabs lt f s
  | .vcvt lt f => Sys2Proof.Machine.execVcvt lt f s
  | .vsel lt f => Sys2Proof.Machine.execVsel lt f s
  | .vcmp lt f => Sys2Proof.Machine.execVcmp lt f s
  | .vfill lt f => Sys2Proof.Machine.execVfill lt f s
  | .vred lt f => Sys2Proof.Machine.execVred lt f s
  | .vredr lt f => Sys2Proof.Machine.execVredr lt f s
  | .vmv lt f => Sys2Proof.Machine.execVmv lt f s
  | .vnorm lt f => Sys2Proof.Machine.execVnorm lt f s
  | .vrms lt f => Sys2Proof.Machine.execVrms lt f s
  | .vpwl lt f => Sys2Proof.Machine.execVpwl lt f s
  | .vrecip lt f => Sys2Proof.Machine.execVrecip lt f s
  | .vquant lt f => Sys2Proof.Machine.execVquant lt f s
  | .vlut lt f => Sys2Proof.Machine.execVlut lt f s
  | .vgru lt f => Sys2Proof.Machine.execVgru lt f s
  | .vlstm lt f => Sys2Proof.Machine.execVlstm lt f s
  | .vectorCmdComplete l => Sys2Proof.Machine.execVectorCmdComplete l s
  | .rstep lt f => Sys2Proof.Machine.execRstep lt f s
  | .rprefill lt f => Sys2Proof.Machine.execRprefill lt f s
  | .rfft lt f => Sys2Proof.Machine.execRfft lt f s
  | .recurrenceCmdComplete l => Sys2Proof.Machine.execRecurrenceCmdComplete l s
  | .sdraw lt f => Sys2Proof.Machine.execSdraw lt f s
  | .ssort lt f => Sys2Proof.Machine.execSsort lt f s
  | .srand lt f => Sys2Proof.Machine.execSrand lt f s
  | .samplerCmdComplete l => Sys2Proof.Machine.execSamplerCmdComplete l s
  | .conv lt f => Sys2Proof.Machine.execConv lt f s
  | .convCmdComplete l => Sys2Proof.Machine.execConvCmdComplete l s
  | .mld lt f ecc => Sys2Proof.Machine.execMld lt f ecc s
  | .mst lt f => Sys2Proof.Machine.execMst lt f s
  | .mgath lt f => Sys2Proof.Machine.execMgath lt f s
  | .mcpy lt f => Sys2Proof.Machine.execMcpy lt f s
  | .mframe lt f => Sys2Proof.Machine.execMframe lt f s
  | .memit lt f => Sys2Proof.Machine.execMemit lt f s
  | .moverCmdComplete l cycles => Sys2Proof.Machine.execMoverCmdComplete l cycles s
  | .bend lt f => Sys2Proof.Machine.execBend lt f s
  | .blast lt f => Sys2Proof.Machine.execBlast lt f s
  | .binfo lt f => Sys2Proof.Machine.execBinfo lt f s
  | .stepBoundary => Sys2Proof.Machine.execStepBoundary s
  | .stepDeadline met => Sys2Proof.Machine.execStepDeadline met s
  | .rebalancePeriod => Sys2Proof.Machine.execRebalancePeriod s
  | .calSlot n t meas => Sys2Proof.Machine.execCalSlot n t meas s
  | .slotDeferLimit n t meas => Sys2Proof.Machine.execSlotDeferLimit n t meas s
  | .spokeCellsWritten n t => Sys2Proof.Machine.execSpokeCellsWritten n t s
  | .commitInterval => Sys2Proof.Machine.execCommitInterval s
  | .commitNow => Sys2Proof.Machine.execCommitNow s
  | .tileMigrCopyDone => Sys2Proof.Machine.execTileMigrCopyDone s
  | .tileDrained n t => Sys2Proof.Machine.execTileDrained n t s
  | .clusterCopyDone => Sys2Proof.Machine.execClusterCopyDone s
  | .unitTestDone n t cluster pass => Sys2Proof.Machine.execUnitTestDone n t cluster pass s
  | .calReqMigrateTile w => Sys2Proof.Machine.execCalReqMigrateTile w s
  | .calReqMigrateCluster w => Sys2Proof.Machine.execCalReqMigrateCluster w s
  | .calReqRetest w => Sys2Proof.Machine.execCalReqRetest w s
  | .calReqRetire w => Sys2Proof.Machine.execCalReqRetire w s
  | .calReqOutOfService w => Sys2Proof.Machine.execCalReqOutOfService w s
  | .engineProgressTimeout n eng met => Sys2Proof.Machine.execEngineProgressTimeout n eng met s
  | .uncorrectableFault cls unit detail => Sys2Proof.Machine.execUncorrectableFault cls unit detail s
  | .deviceLostScrub => Sys2Proof.Machine.execDeviceLostScrub s
  | .coreWatchdogExpiry core met => Sys2Proof.Machine.execCoreWatchdogExpiry core met s
  | .pcCopyDone stack pch => Sys2Proof.Machine.execPcCopyDone stack pch s
  | .saveComplete l => Sys2Proof.Machine.execSaveComplete l s
  | .restoreStart l => Sys2Proof.Machine.execRestoreStart l s
  | .restoreComplete l => Sys2Proof.Machine.execRestoreComplete l s
  | .noiseBlockReady lo hi => Sys2Proof.Machine.execNoiseBlockReady lo hi s
  | .startupTestEnd lo hi => Sys2Proof.Machine.execStartupTestEnd lo hi s
  | .retest w => Sys2Proof.Machine.execRetest w s
  | .ntEn w => Sys2Proof.Machine.execNtEn w s
  | .tapEn w => Sys2Proof.Machine.execTapEn w s
  | .rawDataRead => Sys2Proof.Machine.execRawDataRead s
  | .entropyWaitTimeout gen met => Sys2Proof.Machine.execEntropyWaitTimeout gen met s
  | .loadItem c m => Sys2Proof.Machine.execLoadItem c m s
  | .loadResident slot => Sys2Proof.Machine.execLoadResident slot s
  | .unloadItem c => Sys2Proof.Machine.execUnloadItem c s
  | .admitItem c => Sys2Proof.Machine.execAdmitItem c s
  | .frameItem c => Sys2Proof.Machine.execFrameItem c s
  | .outRetItem c => Sys2Proof.Machine.execOutRetItem c s
  | .leaveItem c => Sys2Proof.Machine.execLeaveItem c s
  | .parkItem c => Sys2Proof.Machine.execParkItem c s
  | .parkCopyDone b => Sys2Proof.Machine.execParkCopyDone b s
  | .unparkItem c => Sys2Proof.Machine.execUnparkItem c s
  | .unparkCopyDone b => Sys2Proof.Machine.execUnparkCopyDone b s
  | .migrateItem c => Sys2Proof.Machine.execMigrateItem c s
  | .berthMoveCopyDone b => Sys2Proof.Machine.execBerthMoveCopyDone b s
  | .lockItem c => Sys2Proof.Machine.execLockItem c s
  | .unlockItem c => Sys2Proof.Machine.execUnlockItem c s
  | .leaseExpiry b met => Sys2Proof.Machine.execLeaseExpiry b met s
  | .readStateItem c => Sys2Proof.Machine.execReadStateItem c s
  | .writeStateItem c => Sys2Proof.Machine.execWriteStateItem c s
  | .setLimitItem c => Sys2Proof.Machine.execSetLimitItem c s
  | .exportItem c => Sys2Proof.Machine.execExportItem c s
  | .importItem c => Sys2Proof.Machine.execImportItem c s
  | .preemptItem c => Sys2Proof.Machine.execPreemptItem c s
  | .snapshotItem c => Sys2Proof.Machine.execSnapshotItem c s
  | .nopItem c => Sys2Proof.Machine.execNopItem c s
  | .dbSqTail c w => Sys2Proof.Machine.execDbSqTail c w s
  | .descriptorFetch c descs => Sys2Proof.Machine.execDescriptorFetch c descs s
  | .dbCqHead c w => Sys2Proof.Machine.execDbCqHead c w s
  | .spillDrain c => Sys2Proof.Machine.execSpillDrain c s
  | .dbIrq c w => Sys2Proof.Machine.execDbIrq c w s
  | .coalTimeout c met => Sys2Proof.Machine.execCoalTimeout c met s
  | .dbH2fTail c w => Sys2Proof.Machine.execDbH2fTail c w s
  | .dbF2hHead c w => Sys2Proof.Machine.execDbF2hHead c w s
  | .f2hDeliver c => Sys2Proof.Machine.execF2hDeliver c s
  | .dbFlush c w => Sys2Proof.Machine.execDbFlush c w s
  | .itemTimeout c ix met => Sys2Proof.Machine.execItemTimeout c ix met s
  | .clientEnable c => Sys2Proof.Machine.execClientEnable c s
  | .clientReset c => Sys2Proof.Machine.execClientReset c s
  | .clientResetDone c => Sys2Proof.Machine.execClientResetDone c s
  | .hostLinkReset kind => Sys2Proof.Machine.execHostLinkReset kind s
  | .echo c slot => Sys2Proof.Machine.execEcho c slot s
  | .firmwareInformation c slot => Sys2Proof.Machine.execFirmwareInformation c slot s
  | .reportRequest c slot => Sys2Proof.Machine.execReportRequest c slot s
  | .audEnable w => Sys2Proof.Machine.execAudEnable w s
  | .audioPllLock b => Sys2Proof.Machine.execAudioPllLock b s
  | .audioPllUnlock b => Sys2Proof.Machine.execAudioPllUnlock b s
  | .streamEnable st w => Sys2Proof.Machine.execStreamEnable st w s
  | .streamStop st w => Sys2Proof.Machine.execStreamStop st w s
  | .go w => Sys2Proof.Machine.execGo w s
  | .syncIn => Sys2Proof.Machine.execSyncIn s
  | .txFrame st => Sys2Proof.Machine.execTxFrame st s
  | .rxFrame st f => Sys2Proof.Machine.execRxFrame st f s
  | .lossDeclared st met => Sys2Proof.Machine.execLossDeclared st met s
  | .routeWrite r k w => Sys2Proof.Machine.execRouteWrite r k w s
  | .portEnable k w => Sys2Proof.Machine.execPortEnable k w s
  | .negotiationDone k r => Sys2Proof.Machine.execNegotiationDone k r s
  | .negotiationRetry k => Sys2Proof.Machine.execNegotiationRetry k s
  | .laneFail k lane => Sys2Proof.Machine.execLaneFail k lane s
  | .linkDown k => Sys2Proof.Machine.execLinkDown k s
  | .controlFrame k lane => Sys2Proof.Machine.execControlFrame k lane s
  | .dataFrame k bytes => Sys2Proof.Machine.execDataFrame k bytes s
  | .creditFrame k bytes => Sys2Proof.Machine.execCreditFrame k bytes s
  | .routeEnable => Sys2Proof.Machine.execRouteEnable s
  | .routeDisable => Sys2Proof.Machine.execRouteDisable s
  | .routeRead => Sys2Proof.Machine.execRouteRead s
  | .routeTimeout rt met => Sys2Proof.Machine.execRouteTimeout rt met s
  | .getMeasurements ix nonce => Sys2Proof.Machine.execGetMeasurements ix nonce s
  | .keyExchange => Sys2Proof.Machine.execKeyExchange s
  | .finish sn pub => Sys2Proof.Machine.execFinish sn pub s
  | .endSession sn => Sys2Proof.Machine.execEndSession sn s
  | .heartbeatLapse sn met => Sys2Proof.Machine.execHeartbeatLapse sn met s
  | .respondIfReady => Sys2Proof.Machine.execRespondIfReady s
  | .keyProg sn st set => Sys2Proof.Machine.execKeyProg sn st set s
  | .kSetGo sn st set => Sys2Proof.Machine.execKSetGo sn st set s
  | .kSetStop sn st set => Sys2Proof.Machine.execKSetStop sn st set s
  | .query sn st => Sys2Proof.Machine.execQuery sn st s
  | .lockInterfaceRequest sn st => Sys2Proof.Machine.execLockInterfaceRequest sn st s
  | .startInterfaceRequest sn => Sys2Proof.Machine.execStartInterfaceRequest sn s
  | .stopInterfaceRequest sn => Sys2Proof.Machine.execStopInterfaceRequest sn s
  | .tenantBind sn resv id flags => Sys2Proof.Machine.execTenantBind sn resv id flags s
  | .tenantResume sn resv id => Sys2Proof.Machine.execTenantResume sn resv id s
  | .tenantRelease sn resv => Sys2Proof.Machine.execTenantRelease sn resv s
  | .teardownKeysZeroise => Sys2Proof.Machine.execTeardownKeysZeroise s
  | .scrubDone => Sys2Proof.Machine.execScrubDone s
  | .keyPut sn resv kind id epoch key => Sys2Proof.Machine.execKeyPut sn resv kind id epoch key s
  | .keyRoll sn resv => Sys2Proof.Machine.execKeyRoll sn resv s
  | .keyRetire sn resv job epoch => Sys2Proof.Machine.execKeyRetire sn resv job epoch s
  | .keyStatus sn resv => Sys2Proof.Machine.execKeyStatus sn resv s
  | .tdReq => Sys2Proof.Machine.execTdReq s
  | .readObj o => Sys2Proof.Machine.execReadObj o s
  | .writeObj v o val => Sys2Proof.Machine.execWriteObj v o val s
  | .unitAction v action n t => Sys2Proof.Machine.execUnitAction v action n t s
  | .policyLock v on => Sys2Proof.Machine.execPolicyLock v on s
  | .evict => Sys2Proof.Machine.execEvict s
  | .report nonce => Sys2Proof.Machine.execReport nonce s
  | .debugLevels v on levels => Sys2Proof.Machine.execDebugLevels v on levels s
  | .bindPolicy v mutualAuth tdisp => Sys2Proof.Machine.execBindPolicy v mutualAuth tdisp s
  | .readCtrs first count flags => Sys2Proof.Machine.execReadCtrs first count flags s
  | .anchorSet hash i3c => Sys2Proof.Machine.execAnchorSet hash i3c s
  | .stageChunk v kind off data => Sys2Proof.Machine.execStageChunk v kind off data s
  | .commitImage v kind => Sys2Proof.Machine.execCommitImage v kind s
  | .cancelImage v kind => Sys2Proof.Machine.execCancelImage v kind s
  | .raiseFloor v kind => Sys2Proof.Machine.execRaiseFloor v kind s
  | .bootImage v kind file => Sys2Proof.Machine.execBootImage v kind file s
  | .imgBootLoad w files => Sys2Proof.Machine.execImgBootLoad w files s
  | .imgStage w => Sys2Proof.Machine.execImgStage w s
  | .imgCommit w => Sys2Proof.Machine.execImgCommit w s
  | .imgCancel w => Sys2Proof.Machine.execImgCancel w s
  | .stageDone wd file => Sys2Proof.Machine.execStageDone wd file s
  | .hmWindowDone ok => Sys2Proof.Machine.execHmWindowDone ok s
  | .wdWindowDone ok => Sys2Proof.Machine.execWdWindowDone ok s
  | .persistDone wd => Sys2Proof.Machine.execPersistDone wd s
  | .refclkLoss => Sys2Proof.Machine.execRefclkLoss s
  | .gearChange die => Sys2Proof.Machine.execGearChange die s
  | .rootUnlock root => Sys2Proof.Machine.execRootUnlock root s
  | .rootLockConfirmed root => Sys2Proof.Machine.execRootLockConfirmed root s
  | .rootLockTimeout root met => Sys2Proof.Machine.execRootLockTimeout root met s
  | .resetNAssert => Sys2Proof.Machine.execResetNAssert s
  | .resetNRelease boot clk => Sys2Proof.Machine.execResetNRelease boot clk s
  | .powerOnResetRelease boot clk => Sys2Proof.Machine.execPowerOnResetRelease boot clk s
  | .bootComplete r => Sys2Proof.Machine.execBootComplete r s
  | .vddAoLow => Sys2Proof.Machine.execVddAoLow s
  | .railFault rail met => Sys2Proof.Machine.execRailFault rail met s
  | .sensorSample die m => Sys2Proof.Machine.execSensorSample die m s
  | .throttleDwell die up => Sys2Proof.Machine.execThrottleDwell die up s
  | .sensorTimeout die met => Sys2Proof.Machine.execSensorTimeout die met s
  | .avsResponseTimeout die met => Sys2Proof.Machine.execAvsResponseTimeout die met s
  | .avsRetry die => Sys2Proof.Machine.execAvsRetry die s
  | .glbUnlock w => Sys2Proof.Machine.execGlbUnlock w s
  | .guardExpiry met => Sys2Proof.Machine.execGuardExpiry met s
  | .parityCheck bad => Sys2Proof.Machine.execParityCheck bad s
  | .snap => Sys2Proof.Machine.execSnap s
  | .cdataHiAutoRead => Sys2Proof.Machine.execCdataHiAutoRead s
  | .berthCapture w => Sys2Proof.Machine.execBerthCapture w s
  | .retAddrWrite w => Sys2Proof.Machine.execRetAddrWrite w s
  | .backupWrite k w => Sys2Proof.Machine.execBackupWrite k w s
  | .registerWrite off w width tbit => Sys2Proof.Machine.execRegisterWrite off w width tbit s
  | .extest => Sys2Proof.Machine.execExtest s
  | .idcode => Sys2Proof.Machine.execIdcode s
  | .samplePreload => Sys2Proof.Machine.execSamplePreload s
  | .challenge => Sys2Proof.Machine.execChallenge s
  | .response mask ok => Sys2Proof.Machine.execResponse mask ok s
  | .jtagLock => Sys2Proof.Machine.execJtagLock s
  | .dbgAccess o => Sys2Proof.Machine.execDbgAccess o s
  | .bypass => Sys2Proof.Machine.execBypass s
  | .patrolRead a row err => Sys2Proof.Machine.execPatrolRead a row err s
  | .runAheadLanded l ix => Sys2Proof.Machine.execRunAheadLanded l ix s
  | .hostReadCompletion c target data => Sys2Proof.Machine.execHostReadCompletion c target data s
  | .refclkValid => Sys2Proof.Machine.execRefclkValid s
  | .marginMonitorSample die need => Sys2Proof.Machine.execMarginMonitorSample die need s
  | .avsbusResponse die fault => Sys2Proof.Machine.execAvsbusResponse die fault s
  | .fusePulseDone => Sys2Proof.Machine.execFusePulseDone s
  | .flashWriteDone wd ok => Sys2Proof.Machine.execFlashWriteDone wd ok s
  | .coreSramError core => Sys2Proof.Machine.execCoreSramError core s
  | .memoryRowRepairDone stack pch => Sys2Proof.Machine.execMemoryRowRepairDone stack pch s
  | .cewiebConnection ok others => Sys2Proof.Machine.execCewiebConnection ok others s
  | .getVersion => Sys2Proof.Machine.execGetVersion s
  | .getCapabilities => Sys2Proof.Machine.execGetCapabilities s
  | .negotiateAlgorithms ok => Sys2Proof.Machine.execNegotiateAlgorithms ok s
  | .getCertificate slot => Sys2Proof.Machine.execGetCertificate slot s
  | .spdmChallenge nonce => Sys2Proof.Machine.execSpdmChallenge nonce s
  | .heartbeat sn => Sys2Proof.Machine.execHeartbeat sn s
  | .keyUpdate sn => Sys2Proof.Machine.execKeyUpdate sn s
  | .getDeviceInterfaceReport sn => Sys2Proof.Machine.execGetDeviceInterfaceReport sn s
  | .freewheelFrame st => Sys2Proof.Machine.execFreewheelFrame st s
  | .traceRecordSend => Sys2Proof.Machine.execTraceRecordSend s
  | .teardownRecordTimeout met => Sys2Proof.Machine.execTeardownRecordTimeout met s

end Sys2Proof.Machine
end

