-- ==== Sys2Proof/Machine/Tick.lean ====
section
/-! DEFINITION. What happens while no command waits: device time passes (R358, R415). -/

namespace Sys2Proof.Machine
open Sys2Proof

/-- The tick counts: from the first lock of the hub root, through every later re-lock (R415). -/
def ticking (s : State) : Bool := alive s && (rootLocked s 2 || decide (s.tick ≠ 0))

/-- One device tick of 10 ns: the tick counts, and each chain port may send a frame. -/
def deviceTick (s : State) : State := if ticking s then chainTick { s with tick := s.tick + 1 } else s

/-- Put the command that a table word spells at the front of the queue; a word that spells none changes nothing. -/
def pushWord (s : State) (nbits w : Nat) : State :=
  match decodeTableWord nbits w with
  | some i => { s with pending := i :: s.pending }
  | none => s

end Sys2Proof.Machine
end

