-- ==== Sys2Proof/Machine/Step.lean ====
section
/-! DEFINITION. One step of the block: the command at the front of the queue, or one device tick. -/

namespace Sys2Proof.Machine
open Sys2Proof

/-- Take the first waiting command, the queue going on without it; with none waiting a device tick passes. -/
def step (s : State) : Host.Outcome State Fault Refusal :=
  match s.pending with
  | [] => .next (deviceTick s)
  | c :: rest => exec c { s with pending := rest }

/-- The state with the command that a table word spells at the front of its queue. -/
def State.withFetchWord (s : State) (nbits w : Nat) : State := pushWord s nbits w

end Sys2Proof.Machine
end

