-- ==== Sys2Proof/Safety.lean ====
section
/-! DEFINITION. What a safe run is: no fault, memories in their one form, commands that exist. -/

namespace Sys2Proof.Machine
open Sys2Proof

/-- The canonical form of a byte memory: addresses strictly rising, no byte listed that an unlisted address reads as. -/
def Memory.wf (m : List Host.Cell) : Bool := memWf m

/-- Cluster stores, package memory and retained SRAM are in their canonical form. -/
def State.memoriesWf (s : State) : Bool := Memory.wf s.store && Memory.wf s.pm && Memory.wf s.ret

/-- A step is safe when it answers a next state. -/
def stepSafe (s : State) : Prop := ∃ t, step s = .next t

/-- Every waiting command names units that exist. -/
def State.queueOk (s : State) : Bool := s.pending.all unitsOk

/-- A thread of a served cluster may issue this instruction now, and the instruction acts: the thread is READY, its pc lies in its
module's code, the word there, where the load gave it, is this instruction's, the encoding is legal, no operand and no guard is
pending, the step budget is not spent, and the guard lets it act (R114, R146–R150). -/
def canIssue (s : State) (lt : BitVec 12) (op : Nat) (f : Fields) : Bool :=
  let t := thread s lt
  canRun s lt t && !otherWord s t op f && !pcOutside s t && !illegalWord s t && encOk op f && !namesPending t op f
  && decide (t.issued + 1 ≤ (modelOf s t).stepBudget) && ((shapeOf op).lanes || guardBit t f)

/-- Exactly one counter has moved, by one. -/
def countsOne (s t : State) (i : Nat) : Prop := ∀ k, ctr t k = if k = i then ctr s k + 1 else ctr s k

/-- Exactly one thread has changed. -/
def onlyThread (s t : State) (lt : BitVec 12) : Prop := ∀ k, k ≠ lt → thread t k = thread s k

/-- The same for one berth, one client, one tile. -/
def onlyBerth (s t : State) (b : BitVec 12) : Prop := ∀ k, k ≠ b → berth t k = berth s k
def onlyClient (s t : State) (c : BitVec 10) : Prop := ∀ k, k ≠ c → client t k = client s k
def onlyTile (s t : State) (i : Nat) : Prop := ∀ k, k ≠ i → tileAt t k = tileAt s k

/-- The three memories are the same. -/
def sameMemories (s t : State) : Prop := t.store = s.store ∧ t.pm = s.pm ∧ t.ret = s.ret

/-- An instruction that writes its thread only: it completes with thread `u`, counts in `issued`, and nothing else of the
state changes. -/
def writesThread (i : Instr) (s : State) (lt : BitVec 12) (u : Thread) : Prop :=
  ∃ t, exec i s = .next t ∧ thread t lt = u ∧ onlyThread s t lt ∧ countsOne s t (cIssued (physOf s (lcluOf lt)))
    ∧ { t with threads := s.threads, ctrs := s.ctrs } = s

/-- The same of an instruction that reads `n` bytes of its cluster's store: the bytes are noted for its client (R260). -/
def loadsThread (i : Instr) (s : State) (lt : BitVec 12) (u : Thread) (n : Nat) : Prop :=
  ∃ t, exec i s = .next t ∧ thread t lt = u ∧ onlyThread s t lt ∧ countsOne s t (cIssued (physOf s (lcluOf lt)))
    ∧ { t with threads := s.threads, ctrs := s.ctrs } = storeMoved s (thread s lt).client n

/-- An engine command has been issued: it stands last in its engine's queue with the operands it took, its marks are set, one more
command of the thread is outstanding, and no other queue and no other thread has changed (R126, R127, R149). -/
def entered (s u : State) (lt : BitVec 12) (eng op : Nat) (f : Fields) (c : Cmd) : Prop :=
  queue u (lcluOf lt) eng = queue s (lcluOf lt) eng ++ [c] ∧
  (∀ l e, 8 * l + e ≠ 8 * lcluOf lt + eng → queue u l e = queue s l e) ∧
  thread u lt = unmarkZero (markCmd (addOutst (advance (thread s lt)) eng) op f true) ∧ onlyThread s u lt

/-- Nothing but threads, counters and queues has changed. -/
def frameQueues (s u : State) : Prop := { u with threads := s.threads, ctrs := s.ctrs, queues := s.queues } = s

/-- An instruction whose own checks pass enters the queue of an engine that has room, as command `c`, and changes nothing else. -/
def issuesAs (s : State) (lt : BitVec 12) (eng : Nat) (f : Fields) (i : Instr) (op : Nat) (checks : List (Option Exc)) (c : Cmd) : Prop :=
  canIssue s lt op f = true → queueFull s (lcluOf lt) eng = false → firstExc checks = none →
    ∃ u, exec i s = .next u ∧ entered s u lt eng op f c ∧
      countsOne s u (cIssued (physOf s (lcluOf lt))) ∧ frameQueues s u

/-- The same with the operands alone. -/
def issuesTo (s : State) (lt : BitVec 12) (eng : Nat) (f : Fields) (i : Instr) (op : Nat) (checks : List (Option Exc)) : Prop :=
  issuesAs s lt eng f i op checks (mkCmd s lt (advance (thread s lt)) op f)

/-- Item `i` of client `c` has completed: it has left the client's items, one more item is counted as done, and its record with
this status and detail has been written to the host ring or to the spill ring; no other client changes (R312, R318). -/
def completed (s u : State) (c : BitVec 10) (i : Item) (status : Nat) (d : List (BitVec 8)) : Prop :=
  (client u c).items = (client s c).items.filter (fun j => decide (j.seq ≠ i.seq)) ∧ onlyClient s u c ∧
  ctr u (hifCtr 1) = ctr s (hifCtr 1) + 1 ∧
  ∃ r : Record, r.status = status ∧ r.op = i.op ∧ r.tag = i.tag ∧ r.fep = i.fep ∧ r.unsol = false ∧ r.detail = detail16 d ∧
    r.tick = s.tick ∧ (Emit.record c r ∈ u.emitted ∨ r ∈ (client u c).spill)

/-- Item `i` of client `c` has begun, and nothing else of the clients has changed (R321). -/
def hasBegun (s u : State) (c : BitVec 10) (i : Item) : Prop :=
  let begins (j : Item) : Item := if j.seq = i.seq then { j with begun := true, held := false } else j
  client u c = { client s c with items := (client s c).items.map begins } ∧ onlyClient s u c

/-- No item of the client that has not begun names a berth on which anything waits. -/
def noWaiters (s : State) (c : BitVec 10) : Prop :=
  ∀ i ∈ (client s c).items, i.begun = false → (berth s i.berth).waiters = []

/-- Package memory outside the spill rings is the same (R294). -/
def spillOnly (s u : State) : Prop := ∀ a, (a < spillAddr 0 0 ∨ 0x10000000 ≤ a) → memByte u.pm a = memByte s.pm a

/-- The memories are the same, but for records that went to spill rings. -/
def keptMemories (s u : State) : Prop := u.store = s.store ∧ u.ret = s.ret ∧ spillOnly s u

/-- Nothing but clients, counters, the charged activity, the spill rings and the output has changed. -/
def frameItem (s u : State) : Prop :=
  { u with clients := s.clients, ctrs := s.ctrs, act := s.act, emitted := s.emitted, pm := s.pm } = s ∧ spillOnly s u

end Sys2Proof.Machine
end

