-- ==== Sys2Proof/Certificates/Slice0/Obligations.lean ====
section
/-! DEFINITION. The statements about the block that the provers are asked to prove. -/

open Sys2Proof Sys2Proof.Machine

/-- O1. A step runs the command at the front of the queue; with nothing waiting it is one device tick. For every command c,
queue rest and state s: a step of s with c :: rest waiting is exec of c on s with rest waiting. With an empty queue it
answers a next state: the tick counts when the clocks run and the hub root has locked, or has locked before; else
nothing changes. The queue, and that a step of the empty queue is a tick, are the model's own (logs 4 and 5). (R19,
R126, R415) -/
def Obligations.StepRunsFront : Prop :=
  (∀ (c : Instr) (rest : List Instr) (s : State),
    step { s with pending := c :: rest } = exec c { s with pending := rest }) ∧
    (∀ s : State, s.pending = [] → (ticking s = false → step s = .next s) ∧
      (ticking s = true → s.chn.ports = [] → step s = .next { s with tick := s.tick + 1 }))

/-- O2. The two-operand scalar instructions write their result and nothing else. ADD, SUB, MUL, AND, OR, XOR, SHL, SHR, SRA,
MIN and MAX, issued, complete: s d takes the result of s x and s y (s0 discards it), the pc moves on by 8, and only the
thread and the issued counter change. (R154, R116, R147) -/
def Obligations.ScalarResults : Prop :=
  ∀ (s : State) (lt : BitVec 12) (f : Fields),
    let t := thread s lt
    let x := readS t f.x.toNat
    let y := readS t f.y.toNat
    let r := fun v => writeS (advance t) f.d.toNat v
    (canIssue s lt 0x01 f = true → writesThread (.add lt f) s lt (r (x + y))) ∧
    (canIssue s lt 0x02 f = true → writesThread (.sub lt f) s lt (r (x - y))) ∧
    (canIssue s lt 0x03 f = true → writesThread (.mul lt f) s lt (r (x * y))) ∧
    (canIssue s lt 0x04 f = true → writesThread (.and lt f) s lt (r (x &&& y))) ∧
    (canIssue s lt 0x05 f = true → writesThread (.or lt f) s lt (r (x ||| y))) ∧
    (canIssue s lt 0x06 f = true → writesThread (.xor lt f) s lt (r (x ^^^ y))) ∧
    (canIssue s lt 0x07 f = true → writesThread (.shl lt f) s lt (r (x <<< (y.toNat % 64)))) ∧
    (canIssue s lt 0x08 f = true → writesThread (.shr lt f) s lt (r (x >>> (y.toNat % 64)))) ∧
    (canIssue s lt 0x09 f = true → writesThread (.sra lt f) s lt (r (x.sshiftRight (y.toNat % 64)))) ∧
    (canIssue s lt 0x0A f = true → writesThread (.min lt f) s lt (r (if y.toInt < x.toInt then y else x))) ∧
    (canIssue s lt 0x0B f = true → writesThread (.max lt f) s lt (r (if x.toInt < y.toInt then y else x)))

/-- O3. Scalar, handle and predicate registers read what was written; s0 reads 0 and p0 all ones. For every thread and every
register: a write to s, v, a or p is read back by its own number and by no other; s0 reads 0 and p0 reads all ones
whatever was written to them. (R116) -/
def Obligations.RegisterFileReads : Prop :=
  ∀ (t : Thread) (i k : Nat) (v : BitVec 64) (h : BitVec 128) (p : BitVec 1024),
    readS (writeS t i v) k = (if k = 0 then 0 else if k = i then v else readS t k) ∧
    readV (writeV t i h) k = (if k = i then h else readV t k) ∧
    readA (writeA t i h) k = (if k = i then h else readA t k) ∧
    readP (writeP t i p) k = (if k = 0 then BitVec.allOnes 1024 else if k = i then p else readP t k)

/-- O4. ADDI, MOVI, MOVHI, CMP, PLOG and NOP complete with their results. ADDI adds the sign-extended imm, MOVI loads it,
MOVHI writes imm to bits 63..32 and keeps bits 31..0, CMP writes its comparison to every bit of p d, PLOG combines two
predicates lane by lane, NOP only advances. Nothing but the thread and the issued counter changes. (R154) -/
def Obligations.ImmediatesAndPredicates : Prop :=
  ∀ (s : State) (lt : BitVec 12) (f : Fields),
    let t := thread s lt
    (canIssue s lt 0x00 f = true → writesThread (.nop lt f) s lt (advance t)) ∧
    (canIssue s lt 0x0C f = true → writesThread (.addi lt f) s lt
      (writeS (advance t) f.d.toNat (readS t f.x.toNat + f.imm.signExtend 64))) ∧
    (canIssue s lt 0x0D f = true → writesThread (.movi lt f) s lt (writeS (advance t) f.d.toNat (f.imm.signExtend 64))) ∧
    (canIssue s lt 0x0E f = true → writesThread (.movhi lt f) s lt
      (writeS (advance t) f.d.toNat (f.imm ++ (readS t f.d.toNat).setWidth 32))) ∧
    (canIssue s lt 0x0F f = true → immBits f 4 4 = 0 → writesThread (.cmp lt f) s lt
      (writeP (advance t) f.d.toNat (allBits (cmpBy (immBits f 3 0) (readS t f.x.toNat) (readS t f.y.toNat))))) ∧
    (canIssue s lt 0x0F f = true → immBits f 4 4 = 1 → writesThread (.cmp lt f) s lt
      (writeP (advance t) f.d.toNat (allBits (cmpBy (immBits f 3 0) (readS t f.x.toNat)
        (BitVec.ofInt 64 (signedOf 24 (immBits f 31 8))))))) ∧
    (canIssue s lt 0x10 f = true → writesThread (.plog lt f) s lt
      (writeP (advance t) f.d.toNat (plogBy (immBits f 2 0) (readP t f.x.toNat) (readP t f.y.toNat))))

/-- O5. BR, JAL and JR move the pc where the rule says. BR goes to its own address plus imm times 8. JAL does too and writes
the address of the next instruction to s d. JR goes to s x, which must be a multiple of 8. That JR takes the low 32 bits
of s x is the model's reading (log 11). (R154) -/
def Obligations.BranchTargets : Prop :=
  ∀ (s : State) (lt : BitVec 12) (f : Fields),
    let t := thread s lt
    (canIssue s lt 0x13 f = true → writesThread (.br lt f) s lt { advance t with pc := t.pc + f.imm * 8 }) ∧
    (canIssue s lt 0x14 f = true → writesThread (.jal lt f) s lt
      { writeS (advance t) f.d.toNat ((t.pc + 8).setWidth 64) with pc := t.pc + f.imm * 8 }) ∧
    (canIssue s lt 0x15 f = true → (readS t f.x.toNat).toNat % 8 = 0 →
      writesThread (.jr lt f) s lt { advance t with pc := (readS t f.x.toNat).setWidth 32 }) ∧
    (canIssue s lt 0x15 f = true → (readS t f.x.toNat).toNat % 8 ≠ 0 →
      exec (.jr lt f) s = .next (raiseExc s lt .misaligned))

/-- O6. HSET, HGET and HADV act on the handle register that imm names. HSET writes s y above s x to a handle register of the
kind imm[0] names; HGET reads one half of it; HADV replaces one 25-bit address field by the field plus s y plus
imm[31:3], modulo 2^25. Only the thread and the issued counter change. (R146, R154) -/
def Obligations.HandleRegisters : Prop :=
  ∀ (s : State) (lt : BitVec 12) (f : Fields),
    let t := thread s lt
    let h := readH t f f.x.toNat
    (canIssue s lt 0x16 f = true → writesThread (.hset lt f) s lt
      (writeH (advance t) f f.d.toNat (readS t f.y.toNat ++ readS t f.x.toNat))) ∧
    (canIssue s lt 0x17 f = true → immBits f 1 1 = 0 → writesThread (.hget lt f) s lt
      (writeS (advance t) f.d.toNat (h.setWidth 64))) ∧
    (canIssue s lt 0x17 f = true → immBits f 1 1 = 1 → writesThread (.hget lt f) s lt
      (writeS (advance t) f.d.toNat ((h >>> 64).setWidth 64))) ∧
    (canIssue s lt 0x1A f = true → writesThread (.hadv lt f) s lt
      (writeH (advance t) f f.d.toNat (setAddrField h (hadvLo f)
        (wrapOf 25 ((bitsOf h.toNat (hadvLo f + 24) (hadvLo f) : Nat) + (readS t f.y.toNat).toNat
          + signedOf 29 (immBits f 31 3))))))

/-- O7. LD, ST, HLD and HST read and write the store of the thread's cluster at the address their operands give. With an
aligned address whose bytes lie in a window that allows the access, LD writes the extended little-endian value to s d
and HLD the 16 bytes to a handle register, and no byte of any memory changes; ST and HST write their bytes at that
address and every other byte reads as before. A misaligned address raises MISALIGNED. Of an LD that comes with
corrected errors the ECC flag and counter record them. LD, ST, HLD and HST note their bytes for the client, and change
nothing else. That corrected errors are reported with an LD is the model's reading (log 172). (R154, R122, R120, R139) -/
def Obligations.LoadsAndStores : Prop :=
  ∀ (s : State) (lt : BitVec 12) (f : Fields),
    let t := thread s lt
    let n := physOf s (lcluOf lt)
    let a := addrPlus (readS t f.x.toNat) f.imm.toInt
    let k := 2 ^ (f.z.toNat % 4)
    let v := memLe s.store (n * 2 ^ 25 + a) k
    let h := addrPlus (readS t f.x.toNat) (signedOf 28 (immBits f 31 4) * 16)
    (canIssue s lt 0x11 f = true → a % k = 0 → (inWin t.bw ⟨a, k⟩ || inWin t.mw ⟨a, k⟩) = true →
      loadsThread (.ld lt f 0) s lt (writeS (advance t) f.d.toNat
        (if f.z.toNat / 4 = 1 then BitVec.ofInt 64 (signedOf (8 * k) v) else BitVec.ofNat 64 v)) k) ∧
    (∀ ecc, canIssue s lt 0x11 f = true → a % k = 0 → (inWin t.bw ⟨a, k⟩ || inWin t.mw ⟨a, k⟩) = true → ecc ≠ 0 →
      ∃ u, exec (.ld lt f ecc) s = .next u ∧ sameMemories s u ∧ onlyThread s u lt ∧ flagOn u (fEccEv n) = true ∧
        ctr u (cEccCorr n) = ctr s (cEccCorr n) + BitVec.ofNat 48 ecc ∧
        thread u lt = writeS (advance t) f.d.toNat
          (if f.z.toNat / 4 = 1 then BitVec.ofInt 64 (signedOf (8 * k) v) else BitVec.ofNat 64 v)) ∧
    (∀ ecc, canIssue s lt 0x11 f = true → a % k ≠ 0 → exec (.ld lt f ecc) s = .next (raiseExc s lt .misaligned)) ∧
    (canIssue s lt 0x12 f = true → a % k = 0 → inWin t.bw ⟨a, k⟩ = true →
      ∃ u, exec (.st lt f) s = .next u ∧ thread u lt = advance t ∧ onlyThread s u lt ∧
        memBytes u.store (n * 2 ^ 25 + a) k = natLe (readS t f.y.toNat).toNat k ∧
        (∀ b, (b < n * 2 ^ 25 + a ∨ n * 2 ^ 25 + a + k ≤ b) → memByte u.store b = memByte s.store b) ∧
        { u with threads := s.threads, ctrs := s.ctrs, store := s.store } = storeMoved s t.client k) ∧
    (canIssue s lt 0x12 f = true → a % k ≠ 0 → exec (.st lt f) s = .next (raiseExc s lt .misaligned)) ∧
    (canIssue s lt 0x18 f = true → h % 16 = 0 → (inWin t.bw ⟨h, 16⟩ || inWin t.mw ⟨h, 16⟩) = true →
      loadsThread (.hld lt f) s lt
        (writeH (advance t) f f.d.toNat (BitVec.ofNat 128 (memLe s.store (n * 2 ^ 25 + h) 16))) 16) ∧
    (canIssue s lt 0x18 f = true → h % 16 ≠ 0 → exec (.hld lt f) s = .next (raiseExc s lt .misaligned)) ∧
    (canIssue s lt 0x19 f = true → h % 16 = 0 → inWin t.bw ⟨h, 16⟩ = true →
      ∃ u, exec (.hst lt f) s = .next u ∧ thread u lt = advance t ∧ onlyThread s u lt ∧
        memBytes u.store (n * 2 ^ 25 + h) 16 = natLe (readH t f f.y.toNat).toNat 16 ∧
        (∀ b, (b < n * 2 ^ 25 + h ∨ n * 2 ^ 25 + h + 16 ≤ b) → memByte u.store b = memByte s.store b) ∧
        { u with threads := s.threads, ctrs := s.ctrs, store := s.store } = storeMoved s t.client 16)

/-- O8. A cluster exception faults the thread and withdraws its berth from the step. Raising an exception leaves the thread
FAULTED with the code and its pc recorded, withdraws its berth from the step with the end cause exception, counts in
exceptions and sets the cluster's exception flag; no memory changes and no other thread or berth changes. (R139, R140,
R144, R150) -/
def Obligations.ExceptionEffect : Prop :=
  ∀ (s : State) (lt : BitVec 12) (e : Exc), cluTrc s (physOf s (lcluOf lt)) 2 = false →
    let t := thread s lt
    let n := physOf s (lcluOf lt)
    let u := raiseExc s lt e
    thread u lt = { t with st := .faulted, exc := excCode e, excPc := t.pc, wait := none } ∧ onlyThread s u lt ∧
    berth u t.berth = { berth s t.berth with inStep := false, ended := .exception, endExc := excCode e, endPc := t.pc } ∧
    onlyBerth s u t.berth ∧ ctr u (cExceptions n) = ctr s (cExceptions n) + 1 ∧ flagOn u (fExcEv n) = true ∧
    tabGet (0, 0, 0) u.sched.excReg n = ((excCode e).toNat, t.berth.toNat, t.pc.toNat) ∧ sameMemories s u

/-- O9. WAIT, FENCE, FSIG and FWAIT complete when what they name has come, and hold the thread otherwise. WAIT, FENCE and
FWAIT complete when no named handle is pending, no masked engine has an outstanding command, the counter has reached s
x; FWAIT then sets p d. When not, the thread is WAITING with its pc unmoved. FSIG adds imm[31:16] to the counter modulo
2^32 when its release mask is clear. An FWAIT timeout clears p d and counts fw_tmo, and when the value arrives in that
cycle it sets p d and counts fw_near. (R168, R169, R170, R171, R175) -/
def Obligations.WaitsAndFences : Prop :=
  ∀ (s : State) (lt : BitVec 12) (f : Fields),
    let t := thread s lt
    let n := physOf s (lcluOf lt)
    let vm := BitVec.ofNat 16 (immBits f 15 0)
    let am := BitVec.ofNat 16 (immBits f 31 16)
    let k := immBits f 3 0
    let c := fenceCtr s lt t k
    let target := (readS t f.x.toNat).setWidth 32
    (canIssue s lt 0x1B f = true → t.pendV &&& vm = 0 ∧ t.pendA &&& am = 0 →
      writesThread (.wait lt f) s lt (advance t)) ∧
    (canIssue s lt 0x1B f = true → ¬ (t.pendV &&& vm = 0 ∧ t.pendA &&& am = 0) →
      ∃ u, exec (.wait lt f) s = .next u ∧ thread u lt = { t with st := .waiting, wait := some (.operands 0 vm am 0) } ∧
        { u with threads := s.threads } = s) ∧
    (canIssue s lt 0x1C f = true → anyOutst t (immBits f 5 0) = false → writesThread (.fence lt f) s lt (advance t)) ∧
    (canIssue s lt 0x1C f = true → anyOutst t (immBits f 5 0) = true →
      ∃ u, exec (.fence lt f) s = .next u ∧
        thread u lt = { t with st := .waiting, wait := some (.engines (BitVec.ofNat 6 (immBits f 5 0))) } ∧
        { u with threads := s.threads } = s) ∧
    (canIssue s lt 0x1D f = true → anyOutst t (immBits f 9 4) = false →
      ∃ u, exec (.fsig lt f) s = .next u ∧
        memBytes u.store (n * 2 ^ 25 + fenceAddr t k) 4 = natLe (c + BitVec.ofNat 32 (immBits f 31 16)).toNat 4 ∧
        (∀ b, (b < n * 2 ^ 25 + fenceAddr t k ∨ n * 2 ^ 25 + fenceAddr t k + 4 ≤ b) → memByte u.store b = memByte s.store b) ∧
        { u with threads := s.threads, ctrs := s.ctrs, store := s.store } = s) ∧
    (canIssue s lt 0x1E f = true → reached c target = true →
      writesThread (.fwait lt f) s lt (writeP (advance t) f.d.toNat (BitVec.allOnes 1024))) ∧
    (canIssue s lt 0x1E f = true → reached c target = false →
      ∃ u, exec (.fwait lt f) s = .next u ∧
        thread u lt = { t with st := .waiting, wait := some (.counter f.d (BitVec.ofNat 4 k) target) } ∧
        { u with threads := s.threads } = s) ∧
    (∀ d i v, s.lost.lost = false → t.st = .waiting → t.wait = some (.counter d i v) → ∀ met,
      ∃ u, exec (.fwaitTimeout lt met) s = .next u ∧
        thread u lt = advance { writeP t d.toNat (if met then BitVec.allOnes 1024 else 0) with
          st := .ready, wait := none, since := readyAt s 0 } ∧ onlyThread s u lt ∧
        (∀ j, ctr u j = ctr s j + (if j = cIssued n then 1 else 0) + (if j = (if met then cFwNear n else cFwTmo n) then 1 else 0)) ∧
        { u with threads := s.threads, ctrs := s.ctrs } = s)

/-- O10. BEND and BLAST end the thread's step, and BINFO reads the berth's information. With no command outstanding BEND and
BLAST put the thread to sleep with its pc at the entry and ask for the berth's commit; BLAST marks the last step, and so
does the step of index 16,777,215. BINFO writes its field to s d. (R167, R35) -/
def Obligations.StepEndAndInfo : Prop :=
  ∀ (s : State) (lt : BitVec 12) (f : Fields),
    let t := thread s lt
    (canIssue s lt 0xE0 f = true → anyOutst t 63 = false →
      ∃ u, exec (.bend lt f) s = .next u ∧ thread u lt = { advance t with st := .sleeping, pc := t.entryPc } ∧
        berth u t.berth = { berth s t.berth with committed := true, lastStep := decide ((berth s t.berth).step = 16777215) } ∧
        onlyThread s u lt ∧ onlyBerth s u t.berth ∧ { u with threads := s.threads, ctrs := s.ctrs, berths := s.berths } = s) ∧
    (canIssue s lt 0xE1 f = true → anyOutst t 63 = false →
      ∃ u, exec (.blast lt f) s = .next u ∧ thread u lt = { advance t with st := .sleeping, pc := t.entryPc } ∧
        berth u t.berth = { berth s t.berth with committed := true, lastStep := true } ∧
        onlyThread s u lt ∧ onlyBerth s u t.berth ∧ { u with threads := s.threads, ctrs := s.ctrs, berths := s.berths } = s) ∧
    (canIssue s lt 0xE2 f = true →
      writesThread (.binfo lt f) s lt (writeS (advance t) f.d.toNat (binfo s lt t (immBits f 3 0)))) ∧
    binfo s lt t 0 = t.berth.setWidth 64 ∧ binfo s lt t 1 = lt.setWidth 64 ∧ binfo s lt t 2 = t.client.setWidth 64 ∧
    binfo s lt t 3 = BitVec.ofNat 64 (berth s t.berth).step ∧ binfo s lt t 9 = s.tick

/-- O11. Every vector instruction that passes its checks enters the vector queue and changes nothing else. For each of the
22 vector instructions: issued, with room in the vector queue and its own checks passed, it completes: the command with
its operands stands last in the queue, the destination is marked pending, one more command is outstanding, the pc moves
on, issued counts; every memory, berth and other thread is as before. (R126, R127, R149, R160, R162) -/
def Obligations.VectorCommandsEnter : Prop :=
  ∀ (s : State) (lt : BitVec 12) (f : Fields),
    let t := thread s lt
    let go := issuesTo s lt 1 f
    go (.vadd lt f) 0x40 (binChecks false f t) ∧
    go (.vsub lt f) 0x41 (binChecks false f t) ∧
    go (.vmul lt f) 0x42 (binChecks true f t) ∧
    go (.vfma lt f) 0x43 (vfmaChecks f t) ∧
    go (.vmin lt f) 0x44 (binChecks false f t) ∧
    go (.vmax lt f) 0x45 (binChecks false f t) ∧
    go (.vabs lt f) 0x46 (unChecks 1 f t) ∧
    go (.vcvt lt f) 0x47 (unChecks 1 f t) ∧
    go (.vsel lt f) 0x48 (binChecks false f t) ∧
    go (.vcmp lt f) 0x49 (vcmpChecks f t) ∧
    go (.vfill lt f) 0x4A (vfillChecks f t) ∧
    go (.vred lt f) 0x4B (vredChecks f t) ∧
    go (.vredr lt f) 0x4C (vredrChecks f t) ∧
    go (.vmv lt f) 0x4D (vmvChecks f t) ∧
    go (.vnorm lt f) 0x4E (vnormChecks f t) ∧
    go (.vrms lt f) 0x4F (vrmsChecks f t) ∧
    go (.vpwl lt f) 0x50 (vpwlChecks f t) ∧
    go (.vrecip lt f) 0x51 (vrecipChecks f t) ∧
    go (.vquant lt f) 0x52 (vquantChecks s lt f t) ∧
    go (.vlut lt f) 0x53 (vlutChecks f t) ∧
    go (.vgru lt f) 0x54 (vgruChecks f t) ∧
    go (.vlstm lt f) 0x55 (vlstmChecks f t)

/-- O12. The recurrence, sampler, convolution and mover instructions that pass their checks enter their queues. RSTEP,
RPREFILL, RFFT, SSORT, CONV, MLD, MST and MCPY enter their engine's queue, MLD and MST with the package address that their
scalar names, and change nothing else. SDRAW and SRAND enter
the sampler queue and advance the draw ordinal of their berth's substream by one. MFRAME notes and takes its frames, and
MEMIT adds its elements to those the step emits. (R126, R127, R149, R163, R165) -/
def Obligations.EngineCommandsEnter : Prop :=
  ∀ (s : State) (lt : BitVec 12) (f : Fields),
    let t := thread s lt
    let b := t.berth
    let c := fun op => mkCmd s lt (advance t) op f
    issuesTo s lt 2 f (.rstep lt f) 0x60 (rstepChecks s lt f t) ∧
    issuesTo s lt 2 f (.rprefill lt f) 0x61 (rprefillChecks s lt f t) ∧
    issuesTo s lt 2 f (.rfft lt f) 0x62 (rfftChecks f t) ∧
    issuesTo s lt 3 f (.ssort lt f) 0x81 (ssortChecks f t) ∧
    issuesTo s lt 4 f (.conv lt f) 0xA0 (convChecks s lt f t) ∧
    issuesAs s lt 5 f (.mld lt f []) 0xC0 (mldChecks s lt f t) { c 0xC0 with pa := pmAddr s lt t (readS t f.y.toNat) } ∧
    issuesAs s lt 5 f (.mst lt f) 0xC1 (mstChecks s lt f t) { c 0xC1 with pa := pmAddr s lt t (readS t f.y.toNat) } ∧
    issuesTo s lt 5 f (.mcpy lt f) 0xC3 (mcpyChecks f t) ∧
    (canIssue s lt 0x80 f = true → queueFull s (lcluOf lt) 3 = false → firstExc (sdrawChecks f t) = none →
      ∃ u, exec (.sdraw lt f) s = .next u ∧ entered s u lt 3 0x80 f (c 0x80) ∧ onlyBerth s u b ∧
        berth u b = { berth s b with sub := { (berth s b).sub with ord := (berth s b).sub.ord + 1 } } ∧
        frameQueues s { u with berths := s.berths }) ∧
    (canIssue s lt 0x82 f = true → queueFull s (lcluOf lt) 3 = false → firstExc (srandChecks f t) = none →
      ∃ u, exec (.srand lt f) s = .next u ∧ entered s u lt 3 0x82 f (c 0x82) ∧ onlyBerth s u b ∧
        berth u b = { berth s b with sub := { (berth s b).sub with ord := (berth s b).sub.ord + 1 } } ∧
        frameQueues s { u with berths := s.berths }) ∧
    (canIssue s lt 0xC4 f = true → queueFull s (lcluOf lt) 5 = false → firstExc (mframeChecks s f t) = none →
      ∃ u, exec (.mframe lt f) s = .next u ∧ entered s u lt 5 0xC4 f { c 0xC4 with aux := (berth s b).framesTaken } ∧
        onlyBerth s u b ∧ berth u b = { berth s b with framesTaken := (berth s b).framesTaken + immBits f 4 0 } ∧
        frameQueues s { u with berths := s.berths }) ∧
    (canIssue s lt 0xC5 f = true → queueFull s (lcluOf lt) 5 = false → firstExc (memitChecks s f t) = none →
      ∃ u, exec (.memit lt f) s = .next u ∧ entered s u lt 5 0xC5 f (c 0xC5) ∧ onlyBerth s u b ∧
        berth u b = { berth s b with emitting := (berth s b).emitting + vhCount (hX t f) } ∧
        frameQueues s { u with berths := s.berths })

/-- O13. MGATH enters the mover queue with its stream position, run-ahead blocks land one by one, and a corrected MLD
counts. MGATH enters the mover's queue with the stream descriptor it read, the package addresses that it names and the
blocks already landed, and its live stream goes on from the position after its blocks. RUN_AHEAD_LANDED of a live stream
with stock to fill and blocks left writes the next block, or zeros when its index is out of bounds, into its slot of the
ring and moves its run-ahead count on by one. An MLD that met a corrected error counts it for
its row and its stack. That the live position moves at issue, and that corrected errors are reported with an MLD, is the
model's reading (logs 39 and 172). (R285, R286, R288, R105, R279) -/
def Obligations.GatherStreams : Prop :=
  ∀ (s : State) (lt : BitVec 12) (f : Fields),
    let t := thread s lt
    let l := lcluOf lt
    let a := (readS t f.y.toNat).toNat
    let w := storeLe s l a 64
    let d := sdOf w
    let pa := pmAddr s lt t d.dataPm
    let pi := if d.idxFmt = 2 then 0 else pmAddr s lt t d.idxPm
    (canIssue s lt 0xC2 f = true → queueFull s l 5 = false → firstExc (mgathChecks s lt f t) = none →
      ∃ u, exec (.mgath lt f) s = .next u ∧ sameMemories s u ∧
        entered s u lt 5 0xC2 f { mkCmd s lt (advance t) 0xC2 f with
          aux := w, aux2 := Nat.min (sdN d) (landedFor s l t.berth a d), pa := pa, pi := pi } ∧
        (∀ m, (streamsOf s l).find? (isStream t.berth a) = some m →
          (streamsOf u l).getLast? = some {
            berth := t.berth, client := t.client, desc := a, word := w, pa := pa, pi := pi, pos := d.pos + sdN d,
            ahead := landedFor s l t.berth a d - sdN d, ring := readV t f.d.toNat })) ∧
    (∀ (k : BitVec 4) (ix : Nat) (m : Stream), physOf s k.toNat ≠ 31 → s.lost.lost = false → (streamsOf s k.toNat)[ix]? = some m →
      m.ahead < aheadCap (sdOf m.word) (vhOf m.ring) → m.pos + m.ahead < (sdOf m.word).count →
      let d := sdOf m.word
      let ring := vhOf m.ring
      let j := m.pos + m.ahead
      let bi := if d.idxFmt = 2 then j else pmLe s (m.pi + j * sdIdxBytes d) (sdIdxBytes d)
      let block := if d.dataCount ≤ bi then List.replicate d.blk 0 else pmBytes s (m.pa + bi * d.blk) d.blk
      ∃ u, exec (.runAheadLanded k ix) s = .next u ∧ (streamsOf u k.toNat)[ix]? = some { m with ahead := m.ahead + 1 } ∧
        u.store = memPutBytes s.store (storeBase (physOf s k.toNat) + (ring.addr + j % ring.rows * vhStride ring)) block ∧
        u.pm = s.pm ∧ u.ret = s.ret ∧ u.threads = s.threads ∧ u.berths = s.berths) ∧
    (∀ p row, canIssue s lt 0xC0 f = true → queueFull s l 5 = false → firstExc (mldChecks s lt f t) = none → physOf s l < 18 →
      pmExists p = true →
      ∃ u, exec (.mld lt f [(p, row)]) s = .next u ∧ sameMemories s u ∧
        entered s u lt 5 0xC0 f { mkCmd s lt (advance t) 0xC0 f with pa := pmAddr s lt t (readS t f.y.toNat) } ∧
        tabGet 0 u.mem.rowErrs (pcOf p * 2 ^ 32 + row) = tabGet 0 s.mem.rowErrs (pcOf p * 2 ^ 32 + row) + 1 ∧
        ctr u (stackCtr (stackOf p) 2) = ctr s (stackCtr (stackOf p) 2) + 1)

/-- O14. VECTOR_CMD_COMPLETE takes the head of the queue and writes its lanes. With a command at its head the vector queue
is shorter by one afterwards, and its lane-operations are counted. For VADD, VSUB, VMUL, VMIN, VMAX and VFMA every
element of d whose lane is on takes the rounding of the exact result on the operands, and the elements whose lane is off
are not written; no other memory changes. With an empty queue nothing changes. (R76, R127, R147, R153, R160, R176) -/
def Obligations.VectorCompletion : Prop :=
  ∀ (s : State) (l : BitVec 4) (c : Cmd) (q : List Cmd),
    let k := lcluOf c.lt
    let d := vhOf c.hd
    let bin := fun ff fi (i : Nat) => if c.lanes.getLsbD (i % 1024) then
      some (laneOf (vhFmt d) d.sgn (decide (immBits c.fld 0 0 = 1)) (elBin ff fi (elAt s k (vhOf c.hx) i) (yEl s k c i))).bits else none
    let writes := fun (g : Nat → Option Nat) => ∃ u, exec (.vectorCmdComplete l) s = .next u ∧
      u.store = vhWriteAll s.store (storeBase (physOf s k)) d 0 ((upTo (vhCount d)).map g) ∧ u.pm = s.pm ∧ u.ret = s.ret
    (queue s l.toNat 1 = [] → exec (.vectorCmdComplete l) s = .next s) ∧
    (queue s l.toNat 1 = c :: q →
      (∃ u, exec (.vectorCmdComplete l) s = .next u ∧ queue u l.toNat 1 = q ∧ u.pm = s.pm ∧
        ctr u (cVecLaneOps (physOf s k)) = ctr s (cVecLaneOps (physOf s k)) + BitVec.ofNat 48 (cmdOps s c)) ∧
      (c.op = 0x40 → writes (bin flAdd (· + ·))) ∧ (c.op = 0x41 → writes (bin flSub (· - ·))) ∧
      (c.op = 0x42 → writes (bin flMul (· * ·))) ∧ (c.op = 0x44 → writes (bin flMin min)) ∧
      (c.op = 0x45 → writes (bin flMax max)) ∧
      (c.op = 0x43 → writes (fun i => if c.lanes.getLsbD (i % 1024) then
        some (laneFl .fp32 (flAdd (flMul (flAt s k (vhOf c.hx) i) (elFl (yEl s k c i))) (flAt s k (vhOf c.hz) i))).bits else none)))

/-- O15. The other engines complete the head of their queues. RECURRENCE_CMD_COMPLETE of an RSTEP counts it;
SAMPLER_CMD_COMPLETE of an SRAND writes the berth's random words to d; CONV_CMD_COMPLETE counts its CONV;
MOVER_CMD_COMPLETE of an MST writes the rows of x to package memory and of an MEMIT stages its elements. Each takes the
command from its queue; with an empty queue each changes nothing. (R127, R163, R165, R166, R202, R217, R242) -/
def Obligations.EngineCompletions : Prop :=
  ∀ (s : State) (l : BitVec 4) (c : Cmd) (q : List Cmd) (cyc : BitVec 48),
    let k := lcluOf c.lt
    let n := physOf s k
    let pops := fun (i : Instr) (eng : Nat) (P : State → Prop) =>
      queue s l.toNat eng = c :: q → ∃ u, exec i s = .next u ∧ queue u l.toNat eng = q ∧ P u
    (queue s l.toNat 2 = [] → exec (.recurrenceCmdComplete l) s = .next s) ∧
    (queue s l.toNat 3 = [] → exec (.samplerCmdComplete l) s = .next s) ∧
    (queue s l.toNat 4 = [] → exec (.convCmdComplete l) s = .next s) ∧
    (queue s l.toNat 5 = [] → exec (.moverCmdComplete l cyc) s = .next s) ∧
    (c.op = 0x60 → pops (.recurrenceCmdComplete l) 2 (fun u =>
      ctr u (cRstepCmds n) = ctr s (cRstepCmds n) + 1 ∧ u.pm = s.pm ∧ u.ret = s.ret)) ∧
    (c.op = 0x82 → pops (.samplerCmdComplete l) 3 (fun u =>
      let d := vhOf c.hd
      u.store = vhWriteAll s.store (storeBase n) d 0
        (((noiseWords (berth s c.berth).sub.key c.step c.ord (vhCount d)).take (vhCount d)).map some) ∧
      u.pm = s.pm ∧ u.ret = s.ret)) ∧
    (n < 18 → pops (.convCmdComplete l) 4 (fun u => ctr u (cCvCmds n) = ctr s (cCvCmds n) + 1)) ∧
    (c.op = 0xC1 → pops (.moverCmdComplete l cyc) 5 (fun u =>
      u.pm = memPutBytes s.pm c.pa (readRows s k (vhOf c.hx)) ∧ u.store = s.store ∧ u.ret = s.ret)) ∧
    (c.op = 0xC5 → pops (.moverCmdComplete l cyc) 5 (fun u =>
      (berth u c.berth).staged = (berth s c.berth).staged ++
        (upTo (vhCount (vhOf c.hx))).map (fun i => vhRead s.store (storeBase n) (vhOf c.hx) i) ∧ sameMemories s u))

/-- O16. ARR and APROG put one request in the queue of every named tile. An ARR, issued with room in the named tiles and its
checks passed, appends a product with the handle's addresses to each named tile's queue, each draining at its own
address, and marks a d pending on that many tiles; an APROG appends a program request to each and takes an entry of the
mover's queue. No other tile and no memory changes. Each served slot has its own tile. (R54, R118, R126, R153, R156,
R158, R159) -/
def Obligations.ArrayCommandsEnter : Prop :=
  ∀ (s : State) (lt : BitVec 12) (f : Fields),
    let t := thread s lt
    let l := lcluOf lt
    let h := ahOf (readA t f.d.toNat)
    let named := namedTiles s l h.tiles
    tilesFull s l h.tiles = false → (named.map (fun p => p.2.2)).Nodup →
    (canIssue s lt 0x20 f = true → firstExc (arrChecks s lt f t) = none →
      ∃ u, exec (.arr lt f) s = .next u ∧ sameMemories s u ∧ onlyThread s u lt ∧
        (∀ p ∈ named, tileAt u p.2.2 = { tileAt s p.2.2 with queue := (tileAt s p.2.2).queue ++
          [.product { lt := lt, reg := f.d.toNat, seq := t.aseq, recIx := h.recIx, inAddr := h.inAddr, outAddr := drainAddr h p.1,
                      scaleAddr := h.scaleAddr, dfence := decide (immBits f 0 0 = 1), berth := t.berth, client := t.client }] }) ∧
        (∀ k, (∀ p ∈ named, p.2.2 ≠ k) → tileAt u k = tileAt s k) ∧
        thread u lt = markArray (advance t) f.d.toNat (slotsOf h.tiles).length) ∧
    (canIssue s lt 0x21 f = true → firstExc (aprogChecks s lt f t) = none → queueFull s l 5 = false →
      ∃ u, exec (.aprog lt f) s = .next u ∧ sameMemories s u ∧ onlyThread s u lt ∧
        (∀ p ∈ named, tileAt u p.2.2 = { tileAt s p.2.2 with queue := (tileAt s p.2.2).queue ++
          [.program { lt := lt, reg := f.d.toNat, recIx := h.recIx, src := pmAddr s lt t (readS t f.y.toNat) + progOffset s l h p.1,
                      berth := t.berth, client := t.client }] }) ∧
        (∀ k, (∀ p ∈ named, p.2.2 ≠ k) → tileAt u k = tileAt s k) ∧
        (queue u l 5).length = (queue s l 5).length + 1 ∧
        thread u lt = addOutst (markArray (advance t) f.d.toNat (slotsOf h.tiles).length) 5)

/-- O17. A tile starts, completes and drains its products and program requests in order. PRODUCT_START of a tile with a
product at the head of its queue, no program request before it and a free bank moves the product to the active ones, its
vector in the row registers; where the command's vector has not been read yet, it is read now, once, for every tile of the
cluster that the command names. PRODUCT_COMPLETE of an active product not held by a drain fence removes it and counts a
product. DRAIN_FENCE_RELEASE lets a held drain go once no earlier product of the thread is left and counts the cycles.
PROGRAM_REQUEST_START moves the request at the head of an idle tile's queue to those in progress, and PROGRAM_READY
completes it. That the read comes with the first start is the model's choice (log 166). (R45, R47, R54, R56, R58, R62,
R158, R176) -/
def Obligations.TileEvents : Prop :=
  ∀ (s : State) (n t : Nat), n < 18 → t < 17 →
    let key := tileKey n t
    let k := tileAt s key
    (∀ p q, k.queue = .product p :: q → k.progs = [] → k.actives = [] →
      let len := (upTo 17).foldl (fun m j => Nat.max m (longestInput (tileAt s (tileKey n j)) p)) 0
      let vec := p.vec.getD (memBytes s.store (storeBase n + p.inAddr) len)
      let given (x : Tile) : Tile := if p.vec.isSome then x else giveVec p vec x
      ∃ u, exec (.productStart n t) s = .next u ∧ sameMemories s u ∧
        tileAt u key = loadRows { given { k with queue := q } with actives := [activeOf s n k p], nextBank := 1 - k.nextBank }
          k.nextBank (lrAt k p.recIx) vec ∧
        (∀ j, j ≠ key → tileAt u j = if j / 17 = n then given (tileAt s j) else tileAt s j)) ∧
    (∀ a rest, k.actives = a :: rest → a.held = false →
      ∃ u, exec (.productComplete n t) s = .next u ∧ u.pm = s.pm ∧ u.ret = s.ret ∧ onlyTile s u key ∧
        { tileAt u key with banks := k.banks } = { k with actives := rest } ∧
        ctr u (tileCtr n t 0) = ctr s (tileCtr n t 0) + 1) ∧
    (∀ a rest cyc, k.actives = a :: rest → a.held = true → earlierProduct s n a.p.lt a.p.seq = false →
      ∃ u, exec (.drainFenceRelease n t cyc) s = .next u ∧
        tileAt u key = { k with actives := { a with held := false } :: rest } ∧
        ctr u (cDrainHold n) = ctr s (cDrainHold n) + cyc ∧ { u with tiles := s.tiles, ctrs := s.ctrs } = s) ∧
    (∀ g q, k.queue = .program g :: q → k.progs = [] → k.actives = [] →
      ∃ u, exec (.programRequestStart n t) s = .next u ∧ onlyTile s u key ∧
        tileAt u key = { k with queue := q, progs := [{ g with tick := s.tick.toNat }] } ∧
        { u with tiles := s.tiles, threads := s.threads } = s) ∧
    (∀ g rest, k.progs = g :: rest →
      ∃ u, exec (.programReady n t) s = .next u ∧ sameMemories s u ∧ (tileAt u key).progs = rest ∧
        (tileAt u key).queue = k.queue ∧ onlyTile s u key)

/-- O18. A column conversion answers a code of 10 bits within the bound, or ovr-range. For every group size, range code,
charge, temperature difference and age, whatever the free decision of the ADC: the code of a conversion that carries a
bound is at most 1,023, and where it is not over-range it lies within the error bound of the charge or is the ideal
code. The code itself is a free value (log 19). (R43, R77) -/
def Obligations.ConversionWithinBound : Prop :=
  ∀ (G k Q dt age free : Nat),
    let r := adcDecide G k Q dt age false free
    let ideal := (2 * Q * adcUnit k + adcLsb G) / (2 * adcLsb G)
    r.1 ≤ 1023 ∧
    (r.2 = false → r.1 = ideal ∨ (r.1 * adcLsb G ≤ Q * adcUnit k + adcBound G k dt age ∧
      Q * adcUnit k ≤ r.1 * adcLsb G + adcBound G k dt age)) ∧
    (r.2 = true → r.1 = 1023)

/-- O19. Accumulators saturate at 32 bits and drains clamp to their format. Adding a group leaves an accumulator within 32
signed bits and reports saturation exactly when the clamped contribution or the clamped sum differs from the exact one.
An INT8 or INT4 drain fits its bits. A saturating word add stays within 32 bits. (R55, R69, R70) -/
def Obligations.AccumulateAndDrain : Prop :=
  ∀ (acc sp : Int) (m e eps d : Nat) (a b : Int),
    let c := rneDivInt (sp * m) (2 ^ (13 + e + eps))
    let r := accStep acc sp m e eps
    (accLo ≤ r.1 ∧ r.1 ≤ accHi) ∧
    (r.2 = false → r.1 = acc + c) ∧
    (accLo ≤ c ∧ c ≤ accHi → accLo ≤ acc + c ∧ acc + c ≤ accHi → r = (acc + c, false)) ∧
    (drainValue 2 acc d).1 < 256 ∧ (drainValue 3 acc d).1 < 16 ∧ drainValue 0 acc d = (wrapOf 32 acc, false) ∧
    (accLo ≤ (satAdd32 a b).1 ∧ (satAdd32 a b).1 ≤ accHi) ∧
    ((satAdd32 a b).2 = false → (satAdd32 a b).1 = a + b)

/-- O20. The boundary, the step deadline and the rebalancing period act on the step machinery. STEP_BOUNDARY while a step is
open, or on a device that is lost or not ready, changes nothing; else it completes, clears the missed-deadline
mark, and counts one more device step while the tick stands. That a boundary without a running berth
counts too is the model's reading (log 62). STEP_DEADLINE of an open step that is not yet late marks it late and counts
it, or counts only a near miss when the last commit came in that cycle. REBALANCE_PERIOD clears the period's sums, and
with rebalancing off the proposals of the last period and nothing else. That proposals are kept until the next period is
the model's reading (log 182). (R252, R254, R257, R262, R268, R19) -/
def Obligations.StepMachinery : Prop :=
  ∀ s : State,
    ((stepOpen s || s.lost.lost || !s.clk.ready) = true → exec .stepBoundary s = .next s) ∧
    ((stepOpen s || s.lost.lost || !s.clk.ready) = false → ∃ u, exec .stepBoundary s = .next u ∧
      u.sched.dlMissed = false ∧ u.sched.running = stepOpen u ∧ u.sched.dstep = s.sched.dstep + 1 ∧ u.tick = s.tick ∧
      u.clk.ready = true) ∧
    (stepDlNs s ≠ 0 → s.sched.running = true → s.sched.dlMissed = false →
      (∃ u, exec (.stepDeadline true) s = .next u ∧ countsOne s u (bthCtr 16) ∧ { u with ctrs := s.ctrs } = s) ∧
      (∃ u, exec (.stepDeadline false) s = .next u ∧ countsOne s u (bthCtr 15) ∧ u.sched = { s.sched with dlMissed := true } ∧
        { u with ctrs := s.ctrs, act := s.act, sched := s.sched } = s)) ∧
    (stepDlNs s = 0 ∨ s.sched.running = false ∨ s.sched.dlMissed = true → ∀ met, exec (.stepDeadline met) s = .next s) ∧
    (∃ u, exec .rebalancePeriod s = .next u ∧ u.sched.rbSum = [] ∧ u.sched.rbCnt = [] ∧ u.sched.rbSteps = 0) ∧
    (rbEn s = false →
      exec .rebalancePeriod s = .next { s with sched := { s.sched with proposals := [], rbSum := [], rbCnt := [], rbSteps := 0 } })

/-- O21. Calibration slots are taken and counted, and commits fall due. A slot of a calibrated tile in service with no move
of a column, that finds nothing and does not end the pass, takes the measured temperature, moves the pass on by one and
counts in cal_slots, and no memory changes; SLOT_DEFER_LIMIT takes it alike. With calibration off neither does anything.
SPOKE_CELLS_WRITTEN marks the move's cells written. COMMIT_INTERVAL makes a commit due; under hold it makes a forced one due
when the age of a column has reached hold_ms, and else does nothing. COMMIT_NOW sets the request bit. (R61, R84, R85,
R90, R91, R92, R99, R110) -/
def Obligations.CalibrationSlots : Prop :=
  ∀ (s : State) (n t : Nat) (meas : CalMeas), n < 18 → t < 17 →
    let k := tileAt s (tileKey n t)
    let quiet := calEn s = true ∧ s.lost.lost = false ∧ cluState s n = .active ∧ tileState s n t = .active ∧ k.move = none ∧
      meas = { temp := meas.temp } ∧ k.passSlot + 1 < 12 ∧ (∀ l, lcluServed s n = some l → queue s l 4 = [])
    let took := fun (i : Instr) => ∃ u, exec i s = .next u ∧
      tileAt u (tileKey n t) = { sensed k meas.temp with passSlot := k.passSlot + 1, trimWork := slotTrims s k meas } ∧
      onlyTile s u (tileKey n t) ∧ ctr u (tileCtr n t 8) = ctr s (tileCtr n t 8) + 1 ∧ sameMemories s u
    (quiet → took (.calSlot n t meas)) ∧ (quiet → took (.slotDeferLimit n t meas)) ∧
    (calEn s = false → exec (.calSlot n t meas) s = .next s ∧ exec (.slotDeferLimit n t meas) s = .next s) ∧
    (∀ m, k.move = some m → m.written = false → ∃ u, exec (.spokeCellsWritten n t) s = .next u ∧
      (tileAt u (tileKey n t)).move = some { m with written := true } ∧ onlyTile s u (tileKey n t) ∧ { u with tiles := s.tiles } = s) ∧
    (holdReq s = false → exec .commitInterval s = .next { s with cal := { s.cal with dueTime := true } }) ∧
    (holdReached s = true → exec .commitInterval s = .next { s with cal := { s.cal with dueForced := true } }) ∧
    (holdReq s = true → holdReached s = false → exec .commitInterval s = .next s) ∧
    (alive s = true → s.clk.ready = true → s.sec.polLock = false →
      ∃ u, exec .commitNow s = .next u ∧ regField u calOff 2 2 = 1 ∧ sameMemories s u ∧ u.cal = s.cal)

/-- O22. Copies of tile and cluster migrations end, drained tiles go out, tested units become SPARE. TILE_MIGR_COPY_DONE
marks the first tile migration that awaits it copied. TILE_DRAINED of an empty draining tile that has been switched ends
its migration, makes its exit due and counts it. CLUSTER_COPY_DONE marks the copy of the first cluster migration done.
UNIT_TEST_DONE of a tile out of service makes it SPARE, with its 16 passes counted, or QUARANTINED, at the next
boundary. That a passing test includes the passes is the model's reading (log 73). (R98, R101, R102, R111) -/
def Obligations.UnitMigrations : Prop :=
  ∀ (s : State),
    (∀ m, s.cal.tileMigr.find? (fun x => !x.copied && !tripped s x.clu) = some m →
      ∃ u, exec .tileMigrCopyDone s = .next u ∧
        u.cal.tileMigr = s.cal.tileMigr.map (fun x => if x = m then { x with copied := true } else x)) ∧
    (∀ n t, n < 18 → t < 17 → tileState s n t = .draining → (tileAt s (tileKey n t)).queue = [] →
      (tileAt s (tileKey n t)).actives = [] → (tileAt s (tileKey n t)).progs = [] →
      s.cal.tileMigr.any (fun m => decide (m.clu = n ∧ m.old = t) && m.switched) = true →
      ∃ u, exec (.tileDrained n t) s = .next u ∧ countsOne s u (calCtr 7) ∧
        u.cal.tileMigr = s.cal.tileMigr.filter (fun m => !decide (m.clu = n ∧ m.old = t)) ∧
        MapChange.tile n t .outOfService ∈ u.map.due ∧ sameMemories s u ∧ u.tiles = s.tiles) ∧
    (∀ m, s.cal.cluMigr.find? (fun m => !tripped s m.old &&
        (!m.copied || (m.stopped && !m.moved && enginesStopped s m.lclu.toNat))) = some m → m.copied = false →
      ∃ u, exec .clusterCopyDone s = .next u ∧
        u.cal.cluMigr = s.cal.cluMigr.map (fun x => if x = m then { m with copied := true } else x)) ∧
    (∀ n t, n < 18 → t < 17 → s.clk.ready = true → tileState s n t = .outOfService →
      (∃ u, exec (.unitTestDone n t false true) s = .next u ∧ MapChange.tile n t .spare ∈ u.map.due ∧
        ctr u (calCtr 0) = ctr s (calCtr 0) + 16 ∧ (tileAt u (tileKey n t)).passes = (tileAt s (tileKey n t)).passes + 16 ∧
        sameMemories s u) ∧
      (∃ u, exec (.unitTestDone n t false false) s = .next u ∧ MapChange.tile n t .quarantined ∈ u.map.due ∧
        { u with map := s.map } = s))

/-- O23. The five requests of CAL_REQ do what the rule says or set req_refused. With the guard open and no policy lock, a
request for physical cluster n = w[4:0] and tile t = w[9:5] closes the guard and: RETEST of a QUARANTINED cluster makes
its exit from QUARANTINED due, RETIRE queues its fuse, MIGRATE_CLUSTER and OUT_OF_SERVICE of a cluster in service with a
SPARE on its die start its migration, MIGRATE_TILE of a tile in service with a SPARE tile starts the tile's. With no
spare the migrations set req_refused. Without the guard each sets kg_miss and changes no unit. (R110, R451, R404) -/
def Obligations.CalibrationRequests : Prop :=
  ∀ (s : State) (w : BitVec 32), alive s = true → s.clk.ready = true → s.sec.polLock = false →
    let n := bitsOf w.toNat 4 0
    let t := bitsOf w.toNat 9 5
    (s.guardOpen = true → n < 18 →
      (cluState s n = .quarantined →
        (∃ u, exec (.calReqRetest w) s = .next u ∧ MapChange.cluster n .outOfService ∈ u.map.due ∧ u.guardOpen = false ∧
          sameMemories s u) ∧
        (∃ u, exec (.calReqRetire w) s = .next u ∧ u.fw.fuseQ = s.fw.fuseQ ++ [.retireCluster n] ∧ u.guardOpen = false ∧
          u.map = s.map)) ∧
      (∀ l m, cluState s n = .active → spareClu s (dieOf n) = some m → lcluServed s n = some l → hmWindow s = false →
        s.cal.cluMigr.any (fun x => decide (x.old = n)) = false →
        (∃ u, exec (.calReqMigrateCluster w) s = .next u ∧ u.guardOpen = false ∧
          u.cal.cluMigr = s.cal.cluMigr ++ [⟨BitVec.ofNat 4 l, n, m, false, false, false⟩]) ∧
        (∃ u, exec (.calReqOutOfService w) s = .next u ∧ u.guardOpen = false ∧
          u.cal.cluMigr = s.cal.cluMigr ++ [⟨BitVec.ofNat 4 l, n, m, false, false, false⟩])) ∧
      (∀ l j k, t < 17 → cluState s n = .active → tileState s n t = .active → spareTile s n = some k → lcluServed s n = some l →
        slotServed s n t = some j → hmWindow s = false → savePhase s l = .none →
        s.cal.cluMigr.any (fun x => decide (x.old = n)) = false →
        s.cal.tileMigr.any (fun x => decide (x.clu = n ∧ x.old = t)) = false →
        ∃ u, exec (.calReqMigrateTile w) s = .next u ∧ u.guardOpen = false ∧
          u.cal.tileMigr = s.cal.tileMigr ++ [⟨n, t, k, j, false, false⟩]) ∧
      (spareClu s (dieOf n) = none →
        ∃ u, exec (.calReqMigrateCluster w) s = .next u ∧ flagOn u fReqRefused = true ∧ u.map = s.map ∧ u.cal = s.cal)) ∧
    (s.guardOpen = false → ∀ i ∈ [Instr.calReqMigrateTile w, .calReqMigrateCluster w, .calReqRetest w, .calReqRetire w,
        .calReqOutOfService w],
      ∃ u, exec i s = .next u ∧ flagOn u fKgMiss = true ∧ u.map = s.map ∧ u.cal = s.cal ∧ u.fw = s.fw)

/-- O24. An uncorrectable fault or a stalled engine loses the device, once, and the scrub follows. Of a device that is not
lost, UNCORRECTABLE_FAULT of a class of R497 and ENGINE_PROGRESS_TIMEOUT leave it lost with class, unit and detail
recorded, and the running step ended; of a lost device they change nothing. Progress in the same cycle only counts a
near miss. DEVICE_LOST_SCRUB of a lost device marks it scrubbed and destroys the keys, the stores and the berths. (R140,
R141, R457, R497, R390) -/
def Obligations.DeviceLoss : Prop :=
  ∀ s : State,
    (s.lost.lost = false →
      (∀ cls unit detail, 1 ≤ cls → cls ≤ 11 → (unit < 365 ∨ unit = 0xFFFF) → ∃ u, exec (.uncorrectableFault cls unit detail) s = .next u ∧
        u.lost.lost = true ∧ u.lost.cls = cls ∧ u.lost.unit = unit ∧ u.lost.detail = detail ∧ u.lost.tick = s.tick ∧
        u.sched.running = false) ∧
      (∀ n eng, n < 18 → eng < 6 →
        (∃ u, exec (.engineProgressTimeout n eng false) s = .next u ∧ u.lost.lost = true ∧ u.lost.cls = 4 ∧ u.lost.unit = n ∧
          u.lost.detail = eng) ∧
        (∃ u, exec (.engineProgressTimeout n eng true) s = .next u ∧ countsOne s u (obsCtr 9) ∧ { u with ctrs := s.ctrs } = s))) ∧
    (s.lost.lost = true → ∀ cls unit detail, 1 ≤ cls → cls ≤ 11 → (unit < 365 ∨ unit = 0xFFFF) →
      exec (.uncorrectableFault cls unit detail) s = .next s) ∧
    (s.lost.lost = true → s.lost.scrubbed = false → s.clk.stopped = false →
      s.sec.held = [] → s.sec.cwHeld = [] → s.sec.tdDue = false →
      ∃ u, exec .deviceLostScrub s = .next u ∧ u.lost.scrubbed = true ∧ u.sec.keys = [] ∧ u.store = [] ∧ u.berths = [])

/-- O25. Failing cores are replaced, memory rows and pseudo-channels are spared, the patrol counts. A core in service that
fails (CORE_SRAM_ERROR, or CORE_WATCHDOG_EXPIRY not met) with no window open goes out of service, and the SPARE core
takes its place; an expiry met in its cycle counts a near miss only. MEMORY_ROW_REPAIR_DONE ends the copy of a row,
counts a spared row of its stack, and starts the copy of its pseudo-channel at the 16th while a spare is left.
PC_COPY_DONE ends that of a pseudo-channel, one under way or one that a failed interface lane started while a spare is left
(the latter the model's reading, log 175); with neither they change nothing. PATROL_READ with no error counts the
line's 64 bytes only, with a corrected error counts it in its row and its stack too; an uncorrectable one outside the
allocated areas zeroes the line and is counted, within them it loses the device with class 2. With the patrol off it does
nothing. (R105, R279, R443, R457, R497) -/
def Obligations.CoresAndMemoryRepair : Prop :=
  ∀ s : State,
    (∀ k j, k < 5 → s.clk.ready = true → windowOpen s = false → coreState s k = .active → spareCore s = some j → j ≠ k →
      s.sec.held = [] → s.sec.cwHeld = [] → s.sec.tdDue = false →
      (∃ u, exec (.coreSramError k) s = .next u ∧ coreState u k = .outOfService ∧ coreState u j = .active) ∧
      (∃ u, exec (.coreWatchdogExpiry k false) s = .next u ∧ coreState u k = .outOfService ∧ coreState u j = .active)) ∧
    (∀ k, k < 5 → ∃ u, exec (.coreWatchdogExpiry k true) s = .next u ∧ countsOne s u (obsCtr 9) ∧ { u with ctrs := s.ctrs } = s) ∧
    (∀ st pc, st < 8 → pc < 32 →
      (32 * st + pc ∈ s.mem.rowCopies →
        ∃ u, exec (.memoryRowRepairDone st pc) s = .next u ∧ u.mem.rowCopies = s.mem.rowCopies.erase (32 * st + pc) ∧
          tabGet 0 u.mem.pcRows (32 * st + pc) = tabGet 0 s.mem.pcRows (32 * st + pc) + 1 ∧ sameMemories s u ∧
          tabGet 0 u.mem.rowsSpared st = Nat.min 255 (tabGet 0 s.mem.rowsSpared st + 1) ∧
          u.mem.pcCopies = (if tabGet 0 s.mem.pcRows (32 * st + pc) = 15 ∧ pcSpareLeft s st = true
            then s.mem.pcCopies ++ [32 * st + pc] else s.mem.pcCopies)) ∧
      (32 * st + pc ∉ s.mem.rowCopies → exec (.memoryRowRepairDone st pc) s = .next s)) ∧
    (∀ st pc, st < 8 → pc < 32 →
      (32 * st + pc ∈ s.mem.pcCopies ∨ pcSpareLeft s st = true →
        ∃ u, exec (.pcCopyDone st pc) s = .next u ∧ u.mem.pcCopies = s.mem.pcCopies.erase (32 * st + pc) ∧
          tabGet 0 u.mem.pcSpared st = tabGet 0 s.mem.pcSpared st + 1 ∧ tabGet 0 u.mem.pcRows (32 * st + pc) = 0 ∧ sameMemories s u) ∧
      (32 * st + pc ∉ s.mem.pcCopies → pcSpareLeft s st = false → exec (.pcCopyDone st pc) s = .next s)) ∧
    (∀ a row, pmExists a = true →
      let line := a / 64 * 64
      (s.clk.ready = true → regField s (memOff + 4) 0 0 = 1 →
        (∃ u, exec (.patrolRead a row 0) s = .next u ∧ sameMemories s u ∧ { u with ctrs := s.ctrs, sched := s.sched } = s ∧
          ctr u (stackCtr (stackOf line) 0) = ctr s (stackCtr (stackOf line) 0) + 64) ∧
        (∃ u, exec (.patrolRead a row 1) s = .next u ∧ sameMemories s u ∧
          tabGet 0 u.mem.rowErrs (pcOf line * 2 ^ 32 + row) = tabGet 0 s.mem.rowErrs (pcOf line * 2 ^ 32 + row) + 1 ∧
          ctr u (stackCtr (stackOf line) 2) = ctr s (stackCtr (stackOf line) 2) + 1) ∧
        (pmHeld s line = true → s.lost.lost = false → ∃ u, exec (.patrolRead a row 2) s = .next u ∧ u.lost.lost = true ∧
          u.lost.cls = 2 ∧ u.lost.detail = pmDetail a) ∧
        (pmHeld s line = false → ∃ u, exec (.patrolRead a row 2) s = .next u ∧ u.store = s.store ∧ u.lost = s.lost ∧
          ctr u (stackCtr (stackOf line) 3) = ctr s (stackCtr (stackOf line) 3) + 1 ∧
          memBytes u.pm line 64 = List.replicate 64 0 ∧ (∀ b, (b < line ∨ line + 64 ≤ b) → memByte u.pm b = memByte s.pm b))) ∧
      (regField s (memOff + 4) 0 0 = 0 → ∀ err, exec (.patrolRead a row err) s = .next s))

/-- O26. A stopped cluster is saved, restored and released. SAVE_COMPLETE of a cluster that stops and whose engines have
stopped leaves it saved with an image in its slot; before that it changes nothing. With no convolution and no mover
command under way that image is the cluster's, its items and their check word lie in the slot, the cluster's threads are
idle, its queues empty and its berths pre-empted, and the save is counted. RESTORE_START of a saved cluster on
which every berth is pre-empted, with no teardown and no migration, begins the restore and changes nothing else.
RESTORE_COMPLETE of a restoring cluster whose image its check word confirms releases its slot; with no berth leaving, the
image's threads are back, the stopped ones sleeping, its store cells too, the berths are pre-empted no more and the restore
is counted. With a check word that does not match it loses the device with class 6. (R131, R133, R135, R136, R138, R144, R497) -/
def Obligations.PreemptionPhases : Prop :=
  ∀ (s : State) (l : BitVec 4),
    (s.lost.lost = false → savePhase s l.toNat = .stopping → enginesStopped s l.toNat = true →
      ∃ u, exec (.saveComplete l) s = .next u ∧ savePhase u l.toNat = .saved ∧ slotHolds u l.toNat = true ∧
        (queue s l.toNat 4 = [] → queue s l.toNat 5 = [] → physOf s l.toNat < 18 →
          let bs := saveItems s l.toNat
          u.pre.image = s.pre.image ++ [(l.toNat, imageOf s l.toNat)] ∧
          memBytes u.pm (slotAt l.toNat) (bs.length + 8) = bs ++ natLe (Config.checksum bs).toNat 8 ∧ u.store = s.store ∧
          (∀ lt, lcluOf lt = l.toNat → thread u lt = {}) ∧ (∀ e, e < 8 → queue u l.toNat e = []) ∧
          (∀ e ∈ berthsOn u l.toNat, e.2.preempted = true) ∧
          ctr u (cSaves (physOf s l.toNat)) = ctr s (cSaves (physOf s l.toNat)) + 1)) ∧
    (savePhase s l.toNat ≠ .stopping → exec (.saveComplete l) s = .next s) ∧
    (savePhase s l.toNat = .stopping → enginesStopped s l.toNat = false → exec (.saveComplete l) s = .next s) ∧
    (s.lost.lost = false → savePhase s l.toNat = .saved → (berthsOn s l.toNat).all (fun e => e.2.preempted) = true →
      s.sec.tenancy ≠ .teardown → lcluOut s l.toNat = false → migrating s l.toNat = false →
      ∃ u, exec (.restoreStart l) s = .next u ∧ savePhase u l.toNat = .restoring ∧ { u with pre := s.pre } = s) ∧
    (savePhase s l.toNat ≠ .saved → exec (.restoreStart l) s = .next s) ∧
    (∀ m, s.lost.lost = false → savePhase s l.toNat = .restoring → s.pre.image.find? (fun e => decide (e.1 = l.toNat)) = some m →
      (imageGood s l.toNat m.2 = true →
        ∃ u, exec (.restoreComplete l) s = .next u ∧ savePhase u l.toNat = .none ∧ slotHolds u l.toNat = false ∧
          ((berthsOn s l.toNat).all (fun e => decide (e.2.st ≠ .draining)) = true → physOf s l.toNat < 18 →
            tabRising m.2.threads = true → m.2.threads.all (fun e => decide (e.1 < 4096)) = true → tabRising m.2.store = true →
            (∀ e ∈ m.2.threads, thread u (BitVec.ofNat 12 e.1) = { e.2 with st := if e.2.st = .stopped then .sleeping else e.2.st }) ∧
            (∀ a ∈ m.2.store, memByte u.store (storeBase (physOf s l.toNat) + a.1) = a.2) ∧
            (∀ e ∈ berthsOn u l.toNat, e.2.preempted = false) ∧
            ctr u (cRestores (physOf s l.toNat)) = ctr s (cRestores (physOf s l.toNat)) + 1)) ∧
      (imageGood s l.toNat m.2 = false →
        ∃ u, exec (.restoreComplete l) s = .next u ∧ u.lost.lost = true ∧ u.lost.cls = 6 ∧ u.lost.detail = l.toNat)) ∧
    (savePhase s l.toNat ≠ .restoring → exec (.restoreComplete l) s = .next s)

/-- O27. The noise source moves through its states and serves its raw buffer. STARTUP_TEST_END of an enabled source in
start-up leaves it OK when no test fails on its 4,096 bits, or in ERROR with the repetition-count flag set when that test
fails. NOISE_BLOCK_READY of an OK source whose 1,024 bits no test fails on counts a block. A failed test within 2^20 raw bits
of the last leaves the source in ERROR. RETEST in ERROR restarts the start-up test. NT_EN with bit 0 clear stops the source.
TAP_EN with the guard open and the tap level open takes the source to the tap. RAW_DATA_READ hands out the oldest word, 0
from an empty buffer. An entropy wait that ends in the cycle of its block counts a near miss; another refuses the oldest waiting
request, which waits no longer, counts it, and completes its item with OUT_OF_SERVICE. The windows of the tests are
the model's reading (log 188). (R203, R204, R205, R207, R221, R457) -/
def Obligations.NoiseSource : Prop :=
  ∀ s : State,
    let fresh : State := { s with rng := { s.rng with run := 0 } }
    (s.rng.nt = .startup → ntEnabled s = true → ∀ lo hi,
      (ntFails fresh (rawBits 2048 lo hi) = [] →
        ∃ u, exec (.startupTestEnd lo hi) s = .next u ∧ u.rng.nt = .ok ∧ sameMemories s u) ∧
      (∀ i, (i, fRctFail) ∈ ntFails fresh (rawBits 2048 lo hi) →
        ∃ u, exec (.startupTestEnd lo hi) s = .next u ∧ u.rng.nt = .error ∧ flagOn u fRctFail = true ∧
          ctr u (rngCtr 1) = ctr s (rngCtr 1) + 1)) ∧
    (s.rng.nt = .ok → ntEnabled s = true → ∀ lo hi,
      (ntFails s (rawBits 512 lo hi) = [] →
        ∃ u, exec (.noiseBlockReady lo hi) s = .next u ∧ ctr u (rngCtr 0) = ctr s (rngCtr 0) + 1 ∧ u.rng.nt = .ok) ∧
      (∀ i, (i, fRctFail) ∈ ntFails s (rawBits 512 lo hi) → s.rng.sinceFail + 1024 < 2 ^ 20 →
        ∃ u, exec (.noiseBlockReady lo hi) s = .next u ∧ u.rng.nt = .error ∧ flagOn u fRctFail = true)) ∧
    (alive s = true → s.clk.ready = true → s.sec.polLock = false →
      (s.rng.nt = .error → ntEnabled s = true → ∀ w, bitsOf w.toNat 0 0 = 1 → rngCtrlWord w.toNat / 4 % 32 = regField s rngOff 6 2 →
        ∃ u, exec (.retest w) s = .next u ∧ u.rng.nt = .startup ∧ sameMemories s u) ∧
      (ntEnabled s = true → ∀ w, bitsOf w.toNat 1 0 = 0 → rngCtrlWord w.toNat / 4 % 32 = regField s rngOff 6 2 →
        ∃ u, exec (.ntEn w) s = .next u ∧ u.rng.nt = .startup ∧ u.rng.block = none ∧ ntEnabled u = false ∧ sameMemories s u) ∧
      (s.guardOpen = true → s.sec.levels.getLsbD 3 = true → s.rng.nt = .ok → regField s (rngOff + 0x10) 0 0 = 0 →
        ∀ w, bitsOf w.toNat 0 0 = 1 → ∃ u, exec (.tapEn w) s = .next u ∧ u.rng.nt = .tap ∧ u.rng.raw = [] ∧ u.guardOpen = false)) ∧
    (s.rng.raw = [] → exec .rawDataRead s = .next (emit s (.readData (rngOff + 0x14) 0))) ∧
    (∀ v rest, s.rng.raw = v :: rest → exec .rawDataRead s =
      .next { s with rng := { s.rng with raw := rest }, emitted := .readData (rngOff + 0x14) v :: s.emitted }) ∧
    (∀ g, g < 19 → (genOf s g).waiting ≠ [] → ∃ u, exec (.entropyWaitTimeout g true) s = .next u ∧ countsOne s u (obsCtr 9) ∧
      { u with ctrs := s.ctrs } = s) ∧
    (∀ g met, g < 19 → (genOf s g).waiting = [] → exec (.entropyWaitTimeout g met) s = .next s) ∧
    (∀ g w rest, g < 19 → (genOf s g).waiting = w :: rest →
      ∃ u, exec (.entropyWaitTimeout g false) s = .next u ∧ ctr u (rngCtr 3) = ctr s (rngCtr 3) + 1 ∧
        (∀ h, w ∉ (genOf u h).waiting) ∧ frameItem s { u with rng := s.rng } ∧
        (∀ v i, w = some v → findItem s v.client v.item = some i → writable (client s v.client) = true →
          completed s u v.client i stOutOfService (if namesBerth i.op then berthDetail i.berth else [])))

/-- O28. NOP, OUT_RET, SET_LIMIT, SNAPSHOT, READ_STATE and EXPORT items complete with their effect. The item a row takes up,
with its fields in range and its berth in a state that allows it, completes with status 0 and the detail of R317.
OUT_RET returns n output blocks, SET_LIMIT by the owner of the lock sets the last step index, SNAPSHOT writes the
accounting records to host memory, READ_STATE writes the named bytes of the berth, EXPORT writes the sealed blob under
the key in force. Nothing but the named berth field, the client, counters, activity and the output changes. (R261, R314,
R315, R317, R263, R195, R197) -/
def Obligations.ItemsThatComplete : Prop :=
  ∀ (s : State) (c : BitVec 10) (i : Item),
    let e := berth s i.berth
    let d := part0 i
    let bd := berthDetail i.berth
    let first := leAt d 16 2
    let n := leAt d 18 2
    let away := awayNow s e || e.copying
    (readyItem s c 0x13 = some i → restZero d [] = true →
      ∃ u, exec (.nopItem c) s = .next u ∧ completed s u c i stOk [] ∧ frameItem s u) ∧
    (readyItem s c 0x05 = some i → e.st ≠ .free → e.st ≠ .draining → restZero d [(16, 4)] = true → 1 ≤ leAt d 16 4 →
      leAt d 16 4 ≤ 65536 → e.destAudio = false → e.returned + leAt d 16 4 ≤ e.obBlocks + e.filled →
      ∃ u, exec (.outRetItem c) s = .next u ∧ completed s u c i stOk bd ∧ onlyBerth s u i.berth ∧
        berth u i.berth = { e with returned := e.returned + leAt d 16 4 } ∧ frameItem s { u with berths := s.berths }) ∧
    (readyItem s c 0x0E = some i → e.st = .locked → lockOwner e = c → restZero d [(16, 4)] = true → leAt d 16 4 < 2 ^ 24 →
      e.step ≤ leAt d 16 4 →
      ∃ u, exec (.setLimitItem c) s = .next u ∧ completed s u c i stOk bd ∧ onlyBerth s u i.berth ∧
        berth u i.berth = { e with stepLast := BitVec.ofNat 24 (leAt d 16 4) } ∧ frameItem s { u with berths := s.berths }) ∧
    (readyItem s c 0x12 = some i → restZero d [(16, 2), (18, 2), (24, 8)] = true → first ≤ 1023 → 1 ≤ n → first + n ≤ 1024 →
      leAt d 24 8 % 64 = 0 →
      ∃ u, exec (.snapshotItem c) s = .next u ∧ completed s u c i stOk (natLe s.sched.dstep.toNat 8) ∧ frameItem s u ∧
        Emit.hostWrite (BitVec.ofNat 64 (leAt d 24 8))
          ((upTo n).flatMap (fun k => acctBytes s (acctOf s (BitVec.ofNat 10 (first + k))))) ∈ u.emitted) ∧
    (readyItem s c 0x0C = some i → (e.st = .parked ∧ e.lockDue = none) ∨ (e.st = .locked ∧ lockOwner e = c) → away = false →
      stResv i = true → stRange s e i = true →
      ∃ u, exec (.readStateItem c) s = .next u ∧ completed s u c i stOk (stDetail i) ∧ frameItem s u ∧
        Emit.hostWrite (BitVec.ofNat 64 (stHost i)) (secRead s e (stSec i) (stOff i) (stLen i)) ∈ u.emitted) ∧
    (∀ k, readyItem s c 0x0F = some i → e.st = .parked → e.lockDue = none → away = false → e.copyBack = false →
      e.unparkDue = false → restZero d [(24, 8), (32, 4)] = true →
      leAt d 24 8 % 64 = 0 → blobLen s e ≤ leAt d 32 4 → stateKey s s.sec.tEpoch = some k →
      (genOf s hubGen).state ≠ 3 → needsBlock s hubGen = false →
      ∃ u nonce, exec (.exportItem c) s = .next u ∧ nonce.length = 12 ∧
        completed s u c i stOk (bd ++ [0, 0] ++ natLe (blobLen s e) 4) ∧ ctr u (seqDevCtr 2) = ctr s (seqDevCtr 2) + 1 ∧
        Emit.hostWrite (BitVec.ofNat 64 (leAt d 24 8)) (sealBlob s e k nonce) ∈ u.emitted ∧ u.berths = s.berths ∧ keptMemories s u)

/-- O29. LOCK grants a free lock, UNLOCK by its owner releases it, an expired lease abandons it. LOCK of an unlocked
ADMITTED or PARKED berth that can be reached makes it LOCKED by the client, with the client's epoch, the next sequence
number and the lease, and completes with the token; of a RUNNING berth it is granted at the next boundary. UNLOCK by the
owner with the token returns an unwaited berth to the state it was locked from. LEASE_EXPIRY of a lock with a lease
leaves the berth ABANDONED and completes every waiter; a release in the same cycle only counts a near miss. (R264, R265,
R266) -/
def Obligations.BerthLocks : Prop :=
  ∀ (s : State) (c : BitVec 10) (i : Item) (b : BitVec 12),
    let e := berth s i.berth
    let d := part0 i
    let x := berth s b
    (readyItem s c 0x0A = some i → e.lockDue = none → leAt d 16 1 < 4 → restZero d [(16, 1), (20, 4)] = true →
      (e.st = .admitted ∨ e.st = .parked → (awayNow s e || e.copying || e.unparkDue) = false →
        ∃ u, exec (.lockItem c) s = .next u ∧ onlyBerth s u i.berth ∧ ctr u (bthCtr 10) = ctr s (bthCtr 10) + 1 ∧
          completed s u c i stOk (berthDetail i.berth ++ natLe (e.lkSeq + 1).toNat 2 ++ natLe e.lkOwner.toNat 2
            ++ natLe e.lkEpoch.toNat 2 ++ natLe 0 1) ∧
          berth u i.berth = { e with st := .locked, heldFrom := e.st, lkOwner := c, lkEpoch := (client s c).cepoch,
                                     lkSeq := e.lkSeq + 1, lease := leAt d 20 4, leaseFrom := s.tick.toNat } ∧
          frameItem s { u with berths := s.berths }) ∧
      (e.st = .running → (frozenNow s e || e.copying || e.unparkDue) = false →
        ∃ u, exec (.lockItem c) s = .next u ∧ berth u i.berth = { e with lockDue := some ⟨c, i.seq⟩ } ∧ onlyBerth s u i.berth ∧
          { u with berths := s.berths, clients := s.clients } = s)) ∧
    (readyItem s c 0x0B = some i → e.st = .locked → e.lkOwner = c → e.lkSeq.toNat = leAt d 16 2 →
      restZero d [(16, 2)] = true → e.waiters = [] →
      ∃ u, exec (.unlockItem c) s = .next u ∧ completed s u c i stOk (berthDetail i.berth) ∧ onlyBerth s u i.berth ∧
        berth u i.berth = { e with st := e.heldFrom, leaveDue := e.leaveDue || e.orphanLeave, orphanLeave := false } ∧
        frameItem s { u with berths := s.berths, acct := s.acct } ∧ (e.heldFrom ≠ .running → u.acct = s.acct)) ∧
    (x.st = .locked → x.lease ≠ 0 →
      ∃ u, exec (.leaseExpiry b false) s = .next u ∧ onlyBerth s u b ∧ ctr u (bthCtr 11) = ctr s (bthCtr 11) + 1 ∧
        berth u b = { x with st := .abandoned, waiters := [], lockDue := none } ∧
        (∀ w ∈ x.waiters, findItem u w.client w.item = none) ∧ frameItem s { u with berths := s.berths }) ∧
    (∃ u, exec (.leaseExpiry b true) s = .next u ∧ countsOne s u (bthCtr 13) ∧ { u with ctrs := s.ctrs } = s)

/-- O30. FRAME, LEAVE, PARK, UNPARK, MIGRATE, WRITE_STATE and IMPORT items begin with their effect. An inline FRAME of one
frame lands its bytes in the input range; a FRAME from host memory begins its read. LEAVE, PARK, UNPARK and MIGRATE of
an unlocked berth that can be reached begin and mark what the next boundary or copy does. WRITE_STATE by the owner and
IMPORT begin their reads of host memory. A LEAVE of a berth whose cluster is being saved or is saved, and that has no
committed step, drains it at once. (R27, R194, R263, R267, R198,
R305, R245) -/
def Obligations.BerthItemsBegin : Prop :=
  ∀ (s : State) (c : BitVec 10) (i : Item),
    let e := berth s i.berth
    let d := part0 i
    let m := berthModel s e
    let n := frameCount i
    let go := fun (x : Instr) (v : Berth) =>
      ∃ u, exec x s = .next u ∧ hasBegun s u c i ∧ berth u i.berth = v ∧ onlyBerth s u i.berth ∧
        { u with berths := s.berths, clients := s.clients } = s
    let open' := e.lockDue = none ∧ (e.st = .running ∨ e.st = .parked)
    let near := awayNow s e = false ∧ e.moveThr = none ∧ e.copying = false
    let v := leAt d 16 1
    let ls := if bitsOf v 4 4 = 1 then (upTo 16).filter (fun l => decide (l ≠ lcluOf e.lthread)) else [v % 16]
    (readyItem s c 0x04 = some i → open' → leAt d 16 1 < 64 → restZero d [(16, 1), (24, 8)] = true →
      routeOf s i.berth true = none → 1 ≤ n → n ≤ 16 → 1 ≤ m.frameBytes → e.framesIn + e.framesDue - e.framesFreed + n ≤ e.inDepth →
      (frameInline i = false → i.parts.length = 1 →
        let placed (j : Item) : Item :=
          if j.seq = i.seq then { j with begun := true, held := false, slot := e.framesIn + e.framesDue } else j
        ∃ u, exec (.frameItem c) s = .next u ∧ client u c = { client s c with items := (client s c).items.map placed } ∧
          onlyClient s u c ∧ berth u i.berth = { e with framesDue := e.framesDue + n } ∧ onlyBerth s u i.berth ∧
          { u with berths := s.berths, clients := s.clients } = s) ∧
      (frameInline i = true → n = 1 → i.parts.length = 1 + ceilDiv m.frameBytes 48 → e.framesDue = 0 → i.aux = 0 →
        (∀ x ∈ s.clients, ∀ j ∈ x.2.items, j.op = 4 → j.begun = true → j.berth ≠ i.berth) →
        (∀ j ∈ (client s c).items, j.seq = i.seq → j = i) →
        ∃ u, exec (.frameItem c) s = .next u ∧ berth u i.berth = { e with framesIn := e.framesIn + 1 } ∧ onlyBerth s u i.berth ∧
          u.pm = memPutBytes s.pm (frameAddr e m e.framesIn) (inlineBytes i m.frameBytes) ∧ u.store = s.store ∧ u.ret = s.ret)) ∧
    (readyItem s c 0x06 = some i → open' → restZero d [] = true →
      (frozenNow s e = false → go (.leaveItem c) { e with leaveDue := true }) ∧
      (frozenNow s e = true → (e.inStep && e.committed) = false →
        ∃ u, exec (.leaveItem c) s = .next u ∧ (berth u i.berth).st = .draining ∧ keptMemories s u)) ∧
    (open' → near → e.unparkDue = false → restZero d [] = true →
      (readyItem s c 0x07 = some i → e.st = .running → go (.parkItem c) { e with parkDue := true }) ∧
      (readyItem s c 0x07 = some i → e.st = .parked → e.copyBack = false →
        ∃ u, exec (.parkItem c) s = .next u ∧ completed s u c i stOk (berthDetail i.berth) ∧ frameItem s u) ∧
      (readyItem s c 0x08 = some i → e.st = .parked → go (.unparkItem c) { e with copying := true, copyBack := true })) ∧
    (∀ lt base, readyItem s c 0x09 = some i → open' → near → e.parkDue = false → e.unparkDue = false → v < 32 →
      restZero d [(16, 1)] = true → ls.any (migrating s) = false →
      s.sched.proposals.any (fun p => decide (p.berth = i.berth) && p.void) = false → moveTarget s e ls = (.at lt, base) →
      ∃ u, exec (.migrateItem c) s = .next u ∧ hasBegun s u c i ∧ onlyBerth s u i.berth ∧
        berth u i.berth = { e with moveThr := some (lt, base), moving := decide (e.st = .parked) } ∧
        { u with berths := s.berths, clients := s.clients,
                 sched := { u.sched with proposals := s.sched.proposals } } = s) ∧
    (readyItem s c 0x0D = some i → e.st = .locked → lockOwner e = c → (awayNow s e || e.copying) = false → stResv i = true →
      stRange s e i = true → go (.writeStateItem c) e) ∧
    (readyItem s c 0x10 = some i → i.data = none → leAt d 16 1 < 2 → restZero d [(16, 1), (24, 8), (32, 4)] = true →
      go (.importItem c) e)

/-- O31. A parked berth's window moves to its swap area and back, and a moved berth's window to its new place.
PARK_COPY_DONE leaves the berth's window byte for byte in its swap area, UNPARK_COPY_DONE leaves the swap area's bytes
in the window and lets the berth join the next manifest, BERTH_MOVE_COPY_DONE of a berth being moved leaves the window's
bytes at the reserved place of the new cluster, with the thread bound there. Each counts; without a copy under way
nothing changes. (R193, R194, R199, R267) -/
def Obligations.BerthCopies : Prop :=
  ∀ (s : State) (b : BitVec 12),
    let e := berth s b
    let l := lcluOf e.lthread
    (e.copying = true → e.copyBack = false → e.st ≠ .free → 0x10000000 ≤ swapAt e →
      ∃ u, exec (.parkCopyDone b) s = .next u ∧ memBytes u.pm (swapAt e) (winLen e) = storeBytes s l e.winBase (winLen e) ∧
        u.store = s.store ∧ u.ret = s.ret ∧ berth u b = { e with copying := false } ∧ onlyBerth s u b ∧
        ctr u (seqDevCtr 0) = ctr s (seqDevCtr 0) + 1) ∧
    (e.copying = true → e.copyBack = true → e.st ≠ .free →
      ∃ u, exec (.unparkCopyDone b) s = .next u ∧ storeBytes u l e.winBase (winLen e) = pmBytes s (swapAt e) (winLen e) ∧
        spillOnly s u ∧ u.ret = s.ret ∧ berth u b = { e with copying := false, copyBack := false, unparkDue := true } ∧
        onlyBerth s u b ∧ ctr u (seqDevCtr 1) = ctr s (seqDevCtr 1) + 1) ∧
    (∀ lt base, e.moveThr = some (lt, base) → e.moving = true → lt ≠ e.lthread →
      ∃ u, exec (.berthMoveCopyDone b) s = .next u ∧
        storeBytes u (lcluOf lt) base (winLen e) = storeBytes s l e.winBase (winLen e) ∧ spillOnly s u ∧ u.ret = s.ret ∧
        berth u b = { e with lthread := lt, winBase := base, moving := false, moveThr := none } ∧ onlyBerth s u b ∧
        thread u e.lthread = {} ∧ (thread u lt).bw = ⟨base, winLen e⟩ ∧ (thread u lt).pc = (thread s e.lthread).pc ∧
        ctr u (bthCtr 7) = ctr s (bthCtr 7) + 1) ∧
    (e.copying = false → exec (.parkCopyDone b) s = .next s ∧ exec (.unparkCopyDone b) s = .next s) ∧
    (e.moving = false → exec (.berthMoveCopyDone b) s = .next s)

/-- O32. LOAD, LOAD_RESIDENT, UNLOAD, ADMIT and PREEMPT items with their effect. A LOAD that passes the checks of R270, with
a place for every copy and image and no compaction, begins: its slot is loading with the module's descriptor and copies.
A LOAD that fails the content checks for a bad module completes with BAD_DESCRIPTOR. LOAD_RESIDENT of a loading module
makes it loaded and completes the item with the slot and the mask of its clusters. UNLOAD of a loaded module without
berths frees the slot. ADMIT with a place and a key admits the berth on the thread. PREEMPT stops every named cluster
and each of its threads. (R249, R250, R270, R271, R130, R133, R209) -/
def Obligations.ModulesAndAdmission : Prop :=
  ∀ (s : State) (c : BitVec 10) (i : Item),
    let d := part0 i
    (∀ (m : ModuleDesc) slot s1, readyItem s c 0x01 = some i → restZero d [(16, 16), (32, 32)] = true → leAt d 16 8 % 64 = 0 →
      contentFault s i m = none → freeSlot s = some slot →
      (let p := placeCopies (setModule s slot { st := .loading, desc := m, client := c, item := i.seq }) slot i m
       p.noFit = false → p.noMem = false → p.compact = [] → placeImages p.s slot c m = some s1 →
       ∃ u, exec (.loadItem c m) s = .next u ∧ (module u slot).st = .loading ∧ (module u slot).desc = m ∧
         (module u slot).copies = (module p.s slot).copies ∧ hasBegun s u c i ∧ u.berths = s.berths)) ∧
    (∀ (m : ModuleDesc), readyItem s c 0x01 = some i → restZero d [(16, 16), (32, 32)] = true → leAt d 16 8 % 64 = 0 →
      contentFault s i m = some .bad →
      ∃ u, exec (.loadItem c m) s = .next u ∧ completed s u c i stBadDesc (natLe 0 1 ++ natLe 2 1) ∧ frameItem s u ∧
        ctr u (bthCtr 18) = ctr s (bthCtr 18) + 1) ∧
    (∀ slot, let m := module s slot
      m.st = .loading → findItem s m.client m.item = some i → writable (client s m.client) = true →
      ∃ u, exec (.loadResident slot) s = .next u ∧ module u slot = { m with st := .loaded } ∧
        completed s u m.client i stOk (natLe slot.toNat 1 ++ [0, 0, 0] ++ natLe (sumNat ((upTo 16).map (fun l =>
          if m.copies.any (fun k => decide (k.lclu.toNat = l)) then 2 ^ l else 0))) 4) ∧ frameItem s { u with mods := s.mods }) ∧
    (let slot := BitVec.ofNat 8 (leAt d 16 1)
     readyItem s c 0x02 = some i → findItem s c i.seq = some i → restZero d [(16, 1)] = true → (module s slot).st = .loaded →
     (heldBerths s).all (fun e => decide (e.2.modSlot ≠ slot)) = true →
     ∃ u, exec (.unloadItem c) s = .next u ∧ module u slot = {} ∧ ctr u (bthCtr 19) = ctr s (bthCtr 19) + 1 ∧ keptMemories s u ∧
       u.berths = s.berths ∧ findItem u c i.seq = none) ∧
    (let r := admitReq i
     ∀ m b lt base pmb k s1, readyItem s c 0x03 = some i → admitResv i = true → admitRange r = true →
      admitModel s r.slot r.model = some m → admitDest s r m = true → freeEntry s = some b → r.preempting = false → i.aux = 0 →
      placeIn s r.slot r.model (storeOf m) (some (region0Of m r.inDepth r.pmExtra)) (upTo 16) = .at lt →
      migrating s (lcluOf lt) = false → fitTop (storeOf m) (storeGaps s (lcluOf lt)) = some base →
      fitLow (region0Of m r.inDepth r.pmExtra) (bpGaps s (dieOf (physOf s (lcluOf lt)))) = some pmb →
      placeKey s (lcluOf lt) r.replay r.seed = (s1, .key k) →
      ∃ u, exec (.admitItem c) s = .next u ∧ ctr u (bthCtr 0) = ctr s (bthCtr 0) + 1 ∧ onlyBerth s u b ∧
        completed s u c i stOk (berthDetail b ++ natLe lt.toNat 2 ++ natLe (if r.lock then 1 else 0) 2) ∧
        (berth u b).st = (if r.lock then .locked else .admitted) ∧ (berth u b).lthread = lt ∧ (berth u b).client = c ∧
        (berth u b).step = 0 ∧ (berth u b).stepLast = BitVec.ofNat 24 (r.stepLimit - 1) ∧ (berth u b).sub.key = k ∧
        (thread u lt).st = .sleeping ∧ (thread u lt).berth = b ∧ (thread u lt).pc = BitVec.ofNat 32 m.entryPc ∧
        onlyThread s u lt) ∧
    (let ls := slotsOf (leAt d 16 2)
     readyItem s c 0x11 = some i → restZero d [(16, 2)] = true → leAt d 16 2 ≠ 0 → ls.any (migrating s) = false →
     ls.all (mayPreempt s) = true →
     ∃ u, exec (.preemptItem c) s = .next u ∧ (∀ l ∈ ls, savePhase u l = .stopping) ∧
       (∀ l, l ∉ ls → savePhase u l = savePhase s l) ∧
       (∀ lt, lcluOf lt ∈ ls → thread u lt = stopThread (thread s lt)) ∧
       (∀ lt, lcluOf lt ∉ ls → thread u lt = thread s lt) ∧ keptMemories s u)

/-- O33. A doorbell write within its ring moves the position, any other write sets db_bad and counts. For a live page and a
device that is not lost: DB_SQ_TAIL and DB_H2F_TAIL take a value that lies 0 to the ring size past the head and 0 to
2^31 - 1 past the last accepted value, both modulo 2^32; DB_CQ_HEAD and DB_F2H_HEAD take one that lies 0 to the ring
size before the tail and 0 to 2^31 - 1 past the last accepted one. Any other write changes no position, sets db_bad and
increments db_bad_cnt. So no doorbell write moves a position backwards. (R310) -/
def Obligations.Doorbells : Prop :=
  ∀ (s : State) (c : BitVec 10) (w : BitVec 32), pageLive (client s c) = true → s.lost.lost = false →
    let k := client s c
    let takes := fun (i : Instr) (v : Client) =>
      ∃ u, exec i s = .next u ∧ client u c = v ∧ onlyClient s u c ∧ { u with clients := s.clients } = s
    let refuses := fun (i : Instr) => ∃ u, exec i s = .next u ∧ u.clients = s.clients ∧ flagOn u (fDbBad c) = true ∧
      countsOne s u (hifCtr 8) ∧ { u with regs := s.regs, ctrs := s.ctrs } = s
    let fits := fun (d : BitVec 32) (size : Nat) (last : BitVec 32) => d.toNat ≤ size ∧ (w - last).toNat < 2 ^ 31
    (fits (w - k.sqHead) (sqSize s c) k.sqTail → takes (.dbSqTail c w) { k with sqTail := w }) ∧
    (¬ fits (w - k.sqHead) (sqSize s c) k.sqTail → refuses (.dbSqTail c w)) ∧
    (fits (k.cqTail - w) (cqSize s c) k.cqHead → takes (.dbCqHead c w) { k with cqHead := w }) ∧
    (¬ fits (k.cqTail - w) (cqSize s c) k.cqHead → refuses (.dbCqHead c w)) ∧
    (fits (w - k.h2fHead) (h2fSize s c) k.h2fTail → takes (.dbH2fTail c w) { k with h2fTail := w }) ∧
    (¬ fits (w - k.h2fHead) (h2fSize s c) k.h2fTail → refuses (.dbH2fTail c w)) ∧
    (fits (k.f2hTail - w) (f2hSize s c) k.f2hHead → takes (.dbF2hHead c w) { k with f2hHead := w }) ∧
    (¬ fits (k.f2hTail - w) (f2hSize s c) k.f2hHead → refuses (.dbF2hHead c w))

/-- O34. A dead page ignores doorbells, DB_IRQ arms and tests, DB_FLUSH of an ACTIVE client flushes it. Doorbell writes to
the page of a DISABLED or RESETTING client only increment db_dis. DB_IRQ sets arm and mask and raises the interrupt at
once when its conditions hold, which clears arm. COAL_TIMEOUT raises the interrupt of an armed unmasked client with
something unsignalled. DB_FLUSH of an ACTIVE client, none of whose waiting items names a berth others wait on, discards
the assembly, completes every item that has not begun with FLUSHED, and advances fepoch. (R309, R327, R321, R308) -/
def Obligations.PagesInterruptsFlush : Prop :=
  ∀ (s : State) (c : BitVec 10) (w : BitVec 32),
    let k := client s c
    let armed := { k with arm := w.getLsbD 0, mask := w.getLsbD 1 }
    (pageLive k = false → ∀ i ∈ [Instr.dbSqTail c w, .dbCqHead c w, .dbIrq c w, .dbH2fTail c w, .dbF2hHead c w, .dbFlush c w],
      ∃ u, exec i s = .next u ∧ countsOne s u (hifCtr 9) ∧ { u with ctrs := s.ctrs } = s) ∧
    (pageLive k = true → s.lost.lost = false →
      (irqDue s c armed = false → ∃ u, exec (.dbIrq c w) s = .next u ∧ client u c = armed ∧ onlyClient s u c ∧
        { u with clients := s.clients } = s) ∧
      (irqDue s c armed = true → ∃ u, exec (.dbIrq c w) s = .next u ∧ u.emitted = .msix (vecOf s c) :: s.emitted ∧
        client u c = { armed with arm := false, unsig := 0, unsigNow := false } ∧ onlyClient s u c ∧ countsOne s u (hifCtr 19))) ∧
    (k.arm = true → k.mask = false → 0 < k.unsig →
      ∃ u, exec (.coalTimeout c false) s = .next u ∧ u.emitted = .msix (vecOf s c) :: s.emitted ∧
        client u c = { k with arm := false, unsig := 0, unsigNow := false } ∧ onlyClient s u c ∧ countsOne s u (hifCtr 19)) ∧
    (k.st = .active → w.getLsbD 0 = true → noWaiters s c → s.lost.lost = false →
      ∃ u, exec (.dbFlush c w) s = .next u ∧ (client u c).fepoch = k.fepoch + 1 ∧ (client u c).asm = [] ∧
        (client u c).st = .active ∧ (client u c).items.all (fun i => i.begun) = true ∧ onlyClient s u c ∧
        ctr u (hifCtr 6) = ctr s (hifCtr 6) + 1 ∧ keptMemories s u ∧
        (∀ i ∈ k.items, i.begun = false → ∃ r : Record, r.status = stFlushed ∧ r.op = i.op ∧ r.tag = i.tag ∧
          (Emit.record c r ∈ u.emitted ∨ r ∈ (client u c).spill)))

/-- O35. Descriptors become items, spilled records and messages reach their rings, waits time out, host reads end. A fetched
descriptor of the present epoch that is a whole well-formed item joins the client's items, and one of an old epoch
completes with FLUSHED. SPILL_DRAIN writes the spilled record to the ring once it has room. F2H_DELIVER writes the
oldest outbox message. ITEM_TIMEOUT of an item that waits and has not begun completes it with TIMEOUT, a met one only counts. A
failed descriptor fetch halts an ACTIVE client and abandons its locks; bytes read for a WRITE_STATE of a window in the store land there and
complete the item. (R311, R312, R313, R294, R324, R322, R305) -/
def Obligations.RingsAndItems : Prop :=
  ∀ (s : State) (c : BitVec 10),
    let k := client s c
    (∀ d, mayFetch s c = true → leAt d 3 1 = k.fepoch.toNat → k.asm = [] → k.asmBad = none → leAt d 2 1 % 16 = 0 → dLast d = true →
      1 ≤ dOp d → dOp d ≤ 0x13 → partsOk [d] = true → headerOk d = true →
      ∃ u, exec (.descriptorFetch c [d]) s = .next u ∧ countsOne s u (hifCtr 0) ∧ onlyClient s u c ∧
        client u c = { k with sqHead := k.sqHead + 1, itemSeq := k.itemSeq + 1, items := k.items ++ [itemOf s k [d]] } ∧
        (activity u c).hostBytes = (activity s c).hostBytes + 64 ∧
        { u with clients := s.clients, ctrs := s.ctrs, act := s.act } = s) ∧
    (∀ d, mayFetch s c = true → leAt d 3 1 ≠ k.fepoch.toNat → dLast d = true →
      ∃ u r, exec (.descriptorFetch c [d]) s = .next u ∧ (client u c).items = k.items ∧ (client u c).sqHead = k.sqHead + 1 ∧
        ctr u (hifCtr 3) = ctr s (hifCtr 3) + 1 ∧ r.status = stFlushed ∧ r.tag = BitVec.ofNat 32 (dTag d) ∧
        (Emit.record c r ∈ u.emitted ∨ r ∈ (client u c).spill)) ∧
    (∀ r, k.spill = [r] → writable k = true → cqRoom s c = true → s.sec.tenancy ≠ .teardown →
      ∃ u, exec (.spillDrain c) s = .next u ∧ (client u c).spill = [] ∧ (client u c).cqTail = k.cqTail + 1 ∧
        Emit.record c { r with phase := phaseAt (cqSize s c) k.cqTail.toNat } ∈ u.emitted ∧ onlyClient s u c) ∧
    (∀ m rest, k.outbox = m :: rest → writable k = true → (k.f2hTail - k.f2hHead).toNat < f2hSize s c →
      ∃ u, exec (.f2hDeliver c) s = .next u ∧ (client u c).outbox = rest ∧ (client u c).f2hTail = k.f2hTail + 1 ∧
        (client u c).f2hSeq = k.f2hSeq + 1 ∧ ctr u (hifCtr 15) = ctr s (hifCtr 15) + 1 ∧ onlyClient s u c ∧
        Emit.f2h c m k.f2hSeq (phaseAt (f2hSize s c) k.f2hTail.toNat) ∈ u.emitted) ∧
    (∀ i ix, findItem s c ix = some i → i.tmo ≠ 0 →
      (i.op ≠ 0x0A → ∃ u, exec (.itemTimeout c ix true) s = .next u ∧ countsOne s u (hifCtr 13) ∧ { u with ctrs := s.ctrs } = s) ∧
      (i.begun = false → i.held = true → writable k = true → (∀ w ∈ (berth s i.berth).waiters, w = ⟨c, i.seq⟩) →
        ∃ u, exec (.itemTimeout c ix false) s = .next u ∧ ctr u (hifCtr 12) = ctr s (hifCtr 12) + 1 ∧ keptMemories s u ∧
          completed s u c i stTimeout (if namesBerth i.op then berthDetail i.berth else []))) ∧
    (s.lost.lost = false →
      (k.st = .active → ∃ u, exec (.hostReadCompletion c none none) s = .next u ∧ (client u c).st = .halted ∧
        (∀ b, (berth s b).st = .locked → (berth s b).lkOwner = c → (berth u b).st = .abandoned) ∧
        ((∀ e ∈ s.berths, e.2.st = .locked → e.2.lkOwner ≠ c) →
          client u c = { k with st := .halted } ∧ onlyClient s u c ∧ countsOne s u (hifCtr 11))) ∧
      (∀ i q bs, findItem s c q = some i → i.begun = true → i.aux = 0 → i.op = 0x0D →
        let e := berth s i.berth
        e.st = .locked → e.lkOwner = c → stRange s e i = true → stSec i = 2 → inSwap e = false → writable k = true →
        ∃ u, exec (.hostReadCompletion c (some q) (some bs)) s = .next u ∧ completed s u c i stOk (stDetail i) ∧
          u.store = memPutBytes s.store (storeBase (physOf s (lcluOf e.lthread)) + (e.winBase + stOff i)) bs ∧
          spillOnly s u ∧ u.berths = s.berths))

/-- O36. A client is enabled, reset, and ends disabled with its epochs advanced; a link reset resets every client.
CLIENT_ENABLE of a DISABLED client on a BOUND device with every ring base non-zero makes it ACTIVE with every ring
position 0; on a device that is not BOUND, or with a ring base 0, it stays DISABLED and cfg_bad is set. CLIENT_RESET of
an ACTIVE client makes it RESETTING with its unbegun items, its spill ring and its outbox gone. CLIENT_RESET_DONE of one
with no item left makes it DISABLED with both epochs advanced. HOST_LINK_RESET on a device whose interface is not locked
resets every enabled client; a hot reset and a link down end the IDE keys, and a link down marks the link down. (R308,
R377, R323, R304) -/
def Obligations.ClientLife : Prop :=
  ∀ (s : State) (c : BitVec 10),
    let k := client s c
    (alive s = true → s.clk.ready = true →
      (k.st = .disabled → s.sec.tenancy = .bound →
        ([0, 8, 0x10, 0x18].any (fun o => decide (ringBase s c o = 0)) = false →
          ∃ u, exec (.clientEnable c) s = .next u ∧ onlyClient s u c ∧ sameMemories s u ∧
            client u c = { st := .active, fepoch := k.fepoch, cepoch := k.cepoch, itemSeq := k.itemSeq, orph := k.orph,
                           outbox := k.outbox } ∧ regField u (hifC c 0x28) 16 16 = 1) ∧
        ([0, 8, 0x10, 0x18].any (fun o => decide (ringBase s c o = 0)) = true →
          ∃ u, exec (.clientEnable c) s = .next u ∧ flagOn u (fCfgBad c) = true ∧ u.clients = s.clients)) ∧
      (s.sec.tenancy ≠ .bound → ∃ u, exec (.clientEnable c) s = .next u ∧ flagOn u (fCfgBad c) = true ∧
        flagOn u fHifWign = true ∧ u.clients = s.clients) ∧
      (k.st = .active → noWaiters s c →
        ∃ u, exec (.clientReset c) s = .next u ∧ (client u c).st = .resetting ∧ (client u c).spill = [] ∧
          (client u c).outbox = [] ∧ (client u c).asm = [] ∧ (client u c).items = k.items.filter (fun i => i.begun) ∧
          (client u c).resetBoundary = true ∧ onlyClient s u c ∧ sameMemories s u)) ∧
    (k.st = .resetting → k.resetBoundary = false → k.items = [] →
      ∃ u, exec (.clientResetDone c) s = .next u ∧ onlyClient s u c ∧ flagOn u (fCresetDone c) = true ∧
        client u c = { k with st := .disabled, fepoch := k.fepoch + 1, cepoch := k.cepoch + 1 } ∧
        ctr u (hifCtr 7) = ctr s (hifCtr 7) + 1 ∧ sameMemories s u) ∧
    (s.clk.ready = true → s.sec.tdi = .unlocked → s.sec.tenancy ≠ .teardown → (∀ j, noWaiters s j) → ∀ kind,
      ∃ u, exec (.hostLinkReset kind) s = .next u ∧ sameMemories s u ∧
        (∀ j, (client s j).st ≠ .disabled → (client u j).st = .resetting) ∧
        (kind ≠ .functionLevel → u.sec.ide = []) ∧ (kind = .functionLevel → u.sec.ide = s.sec.ide) ∧
        (kind = .linkDown → u.host.linkUp = false ∧ u.host.rate = 0 ∧ u.host.width = 0))

/-- O37. Firmware answers ECHO, FIRMWARE_INFORMATION and REPORT_REQUEST in the client's outbox. For a live page with one
unread H2F message and no orphan, room in the outbox, and harbourmaster taking requests: ECHO is answered with the
payload, FIRMWARE_INFORMATION with the running and pending digests and fw_epoch. REPORT_REQUEST with a nonce of 32 bytes
is answered with five fragments of a signed report, which counts in reports, or is held while a commit window is open
and counts in reports_held. The message read leaves the ring. (R324, R325, R326, R388, R389) -/
def Obligations.MailboxRequests : Prop :=
  ∀ (s : State) (c : BitVec 10) (m : List (BitVec 8)),
    let k := client s c
    pageLive k = true → k.orph = [] → k.h2fTail ≠ k.h2fHead → mailOk m = true → s.clk.ready = true →
    let answers := fun (i : Instr) (p : List (BitVec 8)) => ∃ u g, exec i s = .next u ∧ (client u c).outbox = k.outbox ++ [g] ∧
      g.type = 0x81 ∧ g.reply = true ∧ g.orphan = false ∧ g.reSeq = BitVec.ofNat 32 (leAt m 4 4) ∧ g.status = stOk ∧
      g.payload = p ∧ (client u c).h2fHead = k.h2fHead + 1 ∧ onlyClient s u c ∧ countsOne s u (hifCtr 14) ∧ sameMemories s u
    (s.fw.hm.phase ≠ .window → k.outbox.length < 64 →
      (mailType m = 1 → answers (.echo c m) (mailPayload m)) ∧
      (mailType m = 2 → answers (.firmwareInformation c m) (infoPayload s))) ∧
    (mailType m = 3 → leAt m 2 2 = 32 → k.outbox.length ≤ 59 →
      (windowOpen s = false → ∃ u, exec (.reportRequest c m) s = .next u ∧ (client u c).outbox.length = k.outbox.length + 5 ∧
        ctr u (secCtr 5) = ctr s (secCtr 5) + 1 ∧ (client u c).h2fHead = k.h2fHead + 1 ∧ onlyClient s u c ∧ sameMemories s u) ∧
      (windowOpen s = true → ∃ u r, exec (.reportRequest c m) s = .next u ∧ (client u c).outbox = k.outbox ∧
        u.sec.held = s.sec.held ++ [r] ∧ r.nonce = BitVec.ofNat 256 (leAt m 32 32) ∧
        ctr u (secCtr 6) = ctr s (secCtr 6) + 1 ∧ sameMemories s u))

/-- O38. The audio block is enabled, its PLLs lock and unlock, streams start and stop, the trigger starts the armed ones. A
write of AUD_CTRL enables a disabled block with the lead and tail blocks written (a lead of at least 1), and disabling
it with those unchanged unlocks both PLLs. A PLL that locks makes the acquiring receivers it times LOCKED; one that
unlocks sets pll_unlock, sends MSI-X entry 0 and takes its LOCKED receivers to FREEWHEEL. An enable with a consistent
configuration starts the stream, with an inconsistent one it is ignored and sets wign. A stop takes RUN to FADE. The
trigger, by go or by SYNC_IN with sync_src 1, takes every armed stream of the mask to LEAD, or sets start_ign when none
is armed. (R334, R347, R338, R348, R353, R346) -/
def Obligations.AudioControl : Prop :=
  ∀ (s : State) (w : BitVec 32),
    (alive s = true → s.clk.ready = true →
      (regField s audOff 0 0 = 0 → bitsOf w.toNat 0 0 = 1 →
        ∃ u, exec (.audEnable w) s = .next u ∧ regField u audOff 0 0 = 1 ∧ leadBlk u = Nat.max 1 (bitsOf w.toNat 7 4) ∧
          tailBlk u = bitsOf w.toNat 11 8 ∧ u.aud = s.aud ∧ sameMemories s u) ∧
      (regField s audOff 0 0 = 1 → bitsOf w.toNat 0 0 = 0 → Nat.max 1 (bitsOf w.toNat 7 4) = leadBlk s →
        bitsOf w.toNat 11 8 = tailBlk s →
        ∃ u, exec (.audEnable w) s = .next u ∧ u.aud = { s.aud with lockA := false, lockB := false } ∧ regField u audOff 0 0 = 0) ∧
      (∀ st, st < 112 → s.sec.polLock = false → bitsOf w.toNat 3 3 = 0 →
        (aEn s st = false → bitsOf w.toNat 0 0 = 1 → bitsOf w.toNat 1 1 = 0 →
          (configOk s st false (bitsOf w.toNat 10 4) = true →
            ∃ u, exec (.streamEnable st w) s = .next u ∧ aEn u st = true ∧ (aud u st).frame = 0 ∧ (aud u st).blk = 0 ∧
              (isTx st = true → (aud u st).phase = if bitsOf w.toNat 2 2 = 1 then .armed else .lead) ∧
              (isTx st = false → (aud u st).lock = if pllTimed s st && pllLocked s (aRate s st) then .locked else .acquire)) ∧
          (configOk s st false (bitsOf w.toNat 10 4) = false →
            ∃ u, exec (.streamEnable st w) s = .next u ∧ u.aud = s.aud ∧ flagOn u (fStrWign st) = true ∧ aEn u st = false)) ∧
        (aEn s st = true → isTx st = true → bitsOf w.toNat 0 0 = 1 →
          ∃ u, exec (.streamStop st w) s = .next u ∧ regField u (audCtl st) 1 1 = 1 ∧
            ((aud s st).phase = .run → (aud u st).phase = .fade) ∧
            ((aud s st).phase = .lead ∨ (aud s st).phase = .armed → (aud u st).phase = .tail))) ∧
      (armedStreams s ≠ [] →
        ∃ u, exec (.go w) s = .next u ∧ ctr u (audDevCtr 2) = ctr s (audDevCtr 2) + 1 ∧
          (∀ st ∈ armedStreams s, (aud u st).waitTrig = false ∧ (aud u st).frame = 0 ∧
            ((aud s st).phase = .armed → (aud u st).phase = .lead))) ∧
      (armedStreams s = [] → ∃ u, exec (.go w) s = .next u ∧ u.aud = s.aud ∧ flagOn u fStartIgn = true)) ∧
    (regField s (audOff + 8) 1 1 = 1 → armedStreams s ≠ [] →
      ∃ u, exec .syncIn s = .next u ∧ countsOne s u (audDevCtr 2) ∧
        (∀ st ∈ armedStreams s, (aud s st).phase = .armed → (aud u st).phase = .lead)) ∧
    (regField s (audOff + 8) 1 1 = 0 → exec .syncIn s = .next s) ∧
    (∀ b, (if b then s.aud.lockB else s.aud.lockA) = false → regField s audOff 0 0 = 1 →
      ∃ u, exec (.audioPllLock b) s = .next u ∧ (if b then u.aud.lockB else u.aud.lockA) = true ∧ sameMemories s u ∧
        (∀ st, st < 112 → pllTimed s st = true → onPllB (aRate s st) = b → (aud s st).lock = .acquire →
          (aud u st).lock = .locked)) ∧
    (∀ b, (if b then s.aud.lockB else s.aud.lockA) = true →
      ∃ u, exec (.audioPllUnlock b) s = .next u ∧ (if b then u.aud.lockB else u.aud.lockA) = false ∧
        flagOn u fPllUnlock = true ∧ Emit.msix 0 ∈ u.emitted ∧
        (∀ st, st < 112 → pllTimed s st = true → onPllB (aRate s st) = b → (aud s st).lock = .locked →
          (aud u st).lock = .freewheel))

/-- O39. Transmitters send their queued values, receivers take their words, lock, lose lock and freewheel; routes are
checked. A TX_FRAME of a clocked transmitter in LEAD sends a frame and moves its counts on; in RUN, within a block, it
sends the two values at the heads of its queues as port words and takes them from the queues; without a clock its line
is low. An RX_FRAME of a LOCKED receiver with a good frame takes both words; one that meets the criteria of ACQUIRE
locks it; a disabled receiver takes none. LOSS_DECLARED takes LOCKED to FREEWHEEL with its flags, or counts a near miss.
FREEWHEEL_FRAME puts zero samples. ROUTE_WRITE of an acceptable route sets it, of another sets route_bad. (R340, R342,
R343, R347, R349, R354) -/
def Obligations.AudioFrames : Prop :=
  ∀ (s : State) (st : Nat),
    let a := aud s st
    let n := portBits s st
    (isTx st = true →
      (a.phase = .lead → txClocked s st = true →
        ∃ u, exec (.txFrame st) s = .next u ∧ (aud u st).frame = a.frame + 1 ∧ (aud u st).blk = (a.blk + 1) % 192 ∧
          ctr u (audCtr st 0) = ctr s (audCtr st 0) + 1 ∧ sameMemories s u) ∧
      (∀ x0 t0 x1 t1, a.phase = .run → txClocked s st = true → aMon s st = false → bitClockLost s st = false → a.blk ≠ 0 →
        a.s0.q = x0 :: t0 → a.s1.q = x1 :: t1 →
        ∃ u, exec (.txFrame st) s = .next u ∧ (aud u st).s0.q = t0 ∧ (aud u st).s1.q = t1 ∧ (aud u st).s0.last = x0 ∧
          (aud u st).s1.last = x1 ∧ (aud u st).frame = a.frame + 1 ∧ sameMemories s u ∧
          ∃ c0 c1 u0 u1 z, Emit.txFrame st (BitVec.ofNat 32 (wToWord n x0).1) (BitVec.ofNat 32 (wToWord n x1).1)
            false false c0 c1 u0 u1 z ∈ u.emitted) ∧
      (a.phase ≠ .idle → a.phase ≠ .armed → txClocked s st = false →
        exec (.txFrame st) s = .next (emit s (.lineLow st)))) ∧
    (isRx st = true →
      (∀ f, a.lock = .locked → f.good = true → f.off = false → (wantsRelock a f = false ∨ pllTimed s st = true) →
        ∃ u, exec (.rxFrame st f) s = .next u ∧ (aud u st).s0.last = wordToW n f.w0.toNat ∧
          (aud u st).s1.last = wordToW n f.w1.toNat ∧ (aud u st).frame = a.frame + 1 ∧ (aud u st).lock = .locked) ∧
      (∀ f, a.lock = .acquire → lockMet st a f = true →
        ∃ u, exec (.rxFrame st f) s = .next u ∧ (aud u st).lock = .locked ∧ (aud u st).rateMeas = aRate s st ∧
          { u with aud := s.aud } = s) ∧
      (∀ f, a.lock = .disabled → exec (.rxFrame st f) s = .next s) ∧
      (a.lock = .locked →
        ∃ u, exec (.lossDeclared st false) s = .next u ∧ (aud u st).lock = .freewheel ∧ flagOn u (fLoss st) = true ∧
          flagOn u fLossEv = true ∧ ctr u (audCtr st 6) = ctr s (audCtr st 6) + 1 ∧ sameMemories s u) ∧
      (∃ u, exec (.lossDeclared st true) s = .next u ∧ countsOne s u (audCtr st 7) ∧ { u with ctrs := s.ctrs } = s) ∧
      (a.lock = .freewheel ∨ a.lock = .relock → aBit31 s st = false → pllLocked s (aRate s st) = true →
        ∃ u, exec (.freewheelFrame st) s = .next u ∧ (aud u st).s0.last = 0 ∧ (aud u st).s1.last = 0 ∧
          (aud u st).frame = a.frame + 1)) ∧
    (∀ r k w, r < 56 → k < 2 → alive s = true → s.clk.ready = true → bitsOf w.toNat 15 15 = 1 →
      (routeOk s r k w.toNat = true → ∃ u, exec (.routeWrite r k w) s = .next u ∧
        regWord u (audRoute r k) = BitVec.ofNat 32 (w.toNat % 2 ^ 19) ∧ u.aud = s.aud ∧ sameMemories s u) ∧
      (routeOk s r k w.toNat = false → ∃ u, exec (.routeWrite r k w) s = .next u ∧ flagOn u fRouteBad = true ∧
        flagOn u fAudWign = true ∧ regWord u (audRoute r k) = regWord s (audRoute r k)))

/-- O40. Chain ports negotiate, switch lanes and go down. Enabling a port of an enabled chain starts its negotiation.
NEGOTIATION_DONE of a port in TRAIN brings it UP at the negotiated rate and width and sets link_ev, holds it with dup_id
when the partner has this device's ID, and leaves it DOWN when no combination passes. NEGOTIATION_RETRY of a DOWN port
starts again. A failing ACTIVE lane of an UP port, found here or named by the partner, goes OUT_OF_SERVICE and the
lowest enabled spare lane takes its place. LINK_DOWN takes an UP port down, sets link_ev, and it negotiates again.
(R356, R357, R358, R359) -/
def Obligations.ChainPorts : Prop :=
  ∀ (s : State) (k : Nat), k < 4 →
    let p := portOf s k
    let again := if chnEn s && portEn s k then 1 else 0
    (∀ w, alive s = true → s.clk.ready = true → s.sec.polLock = false → portEn s k = false → chnEn s = true → bitsOf w.toNat 0 0 = 1 →
      ∃ u, exec (.portEnable k w) s = .next u ∧ portEn u k = true ∧ portOf u k = { p with link := 1 } ∧
        (∀ j, j ≠ k → portOf u j = portOf s j) ∧ ctr u (portCtr k 7) = ctr s (portCtr k 7) + 1 ∧ sameMemories s u) ∧
    (∀ r, p.link = 1 →
      (r.partner.toNat = devId s → ∃ u, exec (.negotiationDone k r) s = .next u ∧ (portOf u k).link = 3 ∧
        flagOn u fDupId = true ∧ u.chn.lanes = s.chn.lanes) ∧
      (∀ rate x4, r.partner.toNat ≠ devId s → negotiate s k r = some (rate, x4) →
        ∃ u, exec (.negotiationDone k r) s = .next u ∧ flagOn u fLinkEv = true ∧
          portOf u k = { p with link := 2, rate := rate, x4 := x4, partner := r.partner, pport := r.pport }) ∧
      (r.partner.toNat ≠ devId s → negotiate s k r = none →
        ∃ u, exec (.negotiationDone k r) s = .next u ∧ portOf u k = { p with link := 0 })) ∧
    (p.link = 0 → ∃ u, exec (.negotiationRetry k) s = .next u ∧ portOf u k = { p with link := again } ∧ sameMemories s u) ∧
    (p.link ≠ 0 → exec (.negotiationRetry k) s = .next s) ∧
    (∀ lane j, lane < 9 → p.link = 2 → chnLane s k lane = .active →
      (upTo 9).find? (fun j => decide (chnLane (setLane s k lane .outOfService) k j = .spare ∧ laneEn s k / 2 ^ j % 2 = 1)) = some j →
      ∀ i ∈ [Instr.laneFail k lane, .controlFrame k lane], ∃ u, exec i s = .next u ∧ chnLane u k lane = .outOfService ∧
        chnLane u k j = .active ∧ ctr u (portCtr k 5) = ctr s (portCtr k 5) + 1 ∧ u.chn.ports = s.chn.ports) ∧
    (p.link = 2 → ∃ u, exec (.linkDown k) s = .next u ∧ (portOf u k).link = again ∧ (portOf u k).transit = [] ∧
      flagOn u fLinkEv = true)

/-- O41. Frames are forwarded, dropped or taken; routes are enabled, disabled, read and time out. On an UP port: a frame
with a bad form is dropped and counted; one for another device with hops left queues for the port its entry names, its
hop limit one less, and with none left it is dropped and counted; DATA for an UP receive route whose tag and sequence
are right lands in the berth's input range; CREDIT adds its credits, to at most the route's own. CHN_RT_CMD enables an
acceptable entry that is OFF, else sets rt_bad; disables a receive entry at once and a send entry at the next boundary;
reads an entry into the data registers; and while a disable waits for its boundary is ignored, with wign. ROUTE_TIMEOUT of a send route without credit faults it with cause 2, or counts a
near miss. (R361, R362, R363, R364, R367, R368, R369, R370) -/
def Obligations.ChainFramesAndRoutes : Prop :=
  ∀ (s : State) (k : Nat) (f : List (BitVec 8)), k < 4 →
    let rt := hdr f 91 80
    let r := routeAt s rt
    let job := hdr f 79 64
    let q := seqKey rt 1 job (hdr f 63 56)
    let p := fwdOf s (hdr f 20 8)
    let formed := (hdr f 3 0 = 1 ∨ hdr f 3 0 = 2) ∧ hdr f 156 144 ≤ 4096 ∧ f.length = 48 + hdr f 156 144
    let mine := hdr f 20 8 = devId s ∨ p = 4
    ((portOf s k).link = 2 →
      (¬ formed → hdr f 3 0 ≠ 3 → ∃ u, exec (.dataFrame k f) s = .next u ∧ ctr u (chnDevCtr 2) = ctr s (chnDevCtr 2) + 1 ∧
        { u with ctrs := s.ctrs } = s) ∧
      (formed → ¬ mine → hdr f 52 40 = 0 → ∃ u, exec (.dataFrame k f) s = .next u ∧
        ctr u (chnDevCtr 1) = ctr s (chnDevCtr 1) + 1 ∧ { u with ctrs := s.ctrs } = s) ∧
      (formed → ¬ mine → hdr f 52 40 ≠ 0 → p < 4 → p ≠ k → (portOf s p).link = 2 → (portOf s p).spill = [] →
        framesLen (portOf s p).transit + f.length ≤ 262144 →
        ∃ u, exec (.dataFrame k f) s = .next u ∧
          portOf u p = { portOf s p with transit := (portOf s p).transit ++ [setHops f (hdr f 52 40 - 1)] } ∧
          ctr u (portCtr k 1) = ctr s (portCtr k 1) + 1 ∧ sameMemories s u) ∧
      (∀ key payload, formed → mine → hdr f 3 0 = 1 → jobKey s job (hdr f 63 56) = some key → r.st = 1 → r.recv = true →
        r.peerId.toNat = hdr f 36 24 → r.job.toNat = job → openFrame key f = some payload → hdr f 143 96 = seqOf s q →
        let e := berth s r.berth
        let m := berthModel s e
        ∃ u, exec (.dataFrame k f) s = .next u ∧ berth u r.berth = { e with framesIn := e.framesIn + 1 } ∧
          onlyBerth s u r.berth ∧ u.pm = memPutBytes s.pm (frameAddr e m e.framesIn) (payload.take m.frameBytes) ∧
          u.store = s.store ∧ seqOf u q = seqOf s q + 1) ∧
      (∀ key payload, formed → mine → hdr f 3 0 = 2 → jobKey s job (hdr f 63 56) = some key → r.st = 1 → r.recv = false →
        r.peerId.toNat = hdr f 36 24 → r.job.toNat = job → openFrame key f = some payload → hdr f 143 96 = seqOf s q →
        ∃ u, exec (.creditFrame k f) s = .next u ∧ sameMemories s u ∧
          routeAt u rt = { r with avail := Nat.min r.credits (r.avail + hdr f 175 160) })) ∧
    (alive s = true → s.clk.ready = true → routeBusy s = false →
      let x := rtSel s
      let d := routeOfData s
      let y := routeAt s x
      (y.st = 0 → routeAccepted s x d = true → ∃ u, exec .routeEnable s = .next u ∧ routeAt u x =
        { d with st := 1, avail := if d.recv then 0 else d.credits, credited := (berth s d.berth).framesFreed }) ∧
      (y.st ≠ 0 ∨ routeAccepted s x d = false → ∃ u, exec .routeEnable s = .next u ∧ flagOn u fRtBad = true ∧
        u.chn = s.chn) ∧
      (y.st = 1 → y.recv = true → ∃ u, exec .routeDisable s = .next u ∧ routeAt u x = { y with st := 0, cause := 0 }) ∧
      (y.st = 1 → y.recv = false → ∃ u, exec .routeDisable s = .next u ∧ routeAt u x = { y with offDue := true }) ∧
      (∃ u, exec .routeRead s = .next u ∧ u.chn = s.chn ∧ sameMemories s u ∧
        regWord u (chnRtData 1) = BitVec.ofNat 32 (y.peerId.toNat + y.peerRt.toNat * 2 ^ 16) ∧
        regWord u (chnRtData 3) = BitVec.ofNat 32 (y.len + y.hopLim.toNat * 2 ^ 13))) ∧
    (alive s = true → s.clk.ready = true → routeBusy s = true →
      ∀ i ∈ [Instr.routeEnable, .routeDisable, .routeRead], ∃ u, exec i s = .next u ∧ flagOn u fChnWign = true ∧
        u.chn = s.chn ∧ sameMemories s u) ∧
    (∀ rt : BitVec 12, let y := routeAt s rt.toNat
      y.st = 1 → y.recv = false → y.avail = 0 → regField s (chnOff + 0xC) 15 0 ≠ 0 →
      (∃ u, exec (.routeTimeout rt true) s = .next u ∧ countsOne s u (chnDevCtr 8) ∧ { u with ctrs := s.ctrs } = s) ∧
      (∃ u, exec (.routeTimeout rt false) s = .next u ∧ routeAt u rt.toNat = { y with st := 2, cause := 2 } ∧
        flagOn u fRouteFlt = true ∧ Emit.msix 0 ∈ u.emitted))

/-- O42. The SPDM responder answers in order: version, capabilities, algorithms, certificate, measurements, sessions. In
service and outside the warden's own window, GET_VERSION, GET_CAPABILITIES and NEGOTIATE_ALGORITHMS take the connection
to stages 1, 2 and 3. From stage 3, slot 0's certificate, a challenge, the measurement count, a digest and the report
are answered, a report counts in reports, KEY_EXCHANGE opens the lowest free of four sessions and FINISH completes it.
While a commit window of harbourmaster is open the report is held, and RESPOND_IF_READY answers it once no window is
open. Before service nothing is answered; in the warden's window ResponseNotReady is. (R381, R379, R384, R388, R389) -/
def Obligations.SpdmConnection : Prop :=
  ∀ (s : State) (nonce : BitVec 256) (sn : Nat),
    let up := s.clk.ready = true ∧ s.fw.wd.phase ≠ .window
    let tells := fun (v : State) (a : SpdmAnswer) => { v with emitted := .spdm a :: s.emitted }
    let staged := fun (v : State) (n : Nat) => { v with sec := { v.sec with spdm := n } }
    (up → exec .getVersion s = .next (tells (staged s 1) .version)) ∧
    (up → 1 ≤ s.sec.spdm → exec .getCapabilities s = .next (tells (staged s (Nat.max 2 s.sec.spdm)) .capabilities)) ∧
    (up → 2 ≤ s.sec.spdm → exec (.negotiateAlgorithms true) s = .next (tells (staged s 3) .ok)) ∧
    (up → 3 ≤ s.sec.spdm →
      exec (.getCertificate 0) s = .next (tells s (.certificate Config.certChain)) ∧
      exec (.spdmChallenge nonce) s = .next (tells s (.challenge nonce)) ∧
      exec (.getMeasurements 0 nonce) s = .next (tells s (.measurements 0 nonce [7])) ∧
      (∀ ix : BitVec 8, 1 ≤ ix.toNat → ix.toNat ≤ 6 →
        exec (.getMeasurements ix nonce) s = .next (tells (useFree s) (.measurements ix nonce (measurement s ix.toNat)))) ∧
      (windowOpen s = false → ∃ u, exec (.getMeasurements 0xFD nonce) s = .next u ∧ countsOne s u (secCtr 5) ∧
        u.emitted = .spdm (.measurements 0xFD nonce (reportBytes s false nonce)) :: s.emitted) ∧
      (windowOpen s = true → ∃ u, exec (.getMeasurements 0xFD nonce) s = .next u ∧ countsOne s u (secCtr 6) ∧
        u.sec.held = s.sec.held ++ [{ path := 0, who := 0xFD, nonce := nonce }] ∧ u.emitted = .spdm .notReady :: s.emitted) ∧
      (∀ r, s.sec.held.find? (fun r => decide (r.path = 0)) = some r → windowOpen s = false → r.who = 0xFD →
        ∃ u, exec .respondIfReady s = .next u ∧ u.sec.held = s.sec.held.erase r ∧ countsOne s u (secCtr 5) ∧
          u.emitted = .spdm (.measurements 0xFD r.nonce (reportBytes s true r.nonce)) :: s.emitted) ∧
      (∀ k, (upTo 4).find? (fun k => (sessionOf s k).isNone) = some k →
        ∃ u, exec .keyExchange s = .next u ∧ sessionOf u k = some {} ∧ countsOne s u (secCtr 3) ∧
          u.emitted = .spdm (.session k) :: s.emitted ∧ ∀ j, j ≠ k → sessionOf u j = sessionOf s j) ∧
      (∀ x pub, sessionOf s sn = some x → x.finished = false →
        ∃ u, exec (.finish sn pub) s = .next u ∧ live u sn = true ∧ u.emitted = .spdm .ok :: s.emitted ∧
          sessionOf u sn = some { finished := true, mutualAuth := pub.isSome, pub := pub.getD 0 } ∧
          (∀ j, j ≠ sn → sessionOf u j = sessionOf s j) ∧ u.ctrs = s.ctrs)) ∧
    (s.clk.ready = false → exec .getVersion s = .next s ∧ exec .keyExchange s = .next s) ∧
    (s.clk.ready = true → s.fw.wd.phase = .window → exec .getVersion s = .next (tells s .notReady))

/-- O43. Sessions end and lapse, IDE key sets are programmed, used and stopped, the interface locks, starts and stops.
Within a live session: END_SESSION ends it and leaves the tenancy as it is; HEARTBEAT and KEY_UPDATE are answered;
KEY_PROG, K_SET_GO and K_SET_STOP program, use and end a key set, and a stop that ends the Secure state of the stream
the interface is bound to takes a locked or running interface of a tenant bound without tdisp to ERROR. LOCK binds an
unlocked interface to a secure stream, START runs it for a tenant bound with tdisp, STOP unlocks it, and tears a tdisp
tenant down first. HEARTBEAT_LAPSE ends the session, or counts a near miss. (R383, R393, R394, R376, R381) -/
def Obligations.SessionsIdeTdisp : Prop :=
  ∀ (s : State) (sn st : Nat) (set : Bool), s.clk.ready = true → s.fw.wd.phase ≠ .window → live s sn = true →
    let tells := fun (u : State) (a : SpdmAnswer) => u.emitted.head? = some (.spdm a)
    let v := ideOf s st
    let ended' := fun (u : State) => sessionOf u sn = none ∧ u.sec.tsess ≠ some sn ∧ u.sec.tenancy = s.sec.tenancy ∧
      (∀ j, j ≠ sn → sessionOf u j = sessionOf s j) ∧ u.ctrs = s.ctrs
    (∃ u, exec (.endSession sn) s = .next u ∧ tells u .ok ∧ ended' u) ∧
    (∃ u, exec (.heartbeatLapse sn false) s = .next u ∧ ended' u ∧ u.emitted = s.emitted) ∧
    (∃ u, exec (.heartbeatLapse sn true) s = .next u ∧ countsOne s u (obsCtr 9) ∧ { u with ctrs := s.ctrs } = s) ∧
    exec (.heartbeat sn) s = .next { s with emitted := .spdm .ok :: s.emitted } ∧
    (∃ u, exec (.keyUpdate sn) s = .next u ∧ tells u .ok ∧ u.sec = { s.sec with keyUpdates := s.sec.keyUpdates + 1 }) ∧
    (st < 4 →
      (∃ u, exec (.keyProg sn st set) s = .next u ∧ tells u .ok ∧ keyedSet (ideOf u st) set = true ∧
        keyedSet (ideOf u st) (!set) = keyedSet v (!set) ∧ (ideOf u st).go = v.go ∧ ∀ j, j ≠ st → ideOf u j = ideOf s j) ∧
      (keyedSet v set = true → ∃ u, exec (.kSetGo sn st set) s = .next u ∧ tells u .ok ∧
        ideOf u st = { v with go := if set then 2 else 1 } ∧ ∀ j, j ≠ st → ideOf u j = ideOf s j) ∧
      (s.sec.tdisp = false → ∃ u, exec (.kSetStop sn st set) s = .next u ∧ tells u .ok ∧ keyedSet (ideOf u st) set = false ∧
        (ideOf u st).go = (if v.go = (if set then 2 else 1) then 0 else v.go) ∧
        (v.go = (if set then 2 else 1) → s.sec.tdiStream = st → s.sec.tdi = .locked ∨ s.sec.tdi = .run → u.sec.tdi = .error)) ∧
      exec (.query sn st) s = .next { s with emitted := .spdm (.keyStatus st v.keyed0 v.keyed1 v.go) :: s.emitted } ∧
      (s.sec.tdi = .unlocked → secure s st = true → ∃ u, exec (.lockInterfaceRequest sn st) s = .next u ∧ tells u .ok ∧
        u.sec = { s.sec with tdi := .locked, tdiStream := st, mview := s.sec.mview + 1 }) ∧
      (s.sec.tdi ≠ .unlocked ∨ secure s st = false →
        exec (.lockInterfaceRequest sn st) s = .next { s with emitted := .spdm .error :: s.emitted })) ∧
    (s.sec.tdi = .locked → s.sec.tenancy = .bound → s.sec.tdisp = true →
      ∃ u, exec (.startInterfaceRequest sn) s = .next u ∧ tells u .ok ∧ u.sec = { s.sec with tdi := .run, mview := s.sec.mview + 1 }) ∧
    (s.sec.tdi ≠ .unlocked →
      (s.sec.tdisp = false → s.sec.tenancy ≠ .teardown → ∃ u, exec (.stopInterfaceRequest sn) s = .next u ∧ tells u .ok ∧
        u.sec = { s.sec with tdi := .unlocked, mview := s.sec.mview + 1 }) ∧
      (s.sec.tdisp = true → s.sec.tenancy = .bound → ∃ u, exec (.stopInterfaceRequest sn) s = .next u ∧ tells u .ok ∧
        u.sec.tenancy = .teardown ∧ u.sec.tdiStop = true)) ∧
    (s.sec.tdi = .locked ∨ s.sec.tdi = .run →
      exec (.getDeviceInterfaceReport sn) s = .next { s with emitted := .spdm (.interfaceReport [0, 2]) :: s.emitted })

/-- O44. A tenant is bound, resumed and released; a teardown zeroises the keys, scrubs, and leaves the device VACANT. In a
live session with zero reserved bytes: TENANT_BIND under the conditions of R383 binds the tenant with epoch 1 and this
session, otherwise it is refused and counted; TENANT_RESUME by the same key takes the session over; TENANT_RELEASE by
the tenant session tears down, or waits for the end of a commit window, as a guarded write of td_req does. With every
engine idle at step 5 the keys go. SCRUB_DONE at step 6 leaves the device VACANT, td_done set, with no berth, module,
thread or store byte, and package memory 0 outside the device reserve and the spill areas. TEARDOWN_RECORD_TIMEOUT
resets every writable client with spilled records, or counts a near miss. (R376, R383, R396, R397, R398, R408, R409,
R457) -/
def Obligations.TenancyLife : Prop :=
  ∀ (s : State) (sn : Nat) (id flags : BitVec 32),
    let up := s.clk.ready = true ∧ s.fw.wd.phase ≠ .window ∧ live s sn = true
    let torn := fun (u : State) => u.sec.tenancy = .teardown ∧ u.sec.tdStart = s.tick ∧ u.streams = []
    (up → s.sec.tenancy ≠ .teardown →
      (mayBind s sn flags = true → s.lost.lost = false → ∃ u, exec (.tenantBind sn 0 id flags) s = .next u ∧
        u.sec.tenancy = .bound ∧ u.sec.tenantId = id ∧ u.sec.tEpoch = 1 ∧ u.sec.tsess = some sn ∧ u.sec.tdisp = flags.getLsbD 0 ∧
        ctr u (secCtr 0) = ctr s (secCtr 0) + 1 ∧ u.emitted = .tenant 1 stOk 1 [] :: s.emitted) ∧
      (mayBind s sn flags = false → ∃ u, exec (.tenantBind sn 0 id flags) s = .next u ∧ u.sec = s.sec ∧
        countsOne s u (secCtr 4) ∧ u.emitted = .tenant 1 stBadDesc s.sec.tEpoch [] :: s.emitted) ∧
      (mayResume s sn id = true → ∃ u, exec (.tenantResume sn 0 id) s = .next u ∧ u.sec = { s.sec with tsess := some sn } ∧
        u.emitted = .tenant 2 stOk s.sec.tEpoch [] :: s.emitted ∧ u.ctrs = s.ctrs) ∧
      (s.sec.tenancy = .bound → s.sec.tsess = some sn →
        (windowOpen s = false → ∃ u, exec (.tenantRelease sn 0) s = .next u ∧ torn u) ∧
        (windowOpen s = true → ∃ u, exec (.tenantRelease sn 0) s = .next u ∧ u.sec = { s.sec with tdDue := true }))) ∧
    (alive s = true → s.clk.ready = true → s.guardOpen = true →
      (s.sec.tenancy = .bound → windowOpen s = false → ∃ u, exec .tdReq s = .next u ∧ torn u ∧ u.guardOpen = false) ∧
      (s.sec.tenancy ≠ .bound → ∃ u, exec .tdReq s = .next u ∧ u.sec = s.sec ∧ u.guardOpen = false ∧ flagOn u fSecWign = true)) ∧
    (tdStepNow s = 5 → allIdle s = true → ∃ u, exec .teardownKeysZeroise s = .next u ∧ u.sec.keys = [] ∧ u.sec.tsess = none ∧
      u.sec.tdStep = 6 ∧ u.sec.tenancy = s.sec.tenancy ∧ sameMemories s u) ∧
    (tdStepNow s ≠ 5 ∨ allIdle s = false → exec .teardownKeysZeroise s = .next s) ∧
    (s.sec.tenancy = .teardown → s.lost.lost = false →
      (s.sec.tdStep = 6 → ∃ u, exec .scrubDone s = .next u ∧ u.sec.tenancy = .vacant ∧ u.sec.tEpoch = 0 ∧ u.berths = [] ∧
        u.mods = [] ∧ u.threads = [] ∧ u.store = [] ∧ (∀ a, reserveAt a = false → memByte u.pm a = 0) ∧
        flagOn u fTdDone = true ∧ ctr u (secCtr 1) = ctr s (secCtr 1) + 1) ∧
      (s.sec.tdStep ≠ 6 → exec .scrubDone s = .next s) ∧
      (∃ u, exec (.teardownRecordTimeout true) s = .next u ∧ countsOne s u (obsCtr 9) ∧ { u with ctrs := s.ctrs } = s) ∧
      ((∀ c, noWaiters s c) → ∃ u, exec (.teardownRecordTimeout false) s = .next u ∧
        ∀ c, writable (client s c) = true → (client s c).spill ≠ [] → (client u c).st = .resetting ∧ (client u c).spill = []))

/-- O45. The tenant session puts, rolls, retires and counts keys. KEY_PUT by the tenant session adds a state key when the
present epoch has none and fewer than two are held, a bundle key in place of one of the same number and epoch, a job key
of a new epoch, and counts in key_puts. KEY_ROLL advances the tenant epoch, destroys the state and bundle keys two
epochs old and counts. KEY_RETIRE destroys the named epoch of a job. KEY_STATUS answers the number of state keys, bundle
keys and jobs. (R380, R382, R391, R392) -/
def Obligations.TenantKeys : Prop :=
  ∀ (s : State) (sn : Nat) (id : BitVec 32) (ep : BitVec 8) (key : BitVec 256) (job : BitVec 16),
    s.clk.ready = true → s.fw.wd.phase ≠ .window → live s sn = true → s.sec.tenancy = .bound → s.sec.tsess = some sn →
    let now := s.sec.tEpoch
    let adds := fun (i : Instr) (old : List TKey) (k : TKey) => ∃ u, exec i s = .next u ∧ u.sec = { s.sec with keys := old ++ [k] } ∧
      countsOne s u (secCtr 7) ∧ u.emitted = .tenant 4 stOk now [] :: s.emitted
    let slots := natLe (keysOf s 1).length 4 ++ natLe (keysOf s 2).length 4 ++ natLe (liveJobs s).length 4
    let others := s.sec.keys.filter (fun k => !decide (k.kind = 2 ∧ k.id = id ∧ k.epoch = now))
    ((keysOf s 1).any (fun k => decide (k.epoch = now)) = false → (keysOf s 1).length < 2 →
      adds (.keyPut sn 0 1 id ep key) s.sec.keys ⟨1, id, now, key⟩) ∧
    ((others.filter (fun k => decide (k.kind = 2))).length < 4096 →
      adds (.keyPut sn 0 2 id ep key) others ⟨2, id, now, key⟩) ∧
    (id.toNat < 2 ^ 16 → (jobKeys s id.toNat).any (fun k => decide (k.epoch = ep.setWidth 32)) = false →
      (jobKeys s id.toNat).length < 2 → (jobKeys s id.toNat ≠ [] ∨ (liveJobs s).length < 1024) →
      adds (.keyPut sn 0 3 id ep key) s.sec.keys ⟨3, id, ep.setWidth 32, key⟩) ∧
    (∃ u, exec (.keyRoll sn 0) s = .next u ∧ u.sec.tEpoch = now + 1 ∧ ctr u (secCtr 8) = ctr s (secCtr 8) + 1 ∧
      u.sec.keys = s.sec.keys.filter (fun k => !decide (k.kind ≠ 3 ∧ k.epoch.toNat + 2 ≤ (now + 1).toNat))) ∧
    ((jobKey s job.toNat ep.toNat).isSome = true → ∃ u, exec (.keyRetire sn 0 job ep) s = .next u ∧
      jobKey u job.toNat ep.toNat = none ∧ (∀ j e, j ≠ job.toNat ∨ e ≠ ep.toNat → jobKey u j e = jobKey s j e) ∧ keptMemories s u) ∧
    (exec (.keyStatus sn 0) s = .next { s with emitted := .tenant 7 stOk now slots :: s.emitted })

/-- O46. Cewieb reads objects, writes policy fields, acts on units, locks policy, evicts and asks for reports. While Cewieb
serves and no window of the warden is open: READ_OBJ answers a unit's state code; a WRITE_OBJ of a client's weight with
the present view stores it, at least 1, and moves the view; UNIT_ACTION does what CAL_REQ does or sets req_refused;
POLICY_LOCK sets the lock; EVICT tears a bound tenant down; REPORT is answered, or held while a window is open. An
operation with another view than the present one is answered STALE_VIEW and changes nothing else. Each counts in cw_ops.
Over a window of the warden an operation is held. A device that does not serve changes nothing. (R401, R402, R403, R404,
R405, R389, R110, R376) -/
def Obligations.CewiebRequests : Prop :=
  ∀ (s : State) (v val : BitVec 64) (nonce : BitVec 256) (on : Bool),
    let now := s.sec.mview
    let free := s.fw.wd.phase ≠ .window
    let o := fun c : BitVec 10 => CwObject.field (bthOff + 0x1000 + 4 * c.toNat) 15 0
    let weight := fun (u : State) (c : BitVec 10) => regField u (bthOff + 0x1000 + 4 * c.toNat) 15 0
    let answers := fun (u : State) (op status : Nat) (view : BitVec 64) (body : List (BitVec 8)) =>
      u.emitted = .cewieb op status view body :: s.emitted ∧ ctr u (secCtr 12) = ctr s (secCtr 12) + 1
    (cwServes s = true → free →
      (∀ n t, n < 18 → ∃ u, exec (.readObj (.unit 0 n t)) s = .next u ∧ answers u 1 stOk now (natLe (stateCode (cluState s n)) 8) ∧
        { u with ctrs := s.ctrs, emitted := s.emitted } = s) ∧
      (∀ c : BitVec 10, ∃ u, exec (.writeObj now (o c) val) s = .next u ∧ answers u 2 stOk (now + 1) [] ∧
        weight u c = Nat.max 1 (bitsOf val.toNat 15 0) ∧ (∀ j, j ≠ c → weight u j = weight s j) ∧ sameMemories s u) ∧
      (v ≠ now → ∀ i ∈ [Instr.writeObj v (o 0) val, .unitAction v 1 0 0, .policyLock v on, .debugLevels v on 1, .bindPolicy v on on,
          .stageChunk v 1 0 [], .commitImage v 1, .cancelImage v 1, .raiseFloor v 1],
        ∃ u op, exec i s = .next u ∧ answers u op stStaleView now [] ∧ ctr u (secCtr 13) = ctr s (secCtr 13) + 1 ∧
          { u with ctrs := s.ctrs, emitted := s.emitted } = s) ∧
      (∀ n t, n < 18 → cluState s n = .quarantined → ∃ u, exec (.unitAction now 3 n t) s = .next u ∧ answers u 3 stOk now [] ∧
        MapChange.cluster n .outOfService ∈ u.map.due) ∧
      (∀ n t, n < 18 → cluState s n = .active → spareClu s (dieOf n) = none → ∃ u, exec (.unitAction now 2 n t) s = .next u ∧
        answers u 3 stBadDesc now [] ∧ flagOn u fReqRefused = true ∧ u.map = s.map ∧ u.cal = s.cal) ∧
      (∃ u, exec (.policyLock now on) s = .next u ∧ u.sec.polLock = on ∧
        answers u 4 stOk (if s.sec.polLock = on then now else now + 1) []) ∧
      (s.sec.tenancy = .bound → windowOpen s = false → ∃ u, exec .evict s = .next u ∧ u.sec.tenancy = .teardown ∧ u.streams = []) ∧
      (s.sec.tenancy ≠ .bound → ∃ u, exec .evict s = .next u ∧ answers u 5 stOk now [] ∧ u.sec = s.sec)) ∧
    (cwServes s = true →
      (windowOpen s = false → ∃ u, exec (.report nonce) s = .next u ∧ ctr u (secCtr 5) = ctr s (secCtr 5) + 1 ∧
        answers u 6 stOk now (reportBytes (bump s (secCtr 12)) false nonce)) ∧
      (windowOpen s = true → ∃ u, exec (.report nonce) s = .next u ∧ ctr u (secCtr 6) = ctr s (secCtr 6) + 1 ∧
        u.sec = { s.sec with held := s.sec.held ++ [{ path := 2, nonce := nonce }] } ∧ u.emitted = s.emitted) ∧
      (s.fw.wd.phase = .window → ∀ i ∈ [Instr.readObj (o 0), .writeObj v (o 0) val, .unitAction v 1 0 0, .policyLock v on, .evict],
        exec i s = .next { s with sec := { s.sec with cwHeld := s.sec.cwHeld ++ [i] } })) ∧
    (cwServes s = false → ∀ i ∈ [Instr.readObj (o 0), .writeObj v (o 0) val, .unitAction v 1 0 0, .policyLock v on, .evict, .report nonce],
      exec i s = .next s)

/-- O47. Cewieb opens and closes debug levels, sets bind policy, reads counters, fuses the anchor, stages, commits and
raises floors. With the present view: DEBUG_LEVELS opens allowed levels at once for a tenant that does not ask for a
teardown, refuses levels that dbg_disable forbids, and closes levels; BIND_POLICY sets both fields; READ_CTRS answers
live counters; STAGE_CHUNK in IDLE begins the stage with its chunk; COMMIT of a staged image that meets every condition
opens the window; CANCEL of a staged image drops it; RAISE_FLOOR in IDLE queues the fuse record of the running version,
otherwise it is refused. ANCHOR_SET over I3C queues the anchor while none is fused. BOOT_IMAGE supplies a valid image to
a boot ROM that waits for one. A connection refused in the handshake, or beside four others, counts in tls_fail. (R401,
R403, R406, R407, R439, R442, R495, R437) -/
def Obligations.CewiebDebugAndImages : Prop :=
  ∀ (s : State) (wd : Bool) (l : BitVec 5),
    let now := s.sec.mview
    let kind := fwCode wd
    let k := fwOf s wd
    let answers := fun (u : State) (op status : Nat) => ∃ view body, u.emitted = .cewieb op status view body :: s.emitted
    (cwServes s = true → s.fw.wd.phase ≠ .window →
      (levelsAllowed s l = true → (s.sec.tenancy = .bound ∧ s.sec.dbgTeardown = true → False) →
        ∃ u, exec (.debugLevels now true l) s = .next u ∧ u.sec.levels = s.sec.levels ||| l ∧ answers u 7 stOk) ∧
      (levelsAllowed s l = false → ∃ u, exec (.debugLevels now true l) s = .next u ∧ u.sec = s.sec ∧ answers u 7 stBadDesc) ∧
      (∃ u, exec (.debugLevels now false l) s = .next u ∧ u.sec.levels = s.sec.levels &&& ~~~ l ∧ answers u 7 stOk) ∧
      (∀ m t, ∃ u, exec (.bindPolicy now m t) s = .next u ∧ u.sec.bindMutual = m ∧ u.sec.tdispReq = t ∧ answers u 8 stOk) ∧
      (∀ first count : BitVec 16, 1 ≤ count.toNat → count.toNat ≤ 512 → first.toNat + count.toNat ≤ 65536 →
        ∃ u, exec (.readCtrs first count 0) s = .next u ∧ countsOne s u (secCtr 12) ∧ u.dbg = s.dbg ∧
          u.emitted = .cewieb 9 stOk now (natLe s.dbg.snapTick.toNat 8 ++
            (upTo count.toNat).flatMap (fun j => natLe (ctrAt u (first.toNat + j)).toNat 8)) :: s.emitted) ∧
      (∀ off data, k.phase = .idle → data ≠ [] → data.length ≤ 4096 → off + data.length ≤ (regWord s (clkOff + 0x10)).toNat →
        ∃ u, exec (.stageChunk now kind off data) s = .next u ∧ (fwOf u wd).phase = .staging ∧ (fwOf u wd).chunks = [(off, data)] ∧
          (fwOf u wd).byCewieb = true ∧ fwOf u (!wd) = fwOf s (!wd) ∧ answers u 0xA stOk) ∧
      (k.phase = .staged → commitCauses s wd = [] → commitOther s wd = false →
        ∃ u, exec (.commitImage now kind) s = .next u ∧ (fwOf u wd).phase = .window ∧ answers u 0xA stOk) ∧
      (k.phase = .staged → ∃ u, exec (.cancelImage now kind) s = .next u ∧ (fwOf u wd).phase = .idle ∧
        (fwOf u wd).pending = none ∧ answers u 0xA stOk) ∧
      (k.phase = .idle → ∃ u, exec (.raiseFloor now kind) s = .next u ∧
        u.fw = { s.fw with fuseQ := s.fw.fuseQ ++ [.floor wd k.running.ver] } ∧ answers u 0xA stOk) ∧
      (k.phase ≠ .idle → ∃ u, exec (.raiseFloor now kind) s = .next u ∧ u.fw = { s.fw with imgErr := 6 } ∧ answers u 0xA stBadDesc)) ∧
    (∀ hash, alive s = true → testBypass s = false → s.fw.wd.phase ≠ .window → s.sec.anchor = none →
      s.fw.fuseQ.all (fun j => match j with | .anchor _ => false | _ => true) = true →
      ∃ u, exec (.anchorSet hash true) s = .next u ∧ u.fw = { s.fw with fuseQ := s.fw.fuseQ ++ [.anchor hash] } ∧ answers u 0xB stOk) ∧
    (∀ file, waitsManagement s = true → imageValid s wd file = true →
      ∃ u, exec (.bootImage now kind file) s = .next u ∧ answers u 0xA stOk ∧
        (if wd then u.fw.bootWd else u.fw.bootHm) = some (fileImage file)) ∧
    (∀ ok others, alive s = true →
      (ok = true ∧ others < 4 → exec (.cewiebConnection ok others) s = .next s) ∧
      (ok = false ∨ 4 ≤ others → ∃ u, exec (.cewiebConnection ok others) s = .next u ∧ countsOne s u (secCtr 11) ∧
        { u with ctrs := s.ctrs } = s))

/-- O48. Images are staged, checked, committed, cancelled and loaded, and each refusal sets img_err. For the kind that
CLK_IMG_CMD names: STAGE in IDLE begins a stage of the length of CLK_IMG_LEN with nothing pending; COMMIT of a staged
image that meets every condition opens the window; CANCEL of one drops it; COMMIT and CANCEL in IDLE set img_err 6.
BOOT_LOAD of both kinds supplies two valid images to a boot ROM that waits for them, sets 5 on an error of host memory,
6 where none waits, and 3 for one kind. STAGE_DONE of a full stage takes a valid image of the stage's length as pending;
an image with one listed fault sets its code and ends the stage, as does an error of host memory with 5.
FLASH_WRITE_DONE puts the staged image in the spare slot with its STAGED byte, or sets img_err 8. (R436, R437, R438,
R439, R434, R435) -/
def Obligations.FirmwareStages : Prop :=
  ∀ (s : State) (wd : Bool), alive s = true →
    let k := fwOf s wd
    (∀ w : BitVec 32, bitsOf w.toNat 5 4 = fwCode wd →
      (k.phase = .idle → s.clk.ready = true → ∃ u, exec (.imgStage w) s = .next u ∧ (fwOf u wd).phase = .staging ∧
        (fwOf u wd).len = (regWord s (clkOff + 0x10)).toNat ∧ (fwOf u wd).pending = none ∧ (fwOf u wd).byCewieb = false ∧
        fwOf u (!wd) = fwOf s (!wd)) ∧
      (k.phase = .staged → commitCauses s wd = [] → commitOther s wd = false →
        ∃ u, exec (.imgCommit w) s = .next u ∧ (fwOf u wd).phase = .window ∧ (fwOf u wd).pending = k.pending) ∧
      (k.phase = .staged → ∃ u, exec (.imgCancel w) s = .next u ∧ (fwOf u wd).phase = .idle ∧ (fwOf u wd).pending = none ∧
        (fwOf u wd).running = k.running) ∧
      (k.phase = .idle → ∀ i ∈ [Instr.imgCommit w, .imgCancel w], ∃ u, exec i s = .next u ∧ u.fw = { s.fw with imgErr := 6 })) ∧
    (∀ (w : BitVec 32) (a b : FwFile),
      (bitsOf w.toNat 5 4 = 3 → waitsHost s = true →
        (imageValid s true a = true → imageValid s false b = true →
          ∃ u, exec (.imgBootLoad w (some (a, b))) s = .next u ∧ u.fw.bootWd = some (fileImage a) ∧ u.fw.bootHm = some (fileImage b)) ∧
        (∃ u, exec (.imgBootLoad w none) s = .next u ∧ u.fw = { s.fw with imgErr := 5 })) ∧
      (bitsOf w.toNat 5 4 = 3 → waitsHost s = false →
        ∃ u, exec (.imgBootLoad w (some (a, b))) s = .next u ∧ u.fw = { s.fw with imgErr := 6 }) ∧
      (bitsOf w.toNat 5 4 ≠ 3 → ∃ u, exec (.imgBootLoad w none) s = .next u ∧ u.fw = { s.fw with imgErr := 3 })) ∧
    (k.phase = .staging → stageFull k = true → ∀ f : FwFile,
      let g := stagedFile k f
      (imageValid s wd g = true → g.body.length + 256 = k.len → ∃ u, exec (.stageDone wd (some f)) s = .next u ∧
        (fwOf u wd).phase = .staged ∧ (fwOf u wd).pending = some (fileImage g)) ∧
      (∀ e, formOk g = true → imageCauses s wd g = [e] → ∃ u, exec (.stageDone wd (some f)) s = .next u ∧
        (fwOf u wd).phase = .idle ∧ (fwOf u wd).pending = none ∧ u.fw.imgErr = e ∧ ctr u (clkCtr 4) = ctr s (clkCtr 4) + 1) ∧
      (∃ u, exec (.stageDone wd none) s = .next u ∧ (fwOf u wd).phase = .idle ∧ u.fw.imgErr = 5 ∧
        ctr u (clkCtr 4) = ctr s (clkCtr 4) + 1)) ∧
    (∀ im, k.phase = .staged → k.pending = some im → fromFlash s = true → k.flashed = false →
      (∃ u, exec (.flashWriteDone wd true) s = .next u ∧ flashSlot u (spareSlot s wd) = { image := some im, staged := true } ∧
        (fwOf u wd).flashed = true) ∧
      exec (.flashWriteDone wd false) s = .next { s with fw := { s.fw with imgErr := 8 } })

/-- O49. A commit window ends with the new image or with the old one, the image persists, and fuse records take effect. With
nothing held over the window: HM_WINDOW_DONE of a switch makes the pending image the running one, moves the duties of
the cores, and counts fw_epoch and fw_commits; of an abort it keeps the running image, drops the pending one and counts
in fw_aborts. WD_WINDOW_DONE does the same for the warden and leaves fw_epoch. PERSIST_DONE marks the new slot ACTIVE
and the old one RETIRED, and boot will take the new slot. FUSE_PULSE_DONE writes the first waiting record, whose fuse,
floor or anchor then holds; a reset that waited for the pulse asserts. (R438, R440, R441, R443, R325, R430, R98, R442,
R401) -/
def Obligations.WindowsAndFuses : Prop :=
  ∀ (s : State), alive s = true →
    (s.sec.held = [] → s.sec.cwHeld = [] → s.sec.tdDue = false →
      (s.fw.hm.phase = .window →
        (∃ u, exec (.hmWindowDone true) s = .next u ∧ u.fw.hm.running = s.fw.hm.pending.getD s.fw.hm.running ∧
          u.fw.hm.pending = none ∧ u.fw.hm.phase = (if fromFlash s then .persist else .idle) ∧ u.host.fwEpoch = s.host.fwEpoch + 1 ∧
          ctr u (clkCtr 5) = ctr s (clkCtr 5) + 1 ∧ (∀ j k, spareCore s = some j →
            (upTo 5).reverse.find? (fun k => decide (coreState s k = .active)) = some k → coreState u j = .active ∧ coreState u k = .spare)) ∧
        (∃ u, exec (.hmWindowDone false) s = .next u ∧ u.fw.hm.running = s.fw.hm.running ∧ u.fw.hm.pending = none ∧
          u.fw.hm.phase = .idle ∧ u.host = s.host ∧ ctr u (clkCtr 6) = ctr s (clkCtr 6) + 1 ∧ sameMemories s { u with ret := s.ret })) ∧
      (s.fw.wd.phase = .window →
        (∃ u, exec (.wdWindowDone true) s = .next u ∧ u.fw.wd.running = s.fw.wd.pending.getD s.fw.wd.running ∧
          u.fw.wd.pending = none ∧ u.fw.wd.phase = (if fromFlash s then .persist else .idle) ∧ u.host = s.host ∧ u.fw.hm = s.fw.hm ∧
          ctr u (clkCtr 5) = ctr s (clkCtr 5) + 1) ∧
        (∃ u, exec (.wdWindowDone false) s = .next u ∧ u.fw.wd.running = s.fw.wd.running ∧ u.fw.wd.pending = none ∧
          u.fw.wd.phase = .idle ∧ u.fw.hm = s.fw.hm ∧ ctr u (clkCtr 6) = ctr s (clkCtr 6) + 1))) ∧
    (∀ wd, (fwOf s wd).phase = .persist → ∃ u, exec (.persistDone wd) s = .next u ∧ (fwOf u wd).phase = .idle ∧
      (flashSlot u (spareSlot s wd)).active = true ∧ (flashSlot u (bootSlot s wd)).retired = true ∧ bootSlot u wd = spareSlot s wd) ∧
    (∀ j rest, s.fw.fuseQ = j :: rest →
      (s.clk.rstWaits = false → ∃ u, exec .fusePulseDone s = .next u ∧ u.fw.fuseQ = rest ∧ match j with
        | .retireCluster n => tabGet false u.map.cluFuse n = true ∧ MapChange.cluster n .retired ∈ u.map.due
        | .retireTile n t => tabGet false u.map.tileFuse (tileKey n t) = true ∧ MapChange.tile n t .retired ∈ u.map.due
        | .retireCore k => tabGet false u.fw.coreFuse k = true ∧ coreState u k = .retired
        | .retireLane p l => tabGet false u.fw.laneFuse (9 * p + l) = true ∧ chnLane u p l = .retired
        | .floor wd v => (floorOf s wd).toNat ≤ (floorOf u wd).toNat ∧
            ((floorOf s wd).toNat ≤ v.toNat → floorOf u wd = v) ∧ floorOf u (!wd) = floorOf s (!wd) ∧ countsOne s u (clkCtr 7)
        | .anchor h => u.sec.anchor = some h) ∧
      (s.clk.rstWaits = true → ∃ u, exec .fusePulseDone s = .next u ∧ u.clk.inReset = true ∧ u.clk.rstDelayed = true))

/-- O50. The resets assert and release, the supply faults act, and boot brings the device into service. RESET_N_ASSERT with
no fuse pulse under way resets everything outside the retained domain and the fuses; over a pulse it waits and starts no
further one. RESET_N_RELEASE samples the straps, and a reserved value sets strap_bad. POWER_ON_RESET_RELEASE does so
unless RESET_N is still low. VDD_AO_LOW asserts power-on reset, which clears the retained domain and package memory too.
RAIL_FAULT in service loses the device. BOOT_COMPLETE with REFCLK, the noise source and both images leaves the device
ready, running those images, with calibration epoch 1 and the boot counted; with no image in flash it waits for a boot
bundle. (R427, R428, R429, R430, R431, R432, R433, R436, R437, R476) -/
def Obligations.ResetAndBoot : Prop :=
  ∀ (s : State),
    (s.clk.inReset = false → s.clk.porHeld = false →
      (s.fw.fuseQ = [] → ∃ u, exec .resetNAssert s = .next u ∧ u.clk.inReset = true ∧ u.clk.ready = false ∧ u.sec.tenancy = .vacant ∧
        u.sec.keys = [] ∧ u.berths = [] ∧ u.threads = [] ∧ u.store = [] ∧ u.tick = 0 ∧ u.ret = s.ret ∧ u.fw.slots = s.fw.slots ∧
        u.map.cluFuse = s.map.cluFuse ∧ u.sec.anchor = s.sec.anchor ∧ u.lost.lost = false ∧
        regWord u (glbOff + 0x30) = 0 ∧ ∀ k, k < 16 → regWord u (glbOff + 0x40 + 4 * k) = regWord s (glbOff + 0x40 + 4 * k)) ∧
      (s.fw.fuseQ ≠ [] → ∃ u, exec .resetNAssert s = .next u ∧ u.clk.inReset = false ∧ u.clk.rstWaits = true ∧
        u.fw.fuseQ = s.fw.fuseQ.take 1 ∧ u.tick = s.tick)) ∧
    (∀ boot clk : BitVec 2,
      let released := fun u : State => u.clk.inReset = false ∧ strapBoot u = boot.toNat ∧ strapClk u = clk.toNat ∧
        (boot = 3 ∨ clk = 3 → flagOn u fStrapBad = true) ∧ sameMemories s u
      (s.clk.inReset = true → s.clk.porHeld = false → s.clk.rstWaits = false →
        ∃ u, exec (.resetNRelease boot clk) s = .next u ∧ released u ∧ u.clk.rstLow = false) ∧
      (s.clk.porHeld = true →
        (s.clk.rstLow = false → ∃ u, exec (.powerOnResetRelease boot clk) s = .next u ∧ released u ∧ u.clk.porHeld = false) ∧
        (s.clk.rstLow = true → exec (.powerOnResetRelease boot clk) s = .next { s with clk := { s.clk with porHeld := false } }))) ∧
    (∃ u, exec .vddAoLow s = .next u ∧ u.clk.inReset = true ∧ u.clk.porHeld = true ∧ u.pm = [] ∧ u.ret = [] ∧ u.store = [] ∧
      u.regs = [] ∧ u.ctrs = [] ∧ u.fw.slots = s.fw.slots ∧ u.sec.anchor = s.sec.anchor) ∧
    (∀ rail, rail < 8 → rail ≠ 5 → alive s = true → s.clk.ready = true →
      (s.lost.lost = false → ∃ u, exec (.railFault rail false) s = .next u ∧ u.lost.lost = true ∧ u.lost.cls = 9 ∧ u.lost.detail = rail) ∧
      (∃ u, exec (.railFault rail true) s = .next u ∧ countsOne s u (obsCtr 9) ∧ { u with ctrs := s.ctrs } = s)) ∧
    (∀ r, alive s = true → s.clk.ready = false → testBypass s = false → s.clk.refValid = true → s.rng.nt = .ok →
      (∀ h w, bootImage s false = some h → bootImage s true = some w → ∃ u, exec (.bootComplete r) s = .next u ∧ u.clk.ready = true ∧
        u.fw.hm.running = h.2 ∧ u.fw.wd.running = w.2 ∧ u.fw.hm.phase = .idle ∧ u.fw.wd.phase = .idle ∧ u.cal.epoch = 1 ∧
        u.host.linkUp = true ∧ u.fw.boots = s.fw.boots + 1 ∧ u.berths = [] ∧ u.store = []) ∧
      (bootImage s false = none → bootsFlash s = true → ∃ u, exec (.bootComplete r) s = .next u ∧ u.clk.ready = false ∧
        u.fw.waitBundle = true ∧ u.fw.slots = s.fw.slots))

/-- O51. Gears follow what is in force, roots lock and unlock, and the reference comes and goes. GEAR_CHANGE loads a slower
gear at once and climbs one gear at a time, 1 µs apart, counting each change, and does nothing where the gear in force is loaded.
ROOT_UNLOCK of a locked root, the others locked, takes it out of lock, puts a die at gear 5 and counts one relock; with
another root out it loses the device. ROOT_LOCK_CONFIRMED locks a root that is not down. ROOT_LOCK_TIMEOUT counts an
attempt, the third of which leaves the root down with root_fail; a lock in that cycle only counts a near miss.
REFCLK_LOSS in service loses the device, and a boot waits. REFCLK_VALID in boot locks the roots that are not down. (R412, R414, R417,
R418, R423, R424, R425, R497) -/
def Obligations.ClockRoots : Prop :=
  ∀ (s : State), alive s = true →
    (∀ d, d < 2 →
      (gearLoaded s d < gearInForce s d → ∃ u, exec (.gearChange d) s = .next u ∧ gearLoaded u d = gearInForce s d ∧
        countsOne s u (clkCtr 0) ∧ (∀ q, q ≠ d → gearLoaded u q = gearLoaded s q)) ∧
      (gearInForce s d < gearLoaded s d → mayClimb s d = true → ∃ u, exec (.gearChange d) s = .next u ∧
        gearLoaded u d = gearLoaded s d - 1 ∧ countsOne s u (clkCtr 0)) ∧
      (gearInForce s d < gearLoaded s d → mayClimb s d = false → exec (.gearChange d) s = .next s) ∧
      (gearInForce s d = gearLoaded s d → exec (.gearChange d) s = .next s)) ∧
    (∀ r, r < 3 →
      (rootLocked s r = true → (∀ q, q < 3 → q ≠ r → rootLocked s q = true) →
        ∃ u, exec (.rootUnlock r) s = .next u ∧ rootLocked u r = false ∧ (r < 2 → gearLoaded u r = 5) ∧ countsOne s u (clkCtr 1) ∧
          { u with clk := s.clk, ctrs := s.ctrs } = s) ∧
      (∀ q, rootLocked s r = true → q < 3 → q ≠ r → rootLocked s q = false → s.lost.lost = false →
        ∃ u, exec (.rootUnlock r) s = .next u ∧ u.lost.lost = true ∧ u.lost.cls = 10) ∧
      (rootLocked s r = false → exec (.rootUnlock r) s = .next s) ∧
      (s.clk.refValid = true → tabGet false s.clk.rootDown r = false → ∃ u, exec (.rootLockConfirmed r) s = .next u ∧
        rootLocked u r = true ∧ tabGet 0 u.clk.attempts r = 0 ∧ { u with clk := s.clk } = s) ∧
      (rootLocked s r = false → tabGet false s.clk.rootDown r = false →
        (∃ u, exec (.rootLockTimeout r true) s = .next u ∧ countsOne s u (obsCtr 9) ∧ { u with ctrs := s.ctrs } = s) ∧
        (tabGet 0 s.clk.attempts r + 1 < 3 → ∃ u, exec (.rootLockTimeout r false) s = .next u ∧
          tabGet 0 u.clk.attempts r = tabGet 0 s.clk.attempts r + 1 ∧ { u with clk := s.clk } = s) ∧
        (3 ≤ tabGet 0 s.clk.attempts r + 1 → ∃ u, exec (.rootLockTimeout r false) s = .next u ∧
          tabGet false u.clk.rootDown r = true ∧ flagOn u fRootFail = true ∧ ctr u (clkCtr 2) = ctr s (clkCtr 2) + 1))) ∧
    (s.clk.ready = true → s.lost.lost = false → ∃ u, exec .refclkLoss s = .next u ∧ u.clk.refValid = false ∧ u.lost.lost = true ∧
      u.lost.cls = 8) ∧
    (s.clk.ready = false → exec .refclkLoss s = .next { s with clk := { s.clk with refValid := false } } ∧
      ∃ u, exec .refclkValid s = .next u ∧ u.clk.refValid = true ∧
        ∀ r, r < 3 → rootLocked u r = !tabGet false s.clk.rootDown r)

/-- O52. Samples move the thermal states, and the voltage loops follow their monitors, answer and retry. A sample of T on a
die in NORMAL: below 100 °C no change, from 100 °C THROTTLE with one gear more, from 110 °C TRIP at gear 5; from 120 °C
CRITICAL in every state: the trip pin, every clock stopped, the keys gone, the device lost. THROTTLE_DWELL raises the
gear in heat, lowers it in the cool and ends in NORMAL, and takes a cool TRIP to THROTTLE. No sensor for 1 ms is
CRITICAL. With no failed AVSBus command, MARGIN_MONITOR_SAMPLE asks for the need within the bounds of CAL_AVS_BND, for
the floor below them, pinned, and for the need up to 850 mV above them, pinned and overriding. A response acknowledges
the target, a fault or a timeout marks the loop failed and counts, AVS_RETRY writes the target again. T is in eighths of
a degree. (R479, R480, R106, R107, R108, R473, R457) -/
def Obligations.ThermalAndVoltage : Prop :=
  ∀ (s : State) (d : Nat), d < 2 → alive s = true →
    let v := dieTherm s d
    let dead := fun (u : State) => u.thm.tripPin = true ∧ u.clk.stopped = true ∧ u.sec.keys = [] ∧ u.lost.lost = true ∧
      (dieTherm u d).st = .critical
    (∀ m t, sampleT m = some t → t < 960 →
      (v.st = .normal → t < 800 → ∃ u, exec (.sensorSample d m) s = .next u ∧ (dieTherm u d).st = .normal ∧ (dieTherm u d).temp = t) ∧
      (v.st = .normal → 800 ≤ t → t < 880 → ∃ u, exec (.sensorSample d m) s = .next u ∧ (dieTherm u d).st = .throttle ∧
        (dieTherm u d).gt = Nat.min 5 (gearInForce s d + 1) ∧ ctr u (thmCtr 0) = ctr s (thmCtr 0) + 1) ∧
      (v.st = .normal ∨ v.st = .throttle → 880 ≤ t → ∃ u, exec (.sensorSample d m) s = .next u ∧ (dieTherm u d).st = .trip ∧
        (dieTherm u d).gt = 5 ∧ ctr u (thmCtr 1) = ctr s (thmCtr 1) + 1)) ∧
    (∀ m t, sampleT m = some t → 960 ≤ t → ∃ u, exec (.sensorSample d m) s = .next u ∧ dead u) ∧
    (∃ u, exec (.sensorTimeout d false) s = .next u ∧ dead u) ∧
    (∃ u, exec (.sensorTimeout d true) s = .next u ∧ countsOne s u (obsCtr 9) ∧ { u with ctrs := s.ctrs } = s) ∧
    (v.st = .throttle → 800 ≤ v.temp → v.gt < 5 → ∃ u, exec (.throttleDwell d true) s = .next u ∧
      dieTherm u d = { v with gt := v.gt + 1 }) ∧
    (v.st = .throttle → v.temp < 776 → ∃ u, exec (.throttleDwell d false) s = .next u ∧
      dieTherm u d = { v with gt := v.gt - 1, st := if v.gt ≤ 1 then .normal else .throttle }) ∧
    (v.st = .trip → v.temp < 800 → ∃ u, exec (.throttleDwell d false) s = .next u ∧ dieTherm u d = { v with st := .throttle }) ∧
    (s.clk.ready = true →
      (∀ need, avsFails s d = false →
        let asks := fun (mv : Nat) (pin : Bool) => ∃ u, exec (.marginMonitorSample d need) s = .next u ∧ avsWanted u d = mv ∧
          tabGet false u.thm.pinned d = pin ∧ avsAcked u d = avsAcked s d ∧
          u.emitted = (if avsWanted s d = mv then s.emitted else .avs d mv :: s.emitted)
        (avsMin s ≤ need → need ≤ avsMax s → asks need false) ∧ (need < avsMin s → need ≤ avsMax s → asks (avsMin s) true) ∧
        (avsMax s < need → asks (Nat.min need 850) true ∧
          ∃ u, exec (.marginMonitorSample d need) s = .next u ∧ tabGet false u.thm.overriding d = true)) ∧
      (∃ u, exec (.avsbusResponse d false) s = .next u ∧ avsAcked u d = avsWanted s d ∧ avsFails u d = false ∧
        (avsAcked s d ≠ avsWanted s d → countsOne s u (thmCtr 3))) ∧
      (∀ i ∈ [Instr.avsbusResponse d true, .avsResponseTimeout d false], ∃ u, exec i s = .next u ∧ avsFails u d = true ∧
        tabGet false u.thm.pinned d = true ∧ ctr u (thmCtr 4) = ctr s (thmCtr 4) + 1 ∧ avsAcked u d = avsAcked s d) ∧
      (∃ u, exec (.avsResponseTimeout d true) s = .next u ∧ countsOne s u (obsCtr 9) ∧ { u with ctrs := s.ctrs } = s) ∧
      exec (.avsRetry d) s = .next (if avsFails s d then emit s (.avs d (avsWanted s d)) else s))

/-- O53. Register writes, the guard, the parity check, snapshots and the reads with an effect. GLB_UNLOCK opens the guard
with its key and closes it with any other value; GUARD_EXPIRY closes it, or counts a near miss. BACKUP_WRITE and an
aligned 4-byte REGISTER_WRITE of GLB_SCRATCH set that word and no other; a narrow or unaligned write sets narrow_wr, one
where no register lies unmap_wr; in RUN a write without the T bit only counts. PARITY_CHECK records a mismatch, and a
second within 1 s loses the device. SNAP copies every counter with its tick. A read of TEL_CDATA_HI advances cidx in
auto mode. BERTH_CAPTURE captures the entry of its berth. RET_ADDR_WRITE fetches the word of the retained SRAM. (R445,
R446, R395, R450, R451, R457, R460, R463, R465, R494, R498, R432) -/
def Obligations.WindowZero : Prop :=
  ∀ (s : State), alive s = true →
    (∀ w : BitVec 32, exec (.glbUnlock w) s = .next { s with guardOpen := decide (w.toNat % 65536 = 0x6A3D) }) ∧
    (s.guardOpen = true → exec (.guardExpiry false) s = .next { s with guardOpen := false } ∧
      ∃ u, exec (.guardExpiry true) s = .next u ∧ countsOne s u (obsCtr 1) ∧ { u with ctrs := s.ctrs } = s) ∧
    (s.guardOpen = false → ∀ met, exec (.guardExpiry met) s = .next s) ∧
    (∀ (k : Nat) (w : BitVec 32), k < 16 → ∃ u, exec (.backupWrite k w) s = .next u ∧ regWord u (glbOff + 0x40 + 4 * k) = w ∧
      (∀ o, o ≠ glbOff + 0x40 + 4 * k → regWord u o = regWord s o) ∧ { u with regs := s.regs } = s) ∧
    (∀ (w : BitVec 64) (t : Bool), (s.sec.tdi = .run ∧ t = false → False) →
      (∃ u, exec (.registerWrite (glbOff + 0x30) w 4 t) s = .next u ∧ regWord u (glbOff + 0x30) = w.setWidth 32 ∧
        (∀ o, o ≠ glbOff + 0x30 → regWord u o = regWord s o) ∧ { u with regs := s.regs } = s) ∧
      (∃ u, exec (.registerWrite (glbOff + 0x40) w 8 t) s = .next u ∧ regWord u (glbOff + 0x40) = w.setWidth 32 ∧
        regWord u (glbOff + 0x44) = (w >>> 32).setWidth 32 ∧ { u with regs := s.regs } = s) ∧
      (∃ u, exec (.registerWrite (glbOff + 0x30) w 2 t) s = .next u ∧ flagOn u fNarrowWr = true ∧
        regWord u (glbOff + 0x30) = regWord s (glbOff + 0x30) ∧ countsOne s u (flagCtr 3)) ∧
      (∃ u, exec (.registerWrite (glbOff + 0x100) w 4 t) s = .next u ∧ flagOn u fUnmapWr = true ∧ countsOne s u (flagCtr 4))) ∧
    (s.sec.tdi = .run → ∀ off w n, ∃ u, exec (.registerWrite off w n false) s = .next u ∧ countsOne s u (secCtr 10) ∧
      { u with ctrs := s.ctrs } = s) ∧
    exec (.parityCheck none) s = .next s ∧
    (∀ off, off < 2 ^ 26 →
      (s.dbg.parTick = none → ∃ u, exec (.parityCheck (some off)) s = .next u ∧ flagOn u fCfgPar = true ∧ u.lost = s.lost ∧
        regWord u (glbOff + 0xC) = BitVec.ofNat 32 (off + 2 ^ 31) ∧ u.dbg.parTick = some s.tick.toNat) ∧
      (∀ t, s.dbg.parTick = some t → s.tick.toNat < t + 100000000 → s.lost.lost = false →
        ∃ u, exec (.parityCheck (some off)) s = .next u ∧ u.lost.lost = true ∧ u.lost.cls = 7 ∧ u.lost.detail = off)) ∧
    (s.clk.ready = true →
      exec .snap s = .next { s with dbg := { s.dbg with bank := s.ctrs, snapTick := s.tick, snapSeq := s.dbg.snapSeq + 1 } } ∧
      (∃ u, exec .cdataHiAutoRead s = .next u ∧ u.emitted = .readData (telOff + 0x28) (readWord s (telOff + 0x28)) :: s.emitted ∧
        regField u (telOff + 0x20) 15 0 =
          (if regField s (telOff + 0x20) 17 17 = 1 then (regField s (telOff + 0x20) 15 0 + 1) % 65536 else regField s (telOff + 0x20) 15 0)) ∧
      (∀ w : BitVec 32, ∃ u, exec (.berthCapture w) s = .next u ∧ u.sched.capBerth = w.setWidth 12 ∧
        u.sched.capSeq = s.sched.capSeq + 1 ∧ u.sched.capData = berthBytes (berth s (w.setWidth 12)) ∧
        { u with sched := s.sched, regs := s.regs } = s) ∧
      (∀ w : BitVec 32, w.toNat % 2 ^ 14 < 0x400 → ∃ u, exec (.retAddrWrite w) s = .next u ∧
        regWord u (dbgOff + 8) = BitVec.ofNat 32 (w.toNat % 2 ^ 14) ∧
        regWord u (dbgOff + 0xC) = BitVec.ofNat 32 (memLe s.ret (4 * (w.toNat % 2 ^ 14)) 4) ∧ sameMemories s u))

/-- O54. JTAG answers its instructions, unlocks and locks debug levels, and the trace port sends its records in order.
IDCODE shifts out the code; BYPASS and SAMPLE/PRELOAD change nothing; EXTEST with the JTAG level open stops the I/O, and
does nothing without it. CHALLENGE with a generator that answers shifts out its nonce and the serial. A good RESPONSE
with no window of the warden opens its levels at once, unless a bound tenant asks for a teardown; a bad one counts a
refusal, sets unlock_fail and changes no level; each uses the nonce up. Over a window of the warden RESPONSE is held.
LOCK closes the levels opened through JTAG. DBG_ACCESS with the JTAG and memory-read levels open reads its target (zeros for
the store of an OUT_OF_SERVICE cluster, the model's choice of log entry 177), and does nothing without. TRACE_RECORD_SEND sends the oldest record, after a drop an OVERFLOW record first, and from an
empty FIFO a record of type 0. (R499, R500, R501, R502, R503, R505, R386) -/
def Obligations.JtagAndTrace : Prop :=
  ∀ (s : State),
    exec .idcode s = .next (emit s (.jtag (natLe 0xB960854F 4))) ∧ exec .bypass s = .next s ∧ exec .samplePreload s = .next s ∧
    (jtagOpen s = false → exec .extest s = .next s) ∧
    (jtagOpen s = true → s.dbg.ioStopped = false → ∃ u, exec .extest s = .next u ∧ u.dbg.ioStopped = true ∧
      (s.clk.ready = true → u.host.linkUp = false)) ∧
    (∀ u k, alive s = true → genRequest s hubGen = (u, .key k) → ∃ t, exec .challenge s = .next t ∧ t.dbg.nonce = some k ∧
      t.emitted = .jtag (natLe k.toNat 32 ++ natLe Config.serial.toNat 16) :: s.emitted ∧ sameMemories s t) ∧
    (∀ (mask : BitVec 8) (ok : Bool), alive s = true → s.clk.ready = true →
      (s.fw.wd.phase = .window → exec (.response mask ok) s =
        .next { s with sec := { s.sec with cwHeld := s.sec.cwHeld ++ [.response mask ok] } }) ∧
      (s.fw.wd.phase ≠ .window →
        (responseGood s mask ok = true → (s.sec.tenancy = .bound ∧ s.sec.dbgTeardown = true → False) →
          ∃ u, exec (.response mask ok) s = .next u ∧ u.sec.levels = s.sec.levels ||| mask.setWidth 5 ∧
            u.dbg.byJtag = s.dbg.byJtag ||| mask.setWidth 5 ∧ u.dbg.nonce = none) ∧
        (responseGood s mask ok = false → ∃ u, exec (.response mask ok) s = .next u ∧ flagOn u fUnlockFail = true ∧
          u.dbg = { s.dbg with nonce := none, refusals := s.dbg.refusals + 1 } ∧ u.sec = s.sec))) ∧
    (∃ u, exec .jtagLock s = .next u ∧ u.sec.levels = s.sec.levels &&& ~~~ s.dbg.byJtag ∧ u.dbg.byJtag = 0) ∧
    (∀ o, dbgExists o = true →
      (testBypass s = false → s.sec.levels.getLsbD 0 = false ∨ s.sec.levels.getLsbD 2 = false → exec (.dbgAccess o) s = .next s) ∧
      (s.sec.levels.getLsbD 0 = true → s.sec.levels.getLsbD 2 = true → exec (.dbgAccess o) s = .next (emit s (.jtag (match o with
        | .reg off => natLe (readWord s off).toNat 4
        | .store n a => if cluState s n = .outOfService then [0, 0, 0, 0] else memBytes s.store (storeBase n + a) 4
        | .package a => pmBytes s a 4))))) ∧
    (alive s = true → trcOn s = true →
      (∀ r rest, s.dbg.trcLost = 0 → s.dbg.trc = r :: rest → ∃ u, exec .traceRecordSend s = .next u ∧ u.dbg = { s.dbg with trc := rest } ∧
        u.emitted = .trace r :: s.emitted ∧ countsOne s u (obsCtr 5)) ∧
      (0 < s.dbg.trcLost → s.dbg.trc.length < 4096 → ∃ u, exec .traceRecordSend s = .next u ∧ u.dbg = { s.dbg with trcLost := 0 } ∧
        countsOne s u (obsCtr 5) ∧ u.emitted = .trace (natLe 0xF 1 ++ natLe trcHub 1 ++ [0, 0] ++ natLe s.tick.toNat 6 ++
          natLe s.dbg.trcLost 6) :: s.emitted) ∧
      (s.dbg.trcLost = 0 → s.dbg.trc = [] → ∃ u r, exec .traceRecordSend s = .next u ∧ u.emitted = .trace (0 :: r) :: s.emitted ∧
        r.length = 15 ∧ u.dbg = s.dbg))

/-- O55. The default map serves logical column j by physical column j plus the floor of j over 32. For a tile no spare spoke
of which serves a column: logical column j is served by physical column j plus the floor of j / 32. In block k of 33
physical columns, columns 33k to 33k + 31 each serve one logical column below 1,024, and column 33k + 32 serves none: it
is a spare spoke. (R37) -/
def Obligations.ColumnMap : Prop :=
  ∀ t : Tile, t.spokes = [] →
    (∀ j, physCol t j = j + j / 32) ∧
    (∀ k i, k < 32 → i < 32 → ∃ j, j < 1024 ∧ physCol t j = 33 * k + i ∧ ∀ m, physCol t m = 33 * k + i → m = j) ∧
    (∀ k j, k < 32 → physCol t j ≠ 33 * k + 32)

/-- O56. The state after reset holds the values that the register tables give, and its memories are in their one form. At
reset the tick is 0, the guard closed, no command waits, the device is not lost and not ready, and the flags and words
of the register tables read their reset values; the three memories are in canonical form. The tables give these values;
everything else of State.reset is named in the assumption log, and this statement says nothing of it. (R415, R427, R460,
R461, R221, R376, R465, R449) -/
def Obligations.ResetValues : Prop :=
  State.reset.memoriesWf = true ∧ State.reset.queueOk = true ∧ State.reset.pending = [] ∧ State.reset.tick = 0 ∧
    State.reset.guardOpen = false ∧ State.reset.lost.lost = false ∧ State.reset.clk.ready = false ∧
    regWord State.reset (glbOff + 0x30) = 0 ∧ regWord State.reset (glbOff + 4) = 0 ∧ regWord State.reset clkOff = 0x100 ∧
    regWord State.reset rngOff = 0x51 ∧ regWord State.reset (telOff + 0x50) = 95 ∧ State.reset.sec.tenancy = .vacant

/-- O57. Every command that names existing units completes, and every other one is refused by name. For every command and
every state: a command whose units exist answers a next state; one that names a unit the device does not have is refused
as noSuchUnit and changes nothing. No command faults. The refusal is the model's (log 10): no such command can reach the
hardware. (R19, R126) -/
def Obligations.EveryCommandCompletes : Prop :=
  ∀ (i : Instr) (s : State), (unitsOk i = true → ∃ u, exec i s = .next u) ∧ (unitsOk i = false → exec i s = .refused .noSuchUnit)

/-- O58. A step that runs a cluster instruction keeps every memory in its one form. For every state, reachable or not, whose
three memories (cluster stores, package memory, retained SRAM) are in canonical form: a step that takes a cluster
instruction of any opcode from the front of the queue leaves them so, whether it completes, waits or takes an exception,
and the rest of the queue waits. (R120, R276, R432) -/
def Obligations.InstructionStepsKeepMemories : Prop :=
  ∀ (s u : State) (i : Instr) (rest : List Instr), s.pending = i :: rest → (spelling i).isSome = true → s.memoriesWf = true →
    step s = .next u → u.memoriesWf = true ∧ u.pending = rest

/-- O59. Decoding the word of a cluster instruction gives the instruction back. For every cluster instruction, with every
operand at every value: the word of its opcode and fields decodes, for its logical thread, to that instruction (without
the memory error that may come with LD and MLD, which no word holds). So no bit of an encoding is dropped, and no two
opcodes share a word. (R145, R146) -/
def Obligations.DecodeEncode : Prop :=
  ∀ (i : Instr) (lt : BitVec 12) (op : Nat) (f : Fields), spelling i = some (lt, op, f) →
    decodeWord lt (encodeWord op f) = some (withoutError i)

/-- O60. A masked write changes just the bits that its upper half selects. CLU_nn_CTL is the register with masked fields, in
bits 2 to 0. A host write of a word w to it, of a cluster in use: bit i reads w's bit i where bit 16 + i of w is 1, else
what it read before; bits 31 to 16 read 0; no other register word changes, and no cluster store and no package memory.
So two writes that select different bits can be made in either order. (R452) -/
def Obligations.MaskedWrites : Prop :=
  ∀ (s : State) (n : Nat) (w : BitVec 32), n < 18 → alive s = true → s.clk.ready = true → cluState s n ≠ .outOfService →
    (regWord s (cluOff n + 4)).toNat < 8 →
    ∃ u, exec (.registerWrite (cluOff n + 4) (w.setWidth 64) 4 true) s = .next u ∧
      (∀ i, i < 3 → (readWord u (cluOff n + 4)).getLsbD i =
        if w.getLsbD (16 + i) then w.getLsbD i else (readWord s (cluOff n + 4)).getLsbD i) ∧
      (∀ i, 16 ≤ i → (readWord u (cluOff n + 4)).getLsbD i = false) ∧
      (∀ o, o ≠ cluOff n + 4 → regWord u o = regWord s o) ∧ u.store = s.store ∧ u.pm = s.pm
end

