-- ==== Sys2Proof/Laws/State.lean ====
section
/-! SUPPORT. What each named update of State makes of every field: one lemma for each field and update, all by `rfl`. -/

namespace Sys2Proof.Machine
open Sys2Proof

variable (s : State)

@[simp] theorem addCtr_pending (i n : Nat) : (addCtr s i n).pending = s.pending := rfl
@[simp] theorem addCtr_emitted (i n : Nat) : (addCtr s i n).emitted = s.emitted := rfl
@[simp] theorem addCtr_free (i n : Nat) : (addCtr s i n).free = s.free := rfl
@[simp] theorem addCtr_tick (i n : Nat) : (addCtr s i n).tick = s.tick := rfl
@[simp] theorem addCtr_ctrs (i n : Nat) : (addCtr s i n).ctrs = tabMod 0 s.ctrs i (fun v => v + BitVec.ofNat 48 n) := rfl
@[simp] theorem addCtr_regs (i n : Nat) : (addCtr s i n).regs = s.regs := rfl
@[simp] theorem addCtr_guardOpen (i n : Nat) : (addCtr s i n).guardOpen = s.guardOpen := rfl
@[simp] theorem addCtr_store (i n : Nat) : (addCtr s i n).store = s.store := rfl
@[simp] theorem addCtr_pm (i n : Nat) : (addCtr s i n).pm = s.pm := rfl
@[simp] theorem addCtr_ret (i n : Nat) : (addCtr s i n).ret = s.ret := rfl
@[simp] theorem addCtr_threads (i n : Nat) : (addCtr s i n).threads = s.threads := rfl
@[simp] theorem addCtr_tiles (i n : Nat) : (addCtr s i n).tiles = s.tiles := rfl
@[simp] theorem addCtr_queues (i n : Nat) : (addCtr s i n).queues = s.queues := rfl
@[simp] theorem addCtr_streams (i n : Nat) : (addCtr s i n).streams = s.streams := rfl
@[simp] theorem addCtr_berths (i n : Nat) : (addCtr s i n).berths = s.berths := rfl
@[simp] theorem addCtr_mods (i n : Nat) : (addCtr s i n).mods = s.mods := rfl
@[simp] theorem addCtr_clients (i n : Nat) : (addCtr s i n).clients = s.clients := rfl
@[simp] theorem addCtr_acct (i n : Nat) : (addCtr s i n).acct = s.acct := rfl
@[simp] theorem addCtr_act (i n : Nat) : (addCtr s i n).act = s.act := rfl
@[simp] theorem addCtr_map (i n : Nat) : (addCtr s i n).map = s.map := rfl
@[simp] theorem addCtr_cal (i n : Nat) : (addCtr s i n).cal = s.cal := rfl
@[simp] theorem addCtr_sched (i n : Nat) : (addCtr s i n).sched = s.sched := rfl
@[simp] theorem addCtr_pre (i n : Nat) : (addCtr s i n).pre = s.pre := rfl
@[simp] theorem addCtr_rng (i n : Nat) : (addCtr s i n).rng = s.rng := rfl
@[simp] theorem addCtr_host (i n : Nat) : (addCtr s i n).host = s.host := rfl
@[simp] theorem addCtr_mem (i n : Nat) : (addCtr s i n).mem = s.mem := rfl
@[simp] theorem addCtr_aud (i n : Nat) : (addCtr s i n).aud = s.aud := rfl
@[simp] theorem addCtr_chn (i n : Nat) : (addCtr s i n).chn = s.chn := rfl
@[simp] theorem addCtr_sec (i n : Nat) : (addCtr s i n).sec = s.sec := rfl
@[simp] theorem addCtr_clk (i n : Nat) : (addCtr s i n).clk = s.clk := rfl
@[simp] theorem addCtr_fw (i n : Nat) : (addCtr s i n).fw = s.fw := rfl
@[simp] theorem addCtr_thm (i n : Nat) : (addCtr s i n).thm = s.thm := rfl
@[simp] theorem addCtr_dbg (i n : Nat) : (addCtr s i n).dbg = s.dbg := rfl
@[simp] theorem addCtr_lost (i n : Nat) : (addCtr s i n).lost = s.lost := rfl

@[simp] theorem bump_pending (i : Nat) : (bump s i).pending = s.pending := rfl
@[simp] theorem bump_emitted (i : Nat) : (bump s i).emitted = s.emitted := rfl
@[simp] theorem bump_free (i : Nat) : (bump s i).free = s.free := rfl
@[simp] theorem bump_tick (i : Nat) : (bump s i).tick = s.tick := rfl
@[simp] theorem bump_ctrs (i : Nat) : (bump s i).ctrs = tabMod 0 s.ctrs i (fun v => v + BitVec.ofNat 48 1) := rfl
@[simp] theorem bump_regs (i : Nat) : (bump s i).regs = s.regs := rfl
@[simp] theorem bump_guardOpen (i : Nat) : (bump s i).guardOpen = s.guardOpen := rfl
@[simp] theorem bump_store (i : Nat) : (bump s i).store = s.store := rfl
@[simp] theorem bump_pm (i : Nat) : (bump s i).pm = s.pm := rfl
@[simp] theorem bump_ret (i : Nat) : (bump s i).ret = s.ret := rfl
@[simp] theorem bump_threads (i : Nat) : (bump s i).threads = s.threads := rfl
@[simp] theorem bump_tiles (i : Nat) : (bump s i).tiles = s.tiles := rfl
@[simp] theorem bump_queues (i : Nat) : (bump s i).queues = s.queues := rfl
@[simp] theorem bump_streams (i : Nat) : (bump s i).streams = s.streams := rfl
@[simp] theorem bump_berths (i : Nat) : (bump s i).berths = s.berths := rfl
@[simp] theorem bump_mods (i : Nat) : (bump s i).mods = s.mods := rfl
@[simp] theorem bump_clients (i : Nat) : (bump s i).clients = s.clients := rfl
@[simp] theorem bump_acct (i : Nat) : (bump s i).acct = s.acct := rfl
@[simp] theorem bump_act (i : Nat) : (bump s i).act = s.act := rfl
@[simp] theorem bump_map (i : Nat) : (bump s i).map = s.map := rfl
@[simp] theorem bump_cal (i : Nat) : (bump s i).cal = s.cal := rfl
@[simp] theorem bump_sched (i : Nat) : (bump s i).sched = s.sched := rfl
@[simp] theorem bump_pre (i : Nat) : (bump s i).pre = s.pre := rfl
@[simp] theorem bump_rng (i : Nat) : (bump s i).rng = s.rng := rfl
@[simp] theorem bump_host (i : Nat) : (bump s i).host = s.host := rfl
@[simp] theorem bump_mem (i : Nat) : (bump s i).mem = s.mem := rfl
@[simp] theorem bump_aud (i : Nat) : (bump s i).aud = s.aud := rfl
@[simp] theorem bump_chn (i : Nat) : (bump s i).chn = s.chn := rfl
@[simp] theorem bump_sec (i : Nat) : (bump s i).sec = s.sec := rfl
@[simp] theorem bump_clk (i : Nat) : (bump s i).clk = s.clk := rfl
@[simp] theorem bump_fw (i : Nat) : (bump s i).fw = s.fw := rfl
@[simp] theorem bump_thm (i : Nat) : (bump s i).thm = s.thm := rfl
@[simp] theorem bump_dbg (i : Nat) : (bump s i).dbg = s.dbg := rfl
@[simp] theorem bump_lost (i : Nat) : (bump s i).lost = s.lost := rfl

@[simp] theorem emit_pending (e : Emit) : (emit s e).pending = s.pending := rfl
@[simp] theorem emit_emitted (e : Emit) : (emit s e).emitted = e :: s.emitted := rfl
@[simp] theorem emit_free (e : Emit) : (emit s e).free = s.free := rfl
@[simp] theorem emit_tick (e : Emit) : (emit s e).tick = s.tick := rfl
@[simp] theorem emit_ctrs (e : Emit) : (emit s e).ctrs = s.ctrs := rfl
@[simp] theorem emit_regs (e : Emit) : (emit s e).regs = s.regs := rfl
@[simp] theorem emit_guardOpen (e : Emit) : (emit s e).guardOpen = s.guardOpen := rfl
@[simp] theorem emit_store (e : Emit) : (emit s e).store = s.store := rfl
@[simp] theorem emit_pm (e : Emit) : (emit s e).pm = s.pm := rfl
@[simp] theorem emit_ret (e : Emit) : (emit s e).ret = s.ret := rfl
@[simp] theorem emit_threads (e : Emit) : (emit s e).threads = s.threads := rfl
@[simp] theorem emit_tiles (e : Emit) : (emit s e).tiles = s.tiles := rfl
@[simp] theorem emit_queues (e : Emit) : (emit s e).queues = s.queues := rfl
@[simp] theorem emit_streams (e : Emit) : (emit s e).streams = s.streams := rfl
@[simp] theorem emit_berths (e : Emit) : (emit s e).berths = s.berths := rfl
@[simp] theorem emit_mods (e : Emit) : (emit s e).mods = s.mods := rfl
@[simp] theorem emit_clients (e : Emit) : (emit s e).clients = s.clients := rfl
@[simp] theorem emit_acct (e : Emit) : (emit s e).acct = s.acct := rfl
@[simp] theorem emit_act (e : Emit) : (emit s e).act = s.act := rfl
@[simp] theorem emit_map (e : Emit) : (emit s e).map = s.map := rfl
@[simp] theorem emit_cal (e : Emit) : (emit s e).cal = s.cal := rfl
@[simp] theorem emit_sched (e : Emit) : (emit s e).sched = s.sched := rfl
@[simp] theorem emit_pre (e : Emit) : (emit s e).pre = s.pre := rfl
@[simp] theorem emit_rng (e : Emit) : (emit s e).rng = s.rng := rfl
@[simp] theorem emit_host (e : Emit) : (emit s e).host = s.host := rfl
@[simp] theorem emit_mem (e : Emit) : (emit s e).mem = s.mem := rfl
@[simp] theorem emit_aud (e : Emit) : (emit s e).aud = s.aud := rfl
@[simp] theorem emit_chn (e : Emit) : (emit s e).chn = s.chn := rfl
@[simp] theorem emit_sec (e : Emit) : (emit s e).sec = s.sec := rfl
@[simp] theorem emit_clk (e : Emit) : (emit s e).clk = s.clk := rfl
@[simp] theorem emit_fw (e : Emit) : (emit s e).fw = s.fw := rfl
@[simp] theorem emit_thm (e : Emit) : (emit s e).thm = s.thm := rfl
@[simp] theorem emit_dbg (e : Emit) : (emit s e).dbg = s.dbg := rfl
@[simp] theorem emit_lost (e : Emit) : (emit s e).lost = s.lost := rfl

@[simp] theorem useFree_pending : (useFree s).pending = s.pending := rfl
@[simp] theorem useFree_emitted : (useFree s).emitted = s.emitted := rfl
@[simp] theorem useFree_free : (useFree s).free = s.free + 1 := rfl
@[simp] theorem useFree_tick : (useFree s).tick = s.tick := rfl
@[simp] theorem useFree_ctrs : (useFree s).ctrs = s.ctrs := rfl
@[simp] theorem useFree_regs : (useFree s).regs = s.regs := rfl
@[simp] theorem useFree_guardOpen : (useFree s).guardOpen = s.guardOpen := rfl
@[simp] theorem useFree_store : (useFree s).store = s.store := rfl
@[simp] theorem useFree_pm : (useFree s).pm = s.pm := rfl
@[simp] theorem useFree_ret : (useFree s).ret = s.ret := rfl
@[simp] theorem useFree_threads : (useFree s).threads = s.threads := rfl
@[simp] theorem useFree_tiles : (useFree s).tiles = s.tiles := rfl
@[simp] theorem useFree_queues : (useFree s).queues = s.queues := rfl
@[simp] theorem useFree_streams : (useFree s).streams = s.streams := rfl
@[simp] theorem useFree_berths : (useFree s).berths = s.berths := rfl
@[simp] theorem useFree_mods : (useFree s).mods = s.mods := rfl
@[simp] theorem useFree_clients : (useFree s).clients = s.clients := rfl
@[simp] theorem useFree_acct : (useFree s).acct = s.acct := rfl
@[simp] theorem useFree_act : (useFree s).act = s.act := rfl
@[simp] theorem useFree_map : (useFree s).map = s.map := rfl
@[simp] theorem useFree_cal : (useFree s).cal = s.cal := rfl
@[simp] theorem useFree_sched : (useFree s).sched = s.sched := rfl
@[simp] theorem useFree_pre : (useFree s).pre = s.pre := rfl
@[simp] theorem useFree_rng : (useFree s).rng = s.rng := rfl
@[simp] theorem useFree_host : (useFree s).host = s.host := rfl
@[simp] theorem useFree_mem : (useFree s).mem = s.mem := rfl
@[simp] theorem useFree_aud : (useFree s).aud = s.aud := rfl
@[simp] theorem useFree_chn : (useFree s).chn = s.chn := rfl
@[simp] theorem useFree_sec : (useFree s).sec = s.sec := rfl
@[simp] theorem useFree_clk : (useFree s).clk = s.clk := rfl
@[simp] theorem useFree_fw : (useFree s).fw = s.fw := rfl
@[simp] theorem useFree_thm : (useFree s).thm = s.thm := rfl
@[simp] theorem useFree_dbg : (useFree s).dbg = s.dbg := rfl
@[simp] theorem useFree_lost : (useFree s).lost = s.lost := rfl

@[simp] theorem setThread_pending (k : BitVec 12) (v : Thread) : (setThread s k v).pending = s.pending := rfl
@[simp] theorem setThread_emitted (k : BitVec 12) (v : Thread) : (setThread s k v).emitted = s.emitted := rfl
@[simp] theorem setThread_free (k : BitVec 12) (v : Thread) : (setThread s k v).free = s.free := rfl
@[simp] theorem setThread_tick (k : BitVec 12) (v : Thread) : (setThread s k v).tick = s.tick := rfl
@[simp] theorem setThread_ctrs (k : BitVec 12) (v : Thread) : (setThread s k v).ctrs = s.ctrs := rfl
@[simp] theorem setThread_regs (k : BitVec 12) (v : Thread) : (setThread s k v).regs = s.regs := rfl
@[simp] theorem setThread_guardOpen (k : BitVec 12) (v : Thread) : (setThread s k v).guardOpen = s.guardOpen := rfl
@[simp] theorem setThread_store (k : BitVec 12) (v : Thread) : (setThread s k v).store = s.store := rfl
@[simp] theorem setThread_pm (k : BitVec 12) (v : Thread) : (setThread s k v).pm = s.pm := rfl
@[simp] theorem setThread_ret (k : BitVec 12) (v : Thread) : (setThread s k v).ret = s.ret := rfl
@[simp] theorem setThread_threads (k : BitVec 12) (v : Thread) : (setThread s k v).threads = tabSet {} s.threads k.toNat v := rfl
@[simp] theorem setThread_tiles (k : BitVec 12) (v : Thread) : (setThread s k v).tiles = s.tiles := rfl
@[simp] theorem setThread_queues (k : BitVec 12) (v : Thread) : (setThread s k v).queues = s.queues := rfl
@[simp] theorem setThread_streams (k : BitVec 12) (v : Thread) : (setThread s k v).streams = s.streams := rfl
@[simp] theorem setThread_berths (k : BitVec 12) (v : Thread) : (setThread s k v).berths = s.berths := rfl
@[simp] theorem setThread_mods (k : BitVec 12) (v : Thread) : (setThread s k v).mods = s.mods := rfl
@[simp] theorem setThread_clients (k : BitVec 12) (v : Thread) : (setThread s k v).clients = s.clients := rfl
@[simp] theorem setThread_acct (k : BitVec 12) (v : Thread) : (setThread s k v).acct = s.acct := rfl
@[simp] theorem setThread_act (k : BitVec 12) (v : Thread) : (setThread s k v).act = s.act := rfl
@[simp] theorem setThread_map (k : BitVec 12) (v : Thread) : (setThread s k v).map = s.map := rfl
@[simp] theorem setThread_cal (k : BitVec 12) (v : Thread) : (setThread s k v).cal = s.cal := rfl
@[simp] theorem setThread_sched (k : BitVec 12) (v : Thread) : (setThread s k v).sched = s.sched := rfl
@[simp] theorem setThread_pre (k : BitVec 12) (v : Thread) : (setThread s k v).pre = s.pre := rfl
@[simp] theorem setThread_rng (k : BitVec 12) (v : Thread) : (setThread s k v).rng = s.rng := rfl
@[simp] theorem setThread_host (k : BitVec 12) (v : Thread) : (setThread s k v).host = s.host := rfl
@[simp] theorem setThread_mem (k : BitVec 12) (v : Thread) : (setThread s k v).mem = s.mem := rfl
@[simp] theorem setThread_aud (k : BitVec 12) (v : Thread) : (setThread s k v).aud = s.aud := rfl
@[simp] theorem setThread_chn (k : BitVec 12) (v : Thread) : (setThread s k v).chn = s.chn := rfl
@[simp] theorem setThread_sec (k : BitVec 12) (v : Thread) : (setThread s k v).sec = s.sec := rfl
@[simp] theorem setThread_clk (k : BitVec 12) (v : Thread) : (setThread s k v).clk = s.clk := rfl
@[simp] theorem setThread_fw (k : BitVec 12) (v : Thread) : (setThread s k v).fw = s.fw := rfl
@[simp] theorem setThread_thm (k : BitVec 12) (v : Thread) : (setThread s k v).thm = s.thm := rfl
@[simp] theorem setThread_dbg (k : BitVec 12) (v : Thread) : (setThread s k v).dbg = s.dbg := rfl
@[simp] theorem setThread_lost (k : BitVec 12) (v : Thread) : (setThread s k v).lost = s.lost := rfl

@[simp] theorem setBerth_pending (k : BitVec 12) (v : Berth) : (setBerth s k v).pending = s.pending := rfl
@[simp] theorem setBerth_emitted (k : BitVec 12) (v : Berth) : (setBerth s k v).emitted = s.emitted := rfl
@[simp] theorem setBerth_free (k : BitVec 12) (v : Berth) : (setBerth s k v).free = s.free := rfl
@[simp] theorem setBerth_tick (k : BitVec 12) (v : Berth) : (setBerth s k v).tick = s.tick := rfl
@[simp] theorem setBerth_ctrs (k : BitVec 12) (v : Berth) : (setBerth s k v).ctrs = s.ctrs := rfl
@[simp] theorem setBerth_regs (k : BitVec 12) (v : Berth) : (setBerth s k v).regs = s.regs := rfl
@[simp] theorem setBerth_guardOpen (k : BitVec 12) (v : Berth) : (setBerth s k v).guardOpen = s.guardOpen := rfl
@[simp] theorem setBerth_store (k : BitVec 12) (v : Berth) : (setBerth s k v).store = s.store := rfl
@[simp] theorem setBerth_pm (k : BitVec 12) (v : Berth) : (setBerth s k v).pm = s.pm := rfl
@[simp] theorem setBerth_ret (k : BitVec 12) (v : Berth) : (setBerth s k v).ret = s.ret := rfl
@[simp] theorem setBerth_threads (k : BitVec 12) (v : Berth) : (setBerth s k v).threads = s.threads := rfl
@[simp] theorem setBerth_tiles (k : BitVec 12) (v : Berth) : (setBerth s k v).tiles = s.tiles := rfl
@[simp] theorem setBerth_queues (k : BitVec 12) (v : Berth) : (setBerth s k v).queues = s.queues := rfl
@[simp] theorem setBerth_streams (k : BitVec 12) (v : Berth) : (setBerth s k v).streams = s.streams := rfl
@[simp] theorem setBerth_berths (k : BitVec 12) (v : Berth) : (setBerth s k v).berths = tabSet {} s.berths k.toNat v := rfl
@[simp] theorem setBerth_mods (k : BitVec 12) (v : Berth) : (setBerth s k v).mods = s.mods := rfl
@[simp] theorem setBerth_clients (k : BitVec 12) (v : Berth) : (setBerth s k v).clients = s.clients := rfl
@[simp] theorem setBerth_acct (k : BitVec 12) (v : Berth) : (setBerth s k v).acct = s.acct := rfl
@[simp] theorem setBerth_act (k : BitVec 12) (v : Berth) : (setBerth s k v).act = s.act := rfl
@[simp] theorem setBerth_map (k : BitVec 12) (v : Berth) : (setBerth s k v).map = s.map := rfl
@[simp] theorem setBerth_cal (k : BitVec 12) (v : Berth) : (setBerth s k v).cal = s.cal := rfl
@[simp] theorem setBerth_sched (k : BitVec 12) (v : Berth) : (setBerth s k v).sched = s.sched := rfl
@[simp] theorem setBerth_pre (k : BitVec 12) (v : Berth) : (setBerth s k v).pre = s.pre := rfl
@[simp] theorem setBerth_rng (k : BitVec 12) (v : Berth) : (setBerth s k v).rng = s.rng := rfl
@[simp] theorem setBerth_host (k : BitVec 12) (v : Berth) : (setBerth s k v).host = s.host := rfl
@[simp] theorem setBerth_mem (k : BitVec 12) (v : Berth) : (setBerth s k v).mem = s.mem := rfl
@[simp] theorem setBerth_aud (k : BitVec 12) (v : Berth) : (setBerth s k v).aud = s.aud := rfl
@[simp] theorem setBerth_chn (k : BitVec 12) (v : Berth) : (setBerth s k v).chn = s.chn := rfl
@[simp] theorem setBerth_sec (k : BitVec 12) (v : Berth) : (setBerth s k v).sec = s.sec := rfl
@[simp] theorem setBerth_clk (k : BitVec 12) (v : Berth) : (setBerth s k v).clk = s.clk := rfl
@[simp] theorem setBerth_fw (k : BitVec 12) (v : Berth) : (setBerth s k v).fw = s.fw := rfl
@[simp] theorem setBerth_thm (k : BitVec 12) (v : Berth) : (setBerth s k v).thm = s.thm := rfl
@[simp] theorem setBerth_dbg (k : BitVec 12) (v : Berth) : (setBerth s k v).dbg = s.dbg := rfl
@[simp] theorem setBerth_lost (k : BitVec 12) (v : Berth) : (setBerth s k v).lost = s.lost := rfl

@[simp] theorem modBerth_pending (k : BitVec 12) (f : Berth → Berth) : (modBerth s k f).pending = s.pending := rfl
@[simp] theorem modBerth_emitted (k : BitVec 12) (f : Berth → Berth) : (modBerth s k f).emitted = s.emitted := rfl
@[simp] theorem modBerth_free (k : BitVec 12) (f : Berth → Berth) : (modBerth s k f).free = s.free := rfl
@[simp] theorem modBerth_tick (k : BitVec 12) (f : Berth → Berth) : (modBerth s k f).tick = s.tick := rfl
@[simp] theorem modBerth_ctrs (k : BitVec 12) (f : Berth → Berth) : (modBerth s k f).ctrs = s.ctrs := rfl
@[simp] theorem modBerth_regs (k : BitVec 12) (f : Berth → Berth) : (modBerth s k f).regs = s.regs := rfl
@[simp] theorem modBerth_guardOpen (k : BitVec 12) (f : Berth → Berth) : (modBerth s k f).guardOpen = s.guardOpen := rfl
@[simp] theorem modBerth_store (k : BitVec 12) (f : Berth → Berth) : (modBerth s k f).store = s.store := rfl
@[simp] theorem modBerth_pm (k : BitVec 12) (f : Berth → Berth) : (modBerth s k f).pm = s.pm := rfl
@[simp] theorem modBerth_ret (k : BitVec 12) (f : Berth → Berth) : (modBerth s k f).ret = s.ret := rfl
@[simp] theorem modBerth_threads (k : BitVec 12) (f : Berth → Berth) : (modBerth s k f).threads = s.threads := rfl
@[simp] theorem modBerth_tiles (k : BitVec 12) (f : Berth → Berth) : (modBerth s k f).tiles = s.tiles := rfl
@[simp] theorem modBerth_queues (k : BitVec 12) (f : Berth → Berth) : (modBerth s k f).queues = s.queues := rfl
@[simp] theorem modBerth_streams (k : BitVec 12) (f : Berth → Berth) : (modBerth s k f).streams = s.streams := rfl
@[simp] theorem modBerth_berths (k : BitVec 12) (f : Berth → Berth) : (modBerth s k f).berths = tabSet {} s.berths k.toNat (f (berth s k)) := rfl
@[simp] theorem modBerth_mods (k : BitVec 12) (f : Berth → Berth) : (modBerth s k f).mods = s.mods := rfl
@[simp] theorem modBerth_clients (k : BitVec 12) (f : Berth → Berth) : (modBerth s k f).clients = s.clients := rfl
@[simp] theorem modBerth_acct (k : BitVec 12) (f : Berth → Berth) : (modBerth s k f).acct = s.acct := rfl
@[simp] theorem modBerth_act (k : BitVec 12) (f : Berth → Berth) : (modBerth s k f).act = s.act := rfl
@[simp] theorem modBerth_map (k : BitVec 12) (f : Berth → Berth) : (modBerth s k f).map = s.map := rfl
@[simp] theorem modBerth_cal (k : BitVec 12) (f : Berth → Berth) : (modBerth s k f).cal = s.cal := rfl
@[simp] theorem modBerth_sched (k : BitVec 12) (f : Berth → Berth) : (modBerth s k f).sched = s.sched := rfl
@[simp] theorem modBerth_pre (k : BitVec 12) (f : Berth → Berth) : (modBerth s k f).pre = s.pre := rfl
@[simp] theorem modBerth_rng (k : BitVec 12) (f : Berth → Berth) : (modBerth s k f).rng = s.rng := rfl
@[simp] theorem modBerth_host (k : BitVec 12) (f : Berth → Berth) : (modBerth s k f).host = s.host := rfl
@[simp] theorem modBerth_mem (k : BitVec 12) (f : Berth → Berth) : (modBerth s k f).mem = s.mem := rfl
@[simp] theorem modBerth_aud (k : BitVec 12) (f : Berth → Berth) : (modBerth s k f).aud = s.aud := rfl
@[simp] theorem modBerth_chn (k : BitVec 12) (f : Berth → Berth) : (modBerth s k f).chn = s.chn := rfl
@[simp] theorem modBerth_sec (k : BitVec 12) (f : Berth → Berth) : (modBerth s k f).sec = s.sec := rfl
@[simp] theorem modBerth_clk (k : BitVec 12) (f : Berth → Berth) : (modBerth s k f).clk = s.clk := rfl
@[simp] theorem modBerth_fw (k : BitVec 12) (f : Berth → Berth) : (modBerth s k f).fw = s.fw := rfl
@[simp] theorem modBerth_thm (k : BitVec 12) (f : Berth → Berth) : (modBerth s k f).thm = s.thm := rfl
@[simp] theorem modBerth_dbg (k : BitVec 12) (f : Berth → Berth) : (modBerth s k f).dbg = s.dbg := rfl
@[simp] theorem modBerth_lost (k : BitVec 12) (f : Berth → Berth) : (modBerth s k f).lost = s.lost := rfl

@[simp] theorem setModule_pending (k : BitVec 8) (v : Module) : (setModule s k v).pending = s.pending := rfl
@[simp] theorem setModule_emitted (k : BitVec 8) (v : Module) : (setModule s k v).emitted = s.emitted := rfl
@[simp] theorem setModule_free (k : BitVec 8) (v : Module) : (setModule s k v).free = s.free := rfl
@[simp] theorem setModule_tick (k : BitVec 8) (v : Module) : (setModule s k v).tick = s.tick := rfl
@[simp] theorem setModule_ctrs (k : BitVec 8) (v : Module) : (setModule s k v).ctrs = s.ctrs := rfl
@[simp] theorem setModule_regs (k : BitVec 8) (v : Module) : (setModule s k v).regs = s.regs := rfl
@[simp] theorem setModule_guardOpen (k : BitVec 8) (v : Module) : (setModule s k v).guardOpen = s.guardOpen := rfl
@[simp] theorem setModule_store (k : BitVec 8) (v : Module) : (setModule s k v).store = s.store := rfl
@[simp] theorem setModule_pm (k : BitVec 8) (v : Module) : (setModule s k v).pm = s.pm := rfl
@[simp] theorem setModule_ret (k : BitVec 8) (v : Module) : (setModule s k v).ret = s.ret := rfl
@[simp] theorem setModule_threads (k : BitVec 8) (v : Module) : (setModule s k v).threads = s.threads := rfl
@[simp] theorem setModule_tiles (k : BitVec 8) (v : Module) : (setModule s k v).tiles = s.tiles := rfl
@[simp] theorem setModule_queues (k : BitVec 8) (v : Module) : (setModule s k v).queues = s.queues := rfl
@[simp] theorem setModule_streams (k : BitVec 8) (v : Module) : (setModule s k v).streams = s.streams := rfl
@[simp] theorem setModule_berths (k : BitVec 8) (v : Module) : (setModule s k v).berths = s.berths := rfl
@[simp] theorem setModule_mods (k : BitVec 8) (v : Module) : (setModule s k v).mods = tabSet {} s.mods k.toNat v := rfl
@[simp] theorem setModule_clients (k : BitVec 8) (v : Module) : (setModule s k v).clients = s.clients := rfl
@[simp] theorem setModule_acct (k : BitVec 8) (v : Module) : (setModule s k v).acct = s.acct := rfl
@[simp] theorem setModule_act (k : BitVec 8) (v : Module) : (setModule s k v).act = s.act := rfl
@[simp] theorem setModule_map (k : BitVec 8) (v : Module) : (setModule s k v).map = s.map := rfl
@[simp] theorem setModule_cal (k : BitVec 8) (v : Module) : (setModule s k v).cal = s.cal := rfl
@[simp] theorem setModule_sched (k : BitVec 8) (v : Module) : (setModule s k v).sched = s.sched := rfl
@[simp] theorem setModule_pre (k : BitVec 8) (v : Module) : (setModule s k v).pre = s.pre := rfl
@[simp] theorem setModule_rng (k : BitVec 8) (v : Module) : (setModule s k v).rng = s.rng := rfl
@[simp] theorem setModule_host (k : BitVec 8) (v : Module) : (setModule s k v).host = s.host := rfl
@[simp] theorem setModule_mem (k : BitVec 8) (v : Module) : (setModule s k v).mem = s.mem := rfl
@[simp] theorem setModule_aud (k : BitVec 8) (v : Module) : (setModule s k v).aud = s.aud := rfl
@[simp] theorem setModule_chn (k : BitVec 8) (v : Module) : (setModule s k v).chn = s.chn := rfl
@[simp] theorem setModule_sec (k : BitVec 8) (v : Module) : (setModule s k v).sec = s.sec := rfl
@[simp] theorem setModule_clk (k : BitVec 8) (v : Module) : (setModule s k v).clk = s.clk := rfl
@[simp] theorem setModule_fw (k : BitVec 8) (v : Module) : (setModule s k v).fw = s.fw := rfl
@[simp] theorem setModule_thm (k : BitVec 8) (v : Module) : (setModule s k v).thm = s.thm := rfl
@[simp] theorem setModule_dbg (k : BitVec 8) (v : Module) : (setModule s k v).dbg = s.dbg := rfl
@[simp] theorem setModule_lost (k : BitVec 8) (v : Module) : (setModule s k v).lost = s.lost := rfl

@[simp] theorem setClient_pending (k : BitVec 10) (v : Client) : (setClient s k v).pending = s.pending := rfl
@[simp] theorem setClient_emitted (k : BitVec 10) (v : Client) : (setClient s k v).emitted = s.emitted := rfl
@[simp] theorem setClient_free (k : BitVec 10) (v : Client) : (setClient s k v).free = s.free := rfl
@[simp] theorem setClient_tick (k : BitVec 10) (v : Client) : (setClient s k v).tick = s.tick := rfl
@[simp] theorem setClient_ctrs (k : BitVec 10) (v : Client) : (setClient s k v).ctrs = s.ctrs := rfl
@[simp] theorem setClient_regs (k : BitVec 10) (v : Client) : (setClient s k v).regs = s.regs := rfl
@[simp] theorem setClient_guardOpen (k : BitVec 10) (v : Client) : (setClient s k v).guardOpen = s.guardOpen := rfl
@[simp] theorem setClient_store (k : BitVec 10) (v : Client) : (setClient s k v).store = s.store := rfl
@[simp] theorem setClient_pm (k : BitVec 10) (v : Client) : (setClient s k v).pm = s.pm := rfl
@[simp] theorem setClient_ret (k : BitVec 10) (v : Client) : (setClient s k v).ret = s.ret := rfl
@[simp] theorem setClient_threads (k : BitVec 10) (v : Client) : (setClient s k v).threads = s.threads := rfl
@[simp] theorem setClient_tiles (k : BitVec 10) (v : Client) : (setClient s k v).tiles = s.tiles := rfl
@[simp] theorem setClient_queues (k : BitVec 10) (v : Client) : (setClient s k v).queues = s.queues := rfl
@[simp] theorem setClient_streams (k : BitVec 10) (v : Client) : (setClient s k v).streams = s.streams := rfl
@[simp] theorem setClient_berths (k : BitVec 10) (v : Client) : (setClient s k v).berths = s.berths := rfl
@[simp] theorem setClient_mods (k : BitVec 10) (v : Client) : (setClient s k v).mods = s.mods := rfl
@[simp] theorem setClient_clients (k : BitVec 10) (v : Client) : (setClient s k v).clients = tabSet {} s.clients k.toNat v := rfl
@[simp] theorem setClient_acct (k : BitVec 10) (v : Client) : (setClient s k v).acct = s.acct := rfl
@[simp] theorem setClient_act (k : BitVec 10) (v : Client) : (setClient s k v).act = s.act := rfl
@[simp] theorem setClient_map (k : BitVec 10) (v : Client) : (setClient s k v).map = s.map := rfl
@[simp] theorem setClient_cal (k : BitVec 10) (v : Client) : (setClient s k v).cal = s.cal := rfl
@[simp] theorem setClient_sched (k : BitVec 10) (v : Client) : (setClient s k v).sched = s.sched := rfl
@[simp] theorem setClient_pre (k : BitVec 10) (v : Client) : (setClient s k v).pre = s.pre := rfl
@[simp] theorem setClient_rng (k : BitVec 10) (v : Client) : (setClient s k v).rng = s.rng := rfl
@[simp] theorem setClient_host (k : BitVec 10) (v : Client) : (setClient s k v).host = s.host := rfl
@[simp] theorem setClient_mem (k : BitVec 10) (v : Client) : (setClient s k v).mem = s.mem := rfl
@[simp] theorem setClient_aud (k : BitVec 10) (v : Client) : (setClient s k v).aud = s.aud := rfl
@[simp] theorem setClient_chn (k : BitVec 10) (v : Client) : (setClient s k v).chn = s.chn := rfl
@[simp] theorem setClient_sec (k : BitVec 10) (v : Client) : (setClient s k v).sec = s.sec := rfl
@[simp] theorem setClient_clk (k : BitVec 10) (v : Client) : (setClient s k v).clk = s.clk := rfl
@[simp] theorem setClient_fw (k : BitVec 10) (v : Client) : (setClient s k v).fw = s.fw := rfl
@[simp] theorem setClient_thm (k : BitVec 10) (v : Client) : (setClient s k v).thm = s.thm := rfl
@[simp] theorem setClient_dbg (k : BitVec 10) (v : Client) : (setClient s k v).dbg = s.dbg := rfl
@[simp] theorem setClient_lost (k : BitVec 10) (v : Client) : (setClient s k v).lost = s.lost := rfl

@[simp] theorem modClient_pending (k : BitVec 10) (f : Client → Client) : (modClient s k f).pending = s.pending := rfl
@[simp] theorem modClient_emitted (k : BitVec 10) (f : Client → Client) : (modClient s k f).emitted = s.emitted := rfl
@[simp] theorem modClient_free (k : BitVec 10) (f : Client → Client) : (modClient s k f).free = s.free := rfl
@[simp] theorem modClient_tick (k : BitVec 10) (f : Client → Client) : (modClient s k f).tick = s.tick := rfl
@[simp] theorem modClient_ctrs (k : BitVec 10) (f : Client → Client) : (modClient s k f).ctrs = s.ctrs := rfl
@[simp] theorem modClient_regs (k : BitVec 10) (f : Client → Client) : (modClient s k f).regs = s.regs := rfl
@[simp] theorem modClient_guardOpen (k : BitVec 10) (f : Client → Client) : (modClient s k f).guardOpen = s.guardOpen := rfl
@[simp] theorem modClient_store (k : BitVec 10) (f : Client → Client) : (modClient s k f).store = s.store := rfl
@[simp] theorem modClient_pm (k : BitVec 10) (f : Client → Client) : (modClient s k f).pm = s.pm := rfl
@[simp] theorem modClient_ret (k : BitVec 10) (f : Client → Client) : (modClient s k f).ret = s.ret := rfl
@[simp] theorem modClient_threads (k : BitVec 10) (f : Client → Client) : (modClient s k f).threads = s.threads := rfl
@[simp] theorem modClient_tiles (k : BitVec 10) (f : Client → Client) : (modClient s k f).tiles = s.tiles := rfl
@[simp] theorem modClient_queues (k : BitVec 10) (f : Client → Client) : (modClient s k f).queues = s.queues := rfl
@[simp] theorem modClient_streams (k : BitVec 10) (f : Client → Client) : (modClient s k f).streams = s.streams := rfl
@[simp] theorem modClient_berths (k : BitVec 10) (f : Client → Client) : (modClient s k f).berths = s.berths := rfl
@[simp] theorem modClient_mods (k : BitVec 10) (f : Client → Client) : (modClient s k f).mods = s.mods := rfl
@[simp] theorem modClient_clients (k : BitVec 10) (f : Client → Client) : (modClient s k f).clients = tabSet {} s.clients k.toNat (f (client s k)) := rfl
@[simp] theorem modClient_acct (k : BitVec 10) (f : Client → Client) : (modClient s k f).acct = s.acct := rfl
@[simp] theorem modClient_act (k : BitVec 10) (f : Client → Client) : (modClient s k f).act = s.act := rfl
@[simp] theorem modClient_map (k : BitVec 10) (f : Client → Client) : (modClient s k f).map = s.map := rfl
@[simp] theorem modClient_cal (k : BitVec 10) (f : Client → Client) : (modClient s k f).cal = s.cal := rfl
@[simp] theorem modClient_sched (k : BitVec 10) (f : Client → Client) : (modClient s k f).sched = s.sched := rfl
@[simp] theorem modClient_pre (k : BitVec 10) (f : Client → Client) : (modClient s k f).pre = s.pre := rfl
@[simp] theorem modClient_rng (k : BitVec 10) (f : Client → Client) : (modClient s k f).rng = s.rng := rfl
@[simp] theorem modClient_host (k : BitVec 10) (f : Client → Client) : (modClient s k f).host = s.host := rfl
@[simp] theorem modClient_mem (k : BitVec 10) (f : Client → Client) : (modClient s k f).mem = s.mem := rfl
@[simp] theorem modClient_aud (k : BitVec 10) (f : Client → Client) : (modClient s k f).aud = s.aud := rfl
@[simp] theorem modClient_chn (k : BitVec 10) (f : Client → Client) : (modClient s k f).chn = s.chn := rfl
@[simp] theorem modClient_sec (k : BitVec 10) (f : Client → Client) : (modClient s k f).sec = s.sec := rfl
@[simp] theorem modClient_clk (k : BitVec 10) (f : Client → Client) : (modClient s k f).clk = s.clk := rfl
@[simp] theorem modClient_fw (k : BitVec 10) (f : Client → Client) : (modClient s k f).fw = s.fw := rfl
@[simp] theorem modClient_thm (k : BitVec 10) (f : Client → Client) : (modClient s k f).thm = s.thm := rfl
@[simp] theorem modClient_dbg (k : BitVec 10) (f : Client → Client) : (modClient s k f).dbg = s.dbg := rfl
@[simp] theorem modClient_lost (k : BitVec 10) (f : Client → Client) : (modClient s k f).lost = s.lost := rfl

@[simp] theorem setAcct_pending (k : BitVec 10) (v : Acct) : (setAcct s k v).pending = s.pending := rfl
@[simp] theorem setAcct_emitted (k : BitVec 10) (v : Acct) : (setAcct s k v).emitted = s.emitted := rfl
@[simp] theorem setAcct_free (k : BitVec 10) (v : Acct) : (setAcct s k v).free = s.free := rfl
@[simp] theorem setAcct_tick (k : BitVec 10) (v : Acct) : (setAcct s k v).tick = s.tick := rfl
@[simp] theorem setAcct_ctrs (k : BitVec 10) (v : Acct) : (setAcct s k v).ctrs = s.ctrs := rfl
@[simp] theorem setAcct_regs (k : BitVec 10) (v : Acct) : (setAcct s k v).regs = s.regs := rfl
@[simp] theorem setAcct_guardOpen (k : BitVec 10) (v : Acct) : (setAcct s k v).guardOpen = s.guardOpen := rfl
@[simp] theorem setAcct_store (k : BitVec 10) (v : Acct) : (setAcct s k v).store = s.store := rfl
@[simp] theorem setAcct_pm (k : BitVec 10) (v : Acct) : (setAcct s k v).pm = s.pm := rfl
@[simp] theorem setAcct_ret (k : BitVec 10) (v : Acct) : (setAcct s k v).ret = s.ret := rfl
@[simp] theorem setAcct_threads (k : BitVec 10) (v : Acct) : (setAcct s k v).threads = s.threads := rfl
@[simp] theorem setAcct_tiles (k : BitVec 10) (v : Acct) : (setAcct s k v).tiles = s.tiles := rfl
@[simp] theorem setAcct_queues (k : BitVec 10) (v : Acct) : (setAcct s k v).queues = s.queues := rfl
@[simp] theorem setAcct_streams (k : BitVec 10) (v : Acct) : (setAcct s k v).streams = s.streams := rfl
@[simp] theorem setAcct_berths (k : BitVec 10) (v : Acct) : (setAcct s k v).berths = s.berths := rfl
@[simp] theorem setAcct_mods (k : BitVec 10) (v : Acct) : (setAcct s k v).mods = s.mods := rfl
@[simp] theorem setAcct_clients (k : BitVec 10) (v : Acct) : (setAcct s k v).clients = s.clients := rfl
@[simp] theorem setAcct_acct (k : BitVec 10) (v : Acct) : (setAcct s k v).acct = tabSet {} s.acct k.toNat v := rfl
@[simp] theorem setAcct_act (k : BitVec 10) (v : Acct) : (setAcct s k v).act = s.act := rfl
@[simp] theorem setAcct_map (k : BitVec 10) (v : Acct) : (setAcct s k v).map = s.map := rfl
@[simp] theorem setAcct_cal (k : BitVec 10) (v : Acct) : (setAcct s k v).cal = s.cal := rfl
@[simp] theorem setAcct_sched (k : BitVec 10) (v : Acct) : (setAcct s k v).sched = s.sched := rfl
@[simp] theorem setAcct_pre (k : BitVec 10) (v : Acct) : (setAcct s k v).pre = s.pre := rfl
@[simp] theorem setAcct_rng (k : BitVec 10) (v : Acct) : (setAcct s k v).rng = s.rng := rfl
@[simp] theorem setAcct_host (k : BitVec 10) (v : Acct) : (setAcct s k v).host = s.host := rfl
@[simp] theorem setAcct_mem (k : BitVec 10) (v : Acct) : (setAcct s k v).mem = s.mem := rfl
@[simp] theorem setAcct_aud (k : BitVec 10) (v : Acct) : (setAcct s k v).aud = s.aud := rfl
@[simp] theorem setAcct_chn (k : BitVec 10) (v : Acct) : (setAcct s k v).chn = s.chn := rfl
@[simp] theorem setAcct_sec (k : BitVec 10) (v : Acct) : (setAcct s k v).sec = s.sec := rfl
@[simp] theorem setAcct_clk (k : BitVec 10) (v : Acct) : (setAcct s k v).clk = s.clk := rfl
@[simp] theorem setAcct_fw (k : BitVec 10) (v : Acct) : (setAcct s k v).fw = s.fw := rfl
@[simp] theorem setAcct_thm (k : BitVec 10) (v : Acct) : (setAcct s k v).thm = s.thm := rfl
@[simp] theorem setAcct_dbg (k : BitVec 10) (v : Acct) : (setAcct s k v).dbg = s.dbg := rfl
@[simp] theorem setAcct_lost (k : BitVec 10) (v : Acct) : (setAcct s k v).lost = s.lost := rfl

@[simp] theorem modAct_pending (k : BitVec 10) (f : Activity → Activity) : (modAct s k f).pending = s.pending := rfl
@[simp] theorem modAct_emitted (k : BitVec 10) (f : Activity → Activity) : (modAct s k f).emitted = s.emitted := rfl
@[simp] theorem modAct_free (k : BitVec 10) (f : Activity → Activity) : (modAct s k f).free = s.free := rfl
@[simp] theorem modAct_tick (k : BitVec 10) (f : Activity → Activity) : (modAct s k f).tick = s.tick := rfl
@[simp] theorem modAct_ctrs (k : BitVec 10) (f : Activity → Activity) : (modAct s k f).ctrs = s.ctrs := rfl
@[simp] theorem modAct_regs (k : BitVec 10) (f : Activity → Activity) : (modAct s k f).regs = s.regs := rfl
@[simp] theorem modAct_guardOpen (k : BitVec 10) (f : Activity → Activity) : (modAct s k f).guardOpen = s.guardOpen := rfl
@[simp] theorem modAct_store (k : BitVec 10) (f : Activity → Activity) : (modAct s k f).store = s.store := rfl
@[simp] theorem modAct_pm (k : BitVec 10) (f : Activity → Activity) : (modAct s k f).pm = s.pm := rfl
@[simp] theorem modAct_ret (k : BitVec 10) (f : Activity → Activity) : (modAct s k f).ret = s.ret := rfl
@[simp] theorem modAct_threads (k : BitVec 10) (f : Activity → Activity) : (modAct s k f).threads = s.threads := rfl
@[simp] theorem modAct_tiles (k : BitVec 10) (f : Activity → Activity) : (modAct s k f).tiles = s.tiles := rfl
@[simp] theorem modAct_queues (k : BitVec 10) (f : Activity → Activity) : (modAct s k f).queues = s.queues := rfl
@[simp] theorem modAct_streams (k : BitVec 10) (f : Activity → Activity) : (modAct s k f).streams = s.streams := rfl
@[simp] theorem modAct_berths (k : BitVec 10) (f : Activity → Activity) : (modAct s k f).berths = s.berths := rfl
@[simp] theorem modAct_mods (k : BitVec 10) (f : Activity → Activity) : (modAct s k f).mods = s.mods := rfl
@[simp] theorem modAct_clients (k : BitVec 10) (f : Activity → Activity) : (modAct s k f).clients = s.clients := rfl
@[simp] theorem modAct_acct (k : BitVec 10) (f : Activity → Activity) : (modAct s k f).acct = s.acct := rfl
@[simp] theorem modAct_act (k : BitVec 10) (f : Activity → Activity) : (modAct s k f).act = tabSet {} s.act k.toNat (f (activity s k)) := rfl
@[simp] theorem modAct_map (k : BitVec 10) (f : Activity → Activity) : (modAct s k f).map = s.map := rfl
@[simp] theorem modAct_cal (k : BitVec 10) (f : Activity → Activity) : (modAct s k f).cal = s.cal := rfl
@[simp] theorem modAct_sched (k : BitVec 10) (f : Activity → Activity) : (modAct s k f).sched = s.sched := rfl
@[simp] theorem modAct_pre (k : BitVec 10) (f : Activity → Activity) : (modAct s k f).pre = s.pre := rfl
@[simp] theorem modAct_rng (k : BitVec 10) (f : Activity → Activity) : (modAct s k f).rng = s.rng := rfl
@[simp] theorem modAct_host (k : BitVec 10) (f : Activity → Activity) : (modAct s k f).host = s.host := rfl
@[simp] theorem modAct_mem (k : BitVec 10) (f : Activity → Activity) : (modAct s k f).mem = s.mem := rfl
@[simp] theorem modAct_aud (k : BitVec 10) (f : Activity → Activity) : (modAct s k f).aud = s.aud := rfl
@[simp] theorem modAct_chn (k : BitVec 10) (f : Activity → Activity) : (modAct s k f).chn = s.chn := rfl
@[simp] theorem modAct_sec (k : BitVec 10) (f : Activity → Activity) : (modAct s k f).sec = s.sec := rfl
@[simp] theorem modAct_clk (k : BitVec 10) (f : Activity → Activity) : (modAct s k f).clk = s.clk := rfl
@[simp] theorem modAct_fw (k : BitVec 10) (f : Activity → Activity) : (modAct s k f).fw = s.fw := rfl
@[simp] theorem modAct_thm (k : BitVec 10) (f : Activity → Activity) : (modAct s k f).thm = s.thm := rfl
@[simp] theorem modAct_dbg (k : BitVec 10) (f : Activity → Activity) : (modAct s k f).dbg = s.dbg := rfl
@[simp] theorem modAct_lost (k : BitVec 10) (f : Activity → Activity) : (modAct s k f).lost = s.lost := rfl

@[simp] theorem setTile_pending (k : Nat) (v : Tile) : (setTile s k v).pending = s.pending := rfl
@[simp] theorem setTile_emitted (k : Nat) (v : Tile) : (setTile s k v).emitted = s.emitted := rfl
@[simp] theorem setTile_free (k : Nat) (v : Tile) : (setTile s k v).free = s.free := rfl
@[simp] theorem setTile_tick (k : Nat) (v : Tile) : (setTile s k v).tick = s.tick := rfl
@[simp] theorem setTile_ctrs (k : Nat) (v : Tile) : (setTile s k v).ctrs = s.ctrs := rfl
@[simp] theorem setTile_regs (k : Nat) (v : Tile) : (setTile s k v).regs = s.regs := rfl
@[simp] theorem setTile_guardOpen (k : Nat) (v : Tile) : (setTile s k v).guardOpen = s.guardOpen := rfl
@[simp] theorem setTile_store (k : Nat) (v : Tile) : (setTile s k v).store = s.store := rfl
@[simp] theorem setTile_pm (k : Nat) (v : Tile) : (setTile s k v).pm = s.pm := rfl
@[simp] theorem setTile_ret (k : Nat) (v : Tile) : (setTile s k v).ret = s.ret := rfl
@[simp] theorem setTile_threads (k : Nat) (v : Tile) : (setTile s k v).threads = s.threads := rfl
@[simp] theorem setTile_tiles (k : Nat) (v : Tile) : (setTile s k v).tiles = tabSet {} s.tiles k v := rfl
@[simp] theorem setTile_queues (k : Nat) (v : Tile) : (setTile s k v).queues = s.queues := rfl
@[simp] theorem setTile_streams (k : Nat) (v : Tile) : (setTile s k v).streams = s.streams := rfl
@[simp] theorem setTile_berths (k : Nat) (v : Tile) : (setTile s k v).berths = s.berths := rfl
@[simp] theorem setTile_mods (k : Nat) (v : Tile) : (setTile s k v).mods = s.mods := rfl
@[simp] theorem setTile_clients (k : Nat) (v : Tile) : (setTile s k v).clients = s.clients := rfl
@[simp] theorem setTile_acct (k : Nat) (v : Tile) : (setTile s k v).acct = s.acct := rfl
@[simp] theorem setTile_act (k : Nat) (v : Tile) : (setTile s k v).act = s.act := rfl
@[simp] theorem setTile_map (k : Nat) (v : Tile) : (setTile s k v).map = s.map := rfl
@[simp] theorem setTile_cal (k : Nat) (v : Tile) : (setTile s k v).cal = s.cal := rfl
@[simp] theorem setTile_sched (k : Nat) (v : Tile) : (setTile s k v).sched = s.sched := rfl
@[simp] theorem setTile_pre (k : Nat) (v : Tile) : (setTile s k v).pre = s.pre := rfl
@[simp] theorem setTile_rng (k : Nat) (v : Tile) : (setTile s k v).rng = s.rng := rfl
@[simp] theorem setTile_host (k : Nat) (v : Tile) : (setTile s k v).host = s.host := rfl
@[simp] theorem setTile_mem (k : Nat) (v : Tile) : (setTile s k v).mem = s.mem := rfl
@[simp] theorem setTile_aud (k : Nat) (v : Tile) : (setTile s k v).aud = s.aud := rfl
@[simp] theorem setTile_chn (k : Nat) (v : Tile) : (setTile s k v).chn = s.chn := rfl
@[simp] theorem setTile_sec (k : Nat) (v : Tile) : (setTile s k v).sec = s.sec := rfl
@[simp] theorem setTile_clk (k : Nat) (v : Tile) : (setTile s k v).clk = s.clk := rfl
@[simp] theorem setTile_fw (k : Nat) (v : Tile) : (setTile s k v).fw = s.fw := rfl
@[simp] theorem setTile_thm (k : Nat) (v : Tile) : (setTile s k v).thm = s.thm := rfl
@[simp] theorem setTile_dbg (k : Nat) (v : Tile) : (setTile s k v).dbg = s.dbg := rfl
@[simp] theorem setTile_lost (k : Nat) (v : Tile) : (setTile s k v).lost = s.lost := rfl

@[simp] theorem modTile_pending (k : Nat) (f : Tile → Tile) : (modTile s k f).pending = s.pending := rfl
@[simp] theorem modTile_emitted (k : Nat) (f : Tile → Tile) : (modTile s k f).emitted = s.emitted := rfl
@[simp] theorem modTile_free (k : Nat) (f : Tile → Tile) : (modTile s k f).free = s.free := rfl
@[simp] theorem modTile_tick (k : Nat) (f : Tile → Tile) : (modTile s k f).tick = s.tick := rfl
@[simp] theorem modTile_ctrs (k : Nat) (f : Tile → Tile) : (modTile s k f).ctrs = s.ctrs := rfl
@[simp] theorem modTile_regs (k : Nat) (f : Tile → Tile) : (modTile s k f).regs = s.regs := rfl
@[simp] theorem modTile_guardOpen (k : Nat) (f : Tile → Tile) : (modTile s k f).guardOpen = s.guardOpen := rfl
@[simp] theorem modTile_store (k : Nat) (f : Tile → Tile) : (modTile s k f).store = s.store := rfl
@[simp] theorem modTile_pm (k : Nat) (f : Tile → Tile) : (modTile s k f).pm = s.pm := rfl
@[simp] theorem modTile_ret (k : Nat) (f : Tile → Tile) : (modTile s k f).ret = s.ret := rfl
@[simp] theorem modTile_threads (k : Nat) (f : Tile → Tile) : (modTile s k f).threads = s.threads := rfl
@[simp] theorem modTile_tiles (k : Nat) (f : Tile → Tile) : (modTile s k f).tiles = tabSet {} s.tiles k (f (tileAt s k)) := rfl
@[simp] theorem modTile_queues (k : Nat) (f : Tile → Tile) : (modTile s k f).queues = s.queues := rfl
@[simp] theorem modTile_streams (k : Nat) (f : Tile → Tile) : (modTile s k f).streams = s.streams := rfl
@[simp] theorem modTile_berths (k : Nat) (f : Tile → Tile) : (modTile s k f).berths = s.berths := rfl
@[simp] theorem modTile_mods (k : Nat) (f : Tile → Tile) : (modTile s k f).mods = s.mods := rfl
@[simp] theorem modTile_clients (k : Nat) (f : Tile → Tile) : (modTile s k f).clients = s.clients := rfl
@[simp] theorem modTile_acct (k : Nat) (f : Tile → Tile) : (modTile s k f).acct = s.acct := rfl
@[simp] theorem modTile_act (k : Nat) (f : Tile → Tile) : (modTile s k f).act = s.act := rfl
@[simp] theorem modTile_map (k : Nat) (f : Tile → Tile) : (modTile s k f).map = s.map := rfl
@[simp] theorem modTile_cal (k : Nat) (f : Tile → Tile) : (modTile s k f).cal = s.cal := rfl
@[simp] theorem modTile_sched (k : Nat) (f : Tile → Tile) : (modTile s k f).sched = s.sched := rfl
@[simp] theorem modTile_pre (k : Nat) (f : Tile → Tile) : (modTile s k f).pre = s.pre := rfl
@[simp] theorem modTile_rng (k : Nat) (f : Tile → Tile) : (modTile s k f).rng = s.rng := rfl
@[simp] theorem modTile_host (k : Nat) (f : Tile → Tile) : (modTile s k f).host = s.host := rfl
@[simp] theorem modTile_mem (k : Nat) (f : Tile → Tile) : (modTile s k f).mem = s.mem := rfl
@[simp] theorem modTile_aud (k : Nat) (f : Tile → Tile) : (modTile s k f).aud = s.aud := rfl
@[simp] theorem modTile_chn (k : Nat) (f : Tile → Tile) : (modTile s k f).chn = s.chn := rfl
@[simp] theorem modTile_sec (k : Nat) (f : Tile → Tile) : (modTile s k f).sec = s.sec := rfl
@[simp] theorem modTile_clk (k : Nat) (f : Tile → Tile) : (modTile s k f).clk = s.clk := rfl
@[simp] theorem modTile_fw (k : Nat) (f : Tile → Tile) : (modTile s k f).fw = s.fw := rfl
@[simp] theorem modTile_thm (k : Nat) (f : Tile → Tile) : (modTile s k f).thm = s.thm := rfl
@[simp] theorem modTile_dbg (k : Nat) (f : Tile → Tile) : (modTile s k f).dbg = s.dbg := rfl
@[simp] theorem modTile_lost (k : Nat) (f : Tile → Tile) : (modTile s k f).lost = s.lost := rfl

@[simp] theorem bumpView_pending : (bumpView s).pending = s.pending := rfl
@[simp] theorem bumpView_emitted : (bumpView s).emitted = s.emitted := rfl
@[simp] theorem bumpView_free : (bumpView s).free = s.free := rfl
@[simp] theorem bumpView_tick : (bumpView s).tick = s.tick := rfl
@[simp] theorem bumpView_ctrs : (bumpView s).ctrs = s.ctrs := rfl
@[simp] theorem bumpView_regs : (bumpView s).regs = s.regs := rfl
@[simp] theorem bumpView_guardOpen : (bumpView s).guardOpen = s.guardOpen := rfl
@[simp] theorem bumpView_store : (bumpView s).store = s.store := rfl
@[simp] theorem bumpView_pm : (bumpView s).pm = s.pm := rfl
@[simp] theorem bumpView_ret : (bumpView s).ret = s.ret := rfl
@[simp] theorem bumpView_threads : (bumpView s).threads = s.threads := rfl
@[simp] theorem bumpView_tiles : (bumpView s).tiles = s.tiles := rfl
@[simp] theorem bumpView_queues : (bumpView s).queues = s.queues := rfl
@[simp] theorem bumpView_streams : (bumpView s).streams = s.streams := rfl
@[simp] theorem bumpView_berths : (bumpView s).berths = s.berths := rfl
@[simp] theorem bumpView_mods : (bumpView s).mods = s.mods := rfl
@[simp] theorem bumpView_clients : (bumpView s).clients = s.clients := rfl
@[simp] theorem bumpView_acct : (bumpView s).acct = s.acct := rfl
@[simp] theorem bumpView_act : (bumpView s).act = s.act := rfl
@[simp] theorem bumpView_map : (bumpView s).map = s.map := rfl
@[simp] theorem bumpView_cal : (bumpView s).cal = s.cal := rfl
@[simp] theorem bumpView_sched : (bumpView s).sched = s.sched := rfl
@[simp] theorem bumpView_pre : (bumpView s).pre = s.pre := rfl
@[simp] theorem bumpView_rng : (bumpView s).rng = s.rng := rfl
@[simp] theorem bumpView_host : (bumpView s).host = s.host := rfl
@[simp] theorem bumpView_mem : (bumpView s).mem = s.mem := rfl
@[simp] theorem bumpView_aud : (bumpView s).aud = s.aud := rfl
@[simp] theorem bumpView_chn : (bumpView s).chn = s.chn := rfl
@[simp] theorem bumpView_sec : (bumpView s).sec = { s.sec with mview := s.sec.mview + 1 } := rfl
@[simp] theorem bumpView_clk : (bumpView s).clk = s.clk := rfl
@[simp] theorem bumpView_fw : (bumpView s).fw = s.fw := rfl
@[simp] theorem bumpView_thm : (bumpView s).thm = s.thm := rfl
@[simp] theorem bumpView_dbg : (bumpView s).dbg = s.dbg := rfl
@[simp] theorem bumpView_lost : (bumpView s).lost = s.lost := rfl

@[simp] theorem setCluState_pending (n : Nat) (u : UnitState) : (setCluState s n u).pending = s.pending := rfl
@[simp] theorem setCluState_emitted (n : Nat) (u : UnitState) : (setCluState s n u).emitted = s.emitted := rfl
@[simp] theorem setCluState_free (n : Nat) (u : UnitState) : (setCluState s n u).free = s.free := rfl
@[simp] theorem setCluState_tick (n : Nat) (u : UnitState) : (setCluState s n u).tick = s.tick := rfl
@[simp] theorem setCluState_ctrs (n : Nat) (u : UnitState) : (setCluState s n u).ctrs = s.ctrs := rfl
@[simp] theorem setCluState_regs (n : Nat) (u : UnitState) : (setCluState s n u).regs = s.regs := rfl
@[simp] theorem setCluState_guardOpen (n : Nat) (u : UnitState) : (setCluState s n u).guardOpen = s.guardOpen := rfl
@[simp] theorem setCluState_store (n : Nat) (u : UnitState) : (setCluState s n u).store = s.store := rfl
@[simp] theorem setCluState_pm (n : Nat) (u : UnitState) : (setCluState s n u).pm = s.pm := rfl
@[simp] theorem setCluState_ret (n : Nat) (u : UnitState) : (setCluState s n u).ret = s.ret := rfl
@[simp] theorem setCluState_threads (n : Nat) (u : UnitState) : (setCluState s n u).threads = s.threads := rfl
@[simp] theorem setCluState_tiles (n : Nat) (u : UnitState) : (setCluState s n u).tiles = s.tiles := rfl
@[simp] theorem setCluState_queues (n : Nat) (u : UnitState) : (setCluState s n u).queues = s.queues := rfl
@[simp] theorem setCluState_streams (n : Nat) (u : UnitState) : (setCluState s n u).streams = s.streams := rfl
@[simp] theorem setCluState_berths (n : Nat) (u : UnitState) : (setCluState s n u).berths = s.berths := rfl
@[simp] theorem setCluState_mods (n : Nat) (u : UnitState) : (setCluState s n u).mods = s.mods := rfl
@[simp] theorem setCluState_clients (n : Nat) (u : UnitState) : (setCluState s n u).clients = s.clients := rfl
@[simp] theorem setCluState_acct (n : Nat) (u : UnitState) : (setCluState s n u).acct = s.acct := rfl
@[simp] theorem setCluState_act (n : Nat) (u : UnitState) : (setCluState s n u).act = s.act := rfl
@[simp] theorem setCluState_map (n : Nat) (u : UnitState) : (setCluState s n u).map = { s.map with cluState := tabSet .outOfService s.map.cluState n u } := rfl
@[simp] theorem setCluState_cal (n : Nat) (u : UnitState) : (setCluState s n u).cal = s.cal := rfl
@[simp] theorem setCluState_sched (n : Nat) (u : UnitState) : (setCluState s n u).sched = s.sched := rfl
@[simp] theorem setCluState_pre (n : Nat) (u : UnitState) : (setCluState s n u).pre = s.pre := rfl
@[simp] theorem setCluState_rng (n : Nat) (u : UnitState) : (setCluState s n u).rng = s.rng := rfl
@[simp] theorem setCluState_host (n : Nat) (u : UnitState) : (setCluState s n u).host = s.host := rfl
@[simp] theorem setCluState_mem (n : Nat) (u : UnitState) : (setCluState s n u).mem = s.mem := rfl
@[simp] theorem setCluState_aud (n : Nat) (u : UnitState) : (setCluState s n u).aud = s.aud := rfl
@[simp] theorem setCluState_chn (n : Nat) (u : UnitState) : (setCluState s n u).chn = s.chn := rfl
@[simp] theorem setCluState_sec (n : Nat) (u : UnitState) : (setCluState s n u).sec = s.sec := rfl
@[simp] theorem setCluState_clk (n : Nat) (u : UnitState) : (setCluState s n u).clk = s.clk := rfl
@[simp] theorem setCluState_fw (n : Nat) (u : UnitState) : (setCluState s n u).fw = s.fw := rfl
@[simp] theorem setCluState_thm (n : Nat) (u : UnitState) : (setCluState s n u).thm = s.thm := rfl
@[simp] theorem setCluState_dbg (n : Nat) (u : UnitState) : (setCluState s n u).dbg = s.dbg := rfl
@[simp] theorem setCluState_lost (n : Nat) (u : UnitState) : (setCluState s n u).lost = s.lost := rfl

@[simp] theorem setTileState_pending (n t : Nat) (u : UnitState) : (setTileState s n t u).pending = s.pending := rfl
@[simp] theorem setTileState_emitted (n t : Nat) (u : UnitState) : (setTileState s n t u).emitted = s.emitted := rfl
@[simp] theorem setTileState_free (n t : Nat) (u : UnitState) : (setTileState s n t u).free = s.free := rfl
@[simp] theorem setTileState_tick (n t : Nat) (u : UnitState) : (setTileState s n t u).tick = s.tick := rfl
@[simp] theorem setTileState_ctrs (n t : Nat) (u : UnitState) : (setTileState s n t u).ctrs = s.ctrs := rfl
@[simp] theorem setTileState_regs (n t : Nat) (u : UnitState) : (setTileState s n t u).regs = s.regs := rfl
@[simp] theorem setTileState_guardOpen (n t : Nat) (u : UnitState) : (setTileState s n t u).guardOpen = s.guardOpen := rfl
@[simp] theorem setTileState_store (n t : Nat) (u : UnitState) : (setTileState s n t u).store = s.store := rfl
@[simp] theorem setTileState_pm (n t : Nat) (u : UnitState) : (setTileState s n t u).pm = s.pm := rfl
@[simp] theorem setTileState_ret (n t : Nat) (u : UnitState) : (setTileState s n t u).ret = s.ret := rfl
@[simp] theorem setTileState_threads (n t : Nat) (u : UnitState) : (setTileState s n t u).threads = s.threads := rfl
@[simp] theorem setTileState_tiles (n t : Nat) (u : UnitState) : (setTileState s n t u).tiles = s.tiles := rfl
@[simp] theorem setTileState_queues (n t : Nat) (u : UnitState) : (setTileState s n t u).queues = s.queues := rfl
@[simp] theorem setTileState_streams (n t : Nat) (u : UnitState) : (setTileState s n t u).streams = s.streams := rfl
@[simp] theorem setTileState_berths (n t : Nat) (u : UnitState) : (setTileState s n t u).berths = s.berths := rfl
@[simp] theorem setTileState_mods (n t : Nat) (u : UnitState) : (setTileState s n t u).mods = s.mods := rfl
@[simp] theorem setTileState_clients (n t : Nat) (u : UnitState) : (setTileState s n t u).clients = s.clients := rfl
@[simp] theorem setTileState_acct (n t : Nat) (u : UnitState) : (setTileState s n t u).acct = s.acct := rfl
@[simp] theorem setTileState_act (n t : Nat) (u : UnitState) : (setTileState s n t u).act = s.act := rfl
@[simp] theorem setTileState_map (n t : Nat) (u : UnitState) : (setTileState s n t u).map = { s.map with tileState := tabSet .outOfService s.map.tileState (tileKey n t) u } := rfl
@[simp] theorem setTileState_cal (n t : Nat) (u : UnitState) : (setTileState s n t u).cal = s.cal := rfl
@[simp] theorem setTileState_sched (n t : Nat) (u : UnitState) : (setTileState s n t u).sched = s.sched := rfl
@[simp] theorem setTileState_pre (n t : Nat) (u : UnitState) : (setTileState s n t u).pre = s.pre := rfl
@[simp] theorem setTileState_rng (n t : Nat) (u : UnitState) : (setTileState s n t u).rng = s.rng := rfl
@[simp] theorem setTileState_host (n t : Nat) (u : UnitState) : (setTileState s n t u).host = s.host := rfl
@[simp] theorem setTileState_mem (n t : Nat) (u : UnitState) : (setTileState s n t u).mem = s.mem := rfl
@[simp] theorem setTileState_aud (n t : Nat) (u : UnitState) : (setTileState s n t u).aud = s.aud := rfl
@[simp] theorem setTileState_chn (n t : Nat) (u : UnitState) : (setTileState s n t u).chn = s.chn := rfl
@[simp] theorem setTileState_sec (n t : Nat) (u : UnitState) : (setTileState s n t u).sec = s.sec := rfl
@[simp] theorem setTileState_clk (n t : Nat) (u : UnitState) : (setTileState s n t u).clk = s.clk := rfl
@[simp] theorem setTileState_fw (n t : Nat) (u : UnitState) : (setTileState s n t u).fw = s.fw := rfl
@[simp] theorem setTileState_thm (n t : Nat) (u : UnitState) : (setTileState s n t u).thm = s.thm := rfl
@[simp] theorem setTileState_dbg (n t : Nat) (u : UnitState) : (setTileState s n t u).dbg = s.dbg := rfl
@[simp] theorem setTileState_lost (n t : Nat) (u : UnitState) : (setTileState s n t u).lost = s.lost := rfl

@[simp] theorem setSavePhase_pending (l : Nat) (p : SavePhase) : (setSavePhase s l p).pending = s.pending := rfl
@[simp] theorem setSavePhase_emitted (l : Nat) (p : SavePhase) : (setSavePhase s l p).emitted = s.emitted := rfl
@[simp] theorem setSavePhase_free (l : Nat) (p : SavePhase) : (setSavePhase s l p).free = s.free := rfl
@[simp] theorem setSavePhase_tick (l : Nat) (p : SavePhase) : (setSavePhase s l p).tick = s.tick := rfl
@[simp] theorem setSavePhase_ctrs (l : Nat) (p : SavePhase) : (setSavePhase s l p).ctrs = s.ctrs := rfl
@[simp] theorem setSavePhase_regs (l : Nat) (p : SavePhase) : (setSavePhase s l p).regs = s.regs := rfl
@[simp] theorem setSavePhase_guardOpen (l : Nat) (p : SavePhase) : (setSavePhase s l p).guardOpen = s.guardOpen := rfl
@[simp] theorem setSavePhase_store (l : Nat) (p : SavePhase) : (setSavePhase s l p).store = s.store := rfl
@[simp] theorem setSavePhase_pm (l : Nat) (p : SavePhase) : (setSavePhase s l p).pm = s.pm := rfl
@[simp] theorem setSavePhase_ret (l : Nat) (p : SavePhase) : (setSavePhase s l p).ret = s.ret := rfl
@[simp] theorem setSavePhase_threads (l : Nat) (p : SavePhase) : (setSavePhase s l p).threads = s.threads := rfl
@[simp] theorem setSavePhase_tiles (l : Nat) (p : SavePhase) : (setSavePhase s l p).tiles = s.tiles := rfl
@[simp] theorem setSavePhase_queues (l : Nat) (p : SavePhase) : (setSavePhase s l p).queues = s.queues := rfl
@[simp] theorem setSavePhase_streams (l : Nat) (p : SavePhase) : (setSavePhase s l p).streams = s.streams := rfl
@[simp] theorem setSavePhase_berths (l : Nat) (p : SavePhase) : (setSavePhase s l p).berths = s.berths := rfl
@[simp] theorem setSavePhase_mods (l : Nat) (p : SavePhase) : (setSavePhase s l p).mods = s.mods := rfl
@[simp] theorem setSavePhase_clients (l : Nat) (p : SavePhase) : (setSavePhase s l p).clients = s.clients := rfl
@[simp] theorem setSavePhase_acct (l : Nat) (p : SavePhase) : (setSavePhase s l p).acct = s.acct := rfl
@[simp] theorem setSavePhase_act (l : Nat) (p : SavePhase) : (setSavePhase s l p).act = s.act := rfl
@[simp] theorem setSavePhase_map (l : Nat) (p : SavePhase) : (setSavePhase s l p).map = s.map := rfl
@[simp] theorem setSavePhase_cal (l : Nat) (p : SavePhase) : (setSavePhase s l p).cal = s.cal := rfl
@[simp] theorem setSavePhase_sched (l : Nat) (p : SavePhase) : (setSavePhase s l p).sched = s.sched := rfl
@[simp] theorem setSavePhase_pre (l : Nat) (p : SavePhase) : (setSavePhase s l p).pre = { s.pre with phase := tabSet .none s.pre.phase l p } := rfl
@[simp] theorem setSavePhase_rng (l : Nat) (p : SavePhase) : (setSavePhase s l p).rng = s.rng := rfl
@[simp] theorem setSavePhase_host (l : Nat) (p : SavePhase) : (setSavePhase s l p).host = s.host := rfl
@[simp] theorem setSavePhase_mem (l : Nat) (p : SavePhase) : (setSavePhase s l p).mem = s.mem := rfl
@[simp] theorem setSavePhase_aud (l : Nat) (p : SavePhase) : (setSavePhase s l p).aud = s.aud := rfl
@[simp] theorem setSavePhase_chn (l : Nat) (p : SavePhase) : (setSavePhase s l p).chn = s.chn := rfl
@[simp] theorem setSavePhase_sec (l : Nat) (p : SavePhase) : (setSavePhase s l p).sec = s.sec := rfl
@[simp] theorem setSavePhase_clk (l : Nat) (p : SavePhase) : (setSavePhase s l p).clk = s.clk := rfl
@[simp] theorem setSavePhase_fw (l : Nat) (p : SavePhase) : (setSavePhase s l p).fw = s.fw := rfl
@[simp] theorem setSavePhase_thm (l : Nat) (p : SavePhase) : (setSavePhase s l p).thm = s.thm := rfl
@[simp] theorem setSavePhase_dbg (l : Nat) (p : SavePhase) : (setSavePhase s l p).dbg = s.dbg := rfl
@[simp] theorem setSavePhase_lost (l : Nat) (p : SavePhase) : (setSavePhase s l p).lost = s.lost := rfl

@[simp] theorem storePut_pending (l a : Nat) (bs : List (BitVec 8)) : (storePut s l a bs).pending = s.pending := rfl
@[simp] theorem storePut_emitted (l a : Nat) (bs : List (BitVec 8)) : (storePut s l a bs).emitted = s.emitted := rfl
@[simp] theorem storePut_free (l a : Nat) (bs : List (BitVec 8)) : (storePut s l a bs).free = s.free := rfl
@[simp] theorem storePut_tick (l a : Nat) (bs : List (BitVec 8)) : (storePut s l a bs).tick = s.tick := rfl
@[simp] theorem storePut_ctrs (l a : Nat) (bs : List (BitVec 8)) : (storePut s l a bs).ctrs = s.ctrs := rfl
@[simp] theorem storePut_regs (l a : Nat) (bs : List (BitVec 8)) : (storePut s l a bs).regs = s.regs := rfl
@[simp] theorem storePut_guardOpen (l a : Nat) (bs : List (BitVec 8)) : (storePut s l a bs).guardOpen = s.guardOpen := rfl
@[simp] theorem storePut_store (l a : Nat) (bs : List (BitVec 8)) : (storePut s l a bs).store = memPutBytes s.store (storeBase (physOf s l) + a) bs := rfl
@[simp] theorem storePut_pm (l a : Nat) (bs : List (BitVec 8)) : (storePut s l a bs).pm = s.pm := rfl
@[simp] theorem storePut_ret (l a : Nat) (bs : List (BitVec 8)) : (storePut s l a bs).ret = s.ret := rfl
@[simp] theorem storePut_threads (l a : Nat) (bs : List (BitVec 8)) : (storePut s l a bs).threads = s.threads := rfl
@[simp] theorem storePut_tiles (l a : Nat) (bs : List (BitVec 8)) : (storePut s l a bs).tiles = s.tiles := rfl
@[simp] theorem storePut_queues (l a : Nat) (bs : List (BitVec 8)) : (storePut s l a bs).queues = s.queues := rfl
@[simp] theorem storePut_streams (l a : Nat) (bs : List (BitVec 8)) : (storePut s l a bs).streams = s.streams := rfl
@[simp] theorem storePut_berths (l a : Nat) (bs : List (BitVec 8)) : (storePut s l a bs).berths = s.berths := rfl
@[simp] theorem storePut_mods (l a : Nat) (bs : List (BitVec 8)) : (storePut s l a bs).mods = s.mods := rfl
@[simp] theorem storePut_clients (l a : Nat) (bs : List (BitVec 8)) : (storePut s l a bs).clients = s.clients := rfl
@[simp] theorem storePut_acct (l a : Nat) (bs : List (BitVec 8)) : (storePut s l a bs).acct = s.acct := rfl
@[simp] theorem storePut_act (l a : Nat) (bs : List (BitVec 8)) : (storePut s l a bs).act = s.act := rfl
@[simp] theorem storePut_map (l a : Nat) (bs : List (BitVec 8)) : (storePut s l a bs).map = s.map := rfl
@[simp] theorem storePut_cal (l a : Nat) (bs : List (BitVec 8)) : (storePut s l a bs).cal = s.cal := rfl
@[simp] theorem storePut_sched (l a : Nat) (bs : List (BitVec 8)) : (storePut s l a bs).sched = s.sched := rfl
@[simp] theorem storePut_pre (l a : Nat) (bs : List (BitVec 8)) : (storePut s l a bs).pre = s.pre := rfl
@[simp] theorem storePut_rng (l a : Nat) (bs : List (BitVec 8)) : (storePut s l a bs).rng = s.rng := rfl
@[simp] theorem storePut_host (l a : Nat) (bs : List (BitVec 8)) : (storePut s l a bs).host = s.host := rfl
@[simp] theorem storePut_mem (l a : Nat) (bs : List (BitVec 8)) : (storePut s l a bs).mem = s.mem := rfl
@[simp] theorem storePut_aud (l a : Nat) (bs : List (BitVec 8)) : (storePut s l a bs).aud = s.aud := rfl
@[simp] theorem storePut_chn (l a : Nat) (bs : List (BitVec 8)) : (storePut s l a bs).chn = s.chn := rfl
@[simp] theorem storePut_sec (l a : Nat) (bs : List (BitVec 8)) : (storePut s l a bs).sec = s.sec := rfl
@[simp] theorem storePut_clk (l a : Nat) (bs : List (BitVec 8)) : (storePut s l a bs).clk = s.clk := rfl
@[simp] theorem storePut_fw (l a : Nat) (bs : List (BitVec 8)) : (storePut s l a bs).fw = s.fw := rfl
@[simp] theorem storePut_thm (l a : Nat) (bs : List (BitVec 8)) : (storePut s l a bs).thm = s.thm := rfl
@[simp] theorem storePut_dbg (l a : Nat) (bs : List (BitVec 8)) : (storePut s l a bs).dbg = s.dbg := rfl
@[simp] theorem storePut_lost (l a : Nat) (bs : List (BitVec 8)) : (storePut s l a bs).lost = s.lost := rfl

@[simp] theorem pmPut_pending (a : Nat) (bs : List (BitVec 8)) : (pmPut s a bs).pending = s.pending := rfl
@[simp] theorem pmPut_emitted (a : Nat) (bs : List (BitVec 8)) : (pmPut s a bs).emitted = s.emitted := rfl
@[simp] theorem pmPut_free (a : Nat) (bs : List (BitVec 8)) : (pmPut s a bs).free = s.free := rfl
@[simp] theorem pmPut_tick (a : Nat) (bs : List (BitVec 8)) : (pmPut s a bs).tick = s.tick := rfl
@[simp] theorem pmPut_ctrs (a : Nat) (bs : List (BitVec 8)) : (pmPut s a bs).ctrs = s.ctrs := rfl
@[simp] theorem pmPut_regs (a : Nat) (bs : List (BitVec 8)) : (pmPut s a bs).regs = s.regs := rfl
@[simp] theorem pmPut_guardOpen (a : Nat) (bs : List (BitVec 8)) : (pmPut s a bs).guardOpen = s.guardOpen := rfl
@[simp] theorem pmPut_store (a : Nat) (bs : List (BitVec 8)) : (pmPut s a bs).store = s.store := rfl
@[simp] theorem pmPut_pm (a : Nat) (bs : List (BitVec 8)) : (pmPut s a bs).pm = memPutBytes s.pm a bs := rfl
@[simp] theorem pmPut_ret (a : Nat) (bs : List (BitVec 8)) : (pmPut s a bs).ret = s.ret := rfl
@[simp] theorem pmPut_threads (a : Nat) (bs : List (BitVec 8)) : (pmPut s a bs).threads = s.threads := rfl
@[simp] theorem pmPut_tiles (a : Nat) (bs : List (BitVec 8)) : (pmPut s a bs).tiles = s.tiles := rfl
@[simp] theorem pmPut_queues (a : Nat) (bs : List (BitVec 8)) : (pmPut s a bs).queues = s.queues := rfl
@[simp] theorem pmPut_streams (a : Nat) (bs : List (BitVec 8)) : (pmPut s a bs).streams = s.streams := rfl
@[simp] theorem pmPut_berths (a : Nat) (bs : List (BitVec 8)) : (pmPut s a bs).berths = s.berths := rfl
@[simp] theorem pmPut_mods (a : Nat) (bs : List (BitVec 8)) : (pmPut s a bs).mods = s.mods := rfl
@[simp] theorem pmPut_clients (a : Nat) (bs : List (BitVec 8)) : (pmPut s a bs).clients = s.clients := rfl
@[simp] theorem pmPut_acct (a : Nat) (bs : List (BitVec 8)) : (pmPut s a bs).acct = s.acct := rfl
@[simp] theorem pmPut_act (a : Nat) (bs : List (BitVec 8)) : (pmPut s a bs).act = s.act := rfl
@[simp] theorem pmPut_map (a : Nat) (bs : List (BitVec 8)) : (pmPut s a bs).map = s.map := rfl
@[simp] theorem pmPut_cal (a : Nat) (bs : List (BitVec 8)) : (pmPut s a bs).cal = s.cal := rfl
@[simp] theorem pmPut_sched (a : Nat) (bs : List (BitVec 8)) : (pmPut s a bs).sched = s.sched := rfl
@[simp] theorem pmPut_pre (a : Nat) (bs : List (BitVec 8)) : (pmPut s a bs).pre = s.pre := rfl
@[simp] theorem pmPut_rng (a : Nat) (bs : List (BitVec 8)) : (pmPut s a bs).rng = s.rng := rfl
@[simp] theorem pmPut_host (a : Nat) (bs : List (BitVec 8)) : (pmPut s a bs).host = s.host := rfl
@[simp] theorem pmPut_mem (a : Nat) (bs : List (BitVec 8)) : (pmPut s a bs).mem = s.mem := rfl
@[simp] theorem pmPut_aud (a : Nat) (bs : List (BitVec 8)) : (pmPut s a bs).aud = s.aud := rfl
@[simp] theorem pmPut_chn (a : Nat) (bs : List (BitVec 8)) : (pmPut s a bs).chn = s.chn := rfl
@[simp] theorem pmPut_sec (a : Nat) (bs : List (BitVec 8)) : (pmPut s a bs).sec = s.sec := rfl
@[simp] theorem pmPut_clk (a : Nat) (bs : List (BitVec 8)) : (pmPut s a bs).clk = s.clk := rfl
@[simp] theorem pmPut_fw (a : Nat) (bs : List (BitVec 8)) : (pmPut s a bs).fw = s.fw := rfl
@[simp] theorem pmPut_thm (a : Nat) (bs : List (BitVec 8)) : (pmPut s a bs).thm = s.thm := rfl
@[simp] theorem pmPut_dbg (a : Nat) (bs : List (BitVec 8)) : (pmPut s a bs).dbg = s.dbg := rfl
@[simp] theorem pmPut_lost (a : Nat) (bs : List (BitVec 8)) : (pmPut s a bs).lost = s.lost := rfl

@[simp] theorem setFlag_pending (f : Flag) : (setFlag s f).pending = s.pending := rfl
@[simp] theorem setFlag_emitted (f : Flag) : (setFlag s f).emitted = s.emitted := rfl
@[simp] theorem setFlag_free (f : Flag) : (setFlag s f).free = s.free := rfl
@[simp] theorem setFlag_tick (f : Flag) : (setFlag s f).tick = s.tick := rfl
@[simp] theorem setFlag_ctrs (f : Flag) : (setFlag s f).ctrs = tabMod 0 s.ctrs f.ctr (fun v => v + BitVec.ofNat 48 1) := rfl
@[simp] theorem setFlag_regs (f : Flag) : (setFlag s f).regs = tabMod 0 s.regs f.off (fun w => w ||| BitVec.ofNat 32 (2 ^ f.bit)) := rfl
@[simp] theorem setFlag_guardOpen (f : Flag) : (setFlag s f).guardOpen = s.guardOpen := rfl
@[simp] theorem setFlag_store (f : Flag) : (setFlag s f).store = s.store := rfl
@[simp] theorem setFlag_pm (f : Flag) : (setFlag s f).pm = s.pm := rfl
@[simp] theorem setFlag_ret (f : Flag) : (setFlag s f).ret = s.ret := rfl
@[simp] theorem setFlag_threads (f : Flag) : (setFlag s f).threads = s.threads := rfl
@[simp] theorem setFlag_tiles (f : Flag) : (setFlag s f).tiles = s.tiles := rfl
@[simp] theorem setFlag_queues (f : Flag) : (setFlag s f).queues = s.queues := rfl
@[simp] theorem setFlag_streams (f : Flag) : (setFlag s f).streams = s.streams := rfl
@[simp] theorem setFlag_berths (f : Flag) : (setFlag s f).berths = s.berths := rfl
@[simp] theorem setFlag_mods (f : Flag) : (setFlag s f).mods = s.mods := rfl
@[simp] theorem setFlag_clients (f : Flag) : (setFlag s f).clients = s.clients := rfl
@[simp] theorem setFlag_acct (f : Flag) : (setFlag s f).acct = s.acct := rfl
@[simp] theorem setFlag_act (f : Flag) : (setFlag s f).act = s.act := rfl
@[simp] theorem setFlag_map (f : Flag) : (setFlag s f).map = s.map := rfl
@[simp] theorem setFlag_cal (f : Flag) : (setFlag s f).cal = s.cal := rfl
@[simp] theorem setFlag_sched (f : Flag) : (setFlag s f).sched = s.sched := rfl
@[simp] theorem setFlag_pre (f : Flag) : (setFlag s f).pre = s.pre := rfl
@[simp] theorem setFlag_rng (f : Flag) : (setFlag s f).rng = s.rng := rfl
@[simp] theorem setFlag_host (f : Flag) : (setFlag s f).host = s.host := rfl
@[simp] theorem setFlag_mem (f : Flag) : (setFlag s f).mem = s.mem := rfl
@[simp] theorem setFlag_aud (f : Flag) : (setFlag s f).aud = s.aud := rfl
@[simp] theorem setFlag_chn (f : Flag) : (setFlag s f).chn = s.chn := rfl
@[simp] theorem setFlag_sec (f : Flag) : (setFlag s f).sec = s.sec := rfl
@[simp] theorem setFlag_clk (f : Flag) : (setFlag s f).clk = s.clk := rfl
@[simp] theorem setFlag_fw (f : Flag) : (setFlag s f).fw = s.fw := rfl
@[simp] theorem setFlag_thm (f : Flag) : (setFlag s f).thm = s.thm := rfl
@[simp] theorem setFlag_dbg (f : Flag) : (setFlag s f).dbg = s.dbg := rfl
@[simp] theorem setFlag_lost (f : Flag) : (setFlag s f).lost = s.lost := rfl

@[simp] theorem msix0_pending : (msix0 s).pending = s.pending := rfl
@[simp] theorem msix0_emitted : (msix0 s).emitted = .msix 0 :: s.emitted := rfl
@[simp] theorem msix0_free : (msix0 s).free = s.free := rfl
@[simp] theorem msix0_tick : (msix0 s).tick = s.tick := rfl
@[simp] theorem msix0_ctrs : (msix0 s).ctrs = tabMod 0 s.ctrs (hifCtr 19) (fun v => v + BitVec.ofNat 48 1) := rfl
@[simp] theorem msix0_regs : (msix0 s).regs = s.regs := rfl
@[simp] theorem msix0_guardOpen : (msix0 s).guardOpen = s.guardOpen := rfl
@[simp] theorem msix0_store : (msix0 s).store = s.store := rfl
@[simp] theorem msix0_pm : (msix0 s).pm = s.pm := rfl
@[simp] theorem msix0_ret : (msix0 s).ret = s.ret := rfl
@[simp] theorem msix0_threads : (msix0 s).threads = s.threads := rfl
@[simp] theorem msix0_tiles : (msix0 s).tiles = s.tiles := rfl
@[simp] theorem msix0_queues : (msix0 s).queues = s.queues := rfl
@[simp] theorem msix0_streams : (msix0 s).streams = s.streams := rfl
@[simp] theorem msix0_berths : (msix0 s).berths = s.berths := rfl
@[simp] theorem msix0_mods : (msix0 s).mods = s.mods := rfl
@[simp] theorem msix0_clients : (msix0 s).clients = s.clients := rfl
@[simp] theorem msix0_acct : (msix0 s).acct = s.acct := rfl
@[simp] theorem msix0_act : (msix0 s).act = s.act := rfl
@[simp] theorem msix0_map : (msix0 s).map = s.map := rfl
@[simp] theorem msix0_cal : (msix0 s).cal = s.cal := rfl
@[simp] theorem msix0_sched : (msix0 s).sched = s.sched := rfl
@[simp] theorem msix0_pre : (msix0 s).pre = s.pre := rfl
@[simp] theorem msix0_rng : (msix0 s).rng = s.rng := rfl
@[simp] theorem msix0_host : (msix0 s).host = s.host := rfl
@[simp] theorem msix0_mem : (msix0 s).mem = s.mem := rfl
@[simp] theorem msix0_aud : (msix0 s).aud = s.aud := rfl
@[simp] theorem msix0_chn : (msix0 s).chn = s.chn := rfl
@[simp] theorem msix0_sec : (msix0 s).sec = s.sec := rfl
@[simp] theorem msix0_clk : (msix0 s).clk = s.clk := rfl
@[simp] theorem msix0_fw : (msix0 s).fw = s.fw := rfl
@[simp] theorem msix0_thm : (msix0 s).thm = s.thm := rfl
@[simp] theorem msix0_dbg : (msix0 s).dbg = s.dbg := rfl
@[simp] theorem msix0_lost : (msix0 s).lost = s.lost := rfl

@[simp] theorem setIrqFlag_pending (f : Flag) : (setIrqFlag s f).pending = s.pending := rfl
@[simp] theorem setIrqFlag_emitted (f : Flag) : (setIrqFlag s f).emitted = .msix 0 :: s.emitted := rfl
@[simp] theorem setIrqFlag_free (f : Flag) : (setIrqFlag s f).free = s.free := rfl
@[simp] theorem setIrqFlag_tick (f : Flag) : (setIrqFlag s f).tick = s.tick := rfl
@[simp] theorem setIrqFlag_ctrs (f : Flag) : (setIrqFlag s f).ctrs = (msix0 (setFlag s f)).ctrs := rfl
@[simp] theorem setIrqFlag_regs (f : Flag) : (setIrqFlag s f).regs = (setFlag s f).regs := rfl
@[simp] theorem setIrqFlag_guardOpen (f : Flag) : (setIrqFlag s f).guardOpen = s.guardOpen := rfl
@[simp] theorem setIrqFlag_store (f : Flag) : (setIrqFlag s f).store = s.store := rfl
@[simp] theorem setIrqFlag_pm (f : Flag) : (setIrqFlag s f).pm = s.pm := rfl
@[simp] theorem setIrqFlag_ret (f : Flag) : (setIrqFlag s f).ret = s.ret := rfl
@[simp] theorem setIrqFlag_threads (f : Flag) : (setIrqFlag s f).threads = s.threads := rfl
@[simp] theorem setIrqFlag_tiles (f : Flag) : (setIrqFlag s f).tiles = s.tiles := rfl
@[simp] theorem setIrqFlag_queues (f : Flag) : (setIrqFlag s f).queues = s.queues := rfl
@[simp] theorem setIrqFlag_streams (f : Flag) : (setIrqFlag s f).streams = s.streams := rfl
@[simp] theorem setIrqFlag_berths (f : Flag) : (setIrqFlag s f).berths = s.berths := rfl
@[simp] theorem setIrqFlag_mods (f : Flag) : (setIrqFlag s f).mods = s.mods := rfl
@[simp] theorem setIrqFlag_clients (f : Flag) : (setIrqFlag s f).clients = s.clients := rfl
@[simp] theorem setIrqFlag_acct (f : Flag) : (setIrqFlag s f).acct = s.acct := rfl
@[simp] theorem setIrqFlag_act (f : Flag) : (setIrqFlag s f).act = s.act := rfl
@[simp] theorem setIrqFlag_map (f : Flag) : (setIrqFlag s f).map = s.map := rfl
@[simp] theorem setIrqFlag_cal (f : Flag) : (setIrqFlag s f).cal = s.cal := rfl
@[simp] theorem setIrqFlag_sched (f : Flag) : (setIrqFlag s f).sched = s.sched := rfl
@[simp] theorem setIrqFlag_pre (f : Flag) : (setIrqFlag s f).pre = s.pre := rfl
@[simp] theorem setIrqFlag_rng (f : Flag) : (setIrqFlag s f).rng = s.rng := rfl
@[simp] theorem setIrqFlag_host (f : Flag) : (setIrqFlag s f).host = s.host := rfl
@[simp] theorem setIrqFlag_mem (f : Flag) : (setIrqFlag s f).mem = s.mem := rfl
@[simp] theorem setIrqFlag_aud (f : Flag) : (setIrqFlag s f).aud = s.aud := rfl
@[simp] theorem setIrqFlag_chn (f : Flag) : (setIrqFlag s f).chn = s.chn := rfl
@[simp] theorem setIrqFlag_sec (f : Flag) : (setIrqFlag s f).sec = s.sec := rfl
@[simp] theorem setIrqFlag_clk (f : Flag) : (setIrqFlag s f).clk = s.clk := rfl
@[simp] theorem setIrqFlag_fw (f : Flag) : (setIrqFlag s f).fw = s.fw := rfl
@[simp] theorem setIrqFlag_thm (f : Flag) : (setIrqFlag s f).thm = s.thm := rfl
@[simp] theorem setIrqFlag_dbg (f : Flag) : (setIrqFlag s f).dbg = s.dbg := rfl
@[simp] theorem setIrqFlag_lost (f : Flag) : (setIrqFlag s f).lost = s.lost := rfl

@[simp] theorem setRegWord_pending (off : Nat) (w : BitVec 32) : (setRegWord s off w).pending = s.pending := rfl
@[simp] theorem setRegWord_emitted (off : Nat) (w : BitVec 32) : (setRegWord s off w).emitted = s.emitted := rfl
@[simp] theorem setRegWord_free (off : Nat) (w : BitVec 32) : (setRegWord s off w).free = s.free := rfl
@[simp] theorem setRegWord_tick (off : Nat) (w : BitVec 32) : (setRegWord s off w).tick = s.tick := rfl
@[simp] theorem setRegWord_ctrs (off : Nat) (w : BitVec 32) : (setRegWord s off w).ctrs = s.ctrs := rfl
@[simp] theorem setRegWord_regs (off : Nat) (w : BitVec 32) : (setRegWord s off w).regs = tabSet (BitVec.ofNat 32 (resetWord off)) s.regs off w := rfl
@[simp] theorem setRegWord_guardOpen (off : Nat) (w : BitVec 32) : (setRegWord s off w).guardOpen = s.guardOpen := rfl
@[simp] theorem setRegWord_store (off : Nat) (w : BitVec 32) : (setRegWord s off w).store = s.store := rfl
@[simp] theorem setRegWord_pm (off : Nat) (w : BitVec 32) : (setRegWord s off w).pm = s.pm := rfl
@[simp] theorem setRegWord_ret (off : Nat) (w : BitVec 32) : (setRegWord s off w).ret = s.ret := rfl
@[simp] theorem setRegWord_threads (off : Nat) (w : BitVec 32) : (setRegWord s off w).threads = s.threads := rfl
@[simp] theorem setRegWord_tiles (off : Nat) (w : BitVec 32) : (setRegWord s off w).tiles = s.tiles := rfl
@[simp] theorem setRegWord_queues (off : Nat) (w : BitVec 32) : (setRegWord s off w).queues = s.queues := rfl
@[simp] theorem setRegWord_streams (off : Nat) (w : BitVec 32) : (setRegWord s off w).streams = s.streams := rfl
@[simp] theorem setRegWord_berths (off : Nat) (w : BitVec 32) : (setRegWord s off w).berths = s.berths := rfl
@[simp] theorem setRegWord_mods (off : Nat) (w : BitVec 32) : (setRegWord s off w).mods = s.mods := rfl
@[simp] theorem setRegWord_clients (off : Nat) (w : BitVec 32) : (setRegWord s off w).clients = s.clients := rfl
@[simp] theorem setRegWord_acct (off : Nat) (w : BitVec 32) : (setRegWord s off w).acct = s.acct := rfl
@[simp] theorem setRegWord_act (off : Nat) (w : BitVec 32) : (setRegWord s off w).act = s.act := rfl
@[simp] theorem setRegWord_map (off : Nat) (w : BitVec 32) : (setRegWord s off w).map = s.map := rfl
@[simp] theorem setRegWord_cal (off : Nat) (w : BitVec 32) : (setRegWord s off w).cal = s.cal := rfl
@[simp] theorem setRegWord_sched (off : Nat) (w : BitVec 32) : (setRegWord s off w).sched = s.sched := rfl
@[simp] theorem setRegWord_pre (off : Nat) (w : BitVec 32) : (setRegWord s off w).pre = s.pre := rfl
@[simp] theorem setRegWord_rng (off : Nat) (w : BitVec 32) : (setRegWord s off w).rng = s.rng := rfl
@[simp] theorem setRegWord_host (off : Nat) (w : BitVec 32) : (setRegWord s off w).host = s.host := rfl
@[simp] theorem setRegWord_mem (off : Nat) (w : BitVec 32) : (setRegWord s off w).mem = s.mem := rfl
@[simp] theorem setRegWord_aud (off : Nat) (w : BitVec 32) : (setRegWord s off w).aud = s.aud := rfl
@[simp] theorem setRegWord_chn (off : Nat) (w : BitVec 32) : (setRegWord s off w).chn = s.chn := rfl
@[simp] theorem setRegWord_sec (off : Nat) (w : BitVec 32) : (setRegWord s off w).sec = s.sec := rfl
@[simp] theorem setRegWord_clk (off : Nat) (w : BitVec 32) : (setRegWord s off w).clk = s.clk := rfl
@[simp] theorem setRegWord_fw (off : Nat) (w : BitVec 32) : (setRegWord s off w).fw = s.fw := rfl
@[simp] theorem setRegWord_thm (off : Nat) (w : BitVec 32) : (setRegWord s off w).thm = s.thm := rfl
@[simp] theorem setRegWord_dbg (off : Nat) (w : BitVec 32) : (setRegWord s off w).dbg = s.dbg := rfl
@[simp] theorem setRegWord_lost (off : Nat) (w : BitVec 32) : (setRegWord s off w).lost = s.lost := rfl

@[simp] theorem setRegField_pending (off hi lo v : Nat) : (setRegField s off hi lo v).pending = s.pending := rfl
@[simp] theorem setRegField_emitted (off hi lo v : Nat) : (setRegField s off hi lo v).emitted = s.emitted := rfl
@[simp] theorem setRegField_free (off hi lo v : Nat) : (setRegField s off hi lo v).free = s.free := rfl
@[simp] theorem setRegField_tick (off hi lo v : Nat) : (setRegField s off hi lo v).tick = s.tick := rfl
@[simp] theorem setRegField_ctrs (off hi lo v : Nat) : (setRegField s off hi lo v).ctrs = s.ctrs := rfl
@[simp] theorem setRegField_guardOpen (off hi lo v : Nat) : (setRegField s off hi lo v).guardOpen = s.guardOpen := rfl
@[simp] theorem setRegField_store (off hi lo v : Nat) : (setRegField s off hi lo v).store = s.store := rfl
@[simp] theorem setRegField_pm (off hi lo v : Nat) : (setRegField s off hi lo v).pm = s.pm := rfl
@[simp] theorem setRegField_ret (off hi lo v : Nat) : (setRegField s off hi lo v).ret = s.ret := rfl
@[simp] theorem setRegField_threads (off hi lo v : Nat) : (setRegField s off hi lo v).threads = s.threads := rfl
@[simp] theorem setRegField_tiles (off hi lo v : Nat) : (setRegField s off hi lo v).tiles = s.tiles := rfl
@[simp] theorem setRegField_queues (off hi lo v : Nat) : (setRegField s off hi lo v).queues = s.queues := rfl
@[simp] theorem setRegField_streams (off hi lo v : Nat) : (setRegField s off hi lo v).streams = s.streams := rfl
@[simp] theorem setRegField_berths (off hi lo v : Nat) : (setRegField s off hi lo v).berths = s.berths := rfl
@[simp] theorem setRegField_mods (off hi lo v : Nat) : (setRegField s off hi lo v).mods = s.mods := rfl
@[simp] theorem setRegField_clients (off hi lo v : Nat) : (setRegField s off hi lo v).clients = s.clients := rfl
@[simp] theorem setRegField_acct (off hi lo v : Nat) : (setRegField s off hi lo v).acct = s.acct := rfl
@[simp] theorem setRegField_act (off hi lo v : Nat) : (setRegField s off hi lo v).act = s.act := rfl
@[simp] theorem setRegField_map (off hi lo v : Nat) : (setRegField s off hi lo v).map = s.map := rfl
@[simp] theorem setRegField_cal (off hi lo v : Nat) : (setRegField s off hi lo v).cal = s.cal := rfl
@[simp] theorem setRegField_sched (off hi lo v : Nat) : (setRegField s off hi lo v).sched = s.sched := rfl
@[simp] theorem setRegField_pre (off hi lo v : Nat) : (setRegField s off hi lo v).pre = s.pre := rfl
@[simp] theorem setRegField_rng (off hi lo v : Nat) : (setRegField s off hi lo v).rng = s.rng := rfl
@[simp] theorem setRegField_host (off hi lo v : Nat) : (setRegField s off hi lo v).host = s.host := rfl
@[simp] theorem setRegField_mem (off hi lo v : Nat) : (setRegField s off hi lo v).mem = s.mem := rfl
@[simp] theorem setRegField_aud (off hi lo v : Nat) : (setRegField s off hi lo v).aud = s.aud := rfl
@[simp] theorem setRegField_chn (off hi lo v : Nat) : (setRegField s off hi lo v).chn = s.chn := rfl
@[simp] theorem setRegField_sec (off hi lo v : Nat) : (setRegField s off hi lo v).sec = s.sec := rfl
@[simp] theorem setRegField_clk (off hi lo v : Nat) : (setRegField s off hi lo v).clk = s.clk := rfl
@[simp] theorem setRegField_fw (off hi lo v : Nat) : (setRegField s off hi lo v).fw = s.fw := rfl
@[simp] theorem setRegField_thm (off hi lo v : Nat) : (setRegField s off hi lo v).thm = s.thm := rfl
@[simp] theorem setRegField_dbg (off hi lo v : Nat) : (setRegField s off hi lo v).dbg = s.dbg := rfl
@[simp] theorem setRegField_lost (off hi lo v : Nat) : (setRegField s off hi lo v).lost = s.lost := rfl

@[simp] theorem setQueue_pending (l eng : Nat) (q : List Cmd) : (setQueue s l eng q).pending = s.pending := rfl
@[simp] theorem setQueue_emitted (l eng : Nat) (q : List Cmd) : (setQueue s l eng q).emitted = s.emitted := rfl
@[simp] theorem setQueue_free (l eng : Nat) (q : List Cmd) : (setQueue s l eng q).free = s.free := rfl
@[simp] theorem setQueue_tick (l eng : Nat) (q : List Cmd) : (setQueue s l eng q).tick = s.tick := rfl
@[simp] theorem setQueue_ctrs (l eng : Nat) (q : List Cmd) : (setQueue s l eng q).ctrs = s.ctrs := rfl
@[simp] theorem setQueue_regs (l eng : Nat) (q : List Cmd) : (setQueue s l eng q).regs = s.regs := rfl
@[simp] theorem setQueue_guardOpen (l eng : Nat) (q : List Cmd) : (setQueue s l eng q).guardOpen = s.guardOpen := rfl
@[simp] theorem setQueue_store (l eng : Nat) (q : List Cmd) : (setQueue s l eng q).store = s.store := rfl
@[simp] theorem setQueue_pm (l eng : Nat) (q : List Cmd) : (setQueue s l eng q).pm = s.pm := rfl
@[simp] theorem setQueue_ret (l eng : Nat) (q : List Cmd) : (setQueue s l eng q).ret = s.ret := rfl
@[simp] theorem setQueue_threads (l eng : Nat) (q : List Cmd) : (setQueue s l eng q).threads = s.threads := rfl
@[simp] theorem setQueue_tiles (l eng : Nat) (q : List Cmd) : (setQueue s l eng q).tiles = s.tiles := rfl
@[simp] theorem setQueue_queues (l eng : Nat) (q : List Cmd) : (setQueue s l eng q).queues = tabSet [] s.queues (8 * l + eng) q := rfl
@[simp] theorem setQueue_streams (l eng : Nat) (q : List Cmd) : (setQueue s l eng q).streams = s.streams := rfl
@[simp] theorem setQueue_berths (l eng : Nat) (q : List Cmd) : (setQueue s l eng q).berths = s.berths := rfl
@[simp] theorem setQueue_mods (l eng : Nat) (q : List Cmd) : (setQueue s l eng q).mods = s.mods := rfl
@[simp] theorem setQueue_clients (l eng : Nat) (q : List Cmd) : (setQueue s l eng q).clients = s.clients := rfl
@[simp] theorem setQueue_acct (l eng : Nat) (q : List Cmd) : (setQueue s l eng q).acct = s.acct := rfl
@[simp] theorem setQueue_act (l eng : Nat) (q : List Cmd) : (setQueue s l eng q).act = s.act := rfl
@[simp] theorem setQueue_map (l eng : Nat) (q : List Cmd) : (setQueue s l eng q).map = s.map := rfl
@[simp] theorem setQueue_cal (l eng : Nat) (q : List Cmd) : (setQueue s l eng q).cal = s.cal := rfl
@[simp] theorem setQueue_sched (l eng : Nat) (q : List Cmd) : (setQueue s l eng q).sched = s.sched := rfl
@[simp] theorem setQueue_pre (l eng : Nat) (q : List Cmd) : (setQueue s l eng q).pre = s.pre := rfl
@[simp] theorem setQueue_rng (l eng : Nat) (q : List Cmd) : (setQueue s l eng q).rng = s.rng := rfl
@[simp] theorem setQueue_host (l eng : Nat) (q : List Cmd) : (setQueue s l eng q).host = s.host := rfl
@[simp] theorem setQueue_mem (l eng : Nat) (q : List Cmd) : (setQueue s l eng q).mem = s.mem := rfl
@[simp] theorem setQueue_aud (l eng : Nat) (q : List Cmd) : (setQueue s l eng q).aud = s.aud := rfl
@[simp] theorem setQueue_chn (l eng : Nat) (q : List Cmd) : (setQueue s l eng q).chn = s.chn := rfl
@[simp] theorem setQueue_sec (l eng : Nat) (q : List Cmd) : (setQueue s l eng q).sec = s.sec := rfl
@[simp] theorem setQueue_clk (l eng : Nat) (q : List Cmd) : (setQueue s l eng q).clk = s.clk := rfl
@[simp] theorem setQueue_fw (l eng : Nat) (q : List Cmd) : (setQueue s l eng q).fw = s.fw := rfl
@[simp] theorem setQueue_thm (l eng : Nat) (q : List Cmd) : (setQueue s l eng q).thm = s.thm := rfl
@[simp] theorem setQueue_dbg (l eng : Nat) (q : List Cmd) : (setQueue s l eng q).dbg = s.dbg := rfl
@[simp] theorem setQueue_lost (l eng : Nat) (q : List Cmd) : (setQueue s l eng q).lost = s.lost := rfl

@[simp] theorem hold_pending (lt : BitVec 12) (w : WaitOn) : (hold s lt w).pending = s.pending := rfl
@[simp] theorem hold_emitted (lt : BitVec 12) (w : WaitOn) : (hold s lt w).emitted = s.emitted := rfl
@[simp] theorem hold_free (lt : BitVec 12) (w : WaitOn) : (hold s lt w).free = s.free := rfl
@[simp] theorem hold_tick (lt : BitVec 12) (w : WaitOn) : (hold s lt w).tick = s.tick := rfl
@[simp] theorem hold_ctrs (lt : BitVec 12) (w : WaitOn) : (hold s lt w).ctrs = s.ctrs := rfl
@[simp] theorem hold_regs (lt : BitVec 12) (w : WaitOn) : (hold s lt w).regs = s.regs := rfl
@[simp] theorem hold_guardOpen (lt : BitVec 12) (w : WaitOn) : (hold s lt w).guardOpen = s.guardOpen := rfl
@[simp] theorem hold_store (lt : BitVec 12) (w : WaitOn) : (hold s lt w).store = s.store := rfl
@[simp] theorem hold_pm (lt : BitVec 12) (w : WaitOn) : (hold s lt w).pm = s.pm := rfl
@[simp] theorem hold_ret (lt : BitVec 12) (w : WaitOn) : (hold s lt w).ret = s.ret := rfl
@[simp] theorem hold_threads (lt : BitVec 12) (w : WaitOn) : (hold s lt w).threads = tabSet {} s.threads lt.toNat { thread s lt with st := .waiting, wait := some w } := rfl
@[simp] theorem hold_tiles (lt : BitVec 12) (w : WaitOn) : (hold s lt w).tiles = s.tiles := rfl
@[simp] theorem hold_queues (lt : BitVec 12) (w : WaitOn) : (hold s lt w).queues = s.queues := rfl
@[simp] theorem hold_streams (lt : BitVec 12) (w : WaitOn) : (hold s lt w).streams = s.streams := rfl
@[simp] theorem hold_berths (lt : BitVec 12) (w : WaitOn) : (hold s lt w).berths = s.berths := rfl
@[simp] theorem hold_mods (lt : BitVec 12) (w : WaitOn) : (hold s lt w).mods = s.mods := rfl
@[simp] theorem hold_clients (lt : BitVec 12) (w : WaitOn) : (hold s lt w).clients = s.clients := rfl
@[simp] theorem hold_acct (lt : BitVec 12) (w : WaitOn) : (hold s lt w).acct = s.acct := rfl
@[simp] theorem hold_act (lt : BitVec 12) (w : WaitOn) : (hold s lt w).act = s.act := rfl
@[simp] theorem hold_map (lt : BitVec 12) (w : WaitOn) : (hold s lt w).map = s.map := rfl
@[simp] theorem hold_cal (lt : BitVec 12) (w : WaitOn) : (hold s lt w).cal = s.cal := rfl
@[simp] theorem hold_sched (lt : BitVec 12) (w : WaitOn) : (hold s lt w).sched = s.sched := rfl
@[simp] theorem hold_pre (lt : BitVec 12) (w : WaitOn) : (hold s lt w).pre = s.pre := rfl
@[simp] theorem hold_rng (lt : BitVec 12) (w : WaitOn) : (hold s lt w).rng = s.rng := rfl
@[simp] theorem hold_host (lt : BitVec 12) (w : WaitOn) : (hold s lt w).host = s.host := rfl
@[simp] theorem hold_mem (lt : BitVec 12) (w : WaitOn) : (hold s lt w).mem = s.mem := rfl
@[simp] theorem hold_aud (lt : BitVec 12) (w : WaitOn) : (hold s lt w).aud = s.aud := rfl
@[simp] theorem hold_chn (lt : BitVec 12) (w : WaitOn) : (hold s lt w).chn = s.chn := rfl
@[simp] theorem hold_sec (lt : BitVec 12) (w : WaitOn) : (hold s lt w).sec = s.sec := rfl
@[simp] theorem hold_clk (lt : BitVec 12) (w : WaitOn) : (hold s lt w).clk = s.clk := rfl
@[simp] theorem hold_fw (lt : BitVec 12) (w : WaitOn) : (hold s lt w).fw = s.fw := rfl
@[simp] theorem hold_thm (lt : BitVec 12) (w : WaitOn) : (hold s lt w).thm = s.thm := rfl
@[simp] theorem hold_dbg (lt : BitVec 12) (w : WaitOn) : (hold s lt w).dbg = s.dbg := rfl
@[simp] theorem hold_lost (lt : BitVec 12) (w : WaitOn) : (hold s lt w).lost = s.lost := rfl

@[simp] theorem countIssue_pending (lt : BitVec 12) : (countIssue s lt).pending = s.pending := rfl
@[simp] theorem countIssue_emitted (lt : BitVec 12) : (countIssue s lt).emitted = s.emitted := rfl
@[simp] theorem countIssue_free (lt : BitVec 12) : (countIssue s lt).free = s.free := rfl
@[simp] theorem countIssue_tick (lt : BitVec 12) : (countIssue s lt).tick = s.tick := rfl
@[simp] theorem countIssue_ctrs (lt : BitVec 12) : (countIssue s lt).ctrs = tabMod 0 s.ctrs (cIssued (physOf s (lcluOf lt))) (fun v => v + BitVec.ofNat 48 1) := rfl
@[simp] theorem countIssue_regs (lt : BitVec 12) : (countIssue s lt).regs = s.regs := rfl
@[simp] theorem countIssue_guardOpen (lt : BitVec 12) : (countIssue s lt).guardOpen = s.guardOpen := rfl
@[simp] theorem countIssue_store (lt : BitVec 12) : (countIssue s lt).store = s.store := rfl
@[simp] theorem countIssue_pm (lt : BitVec 12) : (countIssue s lt).pm = s.pm := rfl
@[simp] theorem countIssue_ret (lt : BitVec 12) : (countIssue s lt).ret = s.ret := rfl
@[simp] theorem countIssue_threads (lt : BitVec 12) : (countIssue s lt).threads = s.threads := rfl
@[simp] theorem countIssue_tiles (lt : BitVec 12) : (countIssue s lt).tiles = s.tiles := rfl
@[simp] theorem countIssue_queues (lt : BitVec 12) : (countIssue s lt).queues = s.queues := rfl
@[simp] theorem countIssue_streams (lt : BitVec 12) : (countIssue s lt).streams = s.streams := rfl
@[simp] theorem countIssue_berths (lt : BitVec 12) : (countIssue s lt).berths = s.berths := rfl
@[simp] theorem countIssue_mods (lt : BitVec 12) : (countIssue s lt).mods = s.mods := rfl
@[simp] theorem countIssue_clients (lt : BitVec 12) : (countIssue s lt).clients = s.clients := rfl
@[simp] theorem countIssue_acct (lt : BitVec 12) : (countIssue s lt).acct = s.acct := rfl
@[simp] theorem countIssue_act (lt : BitVec 12) : (countIssue s lt).act = s.act := rfl
@[simp] theorem countIssue_map (lt : BitVec 12) : (countIssue s lt).map = s.map := rfl
@[simp] theorem countIssue_cal (lt : BitVec 12) : (countIssue s lt).cal = s.cal := rfl
@[simp] theorem countIssue_sched (lt : BitVec 12) : (countIssue s lt).sched = s.sched := rfl
@[simp] theorem countIssue_pre (lt : BitVec 12) : (countIssue s lt).pre = s.pre := rfl
@[simp] theorem countIssue_rng (lt : BitVec 12) : (countIssue s lt).rng = s.rng := rfl
@[simp] theorem countIssue_host (lt : BitVec 12) : (countIssue s lt).host = s.host := rfl
@[simp] theorem countIssue_mem (lt : BitVec 12) : (countIssue s lt).mem = s.mem := rfl
@[simp] theorem countIssue_aud (lt : BitVec 12) : (countIssue s lt).aud = s.aud := rfl
@[simp] theorem countIssue_chn (lt : BitVec 12) : (countIssue s lt).chn = s.chn := rfl
@[simp] theorem countIssue_sec (lt : BitVec 12) : (countIssue s lt).sec = s.sec := rfl
@[simp] theorem countIssue_clk (lt : BitVec 12) : (countIssue s lt).clk = s.clk := rfl
@[simp] theorem countIssue_fw (lt : BitVec 12) : (countIssue s lt).fw = s.fw := rfl
@[simp] theorem countIssue_thm (lt : BitVec 12) : (countIssue s lt).thm = s.thm := rfl
@[simp] theorem countIssue_dbg (lt : BitVec 12) : (countIssue s lt).dbg = s.dbg := rfl
@[simp] theorem countIssue_lost (lt : BitVec 12) : (countIssue s lt).lost = s.lost := rfl

end Sys2Proof.Machine
end

