-- ==== Sys2Proof/Laws/Tab.lean ====
section
/-! SUPPORT. Laws of the sparse tables and byte memories: read after write, other keys, the canonical form. -/

namespace Sys2Proof.Machine
open Sys2Proof

/-- Every listed key lies above `k`. -/
def tabAbove {α : Type} (k : Nat) (t : Tab α) : Prop := ∀ e ∈ t, k < e.1

theorem tabRising_cons {α : Type} (e : Nat × α) (t : Tab α) :
    tabRising (e :: t) = true ↔ tabAbove e.1 t ∧ tabRising t = true := by
  induction t generalizing e with
  | nil => simp [tabRising, tabAbove]
  | cons h t ih =>
    obtain ⟨j, v⟩ := e; obtain ⟨k, w⟩ := h
    rw [show tabRising ((j, v) :: (k, w) :: t) = (decide (j < k) && tabRising ((k, w) :: t)) from rfl]
    simp only [Bool.and_eq_true, decide_eq_true_eq, tabAbove, List.mem_cons, forall_eq_or_imp]
    constructor
    · rintro ⟨h1, h2⟩
      refine ⟨⟨h1, fun e he => ?_⟩, h2⟩
      have := ((ih (k, w)).1 h2).1 e he
      omega
    · rintro ⟨⟨h1, _⟩, h2⟩; exact ⟨h1, h2⟩

theorem tabFind_above {α : Type} (k : Nat) (t : Tab α) (h : tabAbove k t) : tabFind t k = none := by
  induction t with
  | nil => rfl
  | cons e t ih =>
    obtain ⟨j, v⟩ := e
    have hj : k < j := h (j, v) (by simp)
    simp only [tabFind, show j ≠ k by omega, ite_false]
    exact ih (fun e he => h e (by simp [he]))

@[simp] theorem tabFind_put_same {α : Type} (t : Tab α) (k : Nat) (v : α) : tabFind (tabPut t k v) k = some v := by
  induction t with
  | nil => simp [tabPut, tabFind]
  | cons e t ih =>
    obtain ⟨j, w⟩ := e
    simp only [tabPut]
    split
    · simp [tabFind]
    · split
      · simp [tabFind]
      · rename_i h1 h2; simp [tabFind, ih, show j ≠ k from fun h => h2 h.symm]

theorem tabFind_put_other {α : Type} (t : Tab α) (k j : Nat) (v : α) (h : j ≠ k) :
    tabFind (tabPut t k v) j = tabFind t j := by
  induction t with
  | nil => simp [tabPut, tabFind, Ne.symm h]
  | cons e t ih =>
    obtain ⟨i, w⟩ := e
    simp only [tabPut]
    split
    · simp [tabFind, Ne.symm h]
    · split
      · rename_i h1 h2; subst h2; simp [tabFind, Ne.symm h]
      · simp only [tabFind, ih]

theorem tabFind_erase_other {α : Type} (t : Tab α) (k j : Nat) (h : j ≠ k) :
    tabFind (tabErase t k) j = tabFind t j := by
  induction t with
  | nil => rfl
  | cons e t ih =>
    obtain ⟨i, w⟩ := e
    simp only [tabErase]
    split
    · rename_i h1; subst h1; simp [tabFind, Ne.symm h, ih]
    · simp only [tabFind, ih]

@[simp] theorem tabFind_erase_same {α : Type} (t : Tab α) (k : Nat) : tabFind (tabErase t k) k = none := by
  induction t with
  | nil => rfl
  | cons e t ih =>
    obtain ⟨i, w⟩ := e
    simp only [tabErase]
    split
    · exact ih
    · rename_i h1; simp [tabFind, h1, ih]

/-- A write leaves what every other key reads as. -/
@[simp] theorem tabGet_set_other {α : Type} [DecidableEq α] (d e : α) (t : Tab α) (k j : Nat) (v : α) (h : j ≠ k) :
    tabGet e (tabSet d t k v) j = tabGet e t j := by
  unfold tabGet tabSet
  split
  · rw [tabFind_erase_other _ _ _ h]
  · rw [tabFind_put_other _ _ _ _ h]

/-- A key reads what was written. -/
@[simp] theorem tabGet_set_same {α : Type} [DecidableEq α] (d : α) (t : Tab α) (k : Nat) (v : α) :
    tabGet d (tabSet d t k v) k = v := by
  unfold tabGet tabSet
  split
  · rename_i hv; simp [hv]
  · simp

@[simp] theorem tabGet_put_same {α : Type} (d : α) (t : Tab α) (k : Nat) (v : α) : tabGet d (tabPut t k v) k = v := by
  simp [tabGet]

@[simp] theorem tabGet_put_other {α : Type} (d : α) (t : Tab α) (k j : Nat) (v : α) (h : j ≠ k) :
    tabGet d (tabPut t k v) j = tabGet d t j := by
  simp [tabGet, tabFind_put_other _ _ _ _ h]

theorem tabAbove_put {α : Type} (t : Tab α) (b k : Nat) (v : α) (h : tabAbove b t) (hk : b < k) : tabAbove b (tabPut t k v) := by
  induction t with
  | nil => intro e he; simp [tabPut] at he; subst he; exact hk
  | cons e t ih =>
    obtain ⟨j, w⟩ := e
    simp only [tabPut]
    have hj := h (j, w) (by simp)
    have ht : tabAbove b t := fun e he => h e (by simp [he])
    split
    · intro e he; simp only [List.mem_cons] at he
      rcases he with rfl | rfl | he
      · exact hk
      · exact hj
      · exact ht e he
    · split
      · intro e he; simp only [List.mem_cons] at he
        rcases he with rfl | he
        · exact hk
        · exact ht e he
      · intro e he; simp only [List.mem_cons] at he
        rcases he with rfl | he
        · exact hj
        · exact ih ht e he

theorem tabRising_put {α : Type} (t : Tab α) (k : Nat) (v : α) (h : tabRising t = true) : tabRising (tabPut t k v) = true := by
  induction t with
  | nil => rfl
  | cons e t ih =>
    obtain ⟨j, w⟩ := e
    obtain ⟨ha, hr⟩ := (tabRising_cons (j, w) t).1 h
    simp only [tabPut]
    split
    · rename_i h1
      refine (tabRising_cons _ _).2 ⟨?_, h⟩
      intro e he; simp only [List.mem_cons] at he
      rcases he with rfl | he
      · exact h1
      · have := ha e he; simp at this ⊢; omega
    · split
      · rename_i h1 h2; subst h2; exact (tabRising_cons _ _).2 ⟨ha, hr⟩
      · rename_i h1 h2
        exact (tabRising_cons _ _).2 ⟨tabAbove_put _ _ _ _ ha (by simp; omega), ih hr⟩

theorem tabAbove_erase {α : Type} (t : Tab α) (b k : Nat) (h : tabAbove b t) : tabAbove b (tabErase t k) := by
  induction t with
  | nil => exact h
  | cons e t ih =>
    obtain ⟨j, w⟩ := e
    have ht : tabAbove b t := fun e he => h e (by simp [he])
    simp only [tabErase]
    split
    · exact ih ht
    · intro e he; simp only [List.mem_cons] at he
      rcases he with rfl | he
      · exact h _ (by simp)
      · exact ih ht e he

theorem tabRising_erase {α : Type} (t : Tab α) (k : Nat) (h : tabRising t = true) : tabRising (tabErase t k) = true := by
  induction t with
  | nil => rfl
  | cons e t ih =>
    obtain ⟨j, w⟩ := e
    obtain ⟨ha, hr⟩ := (tabRising_cons (j, w) t).1 h
    simp only [tabErase]
    split
    · exact ih hr
    · exact (tabRising_cons _ _).2 ⟨tabAbove_erase _ _ _ ha, ih hr⟩

theorem tabRising_set {α : Type} [DecidableEq α] (d : α) (t : Tab α) (k : Nat) (v : α) (h : tabRising t = true) :
    tabRising (tabSet d t k v) = true := by
  unfold tabSet; split
  · exact tabRising_erase _ _ h
  · exact tabRising_put _ _ _ h

theorem mem_tabErase {α : Type} (t : Tab α) (k : Nat) (e : Nat × α) (h : e ∈ tabErase t k) : e ∈ t := by
  induction t with
  | nil => exact h
  | cons f t ih =>
    obtain ⟨j, w⟩ := f
    simp only [tabErase] at h
    split at h
    · exact List.mem_cons_of_mem _ (ih h)
    · simp only [List.mem_cons] at h ⊢
      rcases h with h | h
      · exact .inl h
      · exact .inr (ih h)

theorem mem_tabPut {α : Type} (t : Tab α) (k : Nat) (v : α) (e : Nat × α) (h : e ∈ tabPut t k v) : e = (k, v) ∨ e ∈ t := by
  induction t with
  | nil => simpa [tabPut] using h
  | cons f t ih =>
    obtain ⟨j, w⟩ := f
    simp only [tabPut] at h
    split at h
    · simpa using h
    · split at h
      · simp only [List.mem_cons] at h ⊢
        rcases h with h | h
        · exact .inl h
        · exact .inr (.inr h)
      · simp only [List.mem_cons] at h ⊢
        rcases h with h | h
        · exact .inr (.inl h)
        · rcases ih h with h | h
          · exact .inl h
          · exact .inr (.inr h)

/-- A write keeps the canonical form. -/
theorem tabWf_set {α : Type} [DecidableEq α] (d : α) (t : Tab α) (k : Nat) (v : α) (h : tabWf d t = true) :
    tabWf d (tabSet d t k v) = true := by
  simp only [tabWf, Bool.and_eq_true, List.all_eq_true, decide_eq_true_eq] at h ⊢
  refine ⟨tabRising_set _ _ _ _ h.1, fun e he => ?_⟩
  unfold tabSet at he; split at he
  · exact h.2 e (mem_tabErase _ _ _ he)
  · rename_i hv
    rcases mem_tabPut _ _ _ _ he with rfl | he
    · exact hv
    · exact h.2 e he

/-! ## Byte memories -/

theorem memWf_put (m : List (Nat × BitVec 8)) (a : Nat) (b : BitVec 8) (h : memWf m = true) : memWf (memPut m a b) = true :=
  tabWf_set _ _ _ _ h

theorem memWf_putBytes (m : List (Nat × BitVec 8)) (a : Nat) (bs : List (BitVec 8)) (h : memWf m = true) :
    memWf (memPutBytes m a bs) = true := by
  induction bs generalizing m a with
  | nil => exact h
  | cons b bs ih => exact ih _ _ (memWf_put _ _ _ h)

theorem tabRising_filter {α : Type} (p : Nat × α → Bool) (t : Tab α) (h : tabRising t = true) : tabRising (t.filter p) = true := by
  induction t with
  | nil => rfl
  | cons e t ih =>
    obtain ⟨ha, hr⟩ := (tabRising_cons e t).1 h
    simp only [List.filter]
    split
    · exact (tabRising_cons _ _).2 ⟨fun f hf => ha f (List.mem_of_mem_filter hf), ih hr⟩
    · exact ih hr

theorem memWf_filter (p : Nat × BitVec 8 → Bool) (m : List (Nat × BitVec 8)) (h : memWf m = true) : memWf (m.filter p) = true := by
  simp only [memWf, tabWf, Bool.and_eq_true, List.all_eq_true] at h ⊢
  exact ⟨tabRising_filter _ _ h.1, fun e he => h.2 e (List.mem_of_mem_filter he)⟩

theorem memWf_zero (m : List (Nat × BitVec 8)) (lo n : Nat) (h : memWf m = true) : memWf (memZero m lo n) = true :=
  memWf_filter _ _ h

/-- A byte that is not written reads as before. -/
theorem memByte_put_other (m : List (Nat × BitVec 8)) (a x : Nat) (b : BitVec 8) (h : x ≠ a) :
    memByte (memPut m a b) x = memByte m x := tabGet_set_other _ _ _ _ _ _ h

theorem memByte_put_same (m : List (Nat × BitVec 8)) (a : Nat) (b : BitVec 8) :
    memByte (memPut m a b) a = b := tabGet_set_same _ _ _ _

/-- Bytes outside the written range read as before. -/
theorem memByte_putBytes_other (m : List (Nat × BitVec 8)) (a x : Nat) (bs : List (BitVec 8)) (h : x < a ∨ a + bs.length ≤ x) :
    memByte (memPutBytes m a bs) x = memByte m x := by
  induction bs generalizing m a with
  | nil => rfl
  | cons b bs ih =>
    simp only [List.length_cons] at h
    rw [memPutBytes, ih _ _ (by omega), memByte_put_other _ _ _ _ (by omega)]

/-- A written range reads back. -/
theorem memBytes_putBytes_same (m : List (Nat × BitVec 8)) (a : Nat) (bs : List (BitVec 8)) :
    memBytes (memPutBytes m a bs) a bs.length = bs := by
  induction bs generalizing m a with
  | nil => rfl
  | cons b bs ih =>
    simp only [memPutBytes, List.length_cons, memBytes]
    rw [ih, memByte_putBytes_other _ _ _ _ (by omega), memByte_put_same]

/-- Zeroed bytes read 0. -/
theorem memByte_zero_in (m : List (Nat × BitVec 8)) (lo n x : Nat) (h : lo ≤ x ∧ x < lo + n) : memByte (memZero m lo n) x = 0 := by
  unfold memByte tabGet
  suffices tabFind (memZero m lo n) x = none by simp [this]
  induction m with
  | nil => rfl
  | cons c m ih =>
    obtain ⟨a, b⟩ := c
    unfold memZero at ih ⊢
    simp only [List.filter]
    split
    · rename_i hc
      simp only [tabFind]
      split
      · rename_i hx; subst hx; simp [h.1, h.2] at hc
      · exact ih
    · exact ih

end Sys2Proof.Machine
end

