-- ==== Sys2Proof/Laws/Ops.lean ====
section
/-! SUPPORT. What each named operation over State can do: read after write of every table, and what stays. -/

namespace Sys2Proof.Machine
open Sys2Proof

variable (s : State)

/-! ## Counters and flags -/

@[simp] theorem ctr_addCtr_same (i n : Nat) : ctr (addCtr s i n) i = ctr s i + BitVec.ofNat 48 n := by simp [ctr, tabMod]
@[simp] theorem ctr_addCtr_other (i n k : Nat) (h : k ≠ i) : ctr (addCtr s i n) k = ctr s k := by simp [ctr, tabMod, h]
@[simp] theorem ctr_bump_same (i : Nat) : ctr (bump s i) i = ctr s i + 1 := by simp [bump]
@[simp] theorem ctr_bump_other (i k : Nat) (h : k ≠ i) : ctr (bump s i) k = ctr s k := by simp [bump, h]
theorem ctr_bump (i k : Nat) : ctr (bump s i) k = if k = i then ctr s k + 1 else ctr s k := by
  split
  · rename_i h; subst h; simp
  · rename_i h; simp [h]

/-- The flag word after a set. -/
theorem flagOn_setFlag (f g : Flag) :
    flagOn (setFlag s f) g = (flagOn s g || (decide (g.off = f.off) && decide (g.bit = f.bit) && decide (f.bit < 32))) := by
  by_cases ho : g.off = f.off
  · unfold flagOn
    rw [setFlag_regs, ho, tabMod, tabGet_set_same, BitVec.getLsbD_or, BitVec.getLsbD_ofNat, Nat.testBit_two_pow]
    congr 1
    by_cases hb : g.bit = f.bit <;> simp [hb, Ne.symm]
  · simp [flagOn, tabMod, ho]

/-- A flag that the device sets reads 1. -/
theorem flagOn_setFlag_same (f : Flag) (h : f.bit < 32) : flagOn (setFlag s f) f = true := by
  simp [flagOn_setFlag, h]

/-- Each set of a flag counts (R455). -/
@[simp] theorem ctr_setFlag (f : Flag) (k : Nat) : ctr (setFlag s f) k = if k = f.ctr then ctr s k + 1 else ctr s k := by
  by_cases h : k = f.ctr
  · subst h; simp [ctr, tabMod]
  · simp [ctr, tabMod, h]

/-! ## Tables of units -/

@[simp] theorem thread_setThread_same (k : BitVec 12) (v : Thread) : thread (setThread s k v) k = v := by simp [thread]
@[simp] theorem thread_setThread_other (k j : BitVec 12) (v : Thread) (h : j ≠ k) : thread (setThread s k v) j = thread s j := by
  have : j.toNat ≠ k.toNat := fun e => h (BitVec.eq_of_toNat_eq e)
  simp [thread, this]
@[simp] theorem berth_setBerth_same (k : BitVec 12) (v : Berth) : berth (setBerth s k v) k = v := by simp [berth]
@[simp] theorem berth_setBerth_other (k j : BitVec 12) (v : Berth) (h : j ≠ k) : berth (setBerth s k v) j = berth s j := by
  have : j.toNat ≠ k.toNat := fun e => h (BitVec.eq_of_toNat_eq e)
  simp [berth, this]
@[simp] theorem berth_modBerth_same (k : BitVec 12) (f : Berth → Berth) : berth (modBerth s k f) k = f (berth s k) := by
  simp [modBerth]
@[simp] theorem berth_modBerth_other (k j : BitVec 12) (f : Berth → Berth) (h : j ≠ k) : berth (modBerth s k f) j = berth s j := by
  simp [modBerth, h]
@[simp] theorem module_setModule_same (k : BitVec 8) (v : Module) : module (setModule s k v) k = v := by simp [module]
@[simp] theorem module_setModule_other (k j : BitVec 8) (v : Module) (h : j ≠ k) : module (setModule s k v) j = module s j := by
  have : j.toNat ≠ k.toNat := fun e => h (BitVec.eq_of_toNat_eq e)
  simp [module, this]
@[simp] theorem client_setClient_same (k : BitVec 10) (v : Client) : client (setClient s k v) k = v := by simp [client]
@[simp] theorem client_setClient_other (k j : BitVec 10) (v : Client) (h : j ≠ k) : client (setClient s k v) j = client s j := by
  have : j.toNat ≠ k.toNat := fun e => h (BitVec.eq_of_toNat_eq e)
  simp [client, this]
@[simp] theorem client_modClient_same (k : BitVec 10) (f : Client → Client) : client (modClient s k f) k = f (client s k) := by
  simp [modClient]
@[simp] theorem client_modClient_other (k j : BitVec 10) (f : Client → Client) (h : j ≠ k) :
    client (modClient s k f) j = client s j := by
  simp [modClient, h]
@[simp] theorem tileAt_setTile_same (k : Nat) (v : Tile) : tileAt (setTile s k v) k = v := by simp [tileAt]
@[simp] theorem tileAt_setTile_other (k j : Nat) (v : Tile) (h : j ≠ k) : tileAt (setTile s k v) j = tileAt s j := by
  simp [tileAt, h]
@[simp] theorem tileAt_modTile_same (k : Nat) (f : Tile → Tile) : tileAt (modTile s k f) k = f (tileAt s k) := by simp [modTile]
@[simp] theorem tileAt_modTile_other (k j : Nat) (f : Tile → Tile) (h : j ≠ k) : tileAt (modTile s k f) j = tileAt s j := by
  simp [modTile, h]
@[simp] theorem queue_setQueue_same (l e : Nat) (q : List Cmd) : queue (setQueue s l e q) l e = q := by simp [queue]
theorem queue_setQueue_other (l e l' e' : Nat) (q : List Cmd) (h : 8 * l' + e' ≠ 8 * l + e) :
    queue (setQueue s l e q) l' e' = queue s l' e' := by
  simp [queue, h]
@[simp] theorem regWord_setRegWord_same (o : Nat) (w : BitVec 32) : regWord (setRegWord s o w) o = w := by simp [regWord]
@[simp] theorem regWord_setRegWord_other (o p : Nat) (w : BitVec 32) (h : p ≠ o) : regWord (setRegWord s o w) p = regWord s p := by
  simp [regWord, h]
@[simp] theorem cluState_setCluState_same (n : Nat) (u : UnitState) : cluState (setCluState s n u) n = u := by simp [cluState]
@[simp] theorem tileState_setTileState_same (n t : Nat) (u : UnitState) : tileState (setTileState s n t u) n t = u := by
  simp [tileState]
@[simp] theorem savePhase_setSavePhase_same (l : Nat) (p : SavePhase) : savePhase (setSavePhase s l p) l = p := by simp [savePhase]

/-! ## Registers of a thread (R116) -/

variable (t : Thread)

@[simp] theorem readS_zero : readS t 0 = 0 := by simp [readS]
theorem readS_writeS (i k : Nat) (v : BitVec 64) : readS (writeS t i v) k = if k = i ∧ k ≠ 0 then v else readS t k := by
  unfold writeS readS
  by_cases h0 : i = 0
  · subst h0; by_cases hk : k = 0 <;> simp [hk]
  · by_cases hk : k = 0
    · simp [hk]
    · by_cases hki : k = i
      · subst hki; simp [h0]
      · simp [h0, hk, hki]
theorem readV_writeV (i k : Nat) (v : BitVec 128) : readV (writeV t i v) k = if k = i then v else readV t k := by
  unfold writeV readV
  split
  · rename_i h; subst h; simp
  · rename_i h; simp [h]
theorem readA_writeA (i k : Nat) (v : BitVec 128) : readA (writeA t i v) k = if k = i then v else readA t k := by
  unfold writeA readA
  split
  · rename_i h; subst h; simp
  · rename_i h; simp [h]
@[simp] theorem readP_zero : readP t 0 = BitVec.allOnes 1024 := by simp [readP]
theorem readP_writeP (i k : Nat) (v : BitVec 1024) : readP (writeP t i v) k = if k = i ∧ k ≠ 0 then v else readP t k := by
  unfold writeP readP
  by_cases h0 : i = 0
  · subst h0; by_cases hk : k = 0 <;> simp [hk]
  · by_cases hk : k = 0
    · simp [hk]
    · by_cases hki : k = i
      · subst hki; simp [h0]
      · simp [h0, hk, hki]

/-- A register write changes nothing else of the thread. -/
theorem writeS_frame (i : Nat) (v : BitVec 64) : { writeS t i v with sreg := t.sreg } = t := by
  unfold writeS; split <;> rfl
theorem writeP_frame (i : Nat) (v : BitVec 1024) : { writeP t i v with preg := t.preg } = t := by
  unfold writeP; split <;> rfl
@[simp] theorem writeS_pc (i : Nat) (v : BitVec 64) : (writeS t i v).pc = t.pc := by unfold writeS; split <;> rfl
@[simp] theorem writeP_pc (i : Nat) (v : BitVec 1024) : (writeP t i v).pc = t.pc := by unfold writeP; split <;> rfl
@[simp] theorem readS_advance (k : Nat) : readS (advance t) k = readS t k := rfl
@[simp] theorem readV_advance (k : Nat) : readV (advance t) k = readV t k := rfl
@[simp] theorem readA_advance (k : Nat) : readA (advance t) k = readA t k := rfl
@[simp] theorem readP_advance (k : Nat) : readP (advance t) k = readP t k := rfl

/-! ## Fields and words -/

theorem onUnit_true (u : State) : onUnit true u = .next u := rfl
theorem onUnit_false (u : State) : onUnit false u = .refused .noSuchUnit := rfl

/-! ## Moved bytes: counters and activity only -/

/-- A fold whose every step leaves everything but the counters leaves everything but the counters. -/
theorem foldl_ctrs_frame {α : Type} (f : State → α → State) (h : ∀ s x, { f s x with ctrs := s.ctrs } = s) (l : List α) (s : State) :
    { l.foldl f s with ctrs := s.ctrs } = s := by
  induction l generalizing s with
  | nil => rfl
  | cons x l ih =>
    have h1 := ih (f s x)
    calc { (x :: l).foldl f s with ctrs := s.ctrs }
        = { { l.foldl f (f s x) with ctrs := (f s x).ctrs } with ctrs := s.ctrs } := rfl
      _ = s := by rw [h1]; exact h s x

/-- Counting bytes of package memory changes counters only. -/
theorem countPm_frame (wr : Bool) (a n : Nat) : { countPm s wr a n with ctrs := s.ctrs } = s := by
  unfold countPm
  split
  · rfl
  · apply foldl_ctrs_frame; intros; rfl

/-- What the hub moves changes counters and activity only. -/
theorem hubPm_frame (c : BitVec 10) (wr : Bool) (a n : Nat) :
    { hubPm s c wr a n with ctrs := s.ctrs, act := s.act } = s := by
  have h := countPm_frame s wr a n
  calc { hubPm s c wr a n with ctrs := s.ctrs, act := s.act }
      = { { countPm s wr a n with ctrs := s.ctrs } with act := s.act } := rfl
    _ = s := by rw [h]

@[simp] theorem countPm_store (wr : Bool) (a n : Nat) : (countPm s wr a n).store = s.store := by
  have h := congrArg State.store (countPm_frame s wr a n); exact h
@[simp] theorem countPm_pm (wr : Bool) (a n : Nat) : (countPm s wr a n).pm = s.pm := by
  have h := congrArg State.pm (countPm_frame s wr a n); exact h
@[simp] theorem countPm_ret (wr : Bool) (a n : Nat) : (countPm s wr a n).ret = s.ret := by
  have h := congrArg State.ret (countPm_frame s wr a n); exact h
@[simp] theorem hubPm_store (c : BitVec 10) (wr : Bool) (a n : Nat) : (hubPm s c wr a n).store = s.store := by
  have h := congrArg State.store (hubPm_frame s c wr a n); exact h
@[simp] theorem hubPm_pm (c : BitVec 10) (wr : Bool) (a n : Nat) : (hubPm s c wr a n).pm = s.pm := by
  have h := congrArg State.pm (hubPm_frame s c wr a n); exact h
@[simp] theorem hubPm_ret (c : BitVec 10) (wr : Bool) (a n : Nat) : (hubPm s c wr a n).ret = s.ret := by
  have h := congrArg State.ret (hubPm_frame s c wr a n); exact h
@[simp] theorem hubPm_berths (c : BitVec 10) (wr : Bool) (a n : Nat) : (hubPm s c wr a n).berths = s.berths := by
  have h := congrArg State.berths (hubPm_frame s c wr a n); exact h
@[simp] theorem hubPm_clients (c : BitVec 10) (wr : Bool) (a n : Nat) : (hubPm s c wr a n).clients = s.clients := by
  have h := congrArg State.clients (hubPm_frame s c wr a n); exact h

/-! ## The place of a store byte (R120) -/

/-- Bank, row and byte name an address of the store: no two addresses share all three. -/
theorem storePlace_inj (a b : Nat) (ha : a < 2 ^ 25) (hb : b < 2 ^ 25) (bank : storeBank a = storeBank b)
    (row : storeRow a = storeRow b) (byte : storeByte a = storeByte b) : a = b := by
  simp only [storeRow, storeByte, bitsOf] at row byte
  have rows : a / 2 ^ 12 = b / 2 ^ 12 := by omega
  have upper : bitsOf a 17 12 = bitsOf b 17 12 := by simp only [bitsOf, rows]
  have lines : bitsOf a 11 6 = bitsOf b 11 6 := by
    simp only [storeBank, upper] at bank
    exact Nat.xor_left_injective bank
  simp only [bitsOf] at lines
  omega

end Sys2Proof.Machine
end

