-- ==== Sys2Proof/Laws/Issue.lean ====
section
/-! SUPPORT. What issue can do, said once: the state unchanged, an exception, a wait, or the instruction's effect. -/

namespace Sys2Proof.Machine
open Sys2Proof

variable (s : State) (lt : BitVec 12) (op : Nat) (f : Fields) (checks : Thread → List (Option Exc))
  (block : Thread → Option WaitOn) (act : State → Thread → State)

/-- A thread that cannot take an instruction changes nothing. -/
theorem issue_idle (h : canRun s lt (thread s lt) = false) : issue s lt op f checks block act = s := by
  simp [issue, h]

/-- Past the checks before it, an instruction raises the first exception of its own, waits, or acts. -/
theorem issue_runs (h : canIssue s lt op f = true) :
    issue s lt op f checks block act =
      match firstExc (checks (thread s lt)) with
      | some e => raiseExc s lt e
      | none =>
        match block (thread s lt) with
        | some w => hold s lt w
        | none => act (countIssue s lt) (advance (thread s lt)) := by
  simp only [canIssue, Bool.and_eq_true, Bool.not_eq_true', decide_eq_true_eq, Bool.or_eq_true] at h
  obtain ⟨⟨⟨⟨⟨⟨⟨h1, ho⟩, h2⟩, hi⟩, h3⟩, h4⟩, h5⟩, h6⟩ := h
  have hg : (!(shapeOf op).lanes && !guardBit (thread s lt) f) = false := by
    rcases h6 with h | h <;> simp [h]
  simp only [issue, h1, ho, h2, hi, h3, h4, hg, Bool.not_true, Bool.or_self, Bool.false_eq_true, ite_false,
    show ¬ (modelOf s (thread s lt)).stepBudget < (thread s lt).issued + 1 by omega] <;> rfl

/-- It acts when its own checks pass and nothing makes it wait. -/
theorem issue_acts (h : canIssue s lt op f = true) (hc : firstExc (checks (thread s lt)) = none)
    (hb : block (thread s lt) = none) :
    issue s lt op f checks block act = act (countIssue s lt) (advance (thread s lt)) := by
  rw [issue_runs _ _ _ _ _ _ _ h, hc]; simp only [hb]

/-- A register instruction writes its thread. -/
theorem issueReg_acts (g : Thread → Thread) (h : canIssue s lt op f = true) :
    issueReg s lt op f g = setThread (countIssue s lt) lt (g (advance (thread s lt))) :=
  issue_acts _ _ _ _ _ _ _ h rfl rfl

theorem countsOne_issue (v : Thread) : countsOne s (setThread (countIssue s lt) lt v) (cIssued (physOf s (lcluOf lt))) := by
  intro k
  by_cases h : k = cIssued (physOf s (lcluOf lt))
  · subst h; simp [ctr, tabMod]
  · simp [ctr, tabMod, h]

theorem writesThread_of (i : Instr) (u : Thread) (h : exec i s = .next (setThread (countIssue s lt) lt u)) :
    writesThread i s lt u := by
  refine ⟨_, h, thread_setThread_same _ _ _, fun k hk => ?_, countsOne_issue _ _ _, rfl⟩
  rw [thread_setThread_other _ _ _ _ hk]; rfl

end Sys2Proof.Machine
end

