-- ==== Sys2Proof/Laws/Records.lean ====
section
/-! SUPPORT. What writing a record can do: clients, counters, activity, the output and the spill rings, and nothing else. -/

namespace Sys2Proof.Machine
open Sys2Proof

variable (s : State)

/-- A record's place in its spill ring lies within the spill area (R280, R294). -/
theorem spillAddr_range (c : BitVec 10) (k : Nat) : spillAddr 0 0 ≤ spillAddr c k ∧ spillAddr c k + 32 ≤ 0x10000000 := by
  have hc := c.isLt
  have hk := Nat.mod_lt k (show 0 < 2048 by decide)
  have h0 : (0 : BitVec 10).toNat = 0 := rfl
  simp only [spillAddr, h0]
  omega

theorem recBytes_length (r : Record) : (recBytes r).length = 32 := by
  have h (v n : Nat) : (natLe v n).length = n := by
    induction n generalizing v with
    | zero => rfl
    | succ n ih => simp [natLe, ih]
  simp only [recBytes, detail16, List.length_append, h, List.length_take, List.length_replicate]
  omega

/-- `frameItem` is transitive: a chain of records stays within it. -/
theorem frameItem_trans {a b c : State} (h : frameItem a b) (k : frameItem b c) : frameItem a c := by
  refine ⟨?_, fun x hx => (k.2 x hx).trans (h.2 x hx)⟩
  have e := k.1
  have d := h.1
  calc { c with clients := a.clients, ctrs := a.ctrs, act := a.act, emitted := a.emitted, pm := a.pm }
      = { { c with clients := b.clients, ctrs := b.ctrs, act := b.act, emitted := b.emitted, pm := b.pm } with
          clients := a.clients, ctrs := a.ctrs, act := a.act, emitted := a.emitted, pm := a.pm } := rfl
    _ = { b with clients := a.clients, ctrs := a.ctrs, act := a.act, emitted := a.emitted, pm := a.pm } := by rw [e]
    _ = a := d

theorem frameItem_refl : frameItem s s := ⟨rfl, fun _ _ => rfl⟩

/-- A change of clients, counters, activity and output alone. -/
theorem frameItem_of {a b : State}
    (h : { b with clients := a.clients, ctrs := a.ctrs, act := a.act, emitted := a.emitted } = a) : frameItem a b := by
  have p : b.pm = a.pm := by
    have q := congrArg State.pm h
    exact q
  refine ⟨?_, fun x _ => by rw [p]⟩
  calc { b with clients := a.clients, ctrs := a.ctrs, act := a.act, emitted := a.emitted, pm := a.pm }
      = { { b with clients := a.clients, ctrs := a.ctrs, act := a.act, emitted := a.emitted } with pm := a.pm } := rfl
    _ = a := by rw [h]

theorem testIrq_frame (c : BitVec 10) : frameItem s (testIrq s c) := by
  refine frameItem_of ?_
  simp only [testIrq]
  split <;> rfl

theorem putRecord_frame (c : BitVec 10) (r : Record) : frameItem s (putRecord s c r) := by
  refine frameItem_trans ?_ (testIrq_frame _ c)
  exact frameItem_of rfl

theorem spillRecord_frame (c : BitVec 10) (r : Record) : frameItem s (spillRecord s c r) := by
  obtain ⟨lo, hi⟩ := spillAddr_range c ((client s c).spillAt + (client s c).spill.length)
  constructor
  · have h := hubPm_frame (pmPut (setClient s c { client s c with spill := (client s c).spill ++ [r] })
      (spillAddr c ((client s c).spillAt + (client s c).spill.length)) (recBytes r)) c true
      (spillAddr c ((client s c).spillAt + (client s c).spill.length)) 32
    have e := congrArg (fun v : State => { v with clients := s.clients, ctrs := s.ctrs, act := s.act, emitted := s.emitted, pm := s.pm }) h
    exact e
  · intro a ha
    have p : (spillRecord s c r).pm = memPutBytes s.pm (spillAddr c ((client s c).spillAt + (client s c).spill.length)) (recBytes r) := by
      simp [spillRecord, pmPut]
    rw [p]
    refine memByte_putBytes_other _ _ _ _ ?_
    rw [recBytes_length]
    omega

/-- A record that falls due changes what `frameItem` allows, and no more (R294, R318). -/
theorem postRecord_frame (c : BitVec 10) (r : Record) : frameItem s (postRecord s c r) := by
  simp only [postRecord]
  split
  · exact frameItem_refl s
  · split
    · exact putRecord_frame s c r
    · exact spillRecord_frame s c _

/-- An item that completes changes what `frameItem` allows, and no more. -/
theorem completeItem_frame (c : BitVec 10) (i : Item) (status : Nat) (d : List (BitVec 8)) : frameItem s (completeItem s c i status d) := by
  refine frameItem_trans ?_ (postRecord_frame _ c _)
  exact frameItem_of rfl

theorem notice_frame (c : BitVec 10) (op status : Nat) (tag : BitVec 32) (d : List (BitVec 8)) :
    frameItem s (notice s c op status tag d) := postRecord_frame s c _

/-- What `frameItem` allows keeps the memories but for the spill rings. -/
theorem keptMemories_of_frameItem {a b : State} (h : frameItem a b) : keptMemories a b := by
  have e := h.1
  have st := congrArg State.store e
  have rt := congrArg State.ret e
  exact ⟨st, rt, h.2⟩

end Sys2Proof.Machine
end

