-- ==== Sys2Proof/Tests/Slice0.lean ====
section
/-! SUPPORT. Witnesses that the hypotheses of the statements can be met, and tests of decoding, well-formedness and single steps. -/

namespace Sys2Proof.Tests
open Sys2Proof Sys2Proof.Machine

set_option Elab.async false

/-- A vector handle of `len` elements at an address. -/
def vh (addr len fmt : Nat) (sgn : Bool := true) : BitVec 128 :=
  BitVec.ofNat 128 (addr + (len - 1) * 2 ^ 32 + fmt * 2 ^ 48 + (if sgn then 2 ^ 52 else 0))

/-- Nat descriptors of 32, 64 and 128 bytes, as memory cells at an address. -/
def cellsAt (a n w : Nat) : List Host.Cell := memPutBytes [] a (natLe w n)

/-- A thread of berth 1 that may issue: its berth window is the first 64 KiB of the store, its module window the next. -/
def wThread : Thread :=
  { st := .ready, bw := ⟨0, 65536⟩, mw := ⟨65536, 65536⟩, berth := 1
    sreg := [(4, 65536), (5, 65792), (6, 1024), (7, 1088), (8, 2 ^ 60), (9, 66048), (11, 3)]
    vreg := [(1, vh 0 1 6), (2, vh 64 1 4), (3, vh 128 1 4), (4, vh 256 3 6), (5, vh 512 4 6), (6, vh 2048 64 1), (7, vh 2304 2 3),
             (8, vh 4096 64 6), (9, vh 8192 1 1), (10, vh 8448 128 6), (11, vh 8960 128 6), (12, vh 8384 1 3)]
    areg := [(1, BitVec.ofNat 128 (1 + 512 * 2 ^ 64 + 1024 * 2 ^ 96))] }

/-- 64 bytes of which the listed ones hold the listed numbers. -/
def part (l : List (Nat × Nat)) : List (BitVec 8) := natLe (sumNat (l.map (fun e => e.2 * 2 ^ (8 * e.1)))) 64

/-- A declaration with the least legal value in each field, and the listed numbers added at the listed bytes (R269). -/
def decl (l : List (Nat × Nat)) : List (BitVec 8) :=
  part ([(0, 64), (4, 64), (16, 1), (18, 1), (20, 1), (24, 16), (35, 1), (40, 1), (44, 1)] ++ l)

/-- Descriptors that the fixture's model lists: quantiser at 0, layer at 256, convolution at 512. -/
def wModel : ModelDecl :=
  { decl := decl [(24, 84), (35, 5), (40, 3)], quants := [0], layers := [256], convs := [512] }

def wMod : Module := { st := .loaded, desc := { codeLen := 64, models := [wModel], imageLen := 65536 }, images := [(0, 65536)] }

def wTile : Tile :=
  { recs := [(0, { raw := BitVec.ofNat 128 (64 * 2 ^ 9 + 32 * 2 ^ 29 + 2 ^ 44 + 2 * 2 ^ 48), streamed := true })] }

/-- A device in service whose logical cluster 0 is served by physical cluster 0, with one thread that may issue. -/
def wState : State :=
  { map := { clu := [(0, 0)], tile := [(0, 0)], cluState := [(0, .active)], tileState := [(0, .active)] }
    threads := [(0, wThread)], mods := [(0, wMod)], tiles := [(0, wTile)]
    berths := [(1, { st := .running, pmRes := 1024, framesVis := 2, inStep := true })]
    clk := { ready := true, inReset := false, refValid := true, lock := [(2, true)] } 
    store := cellsAt 1024 64 (65792 + 2 ^ 32 + 2 ^ 96 + 32768 * 2 ^ 128) ++ cellsAt 1088 64 (2 + 2 ^ 16 + 2 ^ 32 + 2 ^ 64 + 2 ^ 256) ++
      cellsAt 65536 32 (64 * 2 ^ 48 + 64 + 128) ++ cellsAt 65792 64 (4 + 2 ^ 16 + 2 ^ 32) ++
      cellsAt 66048 128 (2 ^ 16 + 2 ^ 28 + 2 ^ 40 + 2 ^ 64 + 2 ^ 80 + 2 ^ 86 + 2 ^ 89 + 2 ^ 93 + 2 ^ 96 + 2 ^ 102 + 2 ^ 136 + 2 ^ 139) }

/-- Every one of some tests holds. -/
def every (l : List Bool) : Bool := l.all (fun b => b)

/-- The hypotheses of a register instruction hold for it in the fixture. -/
def ok (op : Nat) (f : Fields) : Bool := canIssue wState 0 op f

/-- The hypotheses of a command of engine `eng` hold for it in the fixture. -/
def goes (op eng : Nat) (f : Fields) (l : List (Option Exc)) : Bool :=
  ok op f && !queueFull wState 0 eng && (firstExc l).isNone

/-- The fixture with another thread state. -/
def withThread (t : Thread) : State := { wState with threads := [(0, t)] }

/-- The fixture with a command at the head of a queue. -/
def withCmd (eng op : Nat) : State := { wState with queues := [(eng, [{ op := op }])] }

theorem wit_StepRunsFront : ticking {} = false ∧ ticking wState = true ∧ wState.chn.ports = [] ∧ wState.pending = [] := by decide +kernel

theorem wit_ScalarResults : (upTo 11).all (fun k => ok (k + 1) { d := 1, x := 2, y := 3 }) = true := by decide +kernel

theorem wit_ImmediatesAndPredicates :
    every [ok 0 {}, ok 0xC { d := 1, imm := 5 }, ok 0xD { d := 1, imm := 5 }, ok 0xE { d := 1, imm := 5 }, ok 0xF { d := 1 }, ok 0xF { d := 1, imm := 0x510 }, ok 0x10 { d := 1, x := 2, y := 3 }] = true ∧ immBits { imm := 0x510 } 4 4 = 1 := by decide +kernel

theorem wit_BranchTargets :
    every [ok 0x13 { imm := 2 }, ok 0x14 { d := 1, imm := 2 }, ok 0x15 { x := 4 }, ok 0x15 { x := 11 }] = true ∧
    (readS wThread 4).toNat % 8 = 0 ∧ (readS wThread 11).toNat % 8 ≠ 0 := by decide +kernel

theorem wit_HandleRegisters :
    every [ok 0x16 { d := 1, x := 4, y := 5 }, ok 0x17 { d := 1, x := 1 }, ok 0x17 { d := 1, x := 1, imm := 2 }, ok 0x1A { d := 1, y := 4 }] = true := by
  decide +kernel

theorem wit_LoadsAndStores :
    let a (f : Fields) := addrPlus (readS wThread f.x.toNat) f.imm.toInt
    let f : Fields := { d := 1, x := 6, z := 3 }
    let g : Fields := { x := 6, y := 4, z := 3 }
    let h : Fields := { d := 1, x := 6 }
    every [ok 0x11 f, ok 0x12 g, ok 0x18 h, ok 0x19 { x := 6, y := 1 }, ok 0x11 { f with imm := 1 }, ok 0x12 { g with imm := 1 }] = true ∧
    a f % 8 = 0 ∧ inWin wThread.bw ⟨a f, 8⟩ = true ∧ a { f with imm := 1 } % 8 ≠ 0 ∧
    addrPlus (readS wThread 6) 0 % 16 = 0 ∧ inWin wThread.bw ⟨addrPlus (readS wThread 6) 0, 16⟩ = true := by decide +kernel

theorem wit_ExceptionEffect : cluTrc wState (physOf wState (lcluOf 0)) 2 = false := by decide +kernel

theorem wit_WaitsAndFences :
    let p := withThread { wThread with pendV := 2 }
    let o := withThread { wThread with outst := [(1, 1)] }
    let r : Fields := { d := 1, imm := 1 }
    every [ok 0x1B { imm := 2 }, ok 0x1C { imm := 2 }, ok 0x1D { imm := 0x10020 }, ok 0x1E r] = true ∧
    wThread.pendV &&& 2 = 0 ∧ anyOutst wThread 2 = false ∧ canIssue p 0 0x1B { imm := 2 } = true ∧ (thread p 0).pendV &&& 2 ≠ 0 ∧
    canIssue o 0 0x1C { imm := 2 } = true ∧ anyOutst (thread o 0) 2 = true ∧
    reached (fenceCtr wState 0 wThread 1) ((readS wThread 0).setWidth 32) = true ∧
    ok 0x1E { r with x := 4 } = true ∧ reached (fenceCtr wState 0 wThread 1) ((readS wThread 4).setWidth 32) = false ∧
    (thread (withThread { wThread with st := .waiting, wait := some (.counter 1 1 5) }) 0).wait = some (.counter 1 1 5) := by decide +kernel

theorem wit_StepEndAndInfo : every [ok 0xE0 {}, ok 0xE1 {}, ok 0xE2 { d := 1, imm := 3 }] = true ∧ anyOutst wThread 63 = false := by decide +kernel

theorem wit_VectorCommandsEnter :
    let f3 : Fields := { d := 1, x := 2, y := 3 }
    let f2 : Fields := { d := 1, x := 2 }
    let t := wThread
    (goes 0x40 1 f3 (binChecks false f3 t) && goes 0x41 1 f3 (binChecks false f3 t) && goes 0x42 1 f3 (binChecks true f3 t)
      && goes 0x43 1 { f3 with z := 1 } (vfmaChecks { f3 with z := 1 } t) && goes 0x44 1 f3 (binChecks false f3 t)
      && goes 0x45 1 f3 (binChecks false f3 t) && goes 0x46 1 f2 (unChecks 1 f2 t) && goes 0x47 1 f2 (unChecks 1 f2 t)
      && goes 0x48 1 f3 (binChecks false f3 t) && goes 0x49 1 f3 (vcmpChecks f3 t) && goes 0x4A 1 { d := 1 } (vfillChecks { d := 1 } t)
      && goes 0x4B 1 f2 (vredChecks f2 t) && goes 0x4C 1 f2 (vredrChecks f2 t) && goes 0x4D 1 f3 (vmvChecks f3 t)
      && goes 0x4E 1 { f3 with z := 3 } (vnormChecks { f3 with z := 3 } t) && goes 0x4F 1 f3 (vrmsChecks f3 t)
      && goes 0x50 1 f2 (vpwlChecks f2 t) && goes 0x51 1 f2 (vrecipChecks f2 t) && goes 0x53 1 f2 (vlutChecks f2 t)
      && goes 0x54 1 { d := 1, x := 4, y := 4, z := 1 } (vgruChecks { d := 1, x := 4, y := 4, z := 1 } t)
      && goes 0x55 1 { d := 1, x := 5, y := 1 } (vlstmChecks { d := 1, x := 5, y := 1 } t)) = true := by decide +kernel

theorem wit_VquantEnters : let f : Fields := { d := 6, x := 8, y := 6, z := 7, imm := 65536 }
    goes 0x52 1 f (vquantChecks wState 0 f wThread) = true := by decide +kernel

theorem wit_EngineCommandsEnter :
    let t := wThread
    let r : Fields := { d := 3, x := 2, y := 5, z := 2 }
    let p : Fields := { d := 2, y := 6 }
    let c : Fields := { d := 12, x := 9, y := 9 }
    every [goes 0x60 2 r (rstepChecks wState 0 r t), goes 0x61 2 p (rprefillChecks wState 0 p t), goes 0x62 2 { d := 10, x := 11 } (rfftChecks { d := 10, x := 11 } t), goes 0x81 3 { d := 7, x := 2, imm := 1 } (ssortChecks { d := 7, x := 2, imm := 1 } t), goes 0xA0 4 c (convChecks wState 0 c t), goes 0xC0 5 { d := 1 } (mldChecks wState 0 { d := 1 } t), goes 0xC1 5 { x := 1 } (mstChecks wState 0 { x := 1 } t), goes 0xC3 5 { d := 2, x := 1 } (mcpyChecks { d := 2, x := 1 } t), goes 0x80 3 { d := 1, x := 1 } (sdrawChecks { d := 1, x := 1 } t), goes 0x82 3 { d := 7 } (srandChecks { d := 7 } t), goes 0xC4 5 { d := 2, imm := 1 } (mframeChecks wState { d := 2, imm := 1 } t), goes 0xC5 5 { x := 1 } (memitChecks wState { x := 1 } t)] = true := by decide +kernel

theorem wit_GatherStreams :
    let f : Fields := { d := 6, y := 7 }
    let s0 : State := { wState with store := memPutBytes wState.store 1094 [1] }
    let m : Stream := { berth := 1, desc := 1088, word := storeLe s0 0 1088 64, ring := vh 2048 64 1 + 3 * 2 ^ 64 }
    let s : State := { s0 with streams := [(0, [m])] }
    canIssue s 0 0xC2 f = true ∧ queueFull s 0 5 = false ∧ firstExc (mgathChecks s 0 f wThread) = none ∧ thread s 0 = wThread ∧ (streamsOf s 0).find? (isStream 1 1088) = some m ∧
    physOf s 0 ≠ 31 ∧ s.lost.lost = false ∧ (streamsOf s 0)[0]? = some m ∧ m.ahead < aheadCap (sdOf m.word) (vhOf m.ring) ∧
    m.pos + m.ahead < (sdOf m.word).count ∧ goes 0xC0 5 { d := 1 } (mldChecks wState 0 { d := 1 } wThread) = true ∧
    physOf wState 0 < 18 ∧ pmExists 0 = true := by decide +kernel

theorem wit_VectorCompletion :
    (queue wState 0 1 = []) ∧ [0x40, 0x41, 0x42, 0x43, 0x44, 0x45].all (fun op => decide ((queue (withCmd 1 op) 0 1).map (·.op) = [op])) = true := by
  decide +kernel

theorem wit_EngineCompletions :
    [(2, 0x60), (3, 0x82), (4, 0xA0), (5, 0xC1), (5, 0xC5)].all
      (fun e => decide ((queue (withCmd e.1 e.2) 0 e.1).map (·.op) = [e.2])) = true ∧ physOf wState (lcluOf 0) < 18 := by decide +kernel

theorem wit_ArrayCommandsEnter :
    let h := ahOf (readA wThread 1)
    tilesFull wState 0 h.tiles = false ∧ ((namedTiles wState 0 h.tiles).map (fun p => p.2.2)).Nodup ∧
    goes 0x20 0 { d := 1 } (arrChecks wState 0 { d := 1 } wThread) = true ∧
    goes 0x21 5 { d := 1, y := 8 } (aprogChecks wState 0 { d := 1, y := 8 } wThread) = true := by decide +kernel

theorem wit_TileEvents :
    let s (k : Tile) : State := { wState with tiles := [(0, k)] }
    let a := s { queue := [.product {}] }
    let b := s { actives := [{}] }
    let c := s { actives := [{ held := true }] }
    let d := s { queue := [.program {}] }
    let e := s { progs := [{}] }
    (tileAt a (tileKey 0 0)).queue = [.product {}] ∧ (tileAt b (tileKey 0 0)).actives = [{}] ∧
    (tileAt c (tileKey 0 0)).actives = [{ held := true }] ∧ earlierProduct c 0 0 0 = false ∧
    (tileAt d (tileKey 0 0)).queue = [.program {}] ∧ (tileAt e (tileKey 0 0)).progs = [{}] := by decide +kernel

theorem wit_ConversionWithinBound :
    (adcDecide 32 0 100 0 0 false 0).2 = false ∧ (adcDecide 32 0 1000000 0 0 false 1024).2 = true := by decide +kernel

theorem wit_AccumulateAndDrain :
    (accStep 5 3 1 0 0).2 = false ∧ accLo ≤ rneDivInt (3 * 1) (2 ^ 13) ∧ rneDivInt (3 * 1) (2 ^ 13) ≤ accHi ∧ (satAdd32 1 2).2 = false := by decide +kernel

/-- A device in service: cluster 0 with tile 0 serves, cluster 8 and tile 16 and core 4 are SPARE, roots locked, nothing runs. -/
def dev : State :=
  { map := { clu := [(0, 0)], tile := [(0, 0)], cluState := [(0, .active), (2, .quarantined), (8, .spare)],
             tileState := [(0, .active), (16, .spare)] }
    clk := { ready := true, lock := [(0, true), (1, true), (2, true)] }
    fw := { cores := [(0, .active), (1, .active), (2, .active), (3, .active), (4, .spare)] }
    rng := { nt := .ok } }

/-- A register word in it. -/
def devReg (off w : Nat) : State := setRegWord dev off (BitVec.ofNat 32 w)

theorem wit_StepMachinery :
    (stepOpen wState || wState.lost.lost || !wState.clk.ready) = true ∧ (stepOpen dev || dev.lost.lost || !dev.clk.ready) = false ∧
    (let s : State := { dev with sched := { pol := [(bthOff + 0x14, 1000), (bthOff + 0x20, 0)], running := true } }
     stepDlNs s ≠ 0 ∧ s.sched.running = true ∧ s.sched.dlMissed = false ∧ rbEn s = false) := by decide +kernel

theorem wit_CalibrationSlots :
    let m : CalMeas := { temp := 400 }
    let v : SpokeMove := { spoke := 3 }
    (calEn dev = true ∧ dev.lost.lost = false ∧ cluState dev 0 = .active ∧ tileState dev 0 0 = .active ∧ (tileAt dev (tileKey 0 0)).move = none ∧
      m = { temp := m.temp } ∧ (tileAt dev (tileKey 0 0)).passSlot + 1 < 12 ∧ queue dev 0 4 = []) ∧
    calEn (devReg calOff 0) = false ∧ (tileAt { dev with tiles := [(0, { move := some v })] } (tileKey 0 0)).move = some v ∧
    v.written = false ∧ holdReq dev = false ∧ holdReq (devReg calOff 3) = true ∧ holdReached (devReg calOff 3) = false ∧
    holdReached { devReg calOff 3 with tick := BitVec.ofNat _ (2 ^ 40), tiles := [(0, {})] } = true ∧ alive dev = true ∧ dev.sec.polLock = false := by decide +kernel

theorem wit_UnitMigrations :
    let m : TileMigr := { clu := 0, old := 0, new := 16 }
    let c : CluMigr := { old := 0, new := 8 }
    let s : State := { dev with cal := { tileMigr := [m], cluMigr := [c] } }
    let d : State := { dev with cal := { tileMigr := [{ m with switched := true }] },
                                map := { dev.map with tileState := [(0, .draining)] } }
    s.cal.tileMigr.find? (fun x => !x.copied && !tripped s x.clu) = some m ∧
    s.cal.cluMigr.find? (fun m => !tripped s m.old && (!m.copied || (m.stopped && !m.moved && enginesStopped s m.lclu.toNat))) = some c ∧
    tileState d 0 0 = .draining ∧ (tileAt d (tileKey 0 0)).queue = [] ∧ (tileAt d (tileKey 0 0)).actives = [] ∧ (tileAt d (tileKey 0 0)).progs = [] ∧
    d.cal.tileMigr.any (fun m => decide (m.clu = 0 ∧ m.old = 0) && m.switched) = true ∧ tileState dev 0 1 = .outOfService := by decide +kernel

theorem wit_CalibrationRequests :
    let s : State := { dev with guardOpen := true }
    alive s = true ∧ s.clk.ready = true ∧ s.sec.polLock = false ∧ cluState s 2 = .quarantined ∧ cluState s 0 = .active ∧
    spareClu s (dieOf 0) = some 8 ∧ lcluServed s 0 = some 0 ∧ hmWindow s = false ∧ tileState s 0 0 = .active ∧ spareTile s 0 = some 16 ∧
    slotServed s 0 0 = some 0 ∧ savePhase s 0 = .none ∧ spareClu s (dieOf 9) = none ∧ dev.guardOpen = false ∧
    bitsOf (9 : BitVec 32).toNat 4 0 = 9 := by decide +kernel

theorem wit_DeviceLoss :
    let s : State := { dev with lost := { lost := true } }
    dev.lost.lost = false ∧ s.lost.lost = true ∧ s.lost.scrubbed = false ∧ s.clk.stopped = false ∧ s.sec.held = [] ∧ s.sec.cwHeld = [] ∧
    s.sec.tdDue = false := by decide +kernel

theorem wit_CoresAndMemoryRepair :
    let s : State := { dev with mem := { rowCopies := [33], pcCopies := [255] } }
    windowOpen s = false ∧ coreState s 0 = .active ∧ spareCore s = some 4 ∧ 32 * 1 + 1 ∈ s.mem.rowCopies ∧ 32 * 7 + 31 ∈ s.mem.pcCopies ∧
    pcSpareLeft dev 0 = true ∧ pcSpareLeft { dev with mem := { pcSpared := [(0, 2)] } } 0 = false ∧ 0 ∉ s.mem.pcCopies ∧
    pmExists (2 ^ 36 + 48 * 2 ^ 30 - 1) = true ∧ regField s (memOff + 4) 0 0 = 1 ∧ pmHeld s (40 * 2 ^ 30) = false ∧ pmHeld s 0 = true ∧
    0 ∉ s.mem.rowCopies ∧ regField (devReg (memOff + 4) 0) (memOff + 4) 0 0 = 0 ∧ (dev.clk.ready = true ∧ dev.lost.lost = false) := by decide +kernel

theorem wit_PreemptionPhases :
    let p (x : SavePhase) : State := { dev with pre := { phase := [(0, x)], image := [(0, {})] } }
    let r := { p .stopping with queues := [(1, [{}])] }
    savePhase (p .stopping) 0 = .stopping ∧ enginesStopped (p .stopping) 0 = true ∧ queue (p .stopping) 0 4 = [] ∧
    queue (p .stopping) 0 5 = [] ∧ physOf (p .stopping) 0 < 18 ∧ savePhase dev 0 ≠ .stopping ∧ enginesStopped r 0 = false ∧
    savePhase (p .saved) 0 = .saved ∧ (berthsOn (p .saved) 0).all (fun e => e.2.preempted) = true ∧ (p .saved).sec.tenancy ≠ .teardown ∧
    lcluOut (p .saved) 0 = false ∧ migrating (p .saved) 0 = false ∧ savePhase (p .restoring) 0 = .restoring ∧
    (p .restoring).pre.image.find? (fun e => decide (e.1 = (0 : BitVec 4).toNat)) = some (0, {}) := by decide +kernel

/-- An image of one stopped thread and one store byte, whose slot holds only a check word. -/
def wImage : Image := { size := 8, threads := [(0, { st := .stopped, berth := 1 })], store := [(5, 1)] }

/-- Its check word in the slot is right, and wrong, for the two clauses of RESTORE_COMPLETE. -/
theorem wit_RestoreComplete :
    (∃ s : State, s.pre = { phase := [(0, .restoring)], image := [(0, wImage)] } ∧ s.lost.lost = false ∧ imageGood s 0 wImage = true ∧ (berthsOn s 0).all (fun e => decide (e.2.st ≠ .draining)) = true ∧
      physOf s 0 < 18 ∧ tabRising wImage.threads = true ∧ wImage.threads.all (fun e => decide (e.1 < 4096)) = true ∧ tabRising wImage.store = true) ∧
    (∃ s : State, s.pre = { phase := [(0, .restoring)], image := [(0, wImage)] } ∧ s.lost.lost = false ∧ imageGood s 0 wImage = false) := by
  let p : Preempt := { phase := [(0, .restoring)], image := [(0, wImage)] }
  refine ⟨⟨{ dev with pre := p, pm := memPutBytes [] (slotAt 0) (natLe (Config.checksum []).toNat 8) }, rfl, rfl, ?_, by decide +kernel⟩, ?_⟩
  · have h := memBytes_putBytes_same [] (slotAt 0) (natLe (Config.checksum []).toNat 8)
    have l : (natLe (Config.checksum []).toNat 8).length = 8 := rfl
    rw [l] at h
    simpa [imageGood, wImage, pmBytes, memBytes] using h
  · by_cases hz : imageGood { dev with pre := p } 0 wImage = false
    · exact ⟨_, rfl, rfl, hz⟩
    · refine ⟨{ dev with pre := p, pm := [(slotAt 0, 1)] }, rfl, rfl, ?_⟩
      have hz' : memBytes [] (slotAt 0) 8 = natLe (Config.checksum []).toNat 8 := by
        simpa [imageGood, wImage, pmBytes, memBytes, dev] using hz
      have hd : memBytes [(slotAt 0, 1)] (slotAt 0) 8 ≠ memBytes [] (slotAt 0) 8 := by decide +kernel
      simpa [imageGood, wImage, pmBytes, memBytes, ← hz'] using hd

theorem wit_NoiseSource :
    let s (x : NtState) : State := { dev with rng := { nt := x, sinceFail := 0, gens := [(18, { waiting := [some {}] })] } }
    ntEnabled dev = true ∧ (s .startup).rng.nt = .startup ∧ dev.rng.nt = .ok ∧ (s .ok).rng.sinceFail + 1024 < 2 ^ 20 ∧
    (genOf (s .ok) 18).waiting = [some {}] ∧ (genOf dev 18).waiting = [] ∧
    bitsOf (83 : BitVec 32).toNat 0 0 = 1 ∧ rngCtrlWord 83 / 4 % 32 = regField (s .error) rngOff 6 2 ∧
    bitsOf (80 : BitVec 32).toNat 1 0 = 0 ∧ rngCtrlWord 80 / 4 % 32 = regField dev rngOff 6 2 ∧
    ({ dev with sec := { levels := 8 } } : State).sec.levels.getLsbD 3 = true ∧ regField dev (rngOff + 0x10) 0 0 = 0 ∧
    dev.rng.raw = [] ∧ (genOf (s .ok) 18).waiting ≠ [] ∧
    (let q : State := { s .ok with clients := [(2, { st := .active, items := [{ seq := 1, op := 1 }] })] }
     (findItem q 2 1).isSome = true ∧ writable (client q 2) = true) := by decide +kernel

/-- Bits that alternate pass both tests, and a run of zeros fails the repetition-count test at its 41st bit (R204). -/
theorem wit_NoiseTests :
    ntFails dev (rawBits 512 (BitVec.ofNat 512 ((2 ^ 512 - 1) / 3)) (BitVec.ofNat 512 ((2 ^ 512 - 1) / 3))) = [] ∧
    (40, fRctFail) ∈ ntFails { dev with rng := { dev.rng with run := 0 } } (rawBits 512 0 0) := by decide +kernel

/-- An item of one part about berth 1. -/
def itm (op : Nat) (l : List (Nat × Nat)) : Item := { seq := 1, op := op, berth := 1, parts := [part l] }

/-- The device with client 2 active and that item waiting, and berth 1 as given. -/
def withItem (i : Item) (e : Berth) : State :=
  { dev with clients := [(2, { st := .active, items := [i] })], berths := [(1, e)] }

/-- Client 2's item is the next that a row of its opcode takes up. -/
def isReady (s : State) (i : Item) : Bool := decide (readyItem s 2 i.op = some i)

/-- A berth of logical cluster 0 in a state, with one window block. -/
def bth (st : BState) : Berth := { st := st, lkOwner := 2, stRes := 1, pmRes := 2, pmBase := 2 ^ 30, obBlocks := 4, inDepth := 2 }

theorem wit_ItemsThatComplete :
    let e := { bth .locked with filled := 1 }
    let state := itm 0x0C [(16, 2), (32, 64)]
    let blob : State := { withItem (itm 0x0F [(32, 65536)]) (bth .parked) with
                            sec := { keys := [{}] }, rng := { gens := [(hubGen, { state := 1, inst := true })] } }
    isReady (withItem (itm 0x13 []) {}) (itm 0x13 []) ∧ restZero (part []) [] ∧
    isReady (withItem (itm 0x05 [(16, 1)]) e) (itm 0x05 [(16, 1)]) ∧ restZero (part [(16, 1)]) [(16, 4)] ∧
    isReady (withItem (itm 0x0E [(16, 2 ^ 24 - 1)]) e) (itm 0x0E [(16, 2 ^ 24 - 1)]) ∧ lockOwner e = 2 ∧
    isReady (withItem (itm 0x12 [(16, 1023), (18, 1)]) e) (itm 0x12 [(16, 1023), (18, 1)]) ∧
    isReady (withItem state e) state ∧ stResv state ∧ stRange (withItem state e) e state ∧ awayNow (withItem state e) e = false ∧
    isReady blob (itm 0x0F [(32, 65536)]) ∧ awayNow blob (bth .parked) = false ∧ blobLen blob (bth .parked) ≤ 65536 ∧
    stateKey blob blob.sec.tEpoch = some {} ∧ needsBlock blob hubGen = false := by decide +kernel

theorem wit_BerthLocks :
    let lock := itm 0x0A [(16, 3)]
    let unlock := itm 0x0B [(16, 5)]
    let e := { bth .locked with lkSeq := 5, lease := 1 }
    isReady (withItem lock (bth .admitted)) lock ∧ restZero (part0 lock) [(16, 1), (20, 4)] ∧
    awayNow (withItem lock (bth .admitted)) (bth .admitted) = false ∧ isReady (withItem lock (bth .running)) lock ∧
    isReady (withItem unlock e) unlock ∧ restZero (part0 unlock) [(16, 2)] ∧ e.lkSeq.toNat = leAt (part0 unlock) 16 2 ∧
    (berth (withItem unlock e) 1).lease ≠ 0 := by decide +kernel

theorem wit_BerthItemsBegin :
    let m : Module := { st := .loaded, desc := { models := [{ decl := decl [(32, 48)] }] }, copies := [{ lclu := 1 }] }
    let w (i : Item) (e : Berth) : State :=
      { withItem i e with mods := [(0, m)], map := { dev.map with clu := [(0, 0), (1, 1)], cluState := [(0, .active), (1, .active)] } }
    let host := itm 0x04 [(16, 1)]
    let inl := { itm 0x04 [(16, 33)] with parts := [part [(16, 33)], part []] }
    let e := bth .running
    (isReady (w host e) host ∧ frameCount host = 1 ∧ frameInline host = false ∧ (berthModel (w host e) e).frameBytes = 48 ∧
      routeOf (w host e) 1 true = none) ∧
    (isReady (w inl e) inl ∧ frameInline inl ∧ inl.parts.length = 1 + ceilDiv 48 48 ∧ restZero (part0 inl) [(16, 1), (24, 8)]) ∧
    (inl.aux = 0 ∧ e.framesDue = 0 ∧ (w inl e).clients.all (fun x => x.2.items.all (fun j => !j.begun && decide (j.seq = 1 → j = inl)))) ∧
    isReady (w (itm 0x06 []) e) (itm 0x06 []) ∧ isReady (w (itm 0x06 []) { e with preempted := true }) (itm 0x06 []) ∧
    frozenNow (w (itm 0x06 []) e) e = false ∧ frozenNow (w (itm 0x06 []) e) { e with preempted := true } = true ∧
    (e.inStep && e.committed) = false ∧ (bth .parked).unparkDue = false ∧ e.unparkDue = false ∧
    (w (itm 0x09 [(16, 16)]) e).sched.proposals = [] ∧
    (isReady (w (itm 0x07 []) e) (itm 0x07 []) ∧ awayNow (w (itm 0x07 []) e) e = false) ∧
    isReady (w (itm 0x07 []) (bth .parked)) (itm 0x07 []) ∧ isReady (w (itm 0x08 []) (bth .parked)) (itm 0x08 []) ∧
    (isReady (w (itm 0x09 [(16, 16)]) e) (itm 0x09 [(16, 16)]) ∧
      moveTarget (w (itm 0x09 [(16, 16)]) e) e ((upTo 16).filter (fun l => decide (l ≠ lcluOf e.lthread))) = (.at 256, 33554368)) ∧
    isReady (w (itm 0x0D [(16, 2), (32, 64)]) (bth .locked)) (itm 0x0D [(16, 2), (32, 64)]) ∧
    isReady (w (itm 0x10 [(16, 1)]) e) (itm 0x10 [(16, 1)]) ∧ (itm 0x10 [(16, 1)]).data = none := by decide +kernel

theorem wit_BerthCopies :
    let e := bth .parked
    let c : State := withItem {} { e with copying := true }
    let v := { e with moveThr := some (256, 64), moving := true }
    0x10000000 ≤ swapAt e ∧ (berth c 1).copying = true ∧ (berth c 1).copyBack = false ∧ (berth (withItem {} { e with copying := true, copyBack := true }) 1).copyBack = true ∧
    (berth (withItem {} v) 1).moveThr = some (256, 64) ∧ (256 : BitVec 12) ≠ v.lthread ∧ (berth dev 1).copying = false ∧
    (berth dev 1).moving = false := by decide +kernel

theorem wit_ModulesAndAdmission :
    let md : ModelDecl := { decl := decl [] }
    let d : ModuleDesc := { models := [md] }
    let load := itm 0x01 [(32, 1)]
    let s := withItem load {}
    let m0 : Module := { st := .loaded, desc := d, copies := [{}] }
    let adm := itm 0x03 [(20, 1), (24, 1), (48, 2), (52, 3)]
    let a : State := { withItem adm {} with mods := [(0, m0)], berths := [], rng := { gens := [(0, { state := 1, inst := true })] } }
    let r := admitReq adm
    let p := placeCopies (setModule s 0 { st := .loading, desc := d, client := 2, item := 1 }) 0 load d
    (isReady s load ∧ contentFault s load d = none ∧ freeSlot s = some 0 ∧ p.noFit = false ∧ p.noMem = false ∧ p.compact = [] ∧
      (placeImages p.s 0 2 d).isSome ∧ contentFault s load { d with headerOk := false } = some .bad) ∧
    (let t : State := { s with mods := [(0, { m0 with st := .loading, client := 2, item := 1 })] }
     (module t 0).st = .loading ∧ findItem t 2 1 = some load ∧ writable (client t 2) = true) ∧
    (let t : State := { withItem (itm 0x02 []) {} with mods := [(0, m0)] }
     isReady t (itm 0x02 []) ∧ (heldBerths t).all (fun e => decide (e.2.modSlot ≠ 0)) = true) ∧
    (isReady a adm ∧ admitResv adm ∧ admitRange r ∧ admitModel a 0 0 = some md ∧ admitDest a r md = true ∧ freeEntry a = some 0 ∧
      placeIn a 0 0 64 (some (region0Of md r.inDepth r.pmExtra)) (upTo 16) = .at 0 ∧ (fitTop 64 (storeGaps a 0)).isSome ∧
      (fitLow (region0Of md r.inDepth r.pmExtra) (bpGaps a 0)).isSome ∧ (match (placeKey a 0 r.replay r.seed).2 with | .key _ => true | _ => false) = true) ∧
    (isReady (withItem (itm 0x11 [(16, 1)]) {}) (itm 0x11 [(16, 1)]) ∧ slotsOf 1 = [0] ∧
      mayPreempt (withItem (itm 0x11 [(16, 1)]) {}) 0 = true ∧ migrating (withItem (itm 0x11 [(16, 1)]) {}) 0 = false) := by decide +kernel

theorem wit_Doorbells :
    let s := withItem {} {}
    let fits (d : BitVec 32) (size : Nat) (w last : BitVec 32) : Bool := decide (d.toNat ≤ size ∧ (w - last).toNat < 2 ^ 31)
    pageLive (client s 2) = true ∧ s.lost.lost = false ∧ fits 0 (sqSize s 2) 0 0 = true ∧ fits (BitVec.ofNat 32 (sqSize s 2)) (sqSize s 2) 1 0 = true ∧
    fits (BitVec.ofNat 32 (sqSize s 2 + 1)) (sqSize s 2) 1 0 = false ∧ fits (0 - 1) (cqSize s 2) 1 0 = false := by decide +kernel

theorem wit_PagesInterruptsFlush :
    let s := withItem (itm 0x13 []) {}
    let k : Client := { st := .active, unsig := 1, unsigNow := true }
    pageLive (client s 3) = false ∧ pageLive (client s 2) = true ∧ irqDue s 2 (client s 2) = false ∧ irqDue s 2 k = true ∧
    k.arm = true ∧ k.mask = false ∧ s.chn.routes = [] ∧ ((1 : BitVec 32).getLsbD 0) = true := by decide +kernel

theorem wit_RingsAndItems :
    let d := part [(0, 0x13), (1, 1)]
    let k : Client := { st := .active, sqTail := 1 }
    let on (k : Client) : State := { dev with clients := [(2, k)], sec := { tenancy := .bound } }
    let g : Item := { itm 0x0D [(16, 2), (32, 64)] with begun := true }
    let held : Item := { itm 0x13 [] with tmo := 1, held := true }
    let e := bth .locked
    (mayFetch (on k) 2 = true ∧ leAt d 3 1 = k.fepoch.toNat ∧ dLast d = true ∧ dOp d = 0x13 ∧ partsOk [d] = true ∧ headerOk d = true) ∧
    leAt (part [(1, 1), (3, 1)]) 3 1 ≠ k.fepoch.toNat ∧
    (writable (client (on { k with spill := [{}] }) 2) = true ∧ cqRoom (on { k with spill := [{}] }) 2 = true) ∧
    (k.f2hTail - k.f2hHead).toNat < f2hSize (on { k with outbox := [{}] }) 2 ∧
    (findItem (on { k with items := [held] }) 2 1 = some held ∧ (berth (on k) 1).waiters = []) ∧ (on k).berths = [] ∧
    (findItem (withItem g e) 2 1 = some g ∧ stRange (withItem g e) e g = true ∧ stSec g = 2 ∧ inSwap e = false ∧ e.lkOwner = 2) := by decide +kernel

theorem wit_ClientLife :
    let c : BitVec 10 := 2
    let s : State := { dev with sec := { tenancy := .bound } }
    let full := [0, 8, 0x10, 0x18].foldl (fun t o => setRegWord t (hifC c o) 64) s
    alive full = true ∧ full.clk.ready = true ∧ (client full c).st = .disabled ∧
    [0, 8, 0x10, 0x18].any (fun o => decide (ringBase full c o = 0)) = false ∧
    [0, 8, 0x10, 0x18].any (fun o => decide (ringBase s c o = 0)) = true ∧ dev.sec.tenancy ≠ .bound ∧
    (client (withItem {} {}) c).st = .active ∧ dev.sec.tdi = .unlocked ∧ dev.sec.tenancy ≠ .teardown ∧
    (let r : State := { s with clients := [(2, { st := .resetting })] }
     (client r c).st = .resetting ∧ (client r c).resetBoundary = false ∧ (client r c).items = []) := by decide +kernel

theorem wit_MailboxRequests :
    let s : State := { dev with clients := [(2, { st := .active, h2fTail := 1 })] }
    pageLive (client s 2) = true ∧ (client s 2).orph = [] ∧ (client s 2).h2fTail ≠ (client s 2).h2fHead ∧ s.clk.ready = true ∧
    s.fw.hm.phase ≠ .window ∧ (client s 2).outbox.length ≤ 59 ∧ windowOpen s = false ∧
    windowOpen { s with fw := { s.fw with hm := { phase := .window } } } = true ∧
    (let m (t n : Nat) := natLe (t + n * 2 ^ 16) 256
     mailOk (m 1 4) = true ∧ mailType (m 1 4) = 1 ∧ mailOk (m 2 0) = true ∧ mailOk (m 3 32) = true ∧ leAt (m 3 32) 2 2 = 32) := by decide +kernel

/-- The same device with some register words. -/
def devRegs (l : List (Nat × Nat)) : State := l.foldl (fun t e => setRegWord t e.1 (BitVec.ofNat 32 e.2)) dev

theorem wit_AudioControl :
    let on := devRegs [(audOff, 1 + 16 * leadBlk dev + 256 * tailBlk dev), (audCtl 48, 1), (audOff + 8, 2), (audOff + 0x24, 2 ^ 16)]
    let armed : State := { on with aud := { str := [(48, { phase := .armed, waitTrig := true })], lockB := true } }
    (alive dev = true ∧ dev.clk.ready = true ∧ regField dev audOff 0 0 = 0 ∧ regField on audOff 0 0 = 1 ∧
      Nat.max 1 (leadBlk dev) = leadBlk on ∧ tailBlk on = tailBlk dev ∧ dev.sec.polLock = false) ∧
    (aEn dev 0 = false ∧ configOk dev 0 false 0 = true ∧ configOk (devReg (audCfg 0) 7) 0 false 0 = false) ∧
    (aEn on 48 = true ∧ isTx 48 = true ∧ armedStreams armed = [48] ∧ armedStreams dev = [] ∧ (aud armed 48).phase = .armed) ∧
    (regField on (audOff + 8) 1 1 = 1 ∧ regField dev (audOff + 8) 1 1 = 0) ∧
    (on.aud.lockA = false ∧ armed.aud.lockB = true) := by decide +kernel

theorem wit_AudioFrames :
    let with' (st : Nat) (a : AStream) : State := { dev with aud := { str := [(st, a)], lockA := true, lockB := true } }
    let run : AStream := { phase := .run, blk := 1, s0 := { q := [1] }, s1 := { q := [2] } }
    let t := with' 48 run
    let route := devReg (audRoute 0 0) 0x8000
    (isTx 48 = true ∧ txClocked t 48 = true ∧ aMon t 48 = false ∧ bitClockLost t 48 = false ∧ (aud t 48).phase = .run) ∧
    ((aud (with' 48 { phase := .lead }) 48).phase = .lead ∧ txClocked dev 48 = false) ∧
    (isRx 0 = true ∧ wantsRelock {} {} = false ∧ (aud (with' 0 { lock := .locked }) 0).lock = .locked) ∧
    lockMet 0 { lock := .acquire, good := 7 } { z := true } = true ∧ lockMet 0 { lock := .acquire, good := 6 } { z := true } = false ∧
    (aud dev 0).lock = .disabled ∧ (aBit31 dev 0 = false ∧ pllLocked t (aRate t 0) = true) ∧
    (routeOk route 0 0 0x8000 = false ∧ (let m : Module := { st := .loaded, desc := { models := [{ decl := decl [(32, 4)] }] } }
      routeOk { dev with berths := [(1, bth .running)], mods := [(0, m)] } 0 0 (2 ^ 15 + 2 ^ 17 + 2 ^ 12 + 1)) = true) := by decide +kernel

theorem wit_ChainPorts :
    let s := devRegs [(chnOff, 1)]
    let p (l : Nat) : State := { devRegs [(chnOff, 1), (chnPortCfg 0, 0x3FF9)] with chn := { ports := [(0, { link := l })], lanes := [(0, .active), (8, .spare)] } }
    (chnEn s = true ∧ portEn s 0 = false ∧ s.sec.polLock = false) ∧ devId s = 0 ∧
    (negotiate (p 1) 0 { partner := 1 }).isSome ∧ negotiate (p 1) 0 { partner := 1, pass0 := 0, pass1 := 0, pass2 := 0 } = none ∧
    (portOf dev 0).link = 0 ∧ (portOf (p 2) 0).link = 2 ∧ chnLane (p 2) 0 0 = .active ∧
    (upTo 9).find? (fun j => decide (chnLane (setLane (p 2) 0 0 .outOfService) 0 j = .spare ∧ laneEn (p 2) 0 / 2 ^ j % 2 = 1)) = some 1 :=
  by decide +kernel

/-- A frame header: class, destination, source and hops left, before the fields of the payload. -/
def hdrBytes (cls dst hops len : Nat) : List (BitVec 8) :=
  natLe (cls + dst * 2 ^ 8 + 7 * 2 ^ 24 + hops * 2 ^ 40 + len * 2 ^ 144) 32

/-- A data frame from source 7 with no payload, its tag under a key of zeros; a credit frame with its tag. -/
def sealedFrame (cls dst : Nat) : List (BitVec 8) :=
  let f := hdrBytes cls dst 5 0
  f ++ ofNats (gcmTag (toNats (natLe 0 32)) (chainNonce dst 7 0 0 (decide (cls = 2))) (toNats (setHops f 0)) [])

theorem wit_ChainFramesAndRoutes :
    let up : Port := { link := 2 }
    let key : TKey := { kind := 3 }
    let e (l : List (Nat × Nat)) (r : Route) : State := { devRegs ((chnOff + 0x1000, 0x10000000) :: l) with
      chn := { ports := [(0, up), (1, up)], routes := [(0, r)] },
      sec := { keys := [key] }, berths := [(1, bth .running)] }
    let s := e [] { recv := true, st := 1, peerId := 7, berth := 1, len := 64 }
    let send := e [(chnOff + 0xC, 1)] { st := 1, peerId := 7, berth := 1 }
    let new := e [(chnRtData 0, 1), (chnRtData 2, 2 ^ 25), (chnRtData 3, 64)] {}
    let formed (f : List (BitVec 8)) := (hdr f 3 0 = 1 ∨ hdr f 3 0 = 2) ∧ hdr f 156 144 ≤ 4096 ∧ f.length = 48 + hdr f 156 144
    let f := sealedFrame 1 0
    let g := sealedFrame 2 0
    let far (hops : Nat) := hdrBytes 1 7 hops 0 ++ List.replicate 16 0
    ((portOf s 0).link = 2 ∧ ¬ formed [] ∧ formed (far 0) ∧ hdr (far 0) 52 40 = 0 ∧ hdr (far 5) 20 8 ≠ devId s ∧ fwdOf s 7 = 1 ∧ (portOf s 1).spill = []) ∧
    (formed f ∧ hdr f 20 8 = devId s ∧ hdr f 3 0 = 1 ∧ jobKey s 0 0 = some key ∧ (routeAt s 0).peerId.toNat = hdr f 36 24 ∧
      openFrame key f = some [] ∧ hdr f 143 96 = seqOf s (seqKey 0 1 0 0)) ∧
    (formed g ∧ hdr g 3 0 = 2 ∧ openFrame key g = some []) ∧
    (rtSel new = 0 ∧ (routeAt new 0).st = 0 ∧ routeAccepted new 0 (routeOfData new) = true ∧ routeAccepted dev 0 (routeOfData dev) = false) ∧
    ((routeAt send 0).st = 1 ∧ (routeAt send 0).recv = false ∧ (routeAt send 0).avail = 0 ∧ regField send (chnOff + 0xC) 15 0 ≠ 0) := by
  decide +kernel

/-- The device with a finished session 0 and a tenancy. -/
def secured (t : Tenancy) : State :=
  { dev with sec := { tenancy := t, sessions := [(0, { finished := true, mutualAuth := true, pub := 9 })], tsess := some 0, tEpoch := 1,
                      anchor := some 1 } }

/-- The same with the warden, or the harbourmaster, in its commit window. -/
def inWindow (wd : Bool) (s : State) : State := if wd then { s with fw := { s.fw with wd := { phase := .window } } }
  else { s with fw := { s.fw with hm := { phase := .window } } }

theorem wit_SpdmConnection :
    let s : State := { dev with sec := { spdm := 3, sessions := [(1, {})], held := [{ path := 0, who := 0xFD }] } }
    s.clk.ready = true ∧ s.fw.wd.phase ≠ .window ∧ 3 ≤ s.sec.spdm ∧ windowOpen s = false ∧ windowOpen (inWindow false s) = true ∧
    (inWindow false s).fw.wd.phase ≠ .window ∧ s.sec.held.find? (fun r => decide (r.path = 0)) = some { path := 0, who := 0xFD } ∧
    (upTo 4).find? (fun k => (sessionOf s k).isNone) = some 0 ∧ sessionOf s 1 = some {} ∧ State.reset.clk.ready = false ∧
    (inWindow true s).fw.wd.phase = .window := by decide +kernel

theorem wit_SessionsIdeTdisp :
    let s := secured .bound
    let t (d : Tdi) (tdisp : Bool) : State := { s with sec := { s.sec with tdi := d, tdisp := tdisp, ide := [(0, { keyed0 := true, go := 1 })] } }
    s.clk.ready = true ∧ s.fw.wd.phase ≠ .window ∧ live s 0 = true ∧ keyedSet (ideOf (t .run false) 0) false = true ∧
    (t .run false).sec.tdisp = false ∧ (t .unlocked false).sec.tdi = .unlocked ∧ secure (t .unlocked false) 0 = true ∧ secure s 0 = false ∧
    (t .locked true).sec.tdi = .locked ∧ (t .locked true).sec.tenancy = .bound ∧ live (t .locked true) 0 = true := by decide +kernel

theorem wit_TenancyLife :
    let b := secured .bound
    let v := secured .vacant
    let d (n : Nat) : State := { secured .teardown with sec := { (secured .teardown).sec with tdStep := n } }
    (mayBind v 0 0 = true ∧ mayBind v 0 8 = false ∧ v.lost.lost = false ∧ live v 0 = true) ∧
    mayResume { b with sec := { b.sec with tsess := none, bindPub := some 9 } } 0 0 = true ∧ b.sec.tsess = some 0 ∧
    windowOpen b = false ∧ windowOpen (inWindow false b) = true ∧ alive b = true ∧ ({ b with guardOpen := true } : State).guardOpen = true ∧
    v.sec.tenancy ≠ .bound ∧ tdStepNow (d 0) = 5 ∧ allIdle (d 0) = true ∧ tdStepNow b ≠ 5 ∧ (d 6).sec.tdStep = 6 ∧
    (d 6).clients = [] := by decide +kernel

theorem wit_TenantKeys :
    let s := secured .bound
    let k : TKey := { kind := 3, id := 4, epoch := 2 }
    s.clk.ready = true ∧ s.fw.wd.phase ≠ .window ∧ live s 0 = true ∧ s.sec.tenancy = .bound ∧ s.sec.tsess = some 0 ∧
    (keysOf s 1).any (fun k => decide (k.epoch = s.sec.tEpoch)) = false ∧ (keysOf s 1).length < 2 ∧ (jobKeys s 4).length < 2 ∧
    (liveJobs s).length < 1024 ∧ (jobKey { s with sec := { s.sec with keys := [k] } } 4 2).isSome = true := by decide +kernel

theorem wit_CewiebRequests :
    let s := secured .bound
    cwServes s = true ∧ s.fw.wd.phase ≠ .window ∧ (1 : BitVec 64) ≠ s.sec.mview ∧ cluState s 2 = .quarantined ∧ cluState s 0 = .active ∧
    spareClu { s with map := { s.map with cluState := [(0, .active)] } } (dieOf 0) = none ∧ windowOpen s = false ∧
    (secured .vacant).sec.tenancy ≠ .bound ∧ cwServes (secured .vacant) = true ∧ windowOpen (inWindow true s) = true ∧
    cwServes (inWindow true s) = true ∧ cwServes dev = false := by decide +kernel

/-- The SHA-384 digest of no bytes, as FIPS 180-4 has it. -/
def emptyDigest : Nat :=
  0x38b060a751ac96384cd9327eb1b1e36a21fdb71114be07434c0cc7bf63f6e1da274edebfe76f65fbd51ad2f14898b95b

/-- An image file of a kind with no body. -/
def fwFile (kind : Nat) : FwFile :=
  { header := natLe (0x4D57465A + 2 ^ 32 + kind * 2 ^ 48 + 0x9608 * 2 ^ 64 + 0xB1 * 2 ^ 80
      + leNat (natLe emptyDigest 48).reverse * 2 ^ 192) 256 }

theorem wit_CewiebDebugAndImages :
    let s := secured .vacant
    let k (x : FwKind) : State := { s with fw := { s.fw with wd := x } }
    let off : State := { s with fw := { s.fw with dbgDisable := true } }
    let wait : State := { s with clk := { s.clk with ready := false }, fw := { s.fw with waitBundle := true } }
    let file := fwFile 2
    (cwServes s = true ∧ levelsAllowed s 31 = true ∧ levelsAllowed off 1 = false ∧ cwServes off = true) ∧
    (s.fw.wd.phase = .idle ∧ 1 ≤ (regWord (setRegWord s (clkOff + 0x10) 1) (clkOff + 0x10)).toNat) ∧
    (let t := k { phase := .staged, flashed := true }
     (fwOf t true).phase = .staged ∧ commitCauses t true = [] ∧ commitOther t true = false) ∧
    (alive dev = true ∧ testBypass dev = false ∧ dev.sec.anchor = none ∧ dev.fw.fuseQ = []) ∧
    (waitsManagement wait = true ∧ imageValid wait true file = true) := by decide +kernel

theorem wit_FirmwareStages :
    let k (x : FwKind) : State := { dev with fw := { dev.fw with wd := x } }
    let wait : State := { dev with clk := { dev.clk with ready := false }, fw := { dev.fw with waitBundle := true } }
    let file := fwFile
    let staging := k { phase := .staging, len := 256 }
    (alive dev = true ∧ dev.clk.ready = true ∧ bitsOf (0x20 : BitVec 32).toNat 5 4 = fwCode true ∧ dev.fw.wd.phase = .idle) ∧
    (let t := k { phase := .staged, flashed := true, pending := some {} }
     commitCauses t true = [] ∧ commitOther t true = false ∧ alive t = true) ∧
    (waitsHost wait = true ∧ waitsHost dev = false ∧ imageValid wait true (file 2) = true ∧ imageValid wait false (file 1) = true ∧
      bitsOf (0x30 : BitVec 32).toNat 5 4 = 3) ∧
    (stageFull (fwOf staging true) = true ∧ stagedFile (fwOf staging true) (file 2) = file 2 ∧ imageValid staging true (file 2) = true ∧ (stagedFile (fwOf staging true) (file 2)).body.length + 256 = (fwOf staging true).len ∧
      formOk (file 2) = true ∧ imageCauses staging true { file 2 with sigOk := false } = [1]) ∧
    (let t := k { phase := .staged, pending := some {} }
     fromFlash t = true ∧ (fwOf t true).flashed = false) := by decide +kernel

theorem wit_WindowsAndFuses :
    let p : State := { dev with fw := { dev.fw with wd := { phase := .persist }, fuseQ := [.retireCluster 3] } }
    (alive dev = true ∧ dev.sec.held = [] ∧ dev.sec.cwHeld = [] ∧ dev.sec.tdDue = false) ∧ (inWindow false dev).fw.hm.phase = .window ∧
    (inWindow true dev).fw.wd.phase = .window ∧ spareCore dev = some 4 ∧ (fwOf p true).phase = .persist ∧
    p.fw.fuseQ = [.retireCluster 3] ∧ p.clk.rstWaits = false ∧ ({ p with clk := { p.clk with rstWaits := true } } : State).clk.rstWaits = true := by
  decide +kernel

theorem wit_ResetAndBoot :
    let c (x : Clk) : State := { dev with clk := x }
    let boot : State := { dev with clk := {}, fw := { dev.fw with slots := [(0, { image := some {}, active := true }), (2, { image := some {}, active := true })] } }
    (dev.clk.inReset = false ∧ dev.clk.porHeld = false ∧ dev.fw.fuseQ = []) ∧
    ({ dev.fw with fuseQ := [.retireCore 1] } : Fw).fuseQ ≠ [] ∧ (c { inReset := true }).clk.rstWaits = false ∧
    (c { porHeld := true }).clk.rstLow = false ∧ (c { porHeld := true, rstLow := true }).clk.porHeld = true ∧
    (alive dev = true ∧ dev.clk.ready = true ∧ dev.lost.lost = false) ∧
    (alive boot = true ∧ boot.clk.ready = false ∧ testBypass boot = false ∧ boot.clk.refValid = true ∧ boot.rng.nt = .ok ∧
      (bootImage boot false).isSome ∧ (bootImage boot true).isSome) ∧
    (let e : State := { dev with clk := {} }
     bootImage e false = none ∧ bootsFlash e = true) := by decide +kernel

theorem wit_ClockRoots :
    let s : State := { dev with clk := { dev.clk with gear := [(0, 0), (1, 3)] } }
    let u : State := { s with clk := { s.clk with lock := [(0, true)] } }
    alive s = true ∧ gearLoaded s 0 = 0 ∧ gearLoaded dev 0 = 5 ∧
    gearInForce dev 0 < gearLoaded dev 0 ∧ mayClimb dev 0 = true ∧ mayClimb { dev with clk := { dev.clk with climbAt := [(0, 1)] } } 0 = false ∧ gearLoaded { u with clk := { u.clk with lock := [], gear := [(0, 2)] } } 0 = 2 ∧
    2 < gearInForce { u with clk := { u.clk with lock := [], gear := [(0, 2)] } } 0 ∧ gearInForce s 0 = gearLoaded s 0 ∧
    rootLocked s 0 = true ∧ rootLocked s 1 = true ∧ rootLocked s 2 = true ∧ rootLocked u 1 = false ∧ u.lost.lost = false ∧
    tabGet false u.clk.rootDown 1 = false ∧ tabGet 0 u.clk.attempts 1 + 1 < 3 ∧
    3 ≤ tabGet 0 ({ u.clk with attempts := [(1, 2)] } : Clk).attempts 1 + 1 := by decide +kernel

theorem wit_ThermalAndVoltage :
    let t (v : DieTherm) : State := { dev with thm := { dies := [(0, v)] } }
    alive dev = true ∧ sampleT { own := some 799 } = some 799 ∧ sampleT { stk := [800] } = some 880 ∧ sampleT { hub := some 960 } = some 960 ∧
    (dieTherm dev 0).st = .normal ∧ (dieTherm (t { st := .throttle, temp := 775 }) 0).st = .throttle ∧
    (dieTherm (t { st := .throttle, temp := 800, gt := 4 }) 0).gt < 5 ∧ (dieTherm (t { st := .trip, temp := 799 }) 0).st = .trip ∧
    dev.clk.ready = true ∧ avsFails dev 0 = false ∧ 1 ≤ avsMin dev ∧ avsMin dev ≤ avsMax dev ∧ avsMax dev < 1000 := by decide +kernel

theorem wit_WindowZero :
    let s : State := { dev with guardOpen := true, sec := { tdi := .run } }
    alive dev = true ∧ dev.sec.tdi ≠ .run ∧ s.guardOpen = true ∧ s.sec.tdi = .run ∧ alive s = true ∧ dev.guardOpen = false ∧
    dev.dbg.parTick = none ∧ dev.tick.toNat < 0 + 100000000 ∧ dev.lost.lost = false ∧ dev.clk.ready = true ∧
    (0x3FF : BitVec 32).toNat % 2 ^ 14 < 0x400 := by decide +kernel

theorem wit_JtagAndTrace :
    let o : State := { dev with sec := { levels := 5, anchor := some 1 }, dbg := { nonce := some 1, trc := [[1]] },
                                rng := { gens := [(hubGen, { state := 1, inst := true })] }, regs := (devReg (dbgOff + 4) 1).regs }
    jtagOpen dev = false ∧ jtagOpen o = true ∧ o.dbg.ioStopped = false ∧ alive o = true ∧
    (match (genRequest o hubGen).2 with | .key _ => true | _ => false) = true ∧ o.clk.ready = true ∧ responseGood o 3 true = true ∧
    responseGood dev 3 true = false ∧ (inWindow true o).fw.wd.phase = .window ∧ dbgExists (.store 17 (storeSize - 4)) = true ∧
    testBypass dev = false ∧ dev.sec.levels.getLsbD 0 = false ∧ trcOn o = true ∧ o.dbg.trcLost = 0 ∧ cluState dev 0 ≠ .outOfService ∧ cluState dev 1 = .outOfService ∧
    0 < ({ o.dbg with trcLost := 1 } : Dbg).trcLost := by decide +kernel

theorem wit_ColumnMap : ({} : Tile).spokes = [] ∧ physCol {} 1023 = 1054 := by decide +kernel

theorem wit_InstructionStepsKeepMemories :
    let i := Instr.addi 0 { d := 1, imm := 1 }
    let s : State := { wState with pending := [i] }
    s.pending = [i] ∧ (spelling i).isSome = true ∧ s.memoriesWf = true ∧
    (match step s with | .next u => decide (u.pending = []) && decide (u.store = s.store) | _ => false) = true := by decide +kernel

theorem wit_DecodeEncode : (spelling (.ld 3 { d := 1 } 1)).isSome = true ∧ withoutError (.ld 3 { d := 1 } 1) = .ld 3 { d := 1 } 0 := by
  decide +kernel

theorem wit_MaskedWrites :
    alive dev = true ∧ dev.clk.ready = true ∧ cluState dev 0 ≠ .outOfService ∧ (regWord dev (cluOff 0 + 4)).toNat < 8 := by decide +kernel

/-! ## Well-formedness refuses, commands decode, and worked examples of the spec -/

theorem test_units_refused :
    unitsOk (.productStart 18 0) = false ∧ unitsOk (.productStart 17 16) = true ∧ unitsOk (.routeWrite 56 0 0) = false ∧
    unitsOk (.dbgAccess (.package 2)) = false ∧ unitsOk (.txFrame 0) = false ∧ wellFormed (.backupWrite 16 0) = false := by decide +kernel

theorem test_words_refused :
    wordOk (.wait 0 {}) = false ∧ wellFormed (.wait 0 {}) = false ∧ wellFormed (.addi 0 { d := 1, imm := 1 }) = true := by decide +kernel

theorem test_sizes_refused :
    sizesOk (.echo 0 []) = false ∧ sizesOk (.registerWrite 0 0 3 true) = false ∧ sizesOk (.stageChunk 0 1 0 (natLe 0 4097)) = false ∧
    sizesOk (.descriptorFetch 0 [natLe 0 63]) = false ∧ sizesOk (.descriptorFetch 0 [natLe 0 64]) = true ∧
    wellFormed (.echo 0 []) = false := by decide +kernel

theorem test_refused_step :
    (match step { State.reset with pending := [.productStart 18 0] } with | .refused r => decide (r = .noSuchUnit) | _ => false) = true := by decide +kernel

/-- The worked word of chapter 6: VQUANT v3, v2, s5, s6. -/
theorem test_vquant_word :
    decodeWord 1 0x0801004003144352 = some (.vquant 1 { d := 3, x := 2, y := 5, z := 6, imm := 0x08010040 }) := by decide +kernel

/-- Words written from R146 and the opcode map: MOVI s1, 7 under p2 inverted; ARR; BR; SDRAW; an unassigned opcode. -/
theorem test_other_words :
    decodeWord 0 (0x0D + 1 * 2 ^ 8 + 2 * 2 ^ 28 + 2 ^ 31 + 7 * 2 ^ 32) = some (.movi 0 { d := 1, pg := 2, pn := true, imm := 7 }) ∧
    (decodeWord 0 0x20).isSome = true ∧ decodeWord 0 0x1F = none ∧ decodeWord 0 0xFF = none := by decide +kernel

/-- The worked CAL_REQ word of chapter 17 retires tile 9 of physical cluster 3, and its guard closes. -/
theorem test_retire_word :
    let s : State := { dev with guardOpen := true, map := { dev.map with tileState := [(tileKey 3 9, .quarantined)], cluState := [(3, .active)] } }
    (match exec (.calReqRetire 0x1123) s with
     | .next u => decide (u.fw.fuseQ = [.retireTile 3 9]) && !u.guardOpen
     | _ => false) = true := by decide +kernel

/-- The worked flush of chapter 12: three descriptors in assembly go, the LOCK item completes, the epoch becomes 4. -/
theorem test_flush_example :
    let k : Client := { st := .active, fepoch := 3, sqTail := 1003, sqHead := 1003, asm := [natLe 4 64, natLe 0 64, natLe 0 64],
                        items := [{ seq := 999, op := 0x0A, tag := 0x910, fep := 3, held := true, berth := 1 }] }
    let s : State := { dev with clients := [(7, k)], berths := [(1, { st := .locked, lkOwner := 1, waiters := [⟨7, 999⟩] })] }
    (match exec (.dbFlush 7 1) s with
     | .next u => decide ((client u 7).fepoch = 4) && decide ((client u 7).items = []) && decide ((client u 7).asm = [])
         && decide (ctr u (hifCtr 5) = 3) && decide ((berth u 1).waiters = []) && decide ((client u 7).sqHead = 1003)
     | _ => false) = true := by decide +kernel

/-- The worked reservation of chapter 10: 7,744 bytes of store and 12,288 bytes of region 0. -/
theorem test_reservation_example :
    let m : ModelDecl := { decl := decl [(0, 7632), (32, 160)] }
    storeOf m = 7744 ∧ region0Of m 8 0 = 12288 := by decide +kernel

/-- ADDI wraps at 64 bits (R155): -1 plus 1 is 0, and the pc advances by 8. -/
theorem test_addi_wraps :
    let s : State := { wState with threads := [(0, { wThread with sreg := [(1, 2 ^ 64 - 1)] })] }
    (match exec (.addi 0 { d := 2, x := 1, imm := 1 }) s with
     | .next u => decide (readS (thread u 0) 2 = 0) && decide ((thread u 0).pc = (thread s 0).pc + 8)
     | _ => false) = true := by decide +kernel

/-- The guard holds the instruction back: p1 reads 0, so MOVI under p1 writes nothing and still counts (R147). -/
theorem test_guard :
    (match exec (.movi 0 { d := 2, pg := 1, imm := 5 }) wState with
     | .next u => decide (readS (thread u 0) 2 = 0) && decide ((thread u 0).issued = 1)
     | _ => false) = true := by decide +kernel

/-- A store of one cell changes the canonical memory, and writing back what an unlisted byte reads as removes it. -/
theorem test_memory_form :
    memPutBytes [] 64 [7] = [(64, 7)] ∧ memPutBytes [(64, 7)] 64 [0] = [] ∧ memWf [(64, 0)] = false ∧ memWf [(65, 1), (64, 1)] = false := by
  decide +kernel

/-- An empty queue: a device in reset idles. -/
theorem test_idle :
    let s : State := { State.reset with clk := { inReset := true } }
    (match step s with | .next u => decide (u = s) | _ => false) = true := by decide +kernel

end Sys2Proof.Tests
end

section
/-! The scope family (00_scope.md): what one step takes from the queue (O1), and whether the answer of a command says that its
units exist (O57). -/

namespace Sys2Proof.Machine
open Sys2Proof

/-! ## Device time (R358, R415) -/

@[simp] theorem tabGet_nil {α : Type} (d : α) (k : Nat) : tabGet d [] k = d := rfl

/-- A port that the table does not list reads as the port after reset, which is not UP. -/
theorem portOf_of_no_ports (s : State) (k : Nat) (h : s.chn.ports = []) : portOf s k = {} := by
  simp only [portOf, h, tabGet_nil]

/-- A port that is not UP neither sends nor reads a frame back. -/
theorem portTick_of_not_up (s : State) (k : Nat) (h : (portOf s k).link ≠ 2) : portTick s k = s := by
  simp only [portTick, ne_eq, h, not_false_eq_true, if_true]

theorem chainTick_of_no_ports (s : State) (h : s.chn.ports = []) : chainTick s = s :=
  List.foldl_fixed' (fun k => portTick_of_not_up s k (by simp [portOf_of_no_ports s k h])) (upTo 4)

theorem deviceTick_of_not_ticking (s : State) (h : ticking s = false) : deviceTick s = s := by
  simp [deviceTick, h]

theorem deviceTick_of_ticking (s : State) (h : ticking s = true) :
    deviceTick s = chainTick { s with tick := s.tick + 1 } := by
  simp only [deviceTick, h, if_true]

/-! ## The queue (R19, R126) -/

theorem step_cons (c : Instr) (rest : List Instr) (s : State) :
    step { s with pending := c :: rest } = exec c { s with pending := rest } := rfl

theorem step_of_empty (s : State) (h : s.pending = []) : step s = .next (deviceTick s) := by
  simp only [step, h]

/-- Settles O1: the queue's two cases, and a device tick in which no port is UP. -/
theorem stepRunsFront : Obligations.StepRunsFront := by
  unfold Obligations.StepRunsFront
  refine ⟨step_cons, fun s idle => ⟨fun still => ?_, fun ticks noPorts => ?_⟩⟩
  · rw [step_of_empty s idle, deviceTick_of_not_ticking s still]
  · rw [step_of_empty s idle, deviceTick_of_ticking s ticks,
      chainTick_of_no_ports { s with tick := s.tick + 1 } noPorts]

/-! ## The answer to a command that names a unit (log 10) -/

/-- MLD completes whatever addresses its list of corrected sectors holds (R165, R279). -/
theorem exec_mld_completes (lt : BitVec 12) (f : Fields) (ecc : List (Nat × Nat)) (s : State) :
    ∃ u, exec (.mld lt f ecc) s = .next u := ⟨_, rfl⟩

/-- Refutes O57: an MLD that reports a corrected sector at address 2^37, past the two dies of package memory (R275), names a
unit that does not exist, so `unitsOk` is false of it; but its meaning checks no sector's address and answers a next state. -/
theorem not_everyCommandCompletes : ¬ Obligations.EveryCommandCompletes := by
  unfold Obligations.EveryCommandCompletes
  intro everyCommand
  obtain ⟨-, refuses⟩ := everyCommand (.mld 0 {} [(2 ^ 37, 0)]) State.reset
  obtain ⟨u, completes⟩ := exec_mld_completes 0 {} [(2 ^ 37, 0)] State.reset
  have noSuchSector : unitsOk (.mld 0 {} [(2 ^ 37, 0)]) = false := by decide
  have refused := refuses noSuchSector
  rw [completes] at refused
  cases refused

end Sys2Proof.Machine
end

section
/-! The voice-flow family (01_voice_flow.md): how the items of a berth begin (O30). -/

namespace Sys2Proof.Machine
open Sys2Proof

section Begin
variable {s u : State} {c : BitVec 10} {i : Item} {b : BitVec 12} {op : Nat}

/-! ## What an item row takes up (R312–R314) -/

theorem firstReady_some {before items : List Item} (h : firstReady op before items = some i) : i ∈ items ∧ i.op = op := by
  induction items generalizing before with
  | nil => cases h
  | cons j rest ih =>
    simp only [firstReady] at h
    split at h
    case isTrue takes =>
      split at h
      · cases h
      · split at h
        · cases h
          exact ⟨List.mem_cons_self, takes.1⟩
        · cases h
    case isFalse =>
      obtain ⟨listed, opcode⟩ := ih h
      exact ⟨List.mem_cons_of_mem _ listed, opcode⟩

/-- The item that a row takes up is one of its client's, of the row's opcode, and the client's rings may be written. -/
theorem readyItem_some (h : readyItem s c op = some i) :
    writable (client s c) = true ∧ i ∈ (client s c).items ∧ i.op = op := by
  simp only [readyItem] at h
  split at h
  case isTrue serves =>
    simp only [Bool.and_eq_true] at serves
    exact ⟨serves.1, firstReady_some h⟩
  case isFalse => cases h

theorem takeItem_ready (run : State → Item → State) (h : readyItem s c op = some i) : takeItem s c op run = run s i := by
  simp only [takeItem, h]

/-! ## How an operation meets its berth (R263) -/

/-- No lock is held or due on a RUNNING or PARKED berth. -/
def unlockedBerth (e : Berth) : Prop := e.lockDue = none ∧ (e.st = .running ∨ e.st = .parked)

theorem meet_unlocked {e : Berth} {free : List BState} (owner : Bool) (unlocked : unlockedBerth e)
    (running : .running ∈ free) (parked : .parked ∈ free) : meet c e free owner = .run := by
  obtain ⟨noLock, st | st⟩ := unlocked <;> simp [meet, isLocked, noLock, st, running, parked]

theorem meet_owner {e : Berth} (free : List BState) (locked : e.st = .locked) (owns : lockOwner e = c) :
    meet c e free true = .run := by
  simp [meet, isLocked, locked, owns]

theorem onBerth_run {free : List BState} {owner : Bool} (run : State → Berth → State)
    (h : meet c (berth s i.berth) free owner = .run) : onBerth s c i free owner run = run s (berth s i.berth) := by
  simp only [onBerth, h]

/-! The dispatch by opcode, one line for each operation that begins an item. -/

theorem runBerthOp_frame (h : i.op = 0x04) :
    runBerthOp c s i = onBerth s c i [.admitted, .running, .parked] true (fun s e => runFrame c s i e) := by
  simp only [runBerthOp, h]
theorem runBerthOp_leave (h : i.op = 0x06) :
    runBerthOp c s i = onBerth s c i [.admitted, .running, .parked] true (fun s e => runLeave c s i e) := by
  simp only [runBerthOp, h]
theorem runBerthOp_park (h : i.op = 0x07) :
    runBerthOp c s i = onBerth s c i [.running, .parked] false (fun s e => runPark c s i e) := by
  simp only [runBerthOp, h]
theorem runBerthOp_unpark (h : i.op = 0x08) :
    runBerthOp c s i = onBerth s c i [.running, .parked] false (fun s e => runUnpark c s i e) := by
  simp only [runBerthOp, h]
theorem runBerthOp_migrate (h : i.op = 0x09) :
    runBerthOp c s i = onBerth s c i [.running, .parked] false (fun s e => runMigrate c s i e) := by
  simp only [runBerthOp, h]
theorem runBerthOp_writeState (h : i.op = 0x0D) :
    runBerthOp c s i = onBerth s c i [] true (fun s e => runWriteState c s i e) := by
  simp only [runBerthOp, h]

/-- A row whose item meets its berth with nothing in the way runs the operation on it. -/
theorem takeBerthOp_run {free : List BState} {owner : Bool} {run : State → Berth → State} (ready : readyItem s c op = some i)
    (dispatch : i.op = op → runBerthOp c s i = onBerth s c i free owner run)
    (meets : meet c (berth s i.berth) free owner = .run) :
    takeItem s c op (runBerthOp c) = run s (berth s i.berth) := by
  obtain ⟨-, -, opcode⟩ := readyItem_some ready
  rw [takeItem_ready _ ready, dispatch opcode, onBerth_run _ meets]

theorem exec_frameItem (ready : readyItem s c 0x04 = some i) (unlocked : unlockedBerth (berth s i.berth)) :
    exec (.frameItem c) s = .next (runFrame c s i (berth s i.berth)) :=
  congrArg _ (takeBerthOp_run ready runBerthOp_frame (meet_unlocked _ unlocked (by simp) (by simp)))
theorem exec_leaveItem (ready : readyItem s c 0x06 = some i) (unlocked : unlockedBerth (berth s i.berth)) :
    exec (.leaveItem c) s = .next (runLeave c s i (berth s i.berth)) :=
  congrArg _ (takeBerthOp_run ready runBerthOp_leave (meet_unlocked _ unlocked (by simp) (by simp)))
theorem exec_parkItem (ready : readyItem s c 0x07 = some i) (unlocked : unlockedBerth (berth s i.berth)) :
    exec (.parkItem c) s = .next (runPark c s i (berth s i.berth)) :=
  congrArg _ (takeBerthOp_run ready runBerthOp_park (meet_unlocked _ unlocked (by simp) (by simp)))
theorem exec_unparkItem (ready : readyItem s c 0x08 = some i) (unlocked : unlockedBerth (berth s i.berth)) :
    exec (.unparkItem c) s = .next (runUnpark c s i (berth s i.berth)) :=
  congrArg _ (takeBerthOp_run ready runBerthOp_unpark (meet_unlocked _ unlocked (by simp) (by simp)))
theorem exec_migrateItem (ready : readyItem s c 0x09 = some i) (unlocked : unlockedBerth (berth s i.berth)) :
    exec (.migrateItem c) s = .next (runMigrate c s i (berth s i.berth)) :=
  congrArg _ (takeBerthOp_run ready runBerthOp_migrate (meet_unlocked _ unlocked (by simp) (by simp)))
theorem exec_writeStateItem (ready : readyItem s c 0x0D = some i) (locked : (berth s i.berth).st = .locked)
    (owns : lockOwner (berth s i.berth) = c) :
    exec (.writeStateItem c) s = .next (runWriteState c s i (berth s i.berth)) :=
  congrArg _ (takeBerthOp_run ready runBerthOp_writeState (meet_owner _ locked owns))
theorem exec_importItem (ready : readyItem s c 0x10 = some i) : exec (.importItem c) s = .next (runImport c s i) :=
  congrArg _ (takeItem_ready _ ready)

/-! ## An item begins and its berth is marked (R321) -/

/-- Only the item has begun, only its berth has changed, to `v`, and nothing else of the state has. -/
def begunWith (s u : State) (c : BitVec 10) (i : Item) (v : Berth) : Prop :=
  hasBegun s u c i ∧ berth u i.berth = v ∧ onlyBerth s u i.berth ∧ { u with berths := s.berths, clients := s.clients } = s

@[simp] theorem client_setBerth (v : Berth) (k : BitVec 10) : client (setBerth s b v) k = client s k := rfl
@[simp] theorem berth_modItem (q : Nat) (f : Item → Item) (k : BitVec 12) : berth (modItem s c q f) k = berth s k := rfl
@[simp] theorem berth_beginItem (k : BitVec 12) : berth (beginItem s c i) k = berth s k := rfl

theorem onlyBerth_setBerth (v : Berth) : onlyBerth s (setBerth s b v) b := fun k other => berth_setBerth_other s b k v other

theorem onlyClient_modItem (q : Nat) (f : Item → Item) : onlyClient s (modItem s c q f) c :=
  fun k other => client_modClient_other s c k _ other

theorem client_modItem (q : Nat) (f : Item → Item) :
    client (modItem s c q f) c =
      { client s c with items := (client s c).items.map (fun j => if j.seq = q then f j else j) } :=
  client_modClient_same s c _

theorem hasBegun_beginItem : hasBegun s (beginItem s c i) c i := ⟨client_modItem _ _, onlyClient_modItem _ _⟩

/-- Whether an item has begun since a state depends on that state's clients alone. -/
theorem hasBegun_of_clients {s' : State} (same : s'.clients = s.clients) (h : hasBegun s' u c i) : hasBegun s u c i := by
  have each (k : BitVec 10) : client s' k = client s k := by simp only [client, same]
  simpa only [hasBegun, onlyClient, each] using h

theorem begunWith_beginItem : begunWith s (beginItem s c i) c i (berth s i.berth) :=
  ⟨hasBegun_beginItem, berth_beginItem _, fun k _ => berth_beginItem k, rfl⟩

theorem begunWith_beginItem_setBerth (v : Berth) : begunWith s (beginItem (setBerth s i.berth v) c i) c i v := by
  have begun : hasBegun s (beginItem (setBerth s i.berth v) c i) c i :=
    hasBegun_of_clients (setBerth_clients s i.berth v) hasBegun_beginItem
  refine ⟨begun, ?_, fun k other => ?_, ?_⟩
  · rw [berth_beginItem, berth_setBerth_same]
  · rw [berth_beginItem, berth_setBerth_other s _ _ _ other]
  · simp only [beginItem, modItem, modClient, setClient, setBerth]

/-! ## Records: what an item that completes leaves behind (R312, R318) -/

/-- Package memory is counted in the stacks' sets, past the device's own counters (R300). -/
theorem ctr_countPm {k : Nat} (low : k < 0xA00) (wr : Bool) (a n : Nat) : ctr (countPm s wr a n) k = ctr s k := by
  simp only [countPm]
  split
  · rfl
  · refine List.foldlRecOn (motive := fun t => ctr t k = ctr s k) _ _ rfl fun t kept g _ => ?_
    rw [ctr_addCtr_other _ _ _ _ (by simp only [stackCtr]; omega), kept]

theorem ctr_hubPm {k : Nat} (low : k < 0xA00) (wr : Bool) (a n : Nat) : ctr (hubPm s c wr a n) k = ctr s k :=
  ctr_countPm low wr a n

@[simp] theorem client_hubPm (wr : Bool) (a n : Nat) (k : BitVec 10) : client (hubPm s c wr a n) k = client s k := by
  simp only [client, hubPm_clients]

/-- The items of client `c`, every other client and the count of completed items are as before. -/
def keepsItems (s u : State) (c : BitVec 10) : Prop :=
  (client u c).items = (client s c).items ∧ onlyClient s u c ∧ ctr u (hifCtr 1) = ctr s (hifCtr 1)

theorem keepsItems_trans {t : State} (first : keepsItems s t c) (second : keepsItems t u c) : keepsItems s u c := by
  obtain ⟨items, others, count⟩ := first
  obtain ⟨items', others', count'⟩ := second
  exact ⟨items'.trans items, fun k other => (others' k other).trans (others k other), count'.trans count⟩

/-- It is enough that the client's entry is the one change of the clients and lists the same items. -/
theorem keepsItems_of (v : Client) (items : v.items = (client s c).items) (entry : u.clients = (setClient s c v).clients)
    (count : ctr u (hifCtr 1) = ctr s (hifCtr 1)) : keepsItems s u c := by
  have each (k : BitVec 10) : client u k = client (setClient s c v) k := by simp only [client, entry]
  refine ⟨?_, fun k other => ?_, count⟩
  · rw [each, client_setClient_same, items]
  · rw [each, client_setClient_other s c k v other]

theorem keepsItems_setClient (v : Client) (items : v.items = (client s c).items) : keepsItems s (setClient s c v) c :=
  keepsItems_of v items rfl rfl

theorem keepsItems_refl : keepsItems s s c := ⟨rfl, fun _ _ => rfl, rfl⟩

theorem keepsItems_testIrq : keepsItems s (testIrq s c) c := by
  simp only [testIrq]
  split
  · refine keepsItems_of { client s c with arm := false, unsig := 0, unsigNow := false } rfl
      (by simp only [addCtr_clients, emit_clients]) ?_
    rw [ctr_addCtr_other _ _ _ _ (by decide)]
    simp only [ctr, emit_ctrs, setClient_ctrs]
  · exact keepsItems_refl

theorem keepsItems_signalIrq (now : Bool) : keepsItems s (signalIrq s c now) c := by
  simp only [signalIrq]
  refine keepsItems_trans ?_ keepsItems_testIrq
  exact keepsItems_setClient _ rfl

theorem keepsItems_putRecord (r : Record) : keepsItems s (putRecord s c r) c := by
  simp only [putRecord]
  refine keepsItems_trans (keepsItems_of { client s c with cqTail := (client s c).cqTail + 1 } rfl ?_ ?_) (keepsItems_signalIrq _)
  · simp only [hostBytes, modAct_clients, bump_clients, emit_clients]
  · simp [hostBytes, ctr, tabMod, hifCtr]

theorem keepsItems_spillRecord (r : Record) : keepsItems s (spillRecord s c r) c := by
  simp only [spillRecord]
  refine keepsItems_of { client s c with spill := (client s c).spill ++ [r] } rfl ?_ ?_
  · simp only [bump_clients, hubPm_clients, pmPut_clients]
  · rw [ctr_bump_other _ _ _ (by decide), ctr_hubPm (by decide)]
    simp only [ctr, pmPut_ctrs, setClient_ctrs]

theorem keepsItems_postRecord (r : Record) : keepsItems s (postRecord s c r) c := by
  simp only [postRecord]
  split
  · exact keepsItems_refl
  · split
    · exact keepsItems_putRecord r
    · exact keepsItems_spillRecord _

/-- Record `r` stands in the host ring's output or in the spill ring, whatever its place there makes its phase and spill marks. -/
def recorded (u : State) (c : BitVec 10) (r : Record) : Prop :=
  ∃ phase spilled, let r' := { r with phase := phase, spilled := spilled }
    Emit.record c r' ∈ u.emitted ∨ r' ∈ (client u c).spill

theorem testIrq_emitted {e : Emit} (h : e ∈ s.emitted) : e ∈ (testIrq s c).emitted := by
  simp only [testIrq]
  split
  · exact List.mem_cons_of_mem _ h
  · exact h

theorem recorded_putRecord (r : Record) : recorded (putRecord s c r) c r :=
  ⟨phaseAt (cqSize s c) (client s c).cqTail.toNat, r.spilled, .inl (testIrq_emitted List.mem_cons_self)⟩

theorem recorded_spillRecord (r : Record) : recorded (spillRecord s c { r with spilled := true }) c r := by
  refine ⟨r.phase, true, .inr ?_⟩
  have entry : (spillRecord s c { r with spilled := true }).clients =
      (setClient s c { client s c with spill := (client s c).spill ++ [{ r with spilled := true }] }).clients := by
    simp only [spillRecord, bump_clients, hubPm_clients, pmPut_clients]
  have same : client (spillRecord s c { r with spilled := true }) c =
      { client s c with spill := (client s c).spill ++ [{ r with spilled := true }] } := by
    rw [client, entry, ← client, client_setClient_same]
  simp [same]

/-- A client whose rings may be written gets the record (R294, R323). -/
theorem recorded_postRecord (r : Record) (writes : writable (client s c) = true) : recorded (postRecord s c r) c r := by
  simp only [postRecord, writes, Bool.not_true, Bool.false_eq_true, if_false]
  split
  · exact recorded_putRecord r
  · exact recorded_spillRecord r

@[simp] theorem client_bump (n : Nat) (k : BitVec 10) : client (bump s n) k = client s k := rfl

/-- The record of an item that completes (R318). -/
def itemRecord (s : State) (i : Item) (status : Nat) (d : List (BitVec 8)) : Record :=
  { status := status, op := i.op, irq := i.irq, fep := i.fep, tag := i.tag, detail := detail16 d, tick := s.tick }

/-- An item has left its client's items and is counted; its record is not written yet. -/
def itemLeft (s : State) (c : BitVec 10) (i : Item) : State :=
  bump (modClient s c (fun k => { k with items := k.items.filter (fun j => decide (j.seq ≠ i.seq)) })) (hifCtr 1)

theorem completeItem_eq (status : Nat) (d : List (BitVec 8)) :
    completeItem s c i status d = postRecord (itemLeft s c i) c (itemRecord s i status d) := rfl

theorem client_itemLeft : client (itemLeft s c i) c =
    { client s c with items := (client s c).items.filter (fun j => decide (j.seq ≠ i.seq)) } := by
  rw [itemLeft, client_bump, client_modClient_same]

theorem onlyClient_itemLeft : onlyClient s (itemLeft s c i) c := fun k other => by
  rw [itemLeft, client_bump, client_modClient_other s c k _ other]

theorem ctr_itemLeft : ctr (itemLeft s c i) (hifCtr 1) = ctr s (hifCtr 1) + 1 := ctr_bump_same _ _

/-- An item of a client whose rings may be written completes: it leaves the items, it is counted, its record is written. -/
theorem completed_completeItem (writes : writable (client s c) = true) (status : Nat) (d : List (BitVec 8)) :
    completed s (completeItem s c i status d) c i status d := by
  rw [completeItem_eq]
  have stillWrites : writable (client (itemLeft s c i) c) = true := by rw [client_itemLeft]; exact writes
  obtain ⟨items, others, count⟩ := keepsItems_postRecord (s := itemLeft s c i) (c := c) (itemRecord s i status d)
  obtain ⟨phase, spilled, written⟩ := recorded_postRecord (itemRecord s i status d) stillWrites
  refine ⟨by rw [items, client_itemLeft], fun k other => (others k other).trans (onlyClient_itemLeft k other),
    by rw [count, ctr_itemLeft], { itemRecord s i status d with phase := phase, spilled := spilled }, ?_⟩
  exact ⟨rfl, rfl, rfl, rfl, rfl, rfl, rfl, written⟩

/-! ## A berth drains (R138, R245) -/

theorem keptMemories_refl : keptMemories s s := ⟨rfl, rfl, fun _ _ => rfl⟩

theorem keptMemories_trans {t : State} (first : keptMemories s t) (second : keptMemories t u) : keptMemories s u := by
  obtain ⟨store, ret, pm⟩ := first
  obtain ⟨store', ret', pm'⟩ := second
  exact ⟨store'.trans store, ret'.trans ret, fun a out => (pm' a out).trans (pm a out)⟩

theorem keptMemories_of_same (store : u.store = s.store) (ret : u.ret = s.ret) (pm : u.pm = s.pm) : keptMemories s u :=
  ⟨store, ret, fun a _ => by rw [pm]⟩

theorem keptMemories_setBerth (v : Berth) : keptMemories s (setBerth s b v) := keptMemories_of_same rfl rfl rfl

theorem keptMemories_modBerth (f : Berth → Berth) : keptMemories s (modBerth s b f) := keptMemories_setBerth _

theorem keptMemories_beginItem : keptMemories s (beginItem s c i) := keptMemories_of_same rfl rfl rfl

theorem frameItem_foldl {α : Type} {f : State → α → State} (each : ∀ s x, frameItem s (f s x)) (l : List α) :
    frameItem s (l.foldl f s) :=
  List.foldlRecOn (motive := frameItem s) l f (frameItem_refl s) fun t kept x _ => frameItem_trans kept (each t x)

/-- Items that complete together change what `frameItem` allows, and no more. -/
theorem completeAll_frame (p : Item → Bool) (status : Nat) (d : Item → List (BitVec 8)) :
    frameItem s (completeAll s p status d) :=
  frameItem_foldl (fun t _ => frameItem_foldl (s := t) (fun t i => completeItem_frame t _ i status (d i)) _) _

theorem berth_of_frameItem (h : frameItem s u) (k : BitVec 12) : berth u k = berth s k := by
  have same := congrArg State.berths h.1
  change u.berths = s.berths at same
  simp only [berth, same]

theorem closeBlock_kept (vals : List Nat) (last : Bool) (step : Nat) : keptMemories s (closeBlock s b vals last step) := by
  simp only [closeBlock, berthNotice]
  refine keptMemories_trans (keptMemories_of_same ?_ ?_ ?_) (keptMemories_of_frameItem (notice_frame _ _ _ _ _ _)) <;>
    simp [hostBytes]

theorem closePartial_kept : keptMemories s (closePartial s b) := by
  simp only [closePartial]
  split
  · exact keptMemories_refl
  · exact keptMemories_trans (closeBlock_kept _ _ _) (keptMemories_setBerth _)

theorem countPark_kept (was now : BState) : keptMemories s (countPark s was now) := by
  simp only [countPark]
  split
  · exact keptMemories_refl
  · split
    · exact keptMemories_of_same rfl rfl rfl
    · split
      · exact keptMemories_of_same rfl rfl rfl
      · exact keptMemories_refl

/-- A berth told to leave drains, and no memory changes but the spill rings (R245). -/
theorem drainBerth_leave : (berth (drainBerth s b .leave) b).st = .draining ∧ keptMemories s (drainBerth s b .leave) := by
  simp only [drainBerth, startDrain, endNotice]
  refine ⟨?_, ?_⟩
  · rw [berth_of_frameItem (completeAll_frame _ _ _), berth_modBerth_same]
  · refine keptMemories_trans ?_ (keptMemories_of_frameItem (completeAll_frame _ _ _))
    refine keptMemories_trans ?_ (keptMemories_modBerth _)
    exact keptMemories_trans closePartial_kept (countPark_kept _ _)

/-- A leave on a cluster that is saved drains a berth with no committed step at once (R138). -/
theorem leaveAtOnce_drains (uncommitted : ((berth s b).inStep && (berth s b).committed) = false) :
    (berth (leaveAtOnce s b) b).st = .draining ∧ keptMemories s (leaveAtOnce s b) := by
  simp only [leaveAtOnce, uncommitted, Bool.false_eq_true, if_false]
  obtain ⟨drains, kept⟩ := drainBerth_leave (b := b)
    (s := completeAll (setBerth s b { berth s b with void := true, leaveDue := false }) (leaveItem b) stOk
      (fun _ => berthDetail b ++ [0, 0] ++ natLe (berth s b).step 4))
  exact ⟨drains, keptMemories_trans (keptMemories_trans (keptMemories_setBerth _)
    (keptMemories_of_frameItem (completeAll_frame _ _ _))) kept⟩

/-! ## LEAVE, PARK, UNPARK, MIGRATE, WRITE_STATE and IMPORT begin (R194, R198, R245, R263, R267) -/

theorem runLeave_thawed {e : Berth} (reserved : restZero (part0 i) [] = true) (thawed : frozenNow s e = false) :
    runLeave c s i e = beginItem (setBerth s i.berth { e with leaveDue := true }) c i := by
  simp [runLeave, reserved, thawed]

theorem runLeave_frozen {e : Berth} (reserved : restZero (part0 i) [] = true) (frozen : frozenNow s e = true) :
    runLeave c s i e = leaveAtOnce (beginItem (setBerth s i.berth { e with leaveDue := true }) c i) i.berth := by
  simp [runLeave, reserved, frozen]

/-- The berth can be reached: its context is not in a save image, it does not move and no copy of it is under way (R194, R267). -/
def reachableBerth (s : State) (e : Berth) : Prop := awayNow s e = false ∧ e.moveThr = none ∧ e.copying = false

theorem runPark_running {e : Berth} (reserved : restZero (part0 i) [] = true) (near : reachableBerth s e)
    (running : e.st = .running) : runPark c s i e = beginItem (setBerth s i.berth { e with parkDue := true }) c i := by
  obtain ⟨here, stays, -⟩ := near
  simp [runPark, reserved, here, stays, running]

theorem runPark_parked {e : Berth} (reserved : restZero (part0 i) [] = true) (near : reachableBerth s e) (parked : e.st = .parked)
    (noCopyBack : e.copyBack = false) (noUnpark : e.unparkDue = false) :
    runPark c s i e = completeItem s c i stOk (berthDetail i.berth) := by
  obtain ⟨here, stays, still⟩ := near
  simp [runPark, reserved, here, stays, still, parked, noCopyBack, noUnpark]

theorem runUnpark_parked {e : Berth} (reserved : restZero (part0 i) [] = true) (near : reachableBerth s e)
    (parked : e.st = .parked) (noUnpark : e.unparkDue = false) :
    runUnpark c s i e = beginItem (setBerth s i.berth { e with copying := true, copyBack := true }) c i := by
  obtain ⟨here, stays, still⟩ := near
  simp [runUnpark, reserved, here, stays, still, parked, noUnpark]

theorem runWriteState_begins {e : Berth} (reserved : stResv i = true) (range : stRange s e i = true)
    (here : (awayNow s e || e.copying) = false) : runWriteState c s i e = beginItem s c i := by
  simp [runWriteState, reserved, range, here]

theorem runImport_begins (unread : i.data = none) (flags : leAt (part0 i) 16 1 < 2)
    (reserved : restZero (part0 i) [(16, 1), (24, 8), (32, 4)] = true) : runImport c s i = beginItem s c i := by
  simp [runImport, unread, flags, reserved]

/-- The clusters that a MIGRATE may go to: all but the berth's own, or the one that it names (R267). -/
def migrateTargets (i : Item) (e : Berth) : List Nat :=
  if bitsOf (leAt (part0 i) 16 1) 4 4 = 1 then (upTo 16).filter (fun l => decide (l ≠ lcluOf e.lthread))
  else [leAt (part0 i) 16 1 % 16]

/-- The proposals that a MIGRATE does not answer (R268). -/
def proposalsLeft (s : State) (i : Item) (e : Berth) : List Proposal :=
  s.sched.proposals.filter (fun p => !decide (p.berth = i.berth ∧ migrateTargets i e = [p.lo]))

def withProposals (s : State) (ps : List Proposal) : State := { s with sched := { s.sched with proposals := ps } }

/-- Where a move goes does not depend on the proposals. -/
theorem moveTarget_withProposals (ps : List Proposal) (e : Berth) (ls : List Nat) :
    moveTarget (withProposals s ps) e ls = moveTarget s e ls := rfl

theorem runMigrate_begins {e : Berth} {lt : BitVec 12} {base : Nat} (near : reachableBerth s e) (noPark : e.parkDue = false)
    (noUnpark : e.unparkDue = false) (flags : leAt (part0 i) 16 1 < 32) (reserved : restZero (part0 i) [(16, 1)] = true)
    (settled : (migrateTargets i e).any (migrating s) = false)
    (noVoid : s.sched.proposals.any (fun p => decide (p.berth = i.berth) && p.void) = false)
    (target : moveTarget s e (migrateTargets i e) = (.at lt, base)) :
    runMigrate c s i e = beginItem (setBerth (withProposals s (proposalsLeft s i e)) i.berth
      { e with moveThr := some (lt, base), moving := decide (e.st = .parked) }) c i := by
  obtain ⟨here, stays, still⟩ := near
  have noAnswer : s.sched.proposals.any
      (fun p => decide (p.berth = i.berth ∧ migrateTargets i e = [p.lo]) && p.void) = false := by
    simp only [List.any_eq_false, Bool.and_eq_true, decide_eq_true_eq] at noVoid ⊢
    exact fun p listed void => noVoid p listed ⟨void.1.1, void.2⟩
  have place := (moveTarget_withProposals (proposalsLeft s i e) e (migrateTargets i e)).trans target
  have passes : ¬ (32 ≤ leAt (part0 i) 16 1 ∨ (!restZero (part0 i) [(16, 1)]) = true) := by
    simp only [reserved, Bool.not_true, Bool.false_eq_true, or_false]; omega
  unfold withProposals proposalsLeft migrateTargets at *
  simp only [runMigrate, passes, here, stays, still, noPark, noUnpark, settled, noAnswer, place, Option.isSome_none, Bool.or_self,
    Bool.false_eq_true, if_false]

/-! ## FRAME: which item lands next (R27) -/

/-- A FRAME item that has begun, has not landed, and brings frame `next` of berth `b`. -/
def frameDue (b : BitVec 12) (next : Nat) (j : Item) : Prop :=
  j.op = 4 ∧ j.begun = true ∧ j.aux = 0 ∧ j.berth = b ∧ j.slot = next

theorem dueFrames_some {bs : List (BitVec 8)} (h : dueFrames s b = some (c, i, bs)) :
    ∃ x ∈ s.clients, BitVec.ofNat 10 x.1 = c ∧ i ∈ x.2.items ∧ frameDue b (berth s b).framesIn i ∧ i.data = some bs := by
  simp only [dueFrames] at h
  obtain ⟨x, listed, found⟩ := List.exists_of_findSome?_eq_some h
  obtain ⟨j, item, hit⟩ := List.exists_of_findSome?_eq_some found
  split at hit
  case isTrue due =>
    obtain ⟨bs', data, same⟩ := Option.map_eq_some_iff.1 hit
    cases same
    exact ⟨x, listed, rfl, item, due, data⟩
  case isFalse => cases hit

theorem dueFrames_isSome {x : Nat × Client} {j : Item} {bs : List (BitVec 8)} (listed : x ∈ s.clients) (item : j ∈ x.2.items)
    (due : frameDue b (berth s b).framesIn j) (data : j.data = some bs) : (dueFrames s b).isSome = true := by
  simp only [dueFrames, List.findSome?_isSome_iff]
  refine ⟨x, listed, j, item, ?_⟩
  unfold frameDue at due
  rw [if_pos due, data, Option.map_some, Option.isSome_some]

/-! ## The clients' table when one item has changed -/

theorem tabPut_tabPut {α : Type} (t : Tab α) (k : Nat) (v w : α) : tabPut (tabPut t k v) k w = tabPut t k w := by
  induction t with
  | nil => simp [tabPut]
  | cons e t ih =>
    obtain ⟨j, x⟩ := e
    simp only [tabPut]
    split
    case isTrue => simp [tabPut]
    case isFalse above =>
      split
      case isTrue => simp [tabPut]
      case isFalse other => simp only [tabPut, above, other, if_false, ih]

theorem mem_of_tabFind {α : Type} {t : Tab α} {k : Nat} {v : α} (h : tabFind t k = some v) : (k, v) ∈ t := by
  induction t with
  | nil => cases h
  | cons e t ih =>
    obtain ⟨j, x⟩ := e
    simp only [tabFind] at h
    split at h
    case isTrue same => cases h; exact same ▸ List.mem_cons_self
    case isFalse => exact List.mem_cons_of_mem _ (ih h)

theorem mem_tabPut_self {α : Type} (t : Tab α) (k : Nat) (v : α) : (k, v) ∈ tabPut t k v :=
  mem_of_tabFind (tabFind_put_same t k v)

/-- A client that has an item is listed. -/
theorem client_listed (item : i ∈ (client s c).items) : (c.toNat, client s c) ∈ s.clients := by
  cases found : tabFind s.clients c.toNat with
  | none => simp [client, tabGet, found] at item
  | some k =>
    have entry : client s c = k := by simp only [client, tabGet, found, Option.getD_some]
    exact entry ▸ mem_of_tabFind found

/-- The client's entry with the item of number `q` changed by `f`. -/
def withItemMod (k : Client) (q : Nat) (f : Item → Item) : Client :=
  { k with items := k.items.map (fun j => if j.seq = q then f j else j) }

theorem modItem_clients {q : Nat} {f : Item → Item} (item : i ∈ (client s c).items) :
    (modItem s c q f).clients = tabPut s.clients c.toNat (withItemMod (client s c) q f) := by
  have lists : withItemMod (client s c) q f ≠ {} := fun empty => by
    have none : (withItemMod (client s c) q f).items = [] := by rw [empty]
    simp only [withItemMod, List.map_eq_nil_iff] at none
    rw [none] at item
    cases item
  rw [modItem, modClient_clients, tabSet]
  exact if_neg lists

/-- A second change of the same item comes after the first. -/
theorem modItem_clients_again {q : Nat} {f g : Item → Item} (item : i ∈ (client s c).items) (number : ∀ j, (f j).seq = j.seq)
    (before : u.clients = (modItem s c q f).clients) :
    (modItem u c q g).clients = (modItem s c q (fun j => g (f j))).clients := by
  have entry : client u c = withItemMod (client s c) q f := by
    rw [client, before, modItem_clients item, tabGet_put_same]
  have twice : withItemMod (withItemMod (client s c) q f) q g = withItemMod (client s c) q (fun j => g (f j)) := by
    simp only [withItemMod, List.map_map]
    congr 1
    refine List.map_congr_left fun j _ => ?_
    by_cases same : j.seq = q <;> simp [same, number]
  have itemStays : (if i.seq = q then f i else i) ∈ (client u c).items := by
    rw [entry]
    exact List.mem_map_of_mem item
  rw [modItem_clients itemStays, before, modItem_clients item, modItem_clients item, tabPut_tabPut, entry, twice]

/-! ## An inline FRAME of one frame lands when it begins (R27, R305) -/

/-- The item is the client's only one of its number, and no FRAME of any client has begun on its berth. -/
def onlyFrameOf (s : State) (c : BitVec 10) (i : Item) : Prop :=
  i ∈ (client s c).items ∧ (∀ x ∈ s.clients, ∀ j ∈ x.2.items, j.op = 4 → j.begun = true → j.berth ≠ i.berth) ∧
    ∀ j ∈ (client s c).items, j.seq = i.seq → j = i

section Alone
variable {f : Item → Item} {next : Nat} (alone : onlyFrameOf s c i) (clients : u.clients = (modItem s c i.seq f).clients)
include alone clients

/-- After a change of item `i` alone, it is the only FRAME that may be due on its berth. -/
theorem frameDue_unique {x : Nat × Client} {j : Item} (listed : x ∈ u.clients) (item : j ∈ x.2.items)
    (due : frameDue i.berth next j) : x.1 = c.toNat ∧ j = f i := by
  obtain ⟨here, noneBegun, single⟩ := alone
  obtain ⟨opcode, begun, -, itsBerth, -⟩ := due
  rw [clients, modItem_clients here] at listed
  rcases mem_tabPut _ _ _ _ listed with rfl | old
  · obtain ⟨j', was, rfl⟩ := List.mem_map.1 item
    by_cases same : j'.seq = i.seq
    · simp only [if_true, single j' was same, and_self]
    · simp only [same, if_false] at opcode begun itsBerth
      exact absurd itsBerth (noneBegun _ (client_listed here) j' was opcode begun)
  · exact absurd itsBerth (noneBegun x old j item opcode begun)

theorem dueFrames_of_data {bs : List (BitVec 8)} (due : frameDue i.berth (berth u i.berth).framesIn (f i))
    (data : (f i).data = some bs) : dueFrames u i.berth = some (c, f i, bs) := by
  have listed : (c.toNat, withItemMod (client s c) i.seq f) ∈ u.clients := by
    rw [clients, modItem_clients alone.1]
    exact mem_tabPut_self _ _ _
  have item : f i ∈ (withItemMod (client s c) i.seq f).items := by
    have changed := List.mem_map_of_mem (f := fun j => if j.seq = i.seq then f j else j) alone.1
    simpa only [withItemMod, if_true] using changed
  obtain ⟨⟨c', j, bs'⟩, found⟩ := Option.isSome_iff_exists.1 (dueFrames_isSome listed item due data)
  obtain ⟨x, there, number, isItem, isDue, hasData⟩ := dueFrames_some found
  obtain ⟨key, rfl⟩ := frameDue_unique alone clients there isItem isDue
  rw [key, BitVec.ofNat_toNat, BitVec.setWidth_eq] at number
  rw [found, ← number, Option.some.inj (data.symm.trans hasData)]

theorem dueFrames_of_landed (landed : (f i).aux ≠ 0) : dueFrames u i.berth = none := by
  refine Option.eq_none_iff_forall_ne_some.2 fun ⟨c', j, bs⟩ found => ?_
  obtain ⟨x, there, -, isItem, isDue, -⟩ := dueFrames_some found
  obtain ⟨-, rfl⟩ := frameDue_unique alone clients there isItem isDue
  obtain ⟨-, -, waits, -, -⟩ := isDue
  exact landed waits

end Alone

/-! The forms of a FRAME item: begun as the berth's next frames, with its data here, and landed. -/

def frameBegun (e : Berth) (j : Item) : Item := { j with begun := true, held := false, slot := e.framesIn + e.framesDue }
def frameHere (bs : List (BitVec 8)) (j : Item) : Item := { j with data := some bs }
def frameLanded (j : Item) : Item := { j with aux := 1, parts := j.parts.take 1, data := none }

@[simp] theorem modItem_pm (q : Nat) (f : Item → Item) : (modItem s c q f).pm = s.pm := rfl
@[simp] theorem modItem_store (q : Nat) (f : Item → Item) : (modItem s c q f).store = s.store := rfl
@[simp] theorem modItem_ret (q : Nat) (f : Item → Item) : (modItem s c q f).ret = s.ret := rfl
@[simp] theorem berthModel_modItem (q : Nat) (f : Item → Item) (e : Berth) : berthModel (modItem s c q f) e = berthModel s e := rfl
@[simp] theorem berthModel_setBerth (v e : Berth) : berthModel (setBerth s b v) e = berthModel s e := rfl
@[simp] theorem berth_hubPm (wr : Bool) (a n : Nat) (k : BitVec 12) : berth (hubPm s c wr a n) k = berth s k := by
  simp only [berth, hubPm_berths]
@[simp] theorem berth_pmPut (a : Nat) (bs : List (BitVec 8)) (k : BitVec 12) : berth (pmPut s a bs) k = berth s k := rfl

theorem modItem_clients_of {q : Nat} {f : Item → Item} (same : u.clients = s.clients) :
    (modItem u c q f).clients = (modItem s c q f).clients := by
  simp only [modItem, modClient_clients, client, same]

/-- The berth with `n` frames that have begun and have not landed. -/
def withDue (e : Berth) (n : Nat) : Berth := { e with framesDue := n }

theorem withDue_framesIn (e : Berth) (n : Nat) : (withDue e n).framesIn = e.framesIn := rfl
theorem berthModel_withDue (e : Berth) (n : Nat) : berthModel s (withDue e n) = berthModel s e := rfl
theorem frameAddr_withDue (e : Berth) (n j : Nat) (m : ModelDecl) : frameAddr (withDue e n) m j = frameAddr e m j := rfl

/-- The one frame that is due has landed, and the berth counts one more. -/
theorem landed_withDue {e : Berth} (noneDue : e.framesDue = 0) :
    ({ withDue e 1 with framesIn := (withDue e 1).framesIn + 1, framesDue := (withDue e 1).framesDue - 1 } : Berth) =
      { e with framesIn := e.framesIn + 1 } := by
  simp only [withDue, Nat.sub_self, ← noneDue]

theorem inlineBytes_take (n : Nat) : (inlineBytes i n).take n = inlineBytes i n := by
  simp only [inlineBytes, List.take_take, Nat.min_self]

/-- What is left when one frame has landed, before its item says so. -/
def frameStored (s : State) (b : BitVec 12) (bs : List (BitVec 8)) : State :=
  let e := berth s b
  let m := berthModel s e
  let a := frameAddr e m e.framesIn
  setBerth (hubPm (pmPut s a (bs.take m.frameBytes)) e.client true a m.frameBytes) b
    { e with framesIn := e.framesIn + 1, framesDue := e.framesDue - 1 }

theorem landFrames_one (bs : List (BitVec 8)) (one : frameCount i = 1) :
    landFrames s c i bs = modItem (frameStored s i.berth bs) c i.seq frameLanded := by
  simp [landFrames, frameStored, one, upTo, List.range_succ] <;> rfl

theorem frameStored_clients (bs : List (BitVec 8)) : (frameStored s b bs).clients = s.clients := by
  simp only [frameStored, setBerth_clients, hubPm_clients, pmPut_clients]

theorem frameStored_berth (bs : List (BitVec 8)) : berth (frameStored s b bs) b =
    { berth s b with framesIn := (berth s b).framesIn + 1, framesDue := (berth s b).framesDue - 1 } := by
  rw [frameStored, berth_setBerth_same]

theorem frameStored_onlyBerth (bs : List (BitVec 8)) : onlyBerth s (frameStored s b bs) b := fun k other => by
  rw [frameStored, berth_setBerth_other _ _ _ _ other, berth_hubPm, berth_pmPut]

theorem frameStored_pm (bs : List (BitVec 8)) : (frameStored s b bs).pm =
    memPutBytes s.pm (frameAddr (berth s b) (berthModel s (berth s b)) (berth s b).framesIn)
      (bs.take (berthModel s (berth s b)).frameBytes) := by
  rw [frameStored, setBerth_pm, hubPm_pm, pmPut_pm]

theorem frameStored_store (bs : List (BitVec 8)) : (frameStored s b bs).store = s.store := by
  rw [frameStored, setBerth_store, hubPm_store, pmPut_store]

theorem frameStored_ret (bs : List (BitVec 8)) : (frameStored s b bs).ret = s.ret := by
  rw [frameStored, setBerth_ret, hubPm_ret, pmPut_ret]

theorem landDue_none {n : Nat} (h : dueFrames s b = none) : landDue s b n = s := by
  cases n with
  | zero => rfl
  | succ n => simp only [landDue, h]

theorem landDue_some {n : Nat} {bs : List (BitVec 8)} (h : dueFrames s b = some (c, i, bs)) :
    landDue s b (n + 1) = landDue (landFrames s c i bs) b n := by
  simp only [landDue, h]

/-- The data of the only FRAME on its berth lands at once: nothing else is due before it or after it. -/
theorem frameData_lands {e : Berth} {bs : List (BitVec 8)} (alone : onlyFrameOf s c i)
    (clients : u.clients = (modItem s c i.seq (frameBegun e)).clients)
    (opcode : i.op = 4) (one : frameCount i = 1) (fresh : i.aux = 0) (noneDue : e.framesDue = 0)
    (next : (berth u i.berth).framesIn = e.framesIn) :
    frameData u c i bs = modItem (frameStored (modItem u c i.seq (frameHere bs)) i.berth bs) c i.seq frameLanded := by
  let t := modItem u c i.seq (frameHere bs)
  let landing := frameHere bs (frameBegun e i)
  have here : t.clients = (modItem s c i.seq (fun j => frameHere bs (frameBegun e j))).clients :=
    modItem_clients_again alone.1 (fun _ => rfl) clients
  have due : frameDue i.berth (berth t i.berth).framesIn landing :=
    ⟨opcode, rfl, fresh, rfl, by rw [berth_modItem, next]; simp only [landing, frameHere, frameBegun, noneDue, Nat.add_zero]⟩
  have lands : landFrames t c landing bs = modItem (frameStored t i.berth bs) c i.seq frameLanded :=
    landFrames_one (i := landing) bs one
  have after : (modItem (frameStored t i.berth bs) c i.seq frameLanded).clients =
      (modItem s c i.seq (fun j => frameLanded (frameHere bs (frameBegun e j)))).clients :=
    (modItem_clients_of (frameStored_clients bs)).trans (modItem_clients_again alone.1 (fun _ => rfl) here)
  calc frameData u c i bs
      = landDue t i.berth 65 := rfl
    _ = landDue (landFrames t c landing bs) i.berth 64 := landDue_some (dueFrames_of_data alone here due rfl)
    _ = modItem (frameStored t i.berth bs) c i.seq frameLanded := by
      rw [lands, landDue_none (dueFrames_of_landed alone after (by simp [frameLanded]))]

/-! ## FRAME: what a row that accepts one does (R27, R305, R317) -/

/-- A FRAME passes its checks, and its berth's input range has room for its frames. -/
structure FrameAccepted (s : State) (i : Item) : Prop where
  flags : leAt (part0 i) 16 1 < 64
  reserved : restZero (part0 i) [(16, 1), (24, 8)] = true
  noRoute : routeOf s i.berth true = none
  least : 1 ≤ frameCount i
  most : frameCount i ≤ 16
  bytes : 1 ≤ (berthModel s (berth s i.berth)).frameBytes
  parts : i.parts.length =
    if frameInline i then 1 + ceilDiv (frameCount i * (berthModel s (berth s i.berth)).frameBytes) 48 else 1
  room : (berth s i.berth).framesIn + (berth s i.berth).framesDue - (berth s i.berth).framesFreed + frameCount i
    ≤ (berth s i.berth).inDepth

/-- The state of an accepted FRAME before its data comes: the item has begun, its frames are due on the berth. -/
def frameTaken (s : State) (c : BitVec 10) (i : Item) : State :=
  modItem (setBerth s i.berth (withDue (berth s i.berth) ((berth s i.berth).framesDue + frameCount i))) c i.seq
    (frameBegun (berth s i.berth))

theorem runFrame_accepted (ok : FrameAccepted s i) : runFrame c s i (berth s i.berth) =
    if frameInline i then
      frameData (frameTaken s c i) c i (inlineBytes i (frameCount i * (berthModel s (berth s i.berth)).frameBytes))
    else frameTaken s c i := by
  obtain ⟨flags, reserved, noRoute, least, most, bytes, parts, room⟩ := ok
  have fits : ¬ (64 ≤ leAt (part0 i) 16 1 ∨ (!restZero (part0 i) [(16, 1), (24, 8)]) = true) := by
    simp only [reserved, Bool.not_true, Bool.false_eq_true, or_false]; omega
  have count : ¬ (frameCount i = 0 ∨ 16 < frameCount i ∨ (berthModel s (berth s i.berth)).frameBytes = 0) := by omega
  simp only [runFrame, fits, noRoute, count, parts, Nat.not_lt.2 room, Option.isSome_none, Bool.false_eq_true, if_false, ne_eq,
    not_true_eq_false]
  rfl

theorem frameTaken_clients : (frameTaken s c i).clients = (modItem s c i.seq (frameBegun (berth s i.berth))).clients :=
  modItem_clients_of (setBerth_clients _ _ _)

theorem frameTaken_berth : berth (frameTaken s c i) i.berth =
    withDue (berth s i.berth) ((berth s i.berth).framesDue + frameCount i) := by
  rw [frameTaken, berth_modItem, berth_setBerth_same]

theorem frameTaken_onlyBerth : onlyBerth s (frameTaken s c i) i.berth := fun k other => by
  rw [frameTaken, berth_modItem, berth_setBerth_other _ _ _ _ other]

/-- A FRAME whose data lies in host memory: its item begins with the number of its first frame, its frames are due, and nothing
else changes. -/
theorem frameItem_from_host (ready : readyItem s c 0x04 = some i) (unlocked : unlockedBerth (berth s i.berth))
    (ok : FrameAccepted s i) (fromHost : frameInline i = false) :
    ∃ u, exec (.frameItem c) s = .next u ∧
      client u c = withItemMod (client s c) i.seq (frameBegun (berth s i.berth)) ∧ onlyClient s u c ∧
      berth u i.berth = withDue (berth s i.berth) ((berth s i.berth).framesDue + frameCount i) ∧
      onlyBerth s u i.berth ∧ { u with berths := s.berths, clients := s.clients } = s := by
  have runs := runFrame_accepted (c := c) ok
  rw [fromHost, if_neg Bool.false_ne_true] at runs
  refine ⟨frameTaken s c i, (exec_frameItem ready unlocked).trans (congrArg _ runs), ?_, fun k other => ?_, frameTaken_berth,
    frameTaken_onlyBerth, ?_⟩
  · rw [frameTaken, client_modItem, client_setBerth, withItemMod]
  · rw [frameTaken, onlyClient_modItem _ _ k other, client_setBerth]
  · simp only [frameTaken, modItem, modClient, setClient, setBerth]

/-- The bytes of an inline FRAME of one frame land in the berth's input range, in the place of its next frame. -/
theorem frameItem_inline (ready : readyItem s c 0x04 = some i) (unlocked : unlockedBerth (berth s i.berth))
    (ok : FrameAccepted s i) (inline : frameInline i = true) (one : frameCount i = 1)
    (noneDue : (berth s i.berth).framesDue = 0) (fresh : i.aux = 0) (alone : onlyFrameOf s c i) :
    ∃ u, exec (.frameItem c) s = .next u ∧
      berth u i.berth = { berth s i.berth with framesIn := (berth s i.berth).framesIn + 1 } ∧ onlyBerth s u i.berth ∧
      u.pm = memPutBytes s.pm (frameAddr (berth s i.berth) (berthModel s (berth s i.berth)) (berth s i.berth).framesIn)
        (inlineBytes i (berthModel s (berth s i.berth)).frameBytes) ∧ u.store = s.store ∧ u.ret = s.ret := by
  obtain ⟨-, -, opcode⟩ := readyItem_some ready
  have runs := runFrame_accepted (c := c) ok
  rw [inline, if_pos rfl, one, Nat.one_mul,
    frameData_lands alone frameTaken_clients opcode one fresh noneDue (by rw [frameTaken_berth, withDue_framesIn])] at runs
  let here := modItem (frameTaken s c i) c i.seq (frameHere (inlineBytes i (berthModel s (berth s i.berth)).frameBytes))
  have itsBerth : berth here i.berth = withDue (berth s i.berth) 1 := by
    rw [berth_modItem, frameTaken_berth, one, noneDue]
  have model (e : Berth) : berthModel here e = berthModel s e := by
    rw [berthModel_modItem, frameTaken, berthModel_modItem, berthModel_setBerth]
  have packageMemory : here.pm = s.pm := by rw [modItem_pm, frameTaken, modItem_pm, setBerth_pm]
  refine ⟨_, (exec_frameItem ready unlocked).trans (congrArg _ runs), ?_, fun k other => ?_, ?_, ?_, ?_⟩
  · rw [berth_modItem, frameStored_berth, itsBerth, landed_withDue noneDue]
  · rw [berth_modItem, frameStored_onlyBerth _ k other, berth_modItem, frameTaken_onlyBerth k other]
  · rw [modItem_pm, frameStored_pm, itsBerth, packageMemory, model, berthModel_withDue, frameAddr_withDue, withDue_framesIn,
      inlineBytes_take]
  · rw [modItem_store, frameStored_store, modItem_store, frameTaken, modItem_store, setBerth_store]
  · rw [modItem_ret, frameStored_ret, modItem_ret, frameTaken, modItem_ret, setBerth_ret]

/-! ## LEAVE at once, and MIGRATE (R138, R267) -/

theorem leaveItem_drains (ready : readyItem s c 0x06 = some i) (unlocked : unlockedBerth (berth s i.berth))
    (reserved : restZero (part0 i) [] = true) (frozen : frozenNow s (berth s i.berth) = true)
    (uncommitted : ((berth s i.berth).inStep && (berth s i.berth).committed) = false) :
    ∃ u, exec (.leaveItem c) s = .next u ∧ (berth u i.berth).st = .draining ∧ keptMemories s u := by
  let told := beginItem (setBerth s i.berth { berth s i.berth with leaveDue := true }) c i
  have itsBerth : berth told i.berth = { berth s i.berth with leaveDue := true } := by
    rw [berth_beginItem, berth_setBerth_same]
  obtain ⟨drains, kept⟩ := leaveAtOnce_drains (s := told) (b := i.berth) (by rw [itsBerth]; exact uncommitted)
  refine ⟨leaveAtOnce told i.berth, (exec_leaveItem ready unlocked).trans (congrArg _ (runLeave_frozen reserved frozen)),
    drains, keptMemories_trans (keptMemories_trans (keptMemories_setBerth _) keptMemories_beginItem) kept⟩

theorem migrateItem_begins {lt : BitVec 12} {base : Nat} (ready : readyItem s c 0x09 = some i)
    (unlocked : unlockedBerth (berth s i.berth)) (near : reachableBerth s (berth s i.berth))
    (noPark : (berth s i.berth).parkDue = false) (noUnpark : (berth s i.berth).unparkDue = false)
    (flags : leAt (part0 i) 16 1 < 32) (reserved : restZero (part0 i) [(16, 1)] = true)
    (settled : (migrateTargets i (berth s i.berth)).any (migrating s) = false)
    (noVoid : s.sched.proposals.any (fun p => decide (p.berth = i.berth) && p.void) = false)
    (target : moveTarget s (berth s i.berth) (migrateTargets i (berth s i.berth)) = (.at lt, base)) :
    ∃ u, exec (.migrateItem c) s = .next u ∧ hasBegun s u c i ∧ onlyBerth s u i.berth ∧
      berth u i.berth = { berth s i.berth with
        moveThr := some (lt, base), moving := decide ((berth s i.berth).st = .parked) } ∧
      { u with berths := s.berths, clients := s.clients,
               sched := { u.sched with proposals := s.sched.proposals } } = s := by
  have runs := runMigrate_begins (c := c) near noPark noUnpark flags reserved settled noVoid target
  obtain ⟨begun, itsBerth, others, -⟩ := begunWith_beginItem_setBerth
    (s := withProposals s (proposalsLeft s i (berth s i.berth))) (c := c) (i := i) { berth s i.berth with
        moveThr := some (lt, base), moving := decide ((berth s i.berth).st = .parked) }
  refine ⟨_, (exec_migrateItem ready unlocked).trans (congrArg _ runs), begun, others, itsBerth, ?_⟩
  simp only [beginItem, modItem, modClient, setClient, setBerth, withProposals]

end Begin

/-! ## The obligation -/

/-- Settles O30: each row's item meets its berth with nothing in the way and passes the checks of its operation, whose one branch is
left. That the bytes of an inline FRAME land as it begins, and that a FRAME from host memory is only due then, is the model's choice
(log 152). -/
theorem berthItemsBegin : Obligations.BerthItemsBegin := by
  unfold Obligations.BerthItemsBegin
  intro s c i e d m n go unlocked near v ls
  have begins {x : Instr} {u : State} {w : Berth} (runs : exec x s = .next u) (h : begunWith s u c i w) : go x w := ⟨u, runs, h⟩
  refine ⟨fun ready free flags reserved noRoute least most bytes room => ⟨?_, ?_⟩, fun ready free reserved => ⟨?_, ?_⟩,
    fun free here noUnpark reserved => ⟨?_, ?_, ?_⟩, ?_, ?_, ?_⟩
  · intro fromHost parts
    exact frameItem_from_host ready free
      ⟨flags, reserved, noRoute, least, most, bytes, by rw [fromHost]; exact parts, room⟩ fromHost
  · intro inline one parts noneDue fresh noneBegun single
    have one : frameCount i = 1 := one
    have accepted : FrameAccepted s i :=
      ⟨flags, reserved, noRoute, least, most, bytes, by rw [inline, if_pos rfl, one, Nat.one_mul]; exact parts, room⟩
    exact frameItem_inline ready free accepted inline one noneDue fresh ⟨(readyItem_some ready).2.1, noneBegun, single⟩
  · intro thawed
    exact begins ((exec_leaveItem ready free).trans (congrArg _ (runLeave_thawed reserved thawed)))
      (begunWith_beginItem_setBerth _)
  · intro frozen uncommitted
    exact leaveItem_drains ready free reserved frozen uncommitted
  · intro ready running
    exact begins ((exec_parkItem ready free).trans (congrArg _ (runPark_running reserved here running)))
      (begunWith_beginItem_setBerth _)
  · intro ready parked noCopyBack
    refine ⟨_, (exec_parkItem ready free).trans (congrArg _ (runPark_parked reserved here parked noCopyBack noUnpark)), ?_, ?_⟩
    · exact completed_completeItem (readyItem_some ready).1 _ _
    · exact completeItem_frame _ _ _ _ _
  · intro ready parked
    exact begins ((exec_unparkItem ready free).trans (congrArg _ (runUnpark_parked reserved here parked noUnpark)))
      (begunWith_beginItem_setBerth _)
  · intro lt base ready free here noPark noUnpark flags reserved settled noVoid target
    exact migrateItem_begins ready free here noPark noUnpark flags reserved settled noVoid target
  · intro ready locked owns here reserved range
    exact begins ((exec_writeStateItem ready locked owns).trans (congrArg _ (runWriteState_begins reserved range here)))
      begunWith_beginItem
  · intro ready unread flags reserved
    exact begins ((exec_importItem ready).trans (congrArg _ (runImport_begins unread flags reserved))) begunWith_beginItem

end Sys2Proof.Machine
end

section
/-! The family of the charge-domain arrays (02_charge_domain_arrays.md): the default column map (O55), the array commands (O16), the
events of a tile's queue (O17) and the calibration slots (O21). -/

namespace Sys2Proof.Machine
open Sys2Proof

/-! ## The default column map (R37) -/

theorem physCol_default {t : Tile} (unspared : t.spokes = []) (j : Nat) : physCol t j = j + j / 32 := by
  simp [physCol, unspared]

/-- Settles O55: logical column 32k + i has physical column 33k + i, and column 33k + 32 lies between the blocks' images. -/
theorem columnMap : Obligations.ColumnMap := by
  unfold Obligations.ColumnMap
  intro t unspared
  have default : ∀ j, physCol t j = j + j / 32 := physCol_default unspared
  refine ⟨default, fun k i blocks inBlock => ⟨32 * k + i, ?_, ?_, fun m serves => ?_⟩, fun k j blocks serves => ?_⟩
  · omega
  · rw [default]; omega
  · rw [default] at serves; omega
  · rw [default] at serves; omega

/-! ## What a change of one table leaves -/

theorem tileAt_of_tiles {s u : State} (tiles : u.tiles = s.tiles) (k : Nat) : tileAt u k = tileAt s k := by
  simp only [tileAt, tiles]

theorem thread_modBerth (s : State) (b : BitVec 12) (g : Berth → Berth) (k : BitVec 12) :
    thread (modBerth s b g) k = thread s k := rfl

theorem thread_setQueue (s : State) (l e : Nat) (q : List Cmd) (k : BitVec 12) : thread (setQueue s l e q) k = thread s k := rfl

theorem tileAt_setTile_of {s u : State} {key : Nat} {v : Tile} (tiles : u.tiles = (setTile s key v).tiles) : tileAt u key = v :=
  (tileAt_of_tiles tiles key).trans (tileAt_setTile_same _ _ _)

theorem onlyTile_setTile {s u : State} {key : Nat} {v : Tile} (tiles : u.tiles = (setTile s key v).tiles) : onlyTile s u key :=
  fun k other => (tileAt_of_tiles tiles k).trans (tileAt_setTile_other _ _ _ _ other)

theorem setTile_frame (s : State) (key : Nat) (v : Tile) : { setTile s key v with tiles := s.tiles } = s := rfl

theorem addCtr_setTile_frame (s : State) (key : Nat) (v : Tile) (i n : Nat) :
    { addCtr (setTile s key v) i n with tiles := s.tiles, ctrs := s.ctrs } = s := by
  cases s; rfl

theorem wake_setTile_frame (s : State) (key : Nat) (v : Tile) (l : Nat) :
    { wake (setTile s key v) l with tiles := s.tiles, threads := s.threads } = s := by
  cases s; rfl

@[simp] theorem ctr_storeMoved (s : State) (c : BitVec 10) (n k : Nat) : ctr (storeMoved s c n) k = ctr s k := rfl
@[simp] theorem ctr_setTile (s : State) (key : Nat) (v : Tile) (k : Nat) : ctr (setTile s key v) k = ctr s k := rfl

/-! ## Commands that name a tile -/

theorem onUnit_of {ok : Bool} (there : ok = true) (u : State) : onUnit ok u = .next u := by rw [there, onUnit_true]

theorem tileExists_of {n t : Nat} (cluster : n < 18) (tile : t < 17) : tileExists n t = true := decide_eq_true ⟨cluster, tile⟩

/-! ## Jobs enter the queues of named tiles (R54, R58) -/

/-- One job at the end of the queue of a named tile. -/
def addJob (job : Nat × Nat × Nat → TileJob) (s : State) (p : Nat × Nat × Nat) : State :=
  modTile s p.2.2 (fun k => { k with queue := k.queue ++ [job p] })

/-- One job at the end of the queue of every named tile. -/
def addJobs (s : State) (named : List (Nat × Nat × Nat)) (job : Nat × Nat × Nat → TileJob) : State :=
  named.foldl (addJob job) s

section Jobs
variable (job : Nat × Nat × Nat → TileJob)

theorem addJobs_frame (s : State) (named : List (Nat × Nat × Nat)) : { addJobs s named job with tiles := s.tiles } = s := by
  induction named generalizing s with
  | nil => rfl
  | cons p named ih => exact congrArg (fun v : State => { v with tiles := s.tiles }) (ih (addJob job s p))

theorem thread_addJobs (s : State) (named : List (Nat × Nat × Nat)) (k : BitVec 12) :
    thread (addJobs s named job) k = thread s k := by
  have h := congrArg (fun v => thread v k) (addJobs_frame job s named); exact h

theorem queue_addJobs (s : State) (named : List (Nat × Nat × Nat)) (l e : Nat) : queue (addJobs s named job) l e = queue s l e := by
  have h := congrArg (fun v => queue v l e) (addJobs_frame job s named); exact h

theorem addJobs_memories (s : State) (named : List (Nat × Nat × Nat)) : sameMemories s (addJobs s named job) := by
  have store := congrArg State.store (addJobs_frame job s named)
  have pm := congrArg State.pm (addJobs_frame job s named)
  have ret := congrArg State.ret (addJobs_frame job s named)
  exact ⟨store, pm, ret⟩

theorem tileAt_addJobs_unnamed (s : State) {named : List (Nat × Nat × Nat)} {k : Nat} (unnamed : ∀ p ∈ named, p.2.2 ≠ k) :
    tileAt (addJobs s named job) k = tileAt s k := by
  induction named generalizing s with
  | nil => rfl
  | cons p named ih =>
    obtain ⟨notFirst, notLater⟩ := List.forall_mem_cons.1 unnamed
    exact (ih (addJob job s p) notLater).trans (tileAt_modTile_other _ _ _ _ notFirst.symm)

theorem tileAt_addJobs_named (s : State) {named : List (Nat × Nat × Nat)} (distinct : (named.map (fun p => p.2.2)).Nodup)
    {p : Nat × Nat × Nat} (isNamed : p ∈ named) :
    tileAt (addJobs s named job) p.2.2 =
      { tileAt s p.2.2 with queue := (tileAt s p.2.2).queue ++ [job p] } := by
  induction named generalizing s with
  | nil => cases isNamed
  | cons q named ih =>
    obtain ⟨firstOnce, laterDistinct⟩ := List.nodup_cons.1 distinct
    have firstOnly : ∀ r ∈ named, r.2.2 ≠ q.2.2 := fun r later same => firstOnce (List.mem_map.2 ⟨r, later, same⟩)
    rcases List.mem_cons.1 isNamed with rfl | later
    · exact (tileAt_addJobs_unnamed job (addJob job s p) firstOnly).trans (tileAt_modTile_same _ _ _)
    · refine (ih (addJob job s q) laterDistinct later).trans ?_
      rw [addJob, tileAt_modTile_other _ _ _ _ (firstOnly p later)]

end Jobs

section ArrayCommands
variable {s : State} {lt : BitVec 12} {f : Fields}

/-- What the named tiles of a command hold once one job has entered each queue, and what every other tile holds. -/
theorem tiles_after_addJobs {u : State} {named : List (Nat × Nat × Nat)} {job : Nat × Nat × Nat → TileJob}
    (tiles : u.tiles = (addJobs s named job).tiles) (distinct : (named.map (fun p => p.2.2)).Nodup) :
    (∀ p ∈ named, tileAt u p.2.2 = { tileAt s p.2.2 with queue := (tileAt s p.2.2).queue ++ [job p] }) ∧
      (∀ k, (∀ p ∈ named, p.2.2 ≠ k) → tileAt u k = tileAt s k) := by
  have same : ∀ k, tileAt u k = tileAt (addJobs s named job) k := tileAt_of_tiles tiles
  exact ⟨fun p isNamed => (same _).trans (tileAt_addJobs_named job s distinct isNamed),
    fun k unnamed => (same k).trans (tileAt_addJobs_unnamed job s unnamed)⟩

/-- The product that an ARR of a thread's number `seq` puts on a named tile (R118). -/
def arrJob (lt : BitVec 12) (f : Fields) (seq : Nat) (h : AH) (s : State) (p : Nat × Nat × Nat) : TileJob :=
  .product { lt := lt, reg := f.d.toNat, seq := seq, recIx := h.recIx, inAddr := h.inAddr, outAddr := drainAddr h p.1,
             scaleAddr := h.scaleAddr, dfence := decide (immBits f 0 0 = 1), berth := (thread s lt).berth,
             client := (thread s lt).client }

/-- The program request that an APROG puts on a named tile (R159). -/
def aprogJob (s : State) (lt : BitVec 12) (f : Fields) (t : Thread) (p : Nat × Nat × Nat) : TileJob :=
  let h := ahOf (readA t f.d.toNat)
  .program { lt := lt, reg := f.d.toNat, recIx := h.recIx,
             src := pmAddr s lt t (readS t f.y.toNat) + progOffset s (lcluOf lt) h p.1, berth := t.berth, client := t.client }

theorem arrJob_of_threads {u : State} (threads : u.threads = s.threads) (seq : Nat) (h : AH) :
    arrJob lt f seq h u = arrJob lt f seq h s := by
  have same : thread u lt = thread s lt := by simp only [thread, threads]
  funext p
  simp only [arrJob, same]

theorem foldl_arrJob (seq : Nat) (h : AH) (named : List (Nat × Nat × Nat)) {u : State} (threads : u.threads = s.threads) :
    named.foldl (fun v p => addJob (arrJob lt f seq h v) v p) u = addJobs u named (arrJob lt f seq h s) := by
  induction named generalizing u with
  | nil => rfl
  | cons p named ih =>
    rw [List.foldl_cons, arrJob_of_threads threads]
    exact ih threads

/-- The berth and the client of a product are its thread's, whichever tiles have taken theirs already. -/
theorem pushProducts_eq_addJobs (s : State) (seq : Nat) (h : AH) :
    pushProducts s lt f seq h = addJobs s (namedTiles s (lcluOf lt) h.tiles) (arrJob lt f seq h s) :=
  foldl_arrJob seq h _ rfl

/-- The effect of an ARR that issues, on the thread already advanced (R156, R157). -/
def arrAct (lt : BitVec 12) (f : Fields) (s : State) (t : Thread) : State :=
  let h := ahOf (readA t f.d.toNat)
  modBerth (setThread (pushProducts s lt f t.aseq h) lt (markArray t f.d.toNat (slotsOf h.tiles).length)) t.berth
    (fun b => { b with tile3 := b.tile3 + 3 * productNs s (lcluOf lt) h })

/-- The effect of an APROG that issues, on the thread already advanced (R159). -/
def aprogAct (lt : BitVec 12) (f : Fields) (s : State) (t : Thread) : State :=
  let h := ahOf (readA t f.d.toNat)
  let s1 := addJobs s (namedTiles s (lcluOf lt) h.tiles) (aprogJob s lt f t)
  setThread (setQueue s1 (lcluOf lt) 5 (queue s1 (lcluOf lt) 5 ++ [mkCmd s1 lt t 0x21 f])) lt
    (addOutst (markArray t f.d.toNat (slotsOf h.tiles).length) 5)

/-- An ARR whose checks pass, with room in its tiles (R156). -/
theorem exec_arr (issues : canIssue s lt 0x20 f = true) (passes : firstExc (arrChecks s lt f (thread s lt)) = none)
    (room : tilesFull s (lcluOf lt) (ahOf (readA (thread s lt) f.d.toNat)).tiles = false) :
    exec (.arr lt f) s = .next (arrAct lt f (countIssue s lt) (advance (thread s lt))) :=
  congrArg Host.Outcome.next (issue_acts s lt 0x20 f (arrChecks s lt f) _ (arrAct lt f) issues passes (by simp [room]))

/-- An APROG whose checks pass, with room in its tiles and in the mover's queue (R126, R159). -/
theorem exec_aprog (issues : canIssue s lt 0x21 f = true) (passes : firstExc (aprogChecks s lt f (thread s lt)) = none)
    (room : tilesFull s (lcluOf lt) (ahOf (readA (thread s lt) f.d.toNat)).tiles = false)
    (mover : queueFull s (lcluOf lt) 5 = false) :
    exec (.aprog lt f) s = .next (aprogAct lt f (countIssue s lt) (advance (thread s lt))) :=
  congrArg Host.Outcome.next
    (issue_acts s lt 0x21 f (aprogChecks s lt f) _ (aprogAct lt f) issues passes (by simp [room, mover]))

theorem arrAct_memories (t : Thread) : sameMemories s (arrAct lt f s t) := by
  simpa [sameMemories, arrAct, pushProducts_eq_addJobs] using addJobs_memories _ s _

theorem aprogAct_memories (t : Thread) : sameMemories s (aprogAct lt f s t) := by
  simpa [sameMemories, aprogAct] using addJobs_memories _ s _

theorem arrAct_tiles (t : Thread) : (arrAct lt f s t).tiles =
    (addJobs s (namedTiles s (lcluOf lt) (ahOf (readA t f.d.toNat)).tiles)
      (arrJob lt f t.aseq (ahOf (readA t f.d.toNat)) s)).tiles := by
  simp only [arrAct, pushProducts_eq_addJobs, modBerth_tiles, setThread_tiles]

theorem arrAct_onlyThread (t : Thread) : onlyThread s (arrAct lt f s t) lt := fun k other => by
  simp only [arrAct, thread_modBerth, thread_setThread_other _ _ _ _ other, pushProducts_eq_addJobs, thread_addJobs]

theorem aprogAct_onlyThread (t : Thread) : onlyThread s (aprogAct lt f s t) lt := fun k other => by
  simp only [aprogAct, thread_setThread_other _ _ _ _ other, thread_setQueue, thread_addJobs]

/-- The mover's queue takes one entry. -/
theorem aprogAct_mover (t : Thread) : ∃ c, queue (aprogAct lt f s t) (lcluOf lt) 5 = queue s (lcluOf lt) 5 ++ [c] :=
  ⟨_, (queue_setQueue_same _ _ _ _).trans (congrArg (· ++ _) (queue_addJobs _ s _ _ _))⟩

end ArrayCommands

/-- Settles O16: each command is one job for every named tile, which leaves the other tables as they were. -/
theorem arrayCommandsEnter : Obligations.ArrayCommandsEnter := by
  unfold Obligations.ArrayCommandsEnter
  intro s lt f t l h named room distinct
  refine ⟨fun issues passes => ⟨_, exec_arr issues passes room, ?_⟩,
    fun issues passes moverRoom => ⟨_, exec_aprog issues passes room moverRoom, ?_⟩⟩
  · obtain ⟨onNamed, onOthers⟩ := tiles_after_addJobs (arrAct_tiles (s := countIssue s lt) (lt := lt) (f := f) (advance t)) distinct
    exact ⟨arrAct_memories (s := countIssue s lt) _, arrAct_onlyThread (s := countIssue s lt) _, onNamed, onOthers,
      thread_setThread_same _ _ _⟩
  · obtain ⟨onNamed, onOthers⟩ := tiles_after_addJobs (s := countIssue s lt) (u := aprogAct lt f (countIssue s lt) (advance t))
      (job := aprogJob (countIssue s lt) lt f (advance t)) rfl distinct
    obtain ⟨c, mover⟩ := aprogAct_mover (s := countIssue s lt) (lt := lt) (f := f) (advance t)
    exact ⟨aprogAct_memories (s := countIssue s lt) _, aprogAct_onlyThread (s := countIssue s lt) _, onNamed, onOthers,
      by rw [mover]; exact List.length_append, thread_setThread_same _ _ _⟩

/-! ## The head of a tile's queue (R45, R58) -/

/-- A product at the head of the queue of a tile that no program request occupies is the next one. -/
theorem takeProduct_head {k : Tile} (noPrograms : k.progs = []) (p : Product) (q : List TileJob) :
    takeProduct k [] (.product p :: q) = some (p, q) := by
  simp [takeProduct, noPrograms]

/-- A program request at the head of the queue of an idle tile is the next one. -/
theorem takeProgram_head {k : Tile} (noPrograms : k.progs = []) (noProducts : k.actives = []) (g : ProgReq) (q : List TileJob) :
    takeProgram k [] (.program g :: q) = some (g, q) := by
  simp [takeProgram, noPrograms, noProducts]

/-! ## The one read of a command's vector (R54) -/

/-- A table whose values have changed key by key, where unlisted keys stay so. -/
theorem tabGet_map {α : Type} (d : α) (g : Nat → α → α) (unlisted : ∀ k, g k d = d) (t : Tab α) (k : Nat) :
    tabGet d (t.map (fun e => (e.1, g e.1 e.2))) k = g k (tabGet d t k) := by
  induction t with
  | nil => exact (unlisted k).symm
  | cons e t ih =>
    simp only [tabGet, List.map_cons, tabFind] at ih ⊢
    split
    · rename_i here; rw [here]; rfl
    · exact ih

section Started
variable (s : State) (n : Nat) (p : Product)

/-- The vector of a product's command: the one already read, or what a read of the store now gives. -/
def commandVec : List (BitVec 8) :=
  p.vec.getD (memBytes s.store (storeBase n + p.inAddr)
    ((upTo 17).foldl (fun m j => Nat.max m (longestInput (tileAt s (tileKey n j)) p)) 0))

/-- A tile of the cluster once the vector has been read. -/
def givenTile (x : Tile) : Tile := if p.vec.isSome then x else giveVec p (commandVec s n p) x

/-- The tile of key `i` once the vector has been read: those of the cluster get it. -/
def givenAt (i : Nat) (x : Tile) : Tile := if i / 17 = n then givenTile s n p x else x

theorem givenAt_unlisted (unread : p.vec = none) (i : Nat) : givenAt s n p i {} = {} := by
  simp only [givenAt, givenTile, unread, Option.isSome_none, Bool.false_eq_true, giveVec, List.map_nil, ite_self]

theorem tileAt_broadcast (k : Nat) : tileAt (broadcast s n p) k = givenAt s n p k (tileAt s k) := by
  cases read : p.vec with
  | some v => simp only [broadcast, givenAt, givenTile, read, Option.isSome_some, if_true, ite_self]
  | none =>
    have tiles : tileAt (broadcast s n p) k = tabGet {} (s.tiles.map (fun e => (e.1, givenAt s n p e.1 e.2))) k := by
      simp only [broadcast, read, givenAt, givenTile, commandVec, Option.getD_none]; rfl
    exact tiles.trans (tabGet_map _ _ (givenAt_unlisted s n p read) _ _)

theorem broadcast_frame : { broadcast s n p with tiles := s.tiles, act := s.act } = s := by
  unfold broadcast
  split <;> rfl

/-- A queue of the cluster once the vector has been read. -/
def givenQueue (q : List TileJob) : List TileJob := (givenTile s n p { queue := q }).queue

theorem givenTile_eq (x : Tile) : givenTile s n p x = { x with queue := givenQueue s n p x.queue } := by
  unfold givenQueue givenTile
  split <;> rfl

/-- The product with its vector, once it has been read. -/
def withVec : Product := { p with vec := some (commandVec s n p) }

/-- The product at the head of a queue is given its own vector. -/
theorem givenQueue_head (q : List TileJob) :
    givenQueue s n p (.product p :: q) = .product (withVec s n p) :: givenQueue s n p q := by
  cases read : p.vec with
  | some v =>
    have same : withVec s n p = p := by rw [withVec, commandVec, read, Option.getD_some, ← read]
    simp only [givenQueue, givenTile, read, Option.isSome_some, if_true, same]
  | none =>
    simp only [givenQueue, givenTile, read, Option.isSome_none, Bool.false_eq_true, if_false, giveVec, List.map_cons]
    simp [sameCommand, withVec]

/-- A queued product of thread lt issued before seq (R158). -/
def earlierJob (lt : BitVec 12) (seq : Nat) : TileJob → Bool
  | .product y => decide (y.lt = lt ∧ y.seq < seq)
  | .program _ => false

theorem earlierProduct_eq (lt : BitVec 12) (seq : Nat) : earlierProduct s n lt seq = (upTo 17).any (fun t =>
    (tileAt s (tileKey n t)).queue.any (earlierJob lt seq)
    || (tileAt s (tileKey n t)).actives.any (fun a => decide (a.p.lt = lt ∧ a.p.seq < seq))) := rfl

theorem earlierJob_givenQueue (lt : BitVec 12) (seq : Nat) (q : List TileJob) :
    (givenQueue s n p q).any (earlierJob lt seq) = q.any (earlierJob lt seq) := by
  cases read : p.vec with
  | some v => simp only [givenQueue, givenTile, read, Option.isSome_some, if_true]
  | none =>
    simp only [givenQueue, givenTile, read, Option.isSome_none, Bool.false_eq_true, if_false, giveVec, List.any_map]
    congr 1
    funext j
    cases j with
    | program g => rfl
    | product y =>
      simp only [Function.comp_apply]
      split <;> rfl

/-- A read of a vector neither adds a product nor changes its place among its thread's. -/
theorem earlierProduct_broadcast (lt : BitVec 12) (seq : Nat) :
    earlierProduct (broadcast s n p) n lt seq = earlierProduct s n lt seq := by
  simp only [earlierProduct_eq, tileAt_broadcast, givenAt]
  congr 1
  funext t
  split
  · rw [givenTile_eq, earlierJob_givenQueue]
  · rfl

/-- The active product of a start is the same before and after the read. -/
theorem activeOf_broadcast (k : Tile) :
    activeOf (broadcast s n p) n (givenTile s n p k) (withVec s n p) = activeOf s n k p := by
  have store := congrArg State.store (broadcast_frame s n p)
  have tick := congrArg State.tick (broadcast_frame s n p)
  have free := congrArg State.free (broadcast_frame s n p)
  simp only at store tick free
  simp only [givenTile_eq, activeOf, withVec, earlierProduct_broadcast, store, tick, free]

/-- The tile whose next product is `p`, with `q` queued behind it, once it has started (R45, R47). -/
def startedTile (k : Tile) (q : List TileJob) : Tile :=
  loadRows { givenTile s n p { k with queue := q } with actives := [activeOf s n k p], nextBank := 1 - k.nextBank }
    k.nextBank (lrAt k p.recIx) (commandVec s n p)

/-- The start of the product at the head of an idle tile's queue: the command's vector is read where it has not been, and the tile takes
the product (R45, R47, R54). -/
theorem startProduct_head {t : Nat} {q : List TileJob} (inCluster : t < 17)
    (head : (tileAt s (tileKey n t)).queue = .product p :: q) (noPrograms : (tileAt s (tileKey n t)).progs = [])
    (noProducts : (tileAt s (tileKey n t)).actives = []) :
    startProduct s n t = wake (useFree (setTile (broadcast s n p) (tileKey n t)
      (startedTile s n p (tileAt s (tileKey n t)) q))) (lcluOf p.lt) := by
  have here : tileKey n t / 17 = n := by unfold tileKey; omega
  have given : tileAt (broadcast s n p) (tileKey n t) = givenTile s n p (tileAt s (tileKey n t)) := by
    rw [tileAt_broadcast, givenAt, if_pos here]
  have next : takeProduct (givenTile s n p (tileAt s (tileKey n t))) [] (givenTile s n p (tileAt s (tileKey n t))).queue =
      some (withVec s n p, givenQueue s n p q) := by
    rw [givenTile_eq, head, givenQueue_head]
    refine takeProduct_head ?_ _ _
    exact noPrograms
  have idle : (givenTile s n p (tileAt s (tileKey n t))).actives = [] := by rw [givenTile_eq]; exact noProducts
  simp only [startProduct, head, takeProduct_head noPrograms, given, next, idle, activeOf_broadcast, List.any_nil, Bool.false_eq_true,
    if_false]
  simp only [startedTile, givenTile_eq, lrAt, recAt, withVec, Option.getD_some, List.nil_append]

end Started

/-! ## What completions leave (R43, R55, R62, R69, R70, R153) -/

/-- The converters' counts are no other field of the state. -/
theorem countConverted_kept (s : State) (n t convs : Nat) (r : Converted) :
    (countConverted s n t convs r).tiles = s.tiles ∧ (countConverted s n t convs r).pm = s.pm ∧
      (countConverted s n t convs r).ret = s.ret := by
  simp [countConverted]

/-- A drain writes the store and counts. -/
theorem drainTo_kept (s : State) (n t : Nat) (lr : LR) (outAddr delta : Nat) (accs : List Int) :
    let u := drainTo s n t lr outAddr delta accs
    u.tiles = s.tiles ∧ u.pm = s.pm ∧ u.ret = s.ret := by
  simp only [drainTo]
  split
  · simp
  · split <;> simp

/-- The completion of a named tile changes threads only. -/
theorem arrayDone_threads (s : State) (lt b : BitVec 12) (reg : Nat) : ∃ ts, arrayDone s lt b reg = { s with threads := ts } := by
  unfold arrayDone
  extract_lets t left t1 t2
  split
  · exact ⟨_, rfl⟩
  · exact ⟨_, rfl⟩

section
variable (s : State) (lt b : BitVec 12) (reg : Nat)

@[simp] theorem arrayDone_tiles : (arrayDone s lt b reg).tiles = s.tiles := by
  obtain ⟨ts, h⟩ := arrayDone_threads s lt b reg; rw [h]
@[simp] theorem ctr_arrayDone (k : Nat) : ctr (arrayDone s lt b reg) k = ctr s k := by
  obtain ⟨ts, h⟩ := arrayDone_threads s lt b reg; rw [h]; rfl
@[simp] theorem arrayDone_store : (arrayDone s lt b reg).store = s.store := by
  obtain ⟨ts, h⟩ := arrayDone_threads s lt b reg; rw [h]
@[simp] theorem arrayDone_pm : (arrayDone s lt b reg).pm = s.pm := by
  obtain ⟨ts, h⟩ := arrayDone_threads s lt b reg; rw [h]
@[simp] theorem arrayDone_ret : (arrayDone s lt b reg).ret = s.ret := by
  obtain ⟨ts, h⟩ := arrayDone_threads s lt b reg; rw [h]

end

theorem tileCtr_ne_cluCtr (n t j : Nat) {k : Nat} (inSet : k < 64) : tileCtr n t j ≠ cluCtr n k := by
  unfold tileCtr cluCtr; omega

theorem tileCtr_ne (n t : Nat) {j k : Nat} (other : j ≠ k) : tileCtr n t j ≠ tileCtr n t k := by
  unfold tileCtr; omega

theorem ctr_countConverted (s : State) (n t convs : Nat) (r : Converted) :
    ctr (countConverted s n t convs r) (tileCtr n t 0) = ctr s (tileCtr n t 0) := by
  have notStale : tileCtr n t 0 ≠ cStaleConv n := tileCtr_ne_cluCtr n t 0 (by decide)
  have notSat : tileCtr n t 0 ≠ cAccSat n := tileCtr_ne_cluCtr n t 0 (by decide)
  have notOwn (k : Nat) (other : 0 ≠ k) : tileCtr n t 0 ≠ tileCtr n t k := tileCtr_ne n t other
  simp [countConverted, notStale, notSat, notOwn]

theorem ctr_drainTo (s : State) (n t : Nat) (lr : LR) (outAddr delta : Nat) (accs : List Int) :
    ctr (drainTo s n t lr outAddr delta accs) (tileCtr n t 0) = ctr s (tileCtr n t 0) := by
  have notSat : tileCtr n t 0 ≠ cDrainSat n := tileCtr_ne_cluCtr n t 0 (by decide)
  have notScale : tileCtr n t 0 ≠ cBadScale n := tileCtr_ne_cluCtr n t 0 (by decide)
  simp only [drainTo]
  split
  · exact ctr_addCtr_other _ _ _ _ (tileCtr_ne _ _ (by decide))
  · split
    · exact (ctr_bump_other _ _ _ notScale).trans (ctr_addCtr_other _ _ _ _ notSat)
    · exact ctr_addCtr_other _ _ _ _ notSat

/-- The state whose tile has drained its oldest product `a`, before the tile takes note of it. -/
def drained (s : State) (n t : Nat) (a : Active) (rest : List Active) : State :=
  let k := tileAt s (tileKey n t)
  let lr := lrAt k a.p.recIx
  let r := convertProduct (runOf k a lr s.tick.toNat)
  drainTo (countConverted s n t (lrConvs lr) r) n t lr a.p.outAddr a.delta.toNat
    (bankAccs (fillBank { k with actives := rest } a.bank r.acc) a.bank lr)

theorem drained_kept (s : State) (n t : Nat) (a : Active) (rest : List Active) :
    (drained s n t a rest).tiles = s.tiles ∧ (drained s n t a rest).pm = s.pm ∧ (drained s n t a rest).ret = s.ret := by
  unfold drained
  extract_lets k lr r
  obtain ⟨tiles, pm, ret⟩ := drainTo_kept (countConverted s n t (lrConvs lr) r) n t lr a.p.outAddr a.delta.toNat
    (bankAccs (fillBank { k with actives := rest } a.bank r.acc) a.bank lr)
  obtain ⟨tiles', pm', ret'⟩ := countConverted_kept s n t (lrConvs lr) r
  exact ⟨tiles.trans tiles', pm.trans pm', ret.trans ret'⟩

theorem ctr_drained (s : State) (n t : Nat) (a : Active) (rest : List Active) :
    ctr (drained s n t a rest) (tileCtr n t 0) = ctr s (tileCtr n t 0) :=
  (ctr_drainTo _ _ _ _ _ _ _).trans (ctr_countConverted _ _ _ _ _)

theorem completeProduct_drains {s : State} {n t : Nat} {a : Active} {rest : List Active}
    (oldest : (tileAt s (tileKey n t)).actives = a :: rest) (free : a.held = false) :
    ∃ (accs : List Int) (moved : Nat), completeProduct s n t =
      arrayDone (storeMoved (bump (setTile (drained s n t a rest) (tileKey n t)
        (fillBank { tileAt s (tileKey n t) with actives := rest } a.bank accs)) (tileCtr n t 0)) a.p.client moved)
        a.p.lt a.p.berth a.p.reg := by
  simp only [completeProduct, oldest, free, Bool.false_eq_true, if_false]
  exact ⟨_, _, rfl⟩

/-- The completion of a tile's oldest product takes it from the tile, which keeps its accumulators in a bank, and counts it; of the
memories the drain writes the store only (R45, R47, R62). -/
theorem completeProduct_head {s : State} {n t : Nat} {a : Active} {rest : List Active}
    (oldest : (tileAt s (tileKey n t)).actives = a :: rest) (free : a.held = false) :
    ∃ accs : List Int, (completeProduct s n t).tiles =
        (setTile s (tileKey n t) (fillBank { tileAt s (tileKey n t) with actives := rest } a.bank accs)).tiles ∧
      (completeProduct s n t).pm = s.pm ∧ (completeProduct s n t).ret = s.ret ∧
      ctr (completeProduct s n t) (tileCtr n t 0) = ctr s (tileCtr n t 0) + 1 := by
  obtain ⟨accs, moved, completes⟩ := completeProduct_drains oldest free
  obtain ⟨tiles, pm, ret⟩ := drained_kept s n t a rest
  refine ⟨accs, ?_, ?_, ?_, ?_⟩
  · simp only [completes, storeMoved, arrayDone_tiles, modAct_tiles, bump_tiles, setTile_tiles, tiles]
  · simp only [completes, storeMoved, arrayDone_pm, modAct_pm, bump_pm, setTile_pm, pm]
  · simp only [completes, storeMoved, arrayDone_ret, modAct_ret, bump_ret, setTile_ret, ret]
  · rw [completes, ctr_arrayDone, ctr_storeMoved, ctr_bump_same, ctr_setTile, ctr_drained]

/-- Bytes that a berth moves to or from package memory change counters and activity only (R259, R300). -/
theorem movePm_frame (s : State) (n : Nat) (c : BitVec 10) (wr : Bool) (a len : Nat) :
    { movePm s n c wr a len with ctrs := s.ctrs, act := s.act } = s := by
  have counted := congrArg (fun v : State => { v with act := s.act }) (countPm_frame s wr a len)
  unfold movePm
  extract_lets s1 own s2
  have bridged : { s2 with ctrs := s.ctrs, act := s.act } = { s1 with ctrs := s.ctrs, act := s.act } := by
    unfold s2
    split <;> rfl
  exact bridged.trans counted

section
variable (s : State) (n : Nat) (c : BitVec 10) (wr : Bool) (a len : Nat)

@[simp] theorem movePm_tiles : (movePm s n c wr a len).tiles = s.tiles := by
  have h := congrArg State.tiles (movePm_frame s n c wr a len); exact h
@[simp] theorem movePm_store : (movePm s n c wr a len).store = s.store := by
  have h := congrArg State.store (movePm_frame s n c wr a len); exact h
@[simp] theorem movePm_pm : (movePm s n c wr a len).pm = s.pm := by
  have h := congrArg State.pm (movePm_frame s n c wr a len); exact h
@[simp] theorem movePm_ret : (movePm s n c wr a len).ret = s.ret := by
  have h := congrArg State.ret (movePm_frame s n c wr a len); exact h

end

/-- What waits in a tile and what programs it. -/
def jobsOf (k : Tile) : List TileJob × List ProgReq := (k.queue, k.progs)

theorem jobsOf_foldl {f : Tile → Nat → Tile} (each : ∀ k i, jobsOf (f k i) = jobsOf k) (l : List Nat) (k : Tile) :
    jobsOf (l.foldl f k) = jobsOf k := by
  induction l generalizing k with
  | nil => rfl
  | cons i l ih => exact (ih (f k i)).trans (each k i)

theorem jobsOf_writeRow (k : Tile) (row : Nat) (codes : List (BitVec 8)) : jobsOf (writeRow k row codes) = jobsOf k := by
  simp only [jobsOf, writeRow]

theorem jobsOf_programRecord (k : Tile) (lr : LR) (bytes : List (BitVec 8)) : jobsOf (programRecord k lr bytes) = jobsOf k := by
  have rows : jobsOf (programRecord k lr bytes) = jobsOf ((upTo lr.rows).foldl
      (fun t i => writeRow t (lr.rowBase + i) ((bytes.drop (512 * i)).take 512)) k) := by simp only [jobsOf, programRecord]
  exact rows.trans (jobsOf_foldl (fun _ _ => jobsOf_writeRow _ _ _) _ _)

theorem jobsOf_routeSpoke (k : Tile) (lr : LR) (bytes : List (BitVec 8)) : jobsOf (routeSpoke k lr bytes) = jobsOf k := by
  unfold routeSpoke
  split
  · split <;> rfl
  · rfl

/-! ## The events of a tile -/

theorem releaseDrain_head {s : State} {n t : Nat} {a : Active} {rest : List Active} (cycles : BitVec 48)
    (oldest : (tileAt s (tileKey n t)).actives = a :: rest) (held : a.held = true)
    (noEarlier : earlierProduct s n a.p.lt a.p.seq = false) :
    releaseDrain s n t cycles = addCtr (setTile s (tileKey n t)
      { tileAt s (tileKey n t) with actives := { a with held := false } :: rest }) (cDrainHold n) cycles.toNat := by
  simp only [releaseDrain, oldest, held, noEarlier, Bool.not_false, Bool.and_self, if_true]

theorem startProgram_head {s : State} {n t : Nat} {g : ProgReq} {q : List TileJob}
    (head : (tileAt s (tileKey n t)).queue = .program g :: q) (noPrograms : (tileAt s (tileKey n t)).progs = [])
    (noProducts : (tileAt s (tileKey n t)).actives = []) :
    startProgram s n t = wake (setTile s (tileKey n t)
      { tileAt s (tileKey n t) with queue := q, progs := [{ g with tick := s.tick.toNat }] }) (lcluOf g.lt) := by
  simp only [startProgram, head, takeProgram_head noPrograms noProducts, noPrograms, List.nil_append]

/-- The end of a tile's oldest program request takes it from the tile, and writes no memory (R56). -/
theorem programReady_head {s : State} {n t : Nat} {g : ProgReq} {rest : List ProgReq}
    (oldest : (tileAt s (tileKey n t)).progs = g :: rest) :
    ∃ k : Tile, jobsOf k = ((tileAt s (tileKey n t)).queue, rest) ∧ (programReady s n t).tiles = (setTile s (tileKey n t) k).tiles ∧
      sameMemories s (programReady s n t) := by
  have jobs (lr : LR) (bytes : List (BitVec 8)) :
      jobsOf (routeSpoke (programRecord { tileAt s (tileKey n t) with progs := rest } lr bytes) lr bytes) =
        ((tileAt s (tileKey n t)).queue, rest) := (jobsOf_routeSpoke _ _ _).trans (jobsOf_programRecord _ _ _)
  refine ⟨_, jobs (lrAt (tileAt s (tileKey n t)) g.recIx) (pmBytes s g.src (progBytes (lrAt (tileAt s (tileKey n t)) g.recIx))), ?_⟩
  simp only [programReady, oldest, sameMemories, arrayDone_tiles, arrayDone_store, arrayDone_pm, arrayDone_ret, movePm_tiles,
    movePm_store, movePm_pm, movePm_ret, modBerth_tiles, modBerth_store, modBerth_pm, modBerth_ret, addCtr_tiles, addCtr_store,
    addCtr_pm, addCtr_ret, setTile_tiles, setTile_store, setTile_pm, setTile_ret, and_self]

theorem sameMemories_started (s : State) (n : Nat) (p : Product) (key : Nat) (k : Tile) (l : Nat) :
    sameMemories s (wake (useFree (setTile (broadcast s n p) key k)) l) := by
  have store := congrArg State.store (broadcast_frame s n p)
  have pm := congrArg State.pm (broadcast_frame s n p)
  have ret := congrArg State.ret (broadcast_frame s n p)
  exact ⟨store, pm, ret⟩

/-- Settles O17: each event meets the head of the tile's queue, or its oldest product or program request, and does to it what the `_head`
lemma of the event says. That the vector is read with the first start is the model's choice (log 166). -/
theorem tileEvents : Obligations.TileEvents := by
  unfold Obligations.TileEvents
  intro s n t cluster tile key k
  have there := tileExists_of cluster tile
  refine ⟨fun p q head noPrograms noProducts => ⟨_, onUnit_of there _, ?_⟩, fun a rest oldest free => ⟨_, onUnit_of there _, ?_⟩,
    fun a rest cyc oldest held noEarlier => ⟨_, onUnit_of there _, ?_⟩,
    fun g q head noPrograms noProducts => ⟨_, onUnit_of there _, ?_⟩, fun g rest oldest => ⟨_, onUnit_of there _, ?_⟩⟩
  · rw [startProduct_head s n p tile head noPrograms noProducts]
    refine ⟨sameMemories_started s n p _ _ _, tileAt_setTile_same _ _ _, fun j other => ?_⟩
    exact (tileAt_setTile_other (broadcast s n p) _ _ _ other).trans (tileAt_broadcast s n p j)
  · obtain ⟨accs, tiles, pm, ret, counts⟩ := completeProduct_head oldest free
    refine ⟨pm, ret, onlyTile_setTile tiles, ?_, counts⟩
    rw [tileAt_setTile_of tiles]
    rfl
  · rw [releaseDrain_head cyc oldest held noEarlier]
    refine ⟨tileAt_setTile_same _ _ _, ?_, addCtr_setTile_frame _ _ _ _ _⟩
    rw [ctr_addCtr_same, BitVec.ofNat_toNat, BitVec.setWidth_eq]
    rfl
  · rw [startProgram_head head noPrograms noProducts]
    exact ⟨onlyTile_setTile rfl, tileAt_setTile_same _ _ _, wake_setTile_frame _ _ _ _⟩
  · obtain ⟨k1, jobs, tiles, memories⟩ := programReady_head oldest
    refine ⟨memories, ?_, ?_, onlyTile_setTile tiles⟩
    · rw [tileAt_setTile_of tiles]; exact congrArg Prod.snd jobs
    · rw [tileAt_setTile_of tiles]; exact congrArg Prod.fst jobs

/-! ## A calibration slot that finds nothing (R61, R84, R87) -/

section Slot
variable {s : State} {n t : Nat}

/-- No convolution is under way on the cluster. -/
theorem advanceOn_idle (idle : ∀ l, lcluServed s n = some l → queue s l 4 = []) : advanceOn s n = s := by
  unfold advanceOn
  split
  · rename_i l serves; simp only [advanceConv, idle l serves]
  · rfl

/-- Findings of nothing leave the tile as it is. -/
theorem takeFindings_none : takeFindings s n t [] [] [] = setTile s (tileKey n t) (tileAt s (tileKey n t)) := by
  simp [takeFindings]

/-- A measurement of the temperature alone finds no column, no ladder and no drift. -/
theorem slot_finds_nothing (k : Tile) (temp : Int) :
    slotHeld s k { temp := temp } = [] ∧ slotCols s k { temp := temp } = [] ∧ slotLadders k { temp := temp } = [] ∧
      slotDrift k { temp := temp } = [] := by
  have held : slotHeld s k { temp := temp } = [] := by
    unfold slotHeld
    split <;> rfl
  refine ⟨held, ?_, ?_, ?_⟩
  · simp [slotCols, held]
  · simp [slotLadders]
  · simp [slotDrift]

/-- The state in which a slot is counted, and its work charged to the system (R62, R259). -/
def slotCounted (s : State) (n t : Nat) : State := sysWork (bump s (tileCtr n t 8)) 16 0

theorem slotCounted_kept (s : State) (n t : Nat) : (slotCounted s n t).tiles = s.tiles ∧ (slotCounted s n t).map = s.map ∧
    (slotCounted s n t).regs = s.regs ∧ sameMemories s (slotCounted s n t) := by
  simp [slotCounted, sysWork, sameMemories]

theorem ctr_slotCounted (s : State) (n t : Nat) : ctr (slotCounted s n t) (tileCtr n t 8) = ctr s (tileCtr n t 8) + 1 := by
  have notSystem (j : Nat) (inSet : j < 8) : tileCtr n t 8 ≠ obsCtr j := by unfold tileCtr obsCtr; omega
  have counted (u : State) (ns bytes : Nat) : ∃ fj, ctr (sysWork u ns bytes) (tileCtr n t 8) =
      ctr (addCtr (addCtr (addCtr u (obsCtr 2) ns) (obsCtr 3) bytes) (obsCtr 4) fj) (tileCtr n t 8) := ⟨_, rfl⟩
  obtain ⟨fj, charged⟩ := counted (bump s (tileCtr n t 8)) 16 0
  rw [slotCounted, charged, ctr_addCtr_other _ _ _ _ (notSystem 4 (by decide)), ctr_addCtr_other _ _ _ _ (notSystem 3 (by decide)),
    ctr_addCtr_other _ _ _ _ (notSystem 2 (by decide)), ctr_bump_same]

/-- The bounds of the trims are registers. -/
theorem slotTrims_of_regs {u : State} (regs : u.regs = s.regs) (k : Tile) (m : CalMeas) : slotTrims u k m = slotTrims s k m := by
  simp only [slotTrims, offBnd, gainBnd, regField, regWord, regs]

/-- The tile after a slot of its pass that found nothing. -/
def slotTaken (s : State) (k : Tile) (m : CalMeas) : Tile :=
  { sensed k m.temp with passSlot := k.passSlot + 1, trimWork := slotTrims s k m }

theorem slotTaken_slotCounted (k : Tile) (m : CalMeas) : slotTaken (slotCounted s n t) k m = slotTaken s k m := by
  obtain ⟨-, -, regs, -⟩ := slotCounted_kept s n t
  simp only [slotTaken, slotTrims_of_regs regs]

/-- The scheduled slot of a tile in service that finds nothing and does not end the pass (R84). -/
theorem scheduledSlot_quiet {temp : Int} (serves : cluState s n = .active) (tileServes : tileState s n t = .active)
    (notLast : (tileAt s (tileKey n t)).passSlot + 1 < 12) :
    ∃ v, v = slotTaken s (tileAt s (tileKey n t)) { temp := temp } ∧
      scheduledSlot s n t { temp := temp } = setTile (setTile s (tileKey n t) v) (tileKey n t) v := by
  obtain ⟨held, cols, ladders, drift⟩ := slot_finds_nothing (s := s) (tileAt s (tileKey n t)) temp
  have inPass : ¬ 12 ≤ (tileAt s (tileKey n t)).passSlot + 1 := by omega
  refine ⟨_, rfl, ?_⟩
  simp only [scheduledSlot, held, cols, ladders, drift, serves, tileServes, reduceCtorEq, or_self, if_false, inPass, takeFindings_none,
    tileAt_setTile_same, List.isEmpty_nil, Bool.not_true, Bool.or_false, Bool.false_eq_true, slotTaken]
  rfl

theorem runSlot_quiet {temp : Int} (enabled : calEn s = true) (notLost : s.lost.lost = false) (serves : cluState s n = .active)
    (tileServes : tileState s n t = .active) (still : (tileAt s (tileKey n t)).move = none)
    (idle : ∀ l, lcluServed s n = some l → queue s l 4 = []) :
    runSlot s n t { temp := temp } = scheduledSlot (slotCounted s n t) n t { temp := temp } := by
  have notDue : forcedDue s n (tileAt s (tileKey n t)) = none := by simp only [forcedDue, still]
  simp [runSlot, enabled, notLost, serves, tileServes, calibrated, advanceOn_idle idle, notDue, slotCounted]

/-- With calibration off a slot is not taken (R110). -/
theorem runSlot_disabled (disabled : calEn s = false) (meas : CalMeas) : runSlot s n t meas = s := by
  simp [runSlot, disabled]

/-- A slot of a tile in service, with nothing to find, in the state that it leaves. -/
theorem runSlot_takes {temp : Int} (enabled : calEn s = true) (notLost : s.lost.lost = false) (serves : cluState s n = .active)
    (tileServes : tileState s n t = .active) (still : (tileAt s (tileKey n t)).move = none)
    (notLast : (tileAt s (tileKey n t)).passSlot + 1 < 12) (idle : ∀ l, lcluServed s n = some l → queue s l 4 = []) :
    tileAt (runSlot s n t { temp := temp }) (tileKey n t) = slotTaken s (tileAt s (tileKey n t)) { temp := temp } ∧
      onlyTile s (runSlot s n t { temp := temp }) (tileKey n t) ∧
      ctr (runSlot s n t { temp := temp }) (tileCtr n t 8) = ctr s (tileCtr n t 8) + 1 ∧
      sameMemories s (runSlot s n t { temp := temp }) := by
  obtain ⟨tiles, map, -, memories⟩ := slotCounted_kept s n t
  have before : ∀ k, tileAt (slotCounted s n t) k = tileAt s k := tileAt_of_tiles tiles
  obtain ⟨v, taken, slot⟩ := scheduledSlot_quiet (s := slotCounted s n t) (n := n) (t := t) (temp := temp)
    (by simpa only [cluState, map] using serves) (by simpa only [tileState, map] using tileServes) (by rw [before]; exact notLast)
  rw [slotTaken_slotCounted, before] at taken
  rw [runSlot_quiet enabled notLost serves tileServes still idle, slot]
  refine ⟨(tileAt_setTile_same _ _ _).trans taken, fun k other => ?_, ?_, ?_⟩
  · rw [tileAt_setTile_other _ _ _ _ other, tileAt_setTile_other _ _ _ _ other, before]
  · rw [ctr_setTile, ctr_setTile, ctr_slotCounted]
  · simpa only [sameMemories, setTile_store, setTile_pm, setTile_ret] using memories

end Slot

/-! ## Commits (R90–R92) -/

theorem spokeWritten_writes {s : State} {n t : Nat} {m : SpokeMove} (moving : (tileAt s (tileKey n t)).move = some m)
    (unwritten : m.written = false) : ∃ k : Tile, k.move = some { m with written := true } ∧
      spokeWritten s n t = setTile s (tileKey n t) k := by
  simp only [spokeWritten, moving, unwritten, Bool.false_eq_true, if_false]
  exact ⟨_, rfl, rfl⟩

/-- CAL_CTRL holds no debug level: those lie in RNG, DBG and the clusters' registers (R503). -/
theorem levelsNow_calCtrl (s : State) (v : Nat) : levelsNow (bumpView (putNat s calOff v)) = levelsNow s := by
  have other (off : Nat) (elsewhere : off ≠ calOff) : regWord (bumpView (putNat s calOff v)) off = regWord s off :=
    regWord_setRegWord_other _ _ _ _ elsewhere
  have rng := other (rngOff + 0x10) (by decide)
  have dbg := other (dbgOff + 4) (by decide)
  have clu (n : Nat) := other (cluOff n + 4) (by unfold cluOff calOff; omega)
  simp only [levelsNow, trcOn, trcData, cluTrc, regField, rng, dbg, clu, bumpView_sec]
  rfl

/-- A request for a commit is bit 2 of CAL_CTRL, which a write keeps (R110). -/
theorem calCtrlWord_request (s : State) (w : BitVec 32) :
    bitsOf (BitVec.ofNat 32 (calCtrlWord s (withField w 2 2 1).toNat)).toNat 2 2 = 1 := by
  have range := w.isLt
  simp only [calCtrlWord, withField, putBits, bitsOf, BitVec.toNat_ofNat]
  split <;> omega

/-- The host's write of CAL_CTRL, where no policy lock holds it (R110, R405). -/
theorem hostWord_calCtrl {s : State} (live : alive s = true) (ready : s.clk.ready = true) (unlocked : s.sec.polLock = false)
    (w : BitVec 32) : hostWord s calOff w = bumpView (putNat s calOff (calCtrlWord s w.toNat)) := by
  have applied : applyWord s false none calOff w = .done (bumpView (putNat s calOff (calCtrlWord s w.toNat))) := by
    simp [applyWord, ready, calOff, writeCal, policyWrite, lockHolds, unlocked]
  simp only [hostWord, hostWordWith, live, applied, levelsMoved, levelsNow_calCtrl, Bool.not_true, Bool.false_eq_true, if_false, if_true]

theorem commitInterval_free {s : State} (free : holdReq s = false) :
    commitInterval s = { s with cal := { s.cal with dueTime := true } } := by
  simp [commitInterval, free]

theorem commitInterval_reached {s : State} (reached : holdReached s = true) :
    commitInterval s = { s with cal := { s.cal with dueForced := true } } := by
  have held : holdReq s = true := (Bool.and_eq_true_iff.1 reached).1
  simp [commitInterval, held, reached]

theorem commitInterval_held {s : State} (held : holdReq s = true) (notReached : holdReached s = false) : commitInterval s = s := by
  simp [commitInterval, held, notReached]

/-- Settles O21: a slot is taken alike by either command, and the commits fall due by the register that holds their policy. -/
theorem calibrationSlots : Obligations.CalibrationSlots := by
  unfold Obligations.CalibrationSlots
  intro s n t meas cluster tile k quiet took
  have there := tileExists_of cluster tile
  have takes {i : Instr} (runs : exec i s = .next (runSlot s n t meas)) : quiet → took i := by
    rintro ⟨enabled, notLost, serves, tileServes, still, tempOnly, notLast, idle⟩
    refine ⟨_, runs, ?_⟩
    rw [tempOnly]
    exact runSlot_takes enabled notLost serves tileServes still notLast idle
  have slot : exec (.calSlot n t meas) s = .next (runSlot s n t meas) := onUnit_of there _
  have deferred : exec (.slotDeferLimit n t meas) s = .next (runSlot s n t meas) := onUnit_of there _
  refine ⟨takes slot, takes deferred, fun disabled => ?_, fun m moving unwritten => ?_,
    fun free => congrArg Host.Outcome.next (commitInterval_free free),
    fun reached => congrArg Host.Outcome.next (commitInterval_reached reached),
    fun held notReached => congrArg Host.Outcome.next (commitInterval_held held notReached), fun live ready unlocked => ?_⟩
  · rw [runSlot_disabled disabled] at slot deferred
    exact ⟨slot, deferred⟩
  · obtain ⟨v, marked, writes⟩ := spokeWritten_writes moving unwritten
    refine ⟨_, (onUnit_of there _).trans (congrArg _ writes), ?_, onlyTile_setTile rfl, setTile_frame _ _ _⟩
    rw [tileAt_setTile_same]
    exact marked
  · refine ⟨_, congrArg Host.Outcome.next (hostWord_calCtrl live ready unlocked _), ?_, ⟨rfl, rfl, rfl⟩, rfl⟩
    have written := regWord_setRegWord_same s calOff (BitVec.ofNat 32 (calCtrlWord s (withField (regWord s calOff) 2 2 1).toNat))
    exact (congrArg (fun w : BitVec 32 => bitsOf w.toNat 2 2) written).trans (calCtrlWord_request s _)

end Sys2Proof.Machine
end

section
/-! The family of numbers, scales and accuracy (03_numbers_scales_accuracy.md): the command at the head of the vector queue completes
(O14). -/

namespace Sys2Proof.Machine
open Sys2Proof

/-! ## The head of an engine's queue (R127) -/

theorem completeHead_empty {s : State} {l eng : Nat} (empty : queue s l eng = []) (run : State → Cmd → State) :
    completeHead s l eng run = s := by
  simp only [completeHead, empty]

theorem completeHead_cons {s : State} {l eng : Nat} {c : Cmd} {q : List Cmd} (head : queue s l eng = c :: q)
    (run : State → Cmd → State) : completeHead s l eng run =
      retireCmd (storeMoved (run (setQueue s l eng q) c) c.client (cmdStoreBytes c)) l eng c := by
  simp only [completeHead, head]

theorem modOwn_threads (s : State) (c : Cmd) (g : Thread → Thread) : ∃ ts, modOwn s c g = { s with threads := ts } := by
  unfold modOwn
  extract_lets t
  split
  · exact ⟨_, rfl⟩
  · exact ⟨_, rfl⟩

/-- A command that leaves its queue changes threads only. -/
theorem retireCmd_threads (s : State) (l eng : Nat) (c : Cmd) : ∃ ts, retireCmd s l eng c = { s with threads := ts } := by
  obtain ⟨ts, own⟩ := modOwn_threads s c (fun t => markCmd (subOutst t eng) c.op c.fld false)
  exact ⟨_, by rw [retireCmd, own]; rfl⟩

/-! ## What the work of a vector command changes (R160, R176) -/

/-- Two counters of the clusters' sets are the same one only where they stand at the same place of their sets (R176). -/
theorem cluCtr_ne (n m : Nat) {j k : Nat} (inSet : j < 64) (inSet' : k < 64) (other : j ≠ k) : cluCtr n j ≠ cluCtr m k := by
  unfold cluCtr; omega

/-- What the vector unit may change while it works: the cluster store, the free choices, threads, berths, and counters other than the
clusters' lane-operations, which the completion itself counts. -/
structure VectorFrame (s u : State) : Prop where
  rest : { u with store := s.store, free := s.free, threads := s.threads, berths := s.berths, ctrs := s.ctrs } = s
  laneOps : ∀ n, ctr u (cVecLaneOps n) = ctr s (cVecLaneOps n)

namespace VectorFrame

theorem refl (s : State) : VectorFrame s s := ⟨rfl, fun _ => rfl⟩

theorem trans {s t u : State} (first : VectorFrame s t) (second : VectorFrame t u) : VectorFrame s u where
  rest := by
    have withoutFirst := congrArg (fun v : State =>
      { v with store := s.store, free := s.free, threads := s.threads, berths := s.berths, ctrs := s.ctrs }) second.rest
    exact withoutFirst.trans first.rest
  laneOps n := (second.laneOps n).trans (first.laneOps n)

theorem queue {s u : State} (h : VectorFrame s u) (l eng : Nat) : queue u l eng = queue s l eng := by
  have queues : u.queues = s.queues := (congrArg State.queues h.rest :)
  simp only [Machine.queue, queues]

theorem pm {s u : State} (h : VectorFrame s u) : u.pm = s.pm := (congrArg State.pm h.rest :)

theorem ret {s u : State} (h : VectorFrame s u) : u.ret = s.ret := (congrArg State.ret h.rest :)

section
variable (s : State) (c : Cmd)

theorem addCtr (n m : Nat) {k : Nat} (inSet : k < 64) (other : 28 ≠ k) : VectorFrame s (addCtr s (cluCtr n k) m) :=
  ⟨rfl, fun i => ctr_addCtr_other s _ m _ (cluCtr_ne i n (by decide) inSet other)⟩

/-- The counts of a command's NaN and overflowing results (R76, R83). -/
theorem addEvents (n nan ovf : Nat) : VectorFrame s (Machine.addCtr (Machine.addCtr s (cVecNan n) nan) (cVecOvf n) ovf) :=
  (addCtr s n nan (by decide) (by decide)).trans (addCtr _ n ovf (by decide) (by decide))

theorem setStore (m : List (Nat × BitVec 8)) : VectorFrame s { s with store := m } := ⟨rfl, fun _ => rfl⟩

theorem setBerth (b : BitVec 12) (v : Berth) : VectorFrame s (setBerth s b v) := ⟨rfl, fun _ => rfl⟩

theorem useFree : VectorFrame s (useFree s) := ⟨rfl, fun _ => rfl⟩

theorem modOwn (g : Thread → Thread) : VectorFrame s (modOwn s c g) := by
  obtain ⟨ts, own⟩ := modOwn_threads s c g
  rw [own]
  exact ⟨rfl, fun _ => rfl⟩

theorem writeLanes (l : Nat) (h : VH) (rs : List (Option Lane)) : VectorFrame s (writeLanes s l h rs) :=
  (setStore s _).trans (addEvents _ _ _ _)

theorem elementwise (n : Nat) (g : Nat → Lane) : VectorFrame s (elementwise s c n g) := writeLanes s _ _ _

theorem countEmpty (ixs : List Nat) : VectorFrame s (countEmpty s c ixs) := by
  unfold Machine.countEmpty
  extract_lets m
  split
  · exact addCtr s _ 1 (by decide) (by decide)
  · exact refl s

/-! ### VQUANT (R73, R161, R162) -/

theorem placeSeed (blk len off : Nat) (seed : List (BitVec 8)) : VectorFrame s (placeSeed s c blk len off seed) := by
  unfold Machine.placeSeed
  extract_lets v o s1
  have marked : VectorFrame s s1 := setBerth s _ _
  split
  · exact refl s
  · split
    · exact marked.trans (setStore s1 _)
    · exact marked

theorem quantSeed : VectorFrame s (quantSeed s c) := by
  unfold Machine.quantSeed
  extract_lets q
  split
  · exact refl s
  · exact placeSeed s c _ _ _ _

theorem foldBlock (l : Nat) (q : QD) (blk : Nat) (codes : List Nat) : VectorFrame s (foldBlock s l q blk codes) := by
  unfold Machine.foldBlock
  extract_lets n hc phase
  split
  · exact setStore s _
  · exact setStore s _

theorem quant0 : VectorFrame s (quant0 s c) := by
  unfold Machine.quant0
  extract_lets l n q blk relu xs sigma qs d eps codes s1 s2 s3
  have written : VectorFrame s s2 := (setStore s _).trans (setStore s1 _)
  have folded : VectorFrame s2 s3 := by
    unfold s3
    split
    · exact refl s2
    · exact foldBlock s2 _ _ _ _
  have clipped := addCtr (Machine.useFree s3) n (qs.filter (·.clip)).length (k := 0) (by decide) (by decide)
  exact written.trans (folded.trans ((useFree s3).trans (clipped.trans (addCtr _ n _ (by decide) (by decide)))))

theorem quant1 : VectorFrame s (quant1 s c) := (setStore s _).trans (setStore _ _)

theorem quant2 : VectorFrame s (quant2 s c) := by
  unfold Machine.quant2
  extract_lets l q blk sigma vals codes
  split
  · exact refl s
  · exact foldBlock s _ _ _ _

theorem runQuant : VectorFrame s (runQuant s c) := by
  have seeded := quantSeed s c
  unfold Machine.runQuant
  split
  · exact seeded.trans (quant0 _ c)
  · exact seeded.trans (quant1 _ c)
  · exact seeded.trans (quant2 _ c)

/-! ### Every vector command (R160) -/

/-- A vector command writes lanes of d, or a register of its thread (VCMP, VRED), or is a VQUANT; the commands with gates count an
empty table as well, and VRECIP takes a free choice.  The cases stand in the order of the opcodes from 0x40, VADD. -/
theorem runVector : VectorFrame s (runVector s c) := by
  unfold Machine.runVector
  split
  case h_1 | h_2 | h_3 | h_4 | h_5 | h_6 | h_7 | h_8 | h_9 | h_11 => exact elementwise s c _ _
  case h_10 => unfold runCmp; exact modOwn s c _
  case h_12 => exact (modOwn s c _).trans (addEvents _ _ _ _)
  case h_13 | h_14 | h_15 | h_16 | h_20 => exact writeLanes s _ _ _
  case h_17 => exact (elementwise s c _ _).trans (countEmpty _ c _)
  case h_18 => exact (elementwise s c _ _).trans (useFree _)
  case h_19 => exact runQuant s c
  case h_21 => exact (writeLanes s _ _ _).trans (countEmpty _ c _)
  case h_22 => exact ((writeLanes s _ _ _).trans (writeLanes _ _ _ _)).trans (countEmpty _ c _)
  case h_23 => exact refl s

end

end VectorFrame

/-! ## VECTOR_CMD_COMPLETE (R127, R153, R160) -/

section Completion
variable {s : State} {l : BitVec 4} {c : Cmd} {q : List Cmd}

theorem exec_vectorCmdComplete (s : State) (l : BitVec 4) :
    exec (.vectorCmdComplete l) s = .next (completeHead s l.toNat 1 vectorWork) := rfl

/-- Beside the command's own work, the completion counts its lane-operations and changes threads, berths and activity only. -/
theorem completeHead_vectorWork_eq (head : queue s l.toNat 1 = c :: q) : ∃ ts bs ac, completeHead s l.toNat 1 vectorWork =
    { addCtr (runVector (setQueue s l.toNat 1 q) c) (cVecLaneOps (physOf s (lcluOf c.lt))) (cmdOps s c) with
      threads := ts, berths := bs, act := ac } := by
  obtain ⟨ts, left⟩ := retireCmd_threads
    (storeMoved (vectorWork (setQueue s l.toNat 1 q) c) c.client (cmdStoreBytes c)) l.toNat 1 c
  exact ⟨ts, _, _, (completeHead_cons head vectorWork).trans left⟩

/-- The completion as its parts show it: the queue without the command, the store as the command's own work left it, the other memories
as they were, and the lane-operations counted. -/
theorem completeHead_vectorWork (head : queue s l.toNat 1 = c :: q) :
    let u := completeHead s l.toNat 1 vectorWork
    let n := physOf s (lcluOf c.lt)
    u.store = (runVector (setQueue s l.toNat 1 q) c).store ∧ queue u l.toNat 1 = q ∧ u.pm = s.pm ∧ u.ret = s.ret ∧
      ctr u (cVecLaneOps n) = ctr s (cVecLaneOps n) + BitVec.ofNat 48 (cmdOps s c) := by
  intro u n
  have kept := VectorFrame.runVector (setQueue s l.toNat 1 q) c
  obtain ⟨ts, bs, ac, done⟩ := completeHead_vectorWork_eq head
  have counted := ctr_addCtr_same (runVector (setQueue s l.toNat 1 q) c) (cVecLaneOps n) (cmdOps s c)
  simp only [u, done]
  refine ⟨rfl, (kept.queue l.toNat 1).trans (queue_setQueue_same s l.toNat 1 q), kept.pm, kept.ret, ?_⟩
  rw [kept.laneOps n] at counted
  exact counted

/-- An elementwise command writes the elements of d whose lane is on, and no other memory (R147). -/
theorem elementwise_store (s : State) (c : Cmd) (n : Nat) (g : Nat → Lane) : (elementwise s c n g).store =
    vhWriteAll s.store (storeBase (physOf s (lcluOf c.lt))) (vhOf c.hd) 0
      ((upTo n).map (fun i => if c.lanes.getLsbD (i % 1024) then some (g i).bits else none)) := by
  have lane (i : Nat) : Option.map (·.bits) (if laneOn c i then some (g i) else none) =
      if c.lanes.getLsbD (i % 1024) then some (g i).bits else none := by
    unfold laneOn
    split
    · rfl
    · rfl
  simp only [elementwise, writeLanes, countLanes, addCtr_store, List.map_map, Function.comp_def, lane]

/-- An elementwise command at the head writes its lanes on the operands as the completion meets them. -/
theorem vectorCmdComplete_elementwise (head : queue s l.toNat 1 = c :: q) {g : Nat → Lane}
    (works : runVector (setQueue s l.toNat 1 q) c = elementwise (setQueue s l.toNat 1 q) c (vhCount (vhOf c.hd)) g) :
    ∃ u, exec (.vectorCmdComplete l) s = .next u ∧
      u.store = vhWriteAll s.store (storeBase (physOf s (lcluOf c.lt))) (vhOf c.hd) 0 ((upTo (vhCount (vhOf c.hd))).map
        (fun i => if c.lanes.getLsbD (i % 1024) then some (g i).bits else none)) ∧ u.pm = s.pm ∧ u.ret = s.ret := by
  obtain ⟨store, -, pm, ret, -⟩ := completeHead_vectorWork head
  refine ⟨_, exec_vectorCmdComplete s l, ?_, pm, ret⟩
  rw [store, works]
  exact elementwise_store _ c _ g

end Completion

/-- Settles O14: the work of every vector command stays within `VectorFrame`, and the six of its values are elementwise. -/
theorem vectorCompletion : Obligations.VectorCompletion := by
  unfold Obligations.VectorCompletion
  intro s l c q k d bin writes
  refine ⟨fun empty => congrArg Host.Outcome.next (completeHead_empty empty vectorWork), fun head => ?_⟩
  obtain ⟨-, left, pm, -, counted⟩ := completeHead_vectorWork head
  refine ⟨⟨_, exec_vectorCmdComplete s l, left, pm, counted⟩, fun vadd => ?_, fun vsub => ?_, fun vmul => ?_, fun vmin => ?_,
    fun vmax => ?_, fun vfma => ?_⟩
  · exact vectorCmdComplete_elementwise head (by rw [runVector, vadd]; rfl)
  · exact vectorCmdComplete_elementwise head (by rw [runVector, vsub]; rfl)
  · exact vectorCmdComplete_elementwise head (by rw [runVector, vmul]; rfl)
  · exact vectorCmdComplete_elementwise head (by rw [runVector, vmin]; rfl)
  · exact vectorCmdComplete_elementwise head (by rw [runVector, vmax]; rfl)
  · exact vectorCmdComplete_elementwise head (by rw [runVector, vfma]; rfl)

end Sys2Proof.Machine
end

section
/-! The family of calibration, spares and repair (04_calibration_spares_repair.md): migrations and unit tests (O22), the requests of
CAL_REQ (O23), the control cores and the repair of package memory (O25). -/

namespace Sys2Proof.Machine
open Sys2Proof

/-! ## The system's work and the changes that fall due (R94, R491) -/

theorem sameMemories_trans {a b c : State} (first : sameMemories a b) (second : sameMemories b c) : sameMemories a c := by
  obtain ⟨store, pm, ret⟩ := first
  obtain ⟨store', pm', ret'⟩ := second
  exact ⟨store'.trans store, pm'.trans pm, ret'.trans ret⟩

theorem sysWork_frame (s : State) (ns bytes : Nat) : { sysWork s ns bytes with ctrs := s.ctrs, sched := s.sched } = s := by
  simp only [sysWork, addCtr]

/-- The system's work is counted in the observability set, below every set of a unit (R488, R491). -/
theorem ctr_sysWork {k : Nat} (high : 0x168 ≤ k) (s : State) (ns bytes : Nat) : ctr (sysWork s ns bytes) k = ctr s k := by
  have notObs {j : Nat} (inSet : j < 8) : k ≠ obsCtr j := by unfold obsCtr; omega
  calc ctr (sysWork s ns bytes) k
      = ctr (addCtr (addCtr (addCtr s (obsCtr 2) ns) (obsCtr 3) bytes) (obsCtr 4) _) k := rfl
    _ = ctr s k := by
      rw [ctr_addCtr_other _ _ _ _ (notObs (by decide)), ctr_addCtr_other _ _ _ _ (notObs (by decide)),
        ctr_addCtr_other _ _ _ _ (notObs (by decide))]

/-- A change that falls due changes the map's list of due changes only. -/
theorem mapDue_frame (s : State) (c : MapChange) : { mapDue s c with map := s.map } = s := by
  unfold mapDue
  split
  · rfl
  · rfl

theorem mem_mapDue (s : State) (c : MapChange) : c ∈ (mapDue s c).map.due := by
  unfold mapDue
  split
  next waits => exact List.contains_iff_mem.1 waits
  next => exact List.mem_append_right _ (List.mem_singleton_self c)

theorem mapDue_memories (s : State) (c : MapChange) : sameMemories s (mapDue s c) := by
  have kept := mapDue_frame s c
  exact ⟨(congrArg State.store kept :), (congrArg State.pm kept :), (congrArg State.ret kept :)⟩

theorem mapDue_ctrs (s : State) (c : MapChange) : (mapDue s c).ctrs = s.ctrs := (congrArg State.ctrs (mapDue_frame s c) :)
theorem mapDue_tiles (s : State) (c : MapChange) : (mapDue s c).tiles = s.tiles := (congrArg State.tiles (mapDue_frame s c) :)
theorem mapDue_cal (s : State) (c : MapChange) : (mapDue s c).cal = s.cal := (congrArg State.cal (mapDue_frame s c) :)
theorem mapDue_regs (s : State) (c : MapChange) : (mapDue s c).regs = s.regs := (congrArg State.regs (mapDue_frame s c) :)
theorem mapDue_sec (s : State) (c : MapChange) : (mapDue s c).sec = s.sec := (congrArg State.sec (mapDue_frame s c) :)
theorem mapDue_guardOpen (s : State) (c : MapChange) : (mapDue s c).guardOpen = s.guardOpen :=
  (congrArg State.guardOpen (mapDue_frame s c) :)

/-! ## Migrations and unit tests (R98, R101, R102) -/

section Migration
variable {s : State}

theorem tileCopied_marks {m : TileMigr} (first : s.cal.tileMigr.find? (fun x => !x.copied && !tripped s x.clu) = some m) :
    (tileCopied s).cal.tileMigr = s.cal.tileMigr.map (fun x => if x = m then { x with copied := true } else x) := by
  simp only [tileCopied, first]
  rfl

theorem copyTileTo_cal (s : State) (src dst : Nat) (recs : List (BitVec 8 × RecDesc)) : (copyTileTo s src dst recs).cal = s.cal := by
  simp only [copyTileTo, modTile_cal, sysWork, addCtr_cal]

/-- Operations that leave the calibration as it was leave it so one after another. -/
theorem foldl_cal {α : Type} {f : State → α → State} (keeps : ∀ s x, (f s x).cal = s.cal) (l : List α) (s : State) :
    (l.foldl f s).cal = s.cal :=
  List.foldlRecOn (motive := fun u : State => u.cal = s.cal) l f rfl fun u kept x _ => (keeps u x).trans kept

/-- Step 2 of R102: the tiles of the migrating cluster are copied to the spare's. -/
def clusterCopies (s : State) (m : CluMigr) : State :=
  (upTo 16).foldl (fun s j =>
    copyTileTo s (tileKey m.old (slotTile s m.old j)) (tileKey m.new (slotTile s m.new j)) (residentRecs s m.lclu.toNat j)) s

theorem clusterCopies_cal (s : State) (m : CluMigr) : (clusterCopies s m).cal = s.cal :=
  foldl_cal (fun u _ => copyTileTo_cal u _ _ _) (upTo 16) s

theorem clusterCopied_marks {m : CluMigr} (first : s.cal.cluMigr.find? (fun m => !tripped s m.old &&
      (!m.copied || (m.stopped && !m.moved && enginesStopped s m.lclu.toNat))) = some m) (uncopied : m.copied = false) :
    ∃ u : State, u.cal = s.cal ∧ clusterCopied s =
      { u with cal := { u.cal with cluMigr := u.cal.cluMigr.map (fun x => if x = m then { m with copied := true } else x) } } := by
  refine ⟨setRegWord (clusterCopies s m) (cluOff m.new + 4) (regWord (clusterCopies s m) (cluOff m.old + 4)), ?_, ?_⟩
  · rw [setRegWord_cal, clusterCopies_cal]
  · unfold clusterCopied
    rw [first]
    simp only [uncopied, Bool.false_eq_true, if_false, clusterCopies]

variable {n t : Nat}

theorem tileDrainedAt_ends (drains : tileState s n t = .draining) (queue : (tileAt s (tileKey n t)).queue = [])
    (actives : (tileAt s (tileKey n t)).actives = []) (progs : (tileAt s (tileKey n t)).progs = [])
    (switched : s.cal.tileMigr.any (fun m => decide (m.clu = n ∧ m.old = t) && m.switched) = true) :
    tileDrainedAt s n t = bump (mapDue { s with cal := { s.cal with
      tileMigr := s.cal.tileMigr.filter (fun m => !decide (m.clu = n ∧ m.old = t)) } } (.tile n t .outOfService)) (calCtr 7) := by
  simp only [tileDrainedAt, drains, queue, actives, progs, switched, List.isEmpty_nil, and_self, if_true]

/-- The test of a tile in a device that is up (R98). -/
theorem exec_unitTestDone_tile (cluster : n < 18) (tile : t < 17) (ready : s.clk.ready = true) (pass : Bool) :
    exec (.unitTestDone n t false pass) s = .next (tileTested s n t pass) := by
  have there : testUnit n t = true := decide_eq_true (.inl ⟨cluster, tile⟩)
  have isTile : unitTested s n t false pass = tileTested s n t pass := by
    simp [unitTested, ready, show n ≠ 18 by omega, show ¬ 18 < n by omega]
  exact (onUnit_of there _).trans (congrArg Host.Outcome.next isTile)

theorem tileTested_passes (out : tileState s n t = .outOfService) : tileTested s n t true =
    mapDue (addCtr (modTile s (tileKey n t) (retested s)) (calCtr 0) 16) (.tile n t .spare) := by
  simp [tileTested, out]

theorem tileTested_fails (out : tileState s n t = .outOfService) : tileTested s n t false = mapDue s (.tile n t .quarantined) := by
  simp [tileTested, out]

end Migration

/-- Settles O22: each completion runs the one operation that it stands for, on the first migration or the tile that it names. -/
theorem unitMigrations : Obligations.UnitMigrations := by
  unfold Obligations.UnitMigrations
  intro s
  refine ⟨fun m first => ⟨_, rfl, tileCopied_marks first⟩, fun n t cluster tile drains queue actives progs switched => ?_,
    fun m first uncopied => ?_, fun n t cluster tile ready out => ⟨?_, ?_⟩⟩
  · refine ⟨_, onUnit_of (tileExists_of cluster tile) _, ?_⟩
    rw [tileDrainedAt_ends drains queue actives progs switched]
    refine ⟨fun k => ?_, ?_, mem_mapDue _ _, ?_, ?_⟩
    · rw [ctr_bump, ctr, mapDue_ctrs]
      rfl
    · rw [bump_cal, mapDue_cal]
    · simpa only [sameMemories, bump_store, bump_pm, bump_ret] using mapDue_memories { s with cal := _ } (.tile n t .outOfService)
    · rw [bump_tiles, mapDue_tiles]
  · obtain ⟨u, kept, copied⟩ := clusterCopied_marks first uncopied
    refine ⟨_, congrArg Host.Outcome.next copied, ?_⟩
    rw [kept]
  · refine ⟨_, exec_unitTestDone_tile cluster tile ready true, ?_⟩
    rw [tileTested_passes out]
    refine ⟨mem_mapDue _ _, ?_, ?_, ?_⟩
    · rw [ctr, mapDue_ctrs]
      exact ctr_addCtr_same _ _ _
    · rw [tileAt_of_tiles (mapDue_tiles _ _), tileAt_of_tiles (addCtr_tiles _ _ _), tileAt_modTile_same]
      rfl
    · simpa only [sameMemories, addCtr_store, addCtr_pm, addCtr_ret, modTile_store, modTile_pm, modTile_ret] using
        mapDue_memories (addCtr (modTile s (tileKey n t) (retested s)) (calCtr 0) 16) (.tile n t .spare)
  · refine ⟨_, exec_unitTestDone_tile cluster tile ready false, ?_⟩
    rw [tileTested_fails out]
    exact ⟨mem_mapDue _ _, mapDue_frame _ _⟩

/-! ## The requests of CAL_REQ (R110, R404, R451) -/

/-- The debug levels lie in RNG, DBG and the clusters' registers (R503). -/
theorem levelsNow_of_regs {s u : State} (levels : u.sec.levels = s.sec.levels)
    (regs : ∀ off, off / 0x10000 ≠ 7 → regWord u off = regWord s off) : levelsNow u = levelsNow s := by
  have rng := regs (rngOff + 0x10) (by decide)
  have dbg := regs (dbgOff + 4) (by decide)
  have clu (n : Nat) := regs (cluOff n + 4) (by unfold cluOff; omega)
  simp only [levelsNow, trcOn, trcData, cluTrc, regField, rng, dbg, clu, levels]
  rfl

theorem regWord_setFlag_other (s : State) (f : Flag) {off : Nat} (other : off ≠ f.off) : regWord (setFlag s f) off = regWord s off := by
  simp only [regWord, setFlag_regs, tabMod]
  exact tabGet_set_other _ _ _ _ _ _ other

/-- The word of a request with its action. -/
def calReqOf (w : BitVec 32) (action : Nat) : Nat := (withField w 12 10 action).toNat

/-- A word with a field of actions keeps the fields of the cluster and the tile below it. -/
theorem calReqOf_fields (w : BitVec 32) {action : Nat} (inField : action < 8) : bitsOf (calReqOf w action) 12 10 = action ∧
    bitsOf (calReqOf w action) 4 0 = bitsOf w.toNat 4 0 ∧ bitsOf (calReqOf w action) 9 5 = bitsOf w.toNat 9 5 := by
  have range := w.isLt
  simp only [calReqOf, withField, putBits, bitsOf, BitVec.toNat_ofNat]
  omega

/-- A request as its action meets it: the guard is closed and CAL_REQ holds the word.  The lemmas below say what it reads as; it is not
unfolded, so that a comparison with the state before the request does not compare the two register tables. -/
@[irreducible] def calAsked (s : State) (w : BitVec 32) (action : Nat) : State :=
  setRegWord { s with guardOpen := false } (calOff + 0x300) (BitVec.ofNat 32 (calReqOf w action % 2 ^ 13))

section Asked
variable (s : State) (w : BitVec 32) (action n t : Nat)

@[simp] theorem calAsked_guardOpen : (calAsked s w action).guardOpen = false := by rw [calAsked, setRegWord_guardOpen]
@[simp] theorem calAsked_map : (calAsked s w action).map = s.map := by rw [calAsked, setRegWord_map]
@[simp] theorem calAsked_cal : (calAsked s w action).cal = s.cal := by rw [calAsked, setRegWord_cal]
@[simp] theorem calAsked_fw : (calAsked s w action).fw = s.fw := by rw [calAsked, setRegWord_fw]
@[simp] theorem calAsked_pre : (calAsked s w action).pre = s.pre := by rw [calAsked, setRegWord_pre]
@[simp] theorem calAsked_sec : (calAsked s w action).sec = s.sec := by rw [calAsked, setRegWord_sec]

theorem calAsked_memories : sameMemories s (calAsked s w action) := by
  rw [calAsked, sameMemories, setRegWord_store, setRegWord_pm, setRegWord_ret]
  exact ⟨rfl, rfl, rfl⟩

theorem regWord_calAsked {off : Nat} (outside : off / 0x10000 ≠ 7) : regWord (calAsked s w action) off = regWord s off := by
  have other : off ≠ calOff + 0x300 := fun same => outside (by rw [same]; decide)
  rw [calAsked, regWord_setRegWord_other _ _ _ _ other]
  rfl

/-! What an action reads of the units, the migrations and the saves is what stood before the request. -/

@[simp] theorem cluState_calAsked : cluState (calAsked s w action) n = cluState s n := by
  simp only [cluState, calAsked_map]
@[simp] theorem tileState_calAsked : tileState (calAsked s w action) n t = tileState s n t := by
  simp only [tileState, calAsked_map]
@[simp] theorem lcluServed_calAsked : lcluServed (calAsked s w action) n = lcluServed s n := by
  unfold lcluServed physOf
  rw [calAsked_map]
@[simp] theorem slotServed_calAsked : slotServed (calAsked s w action) n t = slotServed s n t := by
  unfold slotServed slotTile
  rw [calAsked_map]
@[simp] theorem spareClu_calAsked : spareClu (calAsked s w action) n = spareClu s n := by
  simp only [spareClu, cluState_calAsked, calAsked_cal]
@[simp] theorem spareTile_calAsked : spareTile (calAsked s w action) n = spareTile s n := by
  simp only [spareTile, tileState_calAsked, calAsked_cal]
@[simp] theorem hmWindow_calAsked : hmWindow (calAsked s w action) = hmWindow s := by
  unfold hmWindow
  rw [calAsked_fw]
@[simp] theorem savePhase_calAsked (l : Nat) : savePhase (calAsked s w action) l = savePhase s l := by
  simp only [savePhase, calAsked_pre]

end Asked

section Request
variable {s : State} {w : BitVec 32} {action : Nat}

/-- The host's write of CAL_REQ with the guard open, where no policy lock holds it. -/
theorem calReqWord_open (live : alive s = true) (ready : s.clk.ready = true) (unlocked : s.sec.polLock = false)
    (isOpen : s.guardOpen = true) (inField : action < 8) : calReqWord s w action =
      levelsMoved s (bumpView ((calRequest (calAsked s w action) action (bitsOf w.toNat 4 0) (bitsOf w.toNat 9 5)).getD
        (setFlag (calAsked s w action) fReqRefused))) := by
  obtain ⟨act, cluster, tile⟩ := calReqOf_fields w inField
  have applied : applyWord s false none (calOff + 0x300) (withField w 12 10 action) =
      .done (bumpView (writeCalReq { s with guardOpen := false } (calReqOf w action))) := by
    simp [applyWord, ready, calOff, writeCal, guarded, isOpen, policyWrite, lockHolds, unlocked, calReqOf]
  simp only [calReqWord, hostWord, hostWordWith, live, applied, writeCalReq, act, cluster, tile, Bool.not_true, Bool.false_eq_true,
    if_false, calAsked]
  rfl

/-- A request that its action takes up, changing no register and no debug level. -/
theorem calReqWord_taken (live : alive s = true) (ready : s.clk.ready = true) (unlocked : s.sec.polLock = false)
    (isOpen : s.guardOpen = true) (inField : action < 8) {u : State}
    (taken : calRequest (calAsked s w action) action (bitsOf w.toNat 4 0) (bitsOf w.toNat 9 5) = some u)
    (regs : u.regs = (calAsked s w action).regs) (sec : u.sec = s.sec) : calReqWord s w action = bumpView u := by
  have levels : levelsNow (bumpView u) = levelsNow s := levelsNow_of_regs (congrArg (·.levels) sec) fun off outside => by
    rw [← regWord_calAsked s w action outside, regWord, bumpView_regs, regs, regWord]
  rw [calReqWord_open live ready unlocked isOpen inField, taken, Option.getD_some, levelsMoved, if_pos levels]

/-- A request that its action refuses (R110). -/
theorem calReqWord_refused (live : alive s = true) (ready : s.clk.ready = true) (unlocked : s.sec.polLock = false)
    (isOpen : s.guardOpen = true) (inField : action < 8)
    (refused : calRequest (calAsked s w action) action (bitsOf w.toNat 4 0) (bitsOf w.toNat 9 5) = none) :
    calReqWord s w action = bumpView (setFlag (calAsked s w action) fReqRefused) := by
  have levels : levelsNow (bumpView (setFlag (calAsked s w action) fReqRefused)) = levelsNow s :=
    levelsNow_of_regs (congrArg (·.levels) (calAsked_sec s w action)) fun off outside =>
      (regWord_setFlag_other (calAsked s w action) fReqRefused fun same => outside (by rw [same]; decide)).trans
        (regWord_calAsked s w action outside)
  rw [calReqWord_open live ready unlocked isOpen inField, refused, Option.getD_none, levelsMoved, if_pos levels]

/-- The host's write of CAL_REQ with the guard closed is ignored (R449, R451). -/
theorem calReqWord_closed (live : alive s = true) (ready : s.clk.ready = true) (closed : s.guardOpen = false) :
    calReqWord s w action = setFlag (setFlag s fKgMiss) fCalWign := by
  have applied : applyWord s false none (calOff + 0x300) (withField w 12 10 action) = .ignored (setFlag s fKgMiss) := by
    simp [applyWord, ready, calOff, writeCal, guarded, closed]
  have flag : wignOf (calOff + 0x300) = fCalWign := rfl
  simp only [calReqWord, hostWord, hostWordWith, live, applied, flag, Bool.not_true, Bool.false_eq_true, if_false]

end Request

/-! ### What each action takes up (R101, R102, R110) -/

section Action
variable {s : State} {w : BitVec 32} {n t : Nat}

/-- Where the cluster is QUARANTINED, RETEST names the cluster and not the tile, as does RETIRE (the model's choice, log 69). -/
theorem calRequest_retest (cluster : n < 18) (quarantined : cluState s n = .quarantined) :
    calRequest (calAsked s w 3) 3 n t = some (mapDue (calAsked s w 3) (.cluster n .outOfService)) := by
  simp [calRequest, show ¬ 17 < n by omega, quarantined]

theorem calRequest_retire (cluster : n < 18) (quarantined : cluState s n = .quarantined) :
    calRequest (calAsked s w 4) 4 n t =
      some { calAsked s w 4 with fw := { s.fw with fuseQ := s.fw.fuseQ ++ [.retireCluster n] } } := by
  simp [calRequest, show ¬ 17 < n by omega, quarantined, calAsked_fw]

theorem askCluster_starts {action l m : Nat} (serves : cluState s n = .active) (spare : spareClu s (dieOf n) = some m)
    (served : lcluServed s n = some l) (noWindow : hmWindow s = false)
    (still : s.cal.cluMigr.any (fun x => decide (x.old = n)) = false) : askCluster (calAsked s w action) n =
      { calAsked s w action with
        cal := { s.cal with cluMigr := s.cal.cluMigr ++ [⟨BitVec.ofNat 4 l, n, m, false, false, false⟩] } } := by
  simp only [askCluster, lcluServed_calAsked, served, calAsked_cal, still, cluState_calAsked, serves, hmWindow_calAsked, noWindow,
    spareClu_calAsked, spare, Bool.false_eq_true, ne_eq, not_true, or_self, if_false]

/-- MIGRATE_CLUSTER, and OUT_OF_SERVICE of a cluster, ask for its migration alike. -/
theorem calRequest_cluster {action : Nat} (moves : action = 2 ∨ action = 5) (cluster : n < 18) (serves : cluState s n = .active)
    (spare : (spareClu s (dieOf n)).isSome = true) :
    calRequest (calAsked s w action) action n t = some (askCluster (calAsked s w action) n) := by
  rcases moves with rfl | rfl
  · simp [calRequest, show ¬ 17 < n by omega, serves, spare]
  · simp [calRequest, show ¬ 17 < n by omega, serves, spare]

theorem calRequest_cluster_refused (spareless : spareClu s (dieOf n) = none) : calRequest (calAsked s w 2) 2 n t = none := by
  simp [calRequest, spareless]

theorem askTile_starts {action l j k : Nat} (tileServes : tileState s n t = .active) (spare : spareTile s n = some k)
    (served : lcluServed s n = some l) (slot : slotServed s n t = some j) (noWindow : hmWindow s = false)
    (unsaved : savePhase s l = .none) (still : s.cal.cluMigr.any (fun x => decide (x.old = n)) = false)
    (tileStill : s.cal.tileMigr.any (fun x => decide (x.clu = n ∧ x.old = t)) = false) : askTile (calAsked s w action) n t =
      { calAsked s w action with cal := { s.cal with tileMigr := s.cal.tileMigr ++ [⟨n, t, k, j, false, false⟩] } } := by
  simp only [askTile, lcluServed_calAsked, served, slotServed_calAsked, slot, calAsked_cal, still, tileStill, tileState_calAsked,
    tileServes, hmWindow_calAsked, noWindow, savePhase_calAsked, unsaved, spareTile_calAsked, spare, Bool.false_eq_true, ne_eq,
    not_true, or_self, if_false]

theorem calRequest_tile (cluster : n < 18) (tile : t < 17) (serves : cluState s n = .active) (tileServes : tileState s n t = .active)
    (spare : (spareTile s n).isSome = true) : calRequest (calAsked s w 1) 1 n t = some (askTile (calAsked s w 1) n t) := by
  simp [calRequest, show ¬ 17 < n by omega, tile, serves, tileServes, spare]

end Action

/-- Settles O23: each request is one write of CAL_REQ, which its action takes up, refuses, or the closed guard ignores. -/
theorem calibrationRequests : Obligations.CalibrationRequests := by
  unfold Obligations.CalibrationRequests
  intro s w live ready unlocked n t
  refine ⟨fun isOpen cluster => ?_, fun closed i request => ?_⟩
  · have takes {action : Nat} {u : State} (inField : action < 8) (taken : calRequest (calAsked s w action) action n t = some u)
        (regs : u.regs = (calAsked s w action).regs) (sec : u.sec = s.sec) :
        Host.Outcome.next (calReqWord s w action) = (.next (bumpView u) : Host.Outcome State Fault Refusal) :=
      congrArg Host.Outcome.next (calReqWord_taken live ready unlocked isOpen inField taken regs sec)
    refine ⟨fun quarantined => ⟨?_, ?_⟩, fun l m serves spare served noWindow still => ?_,
      fun l j k tile serves tileServes spare served slot noWindow unsaved still tileStill => ?_, fun spareless => ?_⟩
    · have retests := takes (by decide) (calRequest_retest cluster quarantined) (mapDue_regs _ _)
        ((mapDue_sec _ _).trans (calAsked_sec _ _ _))
      refine ⟨_, retests, mem_mapDue _ _, ?_, ?_⟩
      · rw [bumpView_guardOpen, mapDue_guardOpen, calAsked_guardOpen]
      · exact sameMemories_trans (calAsked_memories s w 3) (mapDue_memories _ _)
    · exact ⟨_, takes (by decide) (calRequest_retire cluster quarantined) rfl (calAsked_sec _ _ _), rfl, calAsked_guardOpen _ _ _,
        calAsked_map _ _ _⟩
    · have starts (action : Nat) := askCluster_starts (w := w) (action := action) serves spare served noWindow still
      have asks {action : Nat} (moves : action = 2 ∨ action = 5) := (calRequest_cluster (w := w) (t := t) moves cluster serves
        (Option.isSome_of_eq_some spare)).trans (congrArg some (starts action))
      exact ⟨⟨_, takes (by decide) (asks (.inl rfl)) rfl (calAsked_sec _ _ _), calAsked_guardOpen _ _ _, rfl⟩,
        ⟨_, takes (by decide) (asks (.inr rfl)) rfl (calAsked_sec _ _ _), calAsked_guardOpen _ _ _, rfl⟩⟩
    · have asks := calRequest_tile (w := w) cluster tile serves tileServes (Option.isSome_of_eq_some spare)
      have starts := askTile_starts (w := w) (action := 1) tileServes spare served slot noWindow unsaved still tileStill
      exact ⟨_, takes (by decide) (asks.trans (congrArg some starts)) rfl (calAsked_sec _ _ _), calAsked_guardOpen _ _ _, rfl⟩
    · have refused := calReqWord_refused live ready unlocked isOpen (by decide) (calRequest_cluster_refused (w := w) (t := t) spareless)
      exact ⟨_, congrArg Host.Outcome.next refused, flagOn_setFlag_same (calAsked s w 2) fReqRefused (by decide),
        by simp only [bumpView_map, setFlag_map, calAsked_map], by simp only [bumpView_cal, setFlag_cal, calAsked_cal]⟩
  · have ignored : exec i s = .next (setFlag (setFlag s fKgMiss) fCalWign) := by
      simp only [List.mem_cons, List.not_mem_nil, or_false] at request
      rcases request with rfl | rfl | rfl | rfl | rfl
      all_goals exact congrArg Host.Outcome.next (calReqWord_closed live ready closed)
    refine ⟨_, ignored, ?_, by simp only [setFlag_map], by simp only [setFlag_cal], by simp only [setFlag_fw]⟩
    rw [flagOn_setFlag, flagOn_setFlag_same s fKgMiss (by decide), Bool.true_or]

/-! ## The control cores (R105, R443) -/

/-- What a change of a unit's state leaves beside the retained SRAM and the counters: `mview` counts it (R404, R496). -/
theorem unitChanged_frame (s : State) (unit : Nat) (was now : UnitState) :
    ∃ rt cs v, unitChanged s unit was now = { s with ret := rt, ctrs := cs, sec := { s.sec with mview := v } } := by
  unfold unitChanged
  split
  · exact ⟨s.ret, s.ctrs, s.sec.mview, rfl⟩
  · extract_lets s1
    split
    · exact ⟨_, _, _, rfl⟩
    · exact ⟨_, _, _, rfl⟩

/-- A core's change is the change of its entry, recorded. -/
theorem setCore_frame (s : State) (k : Nat) (u : UnitState) : ∃ rt cs v, setCore s k u =
    { s with fw := { s.fw with cores := tabSet .outOfService s.fw.cores k u }, ret := rt, ctrs := cs,
             sec := { s.sec with mview := v } } := by
  obtain ⟨rt, cs, v, changed⟩ :=
    unitChanged_frame { s with fw := { s.fw with cores := tabSet .outOfService s.fw.cores k u } } (unitCore k) (coreState s k) u
  exact ⟨rt, cs, v, changed⟩

@[simp] theorem coreState_setCore_same (s : State) (k : Nat) (u : UnitState) : coreState (setCore s k u) k = u := by
  obtain ⟨rt, cs, v, set⟩ := setCore_frame s k u
  rw [set]
  exact tabGet_set_same _ _ _ _

theorem coreState_setCore_other (s : State) {k j : Nat} (u : UnitState) (other : j ≠ k) :
    coreState (setCore s k u) j = coreState s j := by
  obtain ⟨rt, cs, v, set⟩ := setCore_frame s k u
  rw [set]
  exact tabGet_set_other _ _ _ _ _ _ other

/-- Nothing waits for the end of a window, and none is open (R389, R409, R441). -/
structure NothingHeld (s : State) : Prop where
  closed : windowOpen s = false
  reports : s.sec.held = []
  operations : s.sec.cwHeld = []
  teardown : s.sec.tdDue = false

namespace NothingHeld

theorem setCore {s : State} (h : NothingHeld s) (k : Nat) (u : UnitState) : NothingHeld (setCore s k u) := by
  obtain ⟨closed, reports, operations, teardown⟩ := h
  obtain ⟨rt, cs, v, set⟩ := setCore_frame s k u
  rw [set]
  exact ⟨closed, reports, operations, teardown⟩

/-- An image to be loaded again opens no window. -/
theorem reload {s : State} (h : NothingHeld s) : NothingHeld (modFw s false (fun f => { f with coreLoaded := false })) := by
  obtain ⟨closed, reports, operations, teardown⟩ := h
  exact ⟨closed, reports, operations, teardown⟩

/-- The end of a window leaves such a state as it is. -/
theorem closeWindow_eq {s : State} (h : NothingHeld s) : closeWindow s = s := by
  obtain ⟨closed, reports, operations, teardown⟩ := h
  have answered : answerHeld s = s := by
    have noReports : ({ s with sec := { s.sec with held := [] } } : State) = s := by rw [← reports]
    simp only [answerHeld, closed, reports, List.filter_nil, List.foldl_nil, Bool.false_eq_true, if_false, noReports]
  have ran : ({ s with sec := { s.sec with tdDue := false, cwHeld := [] } } : State) = s := by rw [← teardown, ← operations]
  simp only [closeWindow, closed, answered, teardown, operations, List.foldl_nil, Bool.false_eq_true, if_false]
  exact ran

end NothingHeld

theorem abortWindow_closed {s : State} (closed : windowOpen s = false) (wd : Bool) : abortWindow s wd = s := by
  obtain ⟨hm, warden⟩ : s.fw.hm.phase ≠ .window ∧ s.fw.wd.phase ≠ .window := by simpa [windowOpen] using closed
  cases wd with
  | false => exact if_neg hm
  | true => exact if_neg warden

/-- The firmware of one kind is not among the cores' states. -/
theorem coreState_modFw (s : State) (wd : Bool) (f : FwKind → FwKind) (k : Nat) : coreState (modFw s wd f) k = coreState s k := by
  cases wd with
  | false => rfl
  | true => rfl

section Core
variable {s : State} {k j : Nat}

/-- A core in service fails with no window open: the SPARE core has its duties, and its image is to be loaded again. -/
theorem coreFailed_replaced (ready : s.clk.ready = true) (closed : windowOpen s = false) (serves : coreState s k = .active)
    (spare : spareCore s = some j) : coreFailed s k =
      modFw (setCore (setCore s k .outOfService) j .active) false (fun f => { f with coreLoaded := false }) := by
  simp only [coreFailed, ready, abortWindow_closed closed, serves, spare, Bool.not_true, Bool.false_eq_true, if_false]

theorem closeWindow_coreFailed (ready : s.clk.ready = true) (serves : coreState s k = .active) (spare : spareCore s = some j)
    (others : j ≠ k) (idle : NothingHeld s) : coreState (closeWindow (coreFailed s k)) k = .outOfService ∧
      coreState (closeWindow (coreFailed s k)) j = .active := by
  have replaced := coreFailed_replaced ready idle.closed serves spare
  have still : NothingHeld (coreFailed s k) := by
    rw [replaced]
    exact ((idle.setCore k .outOfService).setCore j .active).reload
  rw [still.closeWindow_eq, replaced, coreState_modFw, coreState_modFw, coreState_setCore_other _ _ others.symm,
    coreState_setCore_same, coreState_setCore_same]
  exact ⟨rfl, rfl⟩

end Core

/-! ## Spare rows and pseudo-channels (R105, R279) -/

section Spares
variable {s : State} {st pc : Nat}

@[simp] theorem copyWork_mem (s : State) (st n : Nat) : (copyWork s st n).mem = s.mem := by
  simp only [copyWork, sysWork, addCtr_mem]
@[simp] theorem copyWork_store (s : State) (st n : Nat) : (copyWork s st n).store = s.store := by
  simp only [copyWork, sysWork, addCtr_store]
@[simp] theorem copyWork_pm (s : State) (st n : Nat) : (copyWork s st n).pm = s.pm := by
  simp only [copyWork, sysWork, addCtr_pm]
@[simp] theorem copyWork_ret (s : State) (st n : Nat) : (copyWork s st n).ret = s.ret := by
  simp only [copyWork, sysWork, addCtr_ret]

theorem rowRepaired_uncopied (uncopied : 32 * st + pc ∉ s.mem.rowCopies) : rowRepaired s st pc = s := by
  have unlisted : s.mem.rowCopies.contains (32 * st + pc) = false := by simpa using uncopied
  simp only [rowRepaired, unlisted, Bool.not_false, if_true]

/-- What the spares' tables hold after a row's copy has ended. -/
theorem rowRepaired_copied (copied : 32 * st + pc ∈ s.mem.rowCopies) : sameMemories s (rowRepaired s st pc) ∧
    (rowRepaired s st pc).mem = { s.mem with
      rowCopies := s.mem.rowCopies.erase (32 * st + pc)
      pcRows := tabSet 0 s.mem.pcRows (32 * st + pc) (tabGet 0 s.mem.pcRows (32 * st + pc) + 1)
      rowsSpared := tabSet 0 s.mem.rowsSpared st (Nat.min 255 (tabGet 0 s.mem.rowsSpared st + 1))
      pcCopies := if tabGet 0 s.mem.pcRows (32 * st + pc) = 15 ∧ pcSpareLeft s st = true
        then s.mem.pcCopies ++ [32 * st + pc] else s.mem.pcCopies } := by
  have listed : s.mem.rowCopies.contains (32 * st + pc) = true := by simpa using copied
  simp only [rowRepaired, listed, Bool.not_true, Bool.false_eq_true, if_false, Bool.and_eq_true, decide_eq_true_eq,
    Nat.reduceEqDiff, copyWork_mem, useFree_mem, sameMemories, copyWork_store, copyWork_pm, copyWork_ret, useFree_store, useFree_pm,
    useFree_ret, and_self]

theorem pcCopied_nothing (uncopied : 32 * st + pc ∉ s.mem.pcCopies) (spareless : pcSpareLeft s st = false) : pcCopied s st pc = s := by
  have unlisted : s.mem.pcCopies.contains (32 * st + pc) = false := by simpa using uncopied
  simp only [pcCopied, unlisted, spareless, Bool.not_false, Bool.and_self, if_true]

/-- What the spares' tables hold after a pseudo-channel's copy has ended. -/
theorem pcCopied_switches (may : 32 * st + pc ∈ s.mem.pcCopies ∨ pcSpareLeft s st = true) : sameMemories s (pcCopied s st pc) ∧
    (pcCopied s st pc).mem = { s.mem with
      pcCopies := s.mem.pcCopies.erase (32 * st + pc)
      pcRows := tabSet 0 s.mem.pcRows (32 * st + pc) 0
      pcSpared := tabSet 0 s.mem.pcSpared st (tabGet 0 s.mem.pcSpared st + 1) } := by
  have switches : (!s.mem.pcCopies.contains (32 * st + pc) && !pcSpareLeft s st) = false := by
    rcases may with listed | left
    · simp [listed]
    · simp [left]
  simp only [pcCopied, switches, Bool.false_eq_true, if_false, copyWork_mem, sameMemories, copyWork_store, copyWork_pm,
    copyWork_ret, and_self]

end Spares

/-! ## The patrol (R279, R300, R497) -/

theorem countPm_mem (s : State) (wr : Bool) (a n : Nat) : (countPm s wr a n).mem = s.mem :=
  (congrArg State.mem (countPm_frame s wr a n) :)

theorem countPm_lost (s : State) (wr : Bool) (a n : Nat) : (countPm s wr a n).lost = s.lost :=
  (congrArg State.lost (countPm_frame s wr a n) :)

/-- Package memory is counted in a read counter or a write counter of some stack, and nowhere else (R300). -/
theorem ctr_countPm_other {k : Nat} {wr : Bool} (other : ∀ st, k ≠ stackCtr st (if wr then 1 else 0)) (s : State) (a n : Nat) :
    ctr (countPm s wr a n) k = ctr s k := by
  simp only [countPm]
  split
  · rfl
  · refine List.foldlRecOn (motive := fun t => ctr t k = ctr s k) _ _ rfl fun t kept g _ => ?_
    rw [ctr_addCtr_other _ _ _ _ (other _), kept]

/-- A line lies within one 256-byte span, which is one stack's (R276). -/
theorem countPm_line (s : State) (wr : Bool) (a : Nat) : countPm s wr (a / 64 * 64) 64 =
    addCtr s (stackCtr (stackOf (a / 64 * 64)) (if wr then 1 else 0)) 64 := by
  generalize line : a / 64 * 64 = b
  have oneSpan : (b + 64 - 1) / 256 - b / 256 + 1 = 1 := by omega
  have first : upTo 1 = [0] := rfl
  have start : Nat.max b (256 * (b / 256 + 0)) = b := Nat.max_eq_left (by omega)
  have stop : Nat.min (b + 64) (256 * (b / 256 + 0 + 1)) = b + 64 := Nat.min_eq_left (by omega)
  rw [countPm, if_neg (by decide), oneSpan, first]
  simp only [List.foldl_cons, List.foldl_nil, start, stop, Nat.add_sub_cancel_left]

/-- The patrol has read a line: 64 bytes of its stack and of the system's work (R300, R491). -/
def patrolled (s : State) (line : Nat) : State := countPm (sysWork s 0 64) false line 64

theorem patrolled_frame (s : State) (line : Nat) : { patrolled s line with ctrs := s.ctrs, sched := s.sched } = s := by
  calc { patrolled s line with ctrs := s.ctrs, sched := s.sched }
      = { { countPm (sysWork s 0 64) false line 64 with ctrs := (sysWork s 0 64).ctrs } with ctrs := s.ctrs, sched := s.sched } := rfl
    _ = { sysWork s 0 64 with ctrs := s.ctrs, sched := s.sched } := by rw [countPm_frame]
    _ = s := sysWork_frame s 0 64

section Patrol
variable {s : State} {a row : Nat}

theorem patrolled_memories (s : State) (line : Nat) : sameMemories s (patrolled s line) := by
  have kept := patrolled_frame s line
  exact ⟨(congrArg State.store kept :), (congrArg State.pm kept :), (congrArg State.ret kept :)⟩

theorem ctr_patrolled_read (s : State) (a : Nat) : ctr (patrolled s (a / 64 * 64)) (stackCtr (stackOf (a / 64 * 64)) 0) =
    ctr s (stackCtr (stackOf (a / 64 * 64)) 0) + 64 := by
  have high : 0x168 ≤ stackCtr (stackOf (a / 64 * 64)) 0 := by unfold stackCtr; omega
  rw [patrolled, countPm_line]
  exact (ctr_addCtr_same _ _ _).trans (congrArg (· + 64) (ctr_sysWork high s 0 64))

/-- Errors have counters of their own beside those of a stack's bytes. -/
theorem ctr_patrolled_error (s : State) (line st : Nat) {j : Nat} (isError : 1 < j ∧ j < 8) :
    ctr (patrolled s line) (stackCtr st j) = ctr s (stackCtr st j) := by
  rw [patrolled, ctr_countPm_other (fun i => by simp only [stackCtr, Bool.false_eq_true, if_false]; omega),
    ctr_sysWork (by unfold stackCtr; omega)]

/-- With the patrol off it does nothing. -/
theorem patrol_off (off : regField s (memOff + 4) 0 0 = 0) (err : BitVec 2) : patrol s a row err = s := by
  simp [patrol, off]

/-- The patrol zeroes a line that no one holds, and counts its error (R279). -/
def lineZeroed (s : State) (b : Nat) : State :=
  bump (countPm (sysWork (pmPut s b (List.replicate 64 0)) 0 64) true b 64) (stackCtr (stackOf b) 3)

theorem lineZeroed_kept (s : State) (b : Nat) : (lineZeroed s b).store = s.store ∧ (lineZeroed s b).lost = s.lost ∧
    (lineZeroed s b).pm = memPutBytes s.pm b (List.replicate 64 0) := by
  simp [lineZeroed, sysWork, countPm_lost]

theorem ctr_lineZeroed (s : State) (b : Nat) :
    ctr (lineZeroed s b) (stackCtr (stackOf b) 3) = ctr s (stackCtr (stackOf b) 3) + 1 := by
  have written (st : Nat) : stackCtr (stackOf b) 3 ≠ stackCtr st (if true then 1 else 0) := by
    simp only [stackCtr, if_true]; omega
  have high : 0x168 ≤ stackCtr (stackOf b) 3 := by unfold stackCtr; omega
  rw [lineZeroed, ctr_bump_same, ctr_countPm_other written, ctr_sysWork high, ctr, pmPut_ctrs, ctr]

/-- A zeroed line reads 0, and every other byte of package memory reads as before. -/
theorem lineZeroed_pm (s : State) (b : Nat) : memBytes (lineZeroed s b).pm b 64 = List.replicate 64 0 ∧
    ∀ x, (x < b ∨ b + 64 ≤ x) → memByte (lineZeroed s b).pm x = memByte s.pm x := by
  obtain ⟨-, -, pm⟩ := lineZeroed_kept s b
  rw [pm]
  exact ⟨memBytes_putBytes_same s.pm b (List.replicate 64 0), fun x outside => memByte_putBytes_other s.pm b x _ outside⟩

/-- What the patrol does on the line that it has read, by the error that it met. -/
theorem patrol_on (ready : s.clk.ready = true) (on : regField s (memOff + 4) 0 0 = 1) :
    patrol s a row 0 = patrolled s (a / 64 * 64) ∧
    patrol s a row 1 = pmCorrected (patrolled s (a / 64 * 64)) (a / 64 * 64) row ∧
    patrol s a row 2 = if pmHeld s (a / 64 * 64) then loseDevice (patrolled s (a / 64 * 64)) 2 0xFFFF (pmDetail a)
      else lineZeroed (patrolled s (a / 64 * 64)) (a / 64 * 64) := by
  simp only [patrol, ready, on, Nat.one_ne_zero, Bool.not_true, Bool.false_eq_true, or_self, if_false]
  exact ⟨rfl, rfl, rfl⟩

/-- A corrected error counts in its row and its stack, and the corrected sector is written back (R279). -/
theorem pmCorrected_counts (s : State) (b row : Nat) : sameMemories s (pmCorrected s b row) ∧
    tabGet 0 (pmCorrected s b row).mem.rowErrs (pcOf b * 2 ^ 32 + row) = tabGet 0 s.mem.rowErrs (pcOf b * 2 ^ 32 + row) + 1 ∧
    ctr (pmCorrected s b row) (stackCtr (stackOf b) 2) = ctr s (stackCtr (stackOf b) 2) + 1 := by
  have written (st : Nat) : stackCtr (stackOf b) 2 ≠ stackCtr st (if true then 1 else 0) := by
    simp only [stackCtr, if_true]; omega
  refine ⟨?_, ?_, ?_⟩
  · simp [sameMemories, pmCorrected]
  · simp only [pmCorrected, countPm_mem, bump_mem, tabGet_set_same]
  · rw [pmCorrected, ctr_countPm_other written, ctr_bump_same]
    rfl

/-- What a lost device records of its loss (R141). -/
theorem loseDevice_lost (notLost : s.lost.lost = false) (cls unit detail : Nat) : (loseDevice s cls unit detail).lost =
    { lost := true, cls := cls, unit := unit, detail := detail, tick := s.tick, valid := true } := by
  simp only [loseDevice, notLost, Bool.false_eq_true, if_false, msix0_lost]

theorem patrolled_lost (s : State) (line : Nat) : (patrolled s line).lost = s.lost := (congrArg State.lost (patrolled_frame s line) :)

end Patrol

/-! ## The rows of the patrol and of the spares -/

section Rows
variable {s : State}

theorem exec_memoryRowRepairDone {st pc : Nat} (stack : st < 8) (channel : pc < 32) :
    exec (.memoryRowRepairDone st pc) s = .next (rowRepaired s st pc) := onUnit_of (decide_eq_true ⟨stack, channel⟩) _

theorem exec_pcCopyDone {st pc : Nat} (stack : st < 8) (channel : pc < 32) :
    exec (.pcCopyDone st pc) s = .next (pcCopied s st pc) := onUnit_of (decide_eq_true ⟨stack, channel⟩) _

theorem exec_patrolRead {a : Nat} (there : pmExists a = true) (row : Nat) (err : BitVec 2) :
    exec (.patrolRead a row err) s = .next (patrol s a row err) := onUnit_of there _

end Rows

/-- Settles O25: each completion runs one operation on the core, the pseudo-channel or the line that it names. -/
theorem coresAndMemoryRepair : Obligations.CoresAndMemoryRepair := by
  unfold Obligations.CoresAndMemoryRepair
  intro s
  refine ⟨fun k j core ready closed serves spare others reports operations teardown => ?_, fun k core => ?_,
    fun st pc stack channel => ⟨fun copied => ?_, fun uncopied => ?_⟩,
    fun st pc stack channel => ⟨fun may => ?_, fun uncopied spareless => ?_⟩, fun a row there => ⟨fun ready on => ?_, fun off err => ?_⟩⟩
  · have replaced := closeWindow_coreFailed ready serves spare others ⟨closed, reports, operations, teardown⟩
    exact ⟨⟨_, onUnit_of (decide_eq_true core) _, replaced⟩, ⟨_, onUnit_of (decide_eq_true core) _, replaced⟩⟩
  · have met : exec (.coreWatchdogExpiry k true) s = .next (bump s (obsCtr 9)) := onUnit_of (decide_eq_true core) _
    exact ⟨_, met, ctr_bump s (obsCtr 9), by simp only [bump, addCtr]⟩
  · obtain ⟨memories, mem⟩ := rowRepaired_copied copied
    refine ⟨_, exec_memoryRowRepairDone stack channel, ?_⟩
    rw [mem]
    exact ⟨rfl, by simp only [tabGet_set_same], memories, by simp only [tabGet_set_same], rfl⟩
  · rw [exec_memoryRowRepairDone stack channel, rowRepaired_uncopied uncopied]
  · obtain ⟨memories, mem⟩ := pcCopied_switches may
    refine ⟨_, exec_pcCopyDone stack channel, ?_⟩
    rw [mem]
    exact ⟨rfl, by simp only [tabGet_set_same], by simp only [tabGet_set_same], memories⟩
  · rw [exec_pcCopyDone stack channel, pcCopied_nothing uncopied spareless]
  · obtain ⟨clean, corrected, uncorrectable⟩ := patrol_on (a := a) (row := row) ready on
    have memories := patrolled_memories s (a / 64 * 64)
    refine ⟨⟨_, exec_patrolRead there row 0, ?_⟩, ⟨_, exec_patrolRead there row 1, ?_⟩,
      fun held notLost => ⟨_, exec_patrolRead there row 2, ?_⟩, fun free => ⟨_, exec_patrolRead there row 2, ?_⟩⟩
    · rw [clean]
      exact ⟨memories, patrolled_frame _ _, ctr_patrolled_read s a⟩
    · obtain ⟨kept, inRow, inStack⟩ := pmCorrected_counts (patrolled s (a / 64 * 64)) (a / 64 * 64) row
      have mem : (patrolled s (a / 64 * 64)).mem = s.mem := (congrArg State.mem (patrolled_frame s (a / 64 * 64)) :)
      rw [mem] at inRow
      rw [ctr_patrolled_error s _ _ (by decide)] at inStack
      rw [corrected]
      exact ⟨sameMemories_trans memories kept, inRow, inStack⟩
    · rw [uncorrectable, if_pos held, loseDevice_lost (by rw [patrolled_lost, notLost])]
      exact ⟨rfl, rfl, rfl⟩
    · obtain ⟨zeroed, others⟩ := lineZeroed_pm (patrolled s (a / 64 * 64)) (a / 64 * 64)
      obtain ⟨store, lost, -⟩ := lineZeroed_kept (patrolled s (a / 64 * 64)) (a / 64 * 64)
      have counted := ctr_lineZeroed (patrolled s (a / 64 * 64)) (a / 64 * 64)
      obtain ⟨store', pm, -⟩ := memories
      rw [ctr_patrolled_error s _ _ (by decide)] at counted
      rw [pm] at others
      rw [uncorrectable, if_neg (by rw [free]; decide)]
      exact ⟨store.trans store', lost.trans (patrolled_lost _ _), counted, zeroed, others⟩
  · rw [exec_patrolRead there, patrol_off off]

end Sys2Proof.Machine
end

section
/-! The family of the cluster machine (05_cluster_machine_model.md): the memories' one form under instructions (O58), registers (O3),
exceptions (O8), what enters an engine's queue (O11, O12) and leaves it (O15), the loss of the device (O24), pre-emption (O26). -/

namespace Sys2Proof.Machine
open Sys2Proof

/-! ## Registers of a thread (R116) -/

/-- Settles O3: each register file reads after a write as its table does, but for s0 and p0. -/
theorem registerFileReads : Obligations.RegisterFileReads := by
  unfold Obligations.RegisterFileReads
  intro t i k v h p
  refine ⟨?_, readV_writeV t i k h, readA_writeA t i k h, ?_⟩
  · rw [readS_writeS]
    by_cases zero : k = 0
    · simp [zero]
    · simp [zero]
  · rw [readP_writeP]
    by_cases zero : k = 0
    · simp [zero]
    · simp [zero]

/-! ## What an instruction's issue can do (R114, R147–R150) -/

theorem addCtr_frame (s : State) (i n : Nat) : { addCtr s i n with ctrs := s.ctrs } = s := rfl

theorem setFlag_frame (s : State) (f : Flag) : { setFlag s f with ctrs := s.ctrs, regs := s.regs } = s := rfl

/-- A trace record changes the trace port, its overflow flag and counters only (R501). -/
theorem traceRec_frame (s : State) (type src : Nat) (b : BitVec 12) (body : List (BitVec 8)) :
    { traceRec s type src b body with ctrs := s.ctrs, regs := s.regs, dbg := s.dbg } = s := by
  by_cases lost : s.lost.lost = true
  · rw [show traceRec s type src b body = s from if_pos lost]
  · by_cases full : 4096 ≤ s.dbg.trc.length
    · rw [show traceRec s type src b body = _ from (if_neg lost).trans (if_pos full)]
      have counted := congrArg (fun v : State => { v with ctrs := s.ctrs, regs := s.regs, dbg := s.dbg })
        (addCtr_frame (setFlag { s with dbg := { s.dbg with trcLost := Nat.min (2 ^ 32 - 1) (s.dbg.trcLost + 1) } } fTrcOvf) (obsCtr 6) 1)
      exact counted.trans (congrArg (fun v : State => { v with dbg := s.dbg }) (setFlag_frame { s with dbg := _ } fTrcOvf))
    · rw [show traceRec s type src b body = _ from (if_neg lost).trans (if_neg full)]

section Issue
variable {s : State} {lt : BitVec 12} {op : Nat} {f : Fields} {checks : Thread → List (Option Exc)}
  {block : Thread → Option WaitOn} {act : State → Thread → State}

/-- A thread that an exception faults (R139). -/
def faultedThread (t : Thread) (e : Exc) : Thread := { t with st := .faulted, exc := excCode e, excPc := t.pc, wait := none }

/-- A berth that the exception of its thread withdraws from the step (R140). -/
def withdrawnBerth (t : Thread) (e : Exc) (b : Berth) : Berth :=
  { b with inStep := false, ended := .exception, endExc := excCode e, endPc := t.pc }

def excFaults (s : State) (lt : BitVec 12) (e : Exc) : State :=
  modBerth (setThread s lt (faultedThread (thread s lt) e)) (thread s lt).berth (withdrawnBerth (thread s lt) e)

/-- An exception counts in its cluster, one of a spent step budget twice (R144). -/
def excCounted (s : State) (n : Nat) (e : Exc) : State :=
  if e = .stepOverrun then bump (bump s (cExceptions n)) (cStepOverrun n) else bump s (cExceptions n)

/-- The exception before the trace and the cluster's registers record it. -/
def excTaken (s : State) (lt : BitVec 12) (e : Exc) : State :=
  let n := physOf s (lcluOf lt)
  setFlag (excCounted (excFaults s lt e) n e) (fExcEv n)

/-- The exception's trace record, of a cluster whose exceptions are traced (R500). -/
def excTraced (s : State) (lt : BitVec 12) (e : Exc) : State :=
  let t := thread s lt
  let n := physOf s (lcluOf lt)
  let u := excTaken s lt e
  if cluTrc u n 2 then traceRec u 4 n t.berth (natLe (excCode e).toNat 1 ++ natLe 0 1 ++ natLe t.pc.toNat 4) else u

/-- An exception is taken and traced, and its cluster's registers hold its code, its berth and its pc (R466). -/
theorem raiseExc_eq (s : State) (lt : BitVec 12) (e : Exc) : raiseExc s lt e =
    { excTraced s lt e with sched := { (excTraced s lt e).sched with
      excReg := tabPut (excTraced s lt e).sched.excReg (physOf s (lcluOf lt))
        ((excCode e).toNat, (thread s lt).berth.toNat, (thread s lt).pc.toNat) } } := rfl

theorem excCounted_frame (s : State) (n : Nat) (e : Exc) : { excCounted s n e with ctrs := s.ctrs } = s := by
  by_cases spent : e = .stepOverrun
  · rw [show excCounted s n e = bump (bump s (cExceptions n)) (cStepOverrun n) from if_pos spent]
    exact (congrArg (fun v : State => { v with ctrs := s.ctrs }) (addCtr_frame (bump s (cExceptions n)) (cStepOverrun n) 1)).trans
      (addCtr_frame s (cExceptions n) 1)
  · rw [show excCounted s n e = bump s (cExceptions n) from if_neg spent]; exact addCtr_frame s (cExceptions n) 1

theorem excTaken_frame (s : State) (lt : BitVec 12) (e : Exc) :
    { excTaken s lt e with threads := s.threads, berths := s.berths, ctrs := s.ctrs, regs := s.regs } = s := by
  have counted := congrArg (fun v : State => { v with threads := s.threads, berths := s.berths, ctrs := s.ctrs, regs := s.regs })
    (excCounted_frame (excFaults s lt e) (physOf s (lcluOf lt)) e)
  exact counted

theorem excTraced_frame (s : State) (lt : BitVec 12) (e : Exc) :
    { excTraced s lt e with
      ctrs := (excTaken s lt e).ctrs, regs := (excTaken s lt e).regs, dbg := (excTaken s lt e).dbg } = excTaken s lt e := by
  by_cases traced : cluTrc (excTaken s lt e) (physOf s (lcluOf lt)) 2 = true
  · rw [show excTraced s lt e = traceRec .. from if_pos traced]; exact traceRec_frame ..
  · rw [show excTraced s lt e = excTaken s lt e from if_neg traced]

/-- An exception changes threads, berths, counters, flags, the cluster's exception registers and the trace only. -/
theorem raiseExc_frame (s : State) (lt : BitVec 12) (e : Exc) :
    { raiseExc s lt e with
      threads := s.threads, berths := s.berths, ctrs := s.ctrs, regs := s.regs, sched := s.sched, dbg := s.dbg } = s := by
  have traced := congrArg (fun v : State =>
    { v with threads := s.threads, berths := s.berths, ctrs := s.ctrs, regs := s.regs, sched := s.sched, dbg := s.dbg })
    (excTraced_frame s lt e)
  have taken := congrArg (fun v : State => { v with sched := s.sched, dbg := s.dbg }) (excTaken_frame s lt e)
  exact traced.trans taken

/-- Everything that the issue of an instruction can answer: nothing happens, an exception, a wait, an instruction whose guard is off, or
the instruction's own effect. -/
theorem issue_cases (s : State) (lt : BitVec 12) (op : Nat) (f : Fields) (checks : Thread → List (Option Exc))
    (block : Thread → Option WaitOn) (act : State → Thread → State) :
    let u := issue s lt op f checks block act
    u = s ∨ (∃ e, u = raiseExc s lt e) ∨ (∃ w, u = hold s lt w) ∨ u = setThread (countIssue s lt) lt (advance (thread s lt)) ∨
      u = act (countIssue s lt) (advance (thread s lt)) := by
  intro u
  simp only [u, issue]
  split
  · exact .inl rfl
  split
  · exact .inr (.inl ⟨_, rfl⟩)
  split
  · exact .inr (.inr (.inl ⟨_, rfl⟩))
  split
  · exact .inr (.inl ⟨_, rfl⟩)
  split
  · exact .inr (.inr (.inr (.inl rfl)))
  split
  · exact .inr (.inl ⟨_, rfl⟩)
  split
  · exact .inr (.inr (.inl ⟨_, rfl⟩))
  · exact .inr (.inr (.inr (.inr rfl)))

end Issue

/-! ## The memories keep their one form (R120, R276, R432) -/

/-- The memories of `u` are in their one form where those of `s` are, and the same commands wait. -/
structure KeepsForm (s u : State) : Prop where
  memories : s.memoriesWf = true → u.memoriesWf = true
  pending : u.pending = s.pending

namespace KeepsForm
variable {s u : State}

theorem trans {t : State} (first : KeepsForm s t) (second : KeepsForm t u) : KeepsForm s u :=
  ⟨fun form => second.memories (first.memories form), second.pending.trans first.pending⟩

theorem of_same (memories : sameMemories s u) (pending : u.pending = s.pending) : KeepsForm s u := by
  obtain ⟨store, pm, ret⟩ := memories
  exact ⟨fun form => by rw [State.memoriesWf, store, pm, ret]; exact form, pending⟩

theorem refl (s : State) : KeepsForm s s := of_same ⟨rfl, rfl, rfl⟩ rfl

theorem setThread (s : State) (lt : BitVec 12) (t : Thread) : KeepsForm s (setThread s lt t) := of_same ⟨rfl, rfl, rfl⟩ rfl

theorem modBerth (s : State) (b : BitVec 12) (g : Berth → Berth) : KeepsForm s (modBerth s b g) := of_same ⟨rfl, rfl, rfl⟩ rfl

/-- Bytes written into a cluster's store. -/
theorem storePut (s : State) (l a : Nat) (bs : List (BitVec 8)) : KeepsForm s (storePut s l a bs) := by
  refine ⟨fun form => ?_, rfl⟩
  simp only [State.memoriesWf, Memory.wf, Bool.and_eq_true] at form ⊢
  obtain ⟨⟨store, pm⟩, ret⟩ := form
  exact ⟨⟨memWf_putBytes _ _ _ store, pm⟩, ret⟩

theorem foldl {α : Type} {g : State → α → State} (each : ∀ s x, KeepsForm s (g s x)) (l : List α) (s : State) :
    KeepsForm s (l.foldl g s) := by
  induction l generalizing s with
  | nil => exact refl s
  | cons x l ih => exact (each s x).trans (ih (g s x))

theorem raiseExc (s : State) (lt : BitVec 12) (e : Exc) : KeepsForm s (raiseExc s lt e) := by
  have frame := raiseExc_frame s lt e
  exact of_same ⟨(congrArg State.store frame :), (congrArg State.pm frame :), (congrArg State.ret frame :)⟩
    (congrArg State.pending frame :)

/-- An instruction keeps the form where its own effect does. -/
theorem issue {act : State → Thread → State} (acts : ∀ s t, KeepsForm s (act s t)) (s : State) (lt : BitVec 12) (op : Nat) (f : Fields)
    (checks : Thread → List (Option Exc)) (block : Thread → Option WaitOn) : KeepsForm s (issue s lt op f checks block act) := by
  have counted : KeepsForm s (countIssue s lt) := of_same ⟨rfl, rfl, rfl⟩ rfl
  rcases issue_cases s lt op f checks block act with idle | ⟨e, raised⟩ | ⟨w, held⟩ | off | acted
  · rw [idle]; exact refl s
  · rw [raised]; exact raiseExc s lt e
  · rw [held]; exact setThread s lt _
  · rw [off]; exact counted.trans (setThread _ lt _)
  · rw [acted]; exact counted.trans (acts _ _)

/-! ### The instructions (R154–R171) -/

section Instructions
variable (s : State) (lt : BitVec 12) (op : Nat) (f : Fields) (checks : Thread → List (Option Exc))

theorem issueReg (g : Thread → Thread) : KeepsForm s (issueReg s lt op f g) := issue (fun s _ => setThread s lt _) ..

theorem enqueue (t : Thread) (eng : Nat) : KeepsForm s (enqueue s lt t eng op f) := of_same ⟨rfl, rfl, rfl⟩ rfl

theorem issueCmd (eng : Nat) : KeepsForm s (issueCmd s lt eng op f checks) := issue (fun s t => enqueue s lt op f t eng) ..

/-- A draw takes the next ordinal of its berth (R211). -/
theorem issueDraw : KeepsForm s (issueDraw s lt op f checks) :=
  issue (fun s t => (enqueue s lt op f t 3).trans (modBerth ..)) ..

theorem issueMover {note : State → Thread → Cmd → Cmd} {more : State → Thread → State} (rest : ∀ s t, KeepsForm s (more s t)) :
    KeepsForm s (issueMover s lt op f checks note more) :=
  issue (fun s t => (of_same ⟨rfl, rfl, rfl⟩ rfl : KeepsForm s (Machine.setThread (setQueue s (lcluOf lt) 5 _) lt _)).trans (rest _ t)) ..

/-- A load writes its thread and notes its bytes for its client (R260). -/
theorem loaded (t : Thread) (c : BitVec 10) (n : Nat) : KeepsForm s (storeMoved (Machine.setThread s lt t) c n) :=
  of_same ⟨rfl, rfl, rfl⟩ rfl

theorem execLd (ecc : Nat) : ∃ u, execLd lt f ecc s = .next u ∧ KeepsForm s u := by
  refine ⟨_, rfl, issue (fun s t => ?_) ..⟩
  extract_lets v r n s1
  have counted : KeepsForm s s1 := by
    unfold s1
    split
    · exact refl s
    · exact of_same ⟨rfl, rfl, rfl⟩ rfl
  exact counted.trans (loaded s1 lt _ _ _)

/-- A store writes its bytes and notes them for its client (R260). -/
theorem stored (t : Thread) (a n : Nat) (bs : List (BitVec 8)) (c : BitVec 10) :
    KeepsForm s (storeMoved (Machine.storePut (Machine.setThread s lt t) (lcluOf lt) a bs) c n) :=
  ((setThread s lt t).trans (storePut _ _ a bs)).trans (of_same ⟨rfl, rfl, rfl⟩ rfl)

/-- FSIG adds to its counter in the store, and the threads that wait on it are woken (R170). -/
theorem signalled (t : Thread) (l a : Nat) (bs : List (BitVec 8)) :
    KeepsForm s (wake (Machine.storePut (Machine.setThread s lt t) l a bs) l) :=
  ((setThread s lt t).trans (storePut _ l a bs)).trans (of_same ⟨rfl, rfl, rfl⟩ rfl)

theorem endStep (t : Thread) (last : Bool) : KeepsForm s (endStep s lt t last) := (setThread s lt _).trans (modBerth ..)

theorem modTile (k : Nat) (g : Tile → Tile) : KeepsForm s (modTile s k g) := of_same ⟨rfl, rfl, rfl⟩ rfl

theorem execArr : ∃ u, execArr lt f s = .next u ∧ KeepsForm s u := by
  refine ⟨_, rfl, issue (fun s t => ?_) ..⟩
  have pushed (seq : Nat) (h : AH) : KeepsForm s (pushProducts s lt f seq h) := foldl (fun s _ => modTile s _ _) _ s
  exact ((pushed _ _).trans (setThread _ lt _)).trans (modBerth ..)

theorem execAprog : ∃ u, execAprog lt f s = .next u ∧ KeepsForm s u := by
  refine ⟨_, rfl, issue (fun s t => ?_) ..⟩
  exact (foldl (fun s _ => modTile s _ _) _ s).trans (of_same ⟨rfl, rfl, rfl⟩ rfl)

/-- A corrected sector of package memory is counted, and a copy of its row may start (R279). -/
theorem pmCorrected (a row : Nat) : KeepsForm s (pmCorrected s a row) := by
  obtain ⟨memories, -, -⟩ := pmCorrected_counts s a row
  exact of_same memories (congrArg State.pending (countPm_frame (bump { s with mem := _ } _) true _ 32) :)

theorem pmCorrectedAll (ecc : List (Nat × Nat)) : KeepsForm s (ecc.foldl (fun s e => Machine.pmCorrected s e.1 e.2) s) := by
  have each (s : State) (e : Nat × Nat) : KeepsForm s (Machine.pmCorrected s e.1 e.2) := pmCorrected s e.1 e.2
  exact foldl each ecc s

/-- An MGATH's place among the live streams (R288). -/
theorem nameStream (l : Nat) (c : Cmd) : KeepsForm s (nameStream s l c) := by
  have set (v : List Stream) : KeepsForm s (setStreams s l v) := of_same ⟨rfl, rfl, rfl⟩ rfl
  have counted (s : State) (i : Nat) : KeepsForm s (bump s i) := of_same ⟨rfl, rfl, rfl⟩ rfl
  unfold Machine.nameStream
  extract_lets n live b a d next restarted own
  clear_value own
  split
  · split
    · exact set _
    · exact (set _).trans (counted _ _)
  · split
    · split
      · exact set _
      · exact refl s
    · split
      · exact set _
      · exact counted s _

end Instructions

/-- Every cluster instruction completes, and keeps the form of the memories and the commands that wait.  The cases stand in the order of
the opcodes of R148. -/
theorem exec_spelled {i : Instr} (spelled : (spelling i).isSome = true) (s : State) : ∃ u, exec i s = .next u ∧ KeepsForm s u := by
  unfold spelling at spelled
  split at spelled
  case h_72 => cases spelled
  case h_1 | h_2 | h_3 | h_4 | h_5 | h_6 | h_7 | h_8 | h_9 | h_10 | h_11 | h_12 => exact ⟨_, rfl, issueReg ..⟩
  case h_13 | h_14 | h_15 | h_16 | h_17 => exact ⟨_, rfl, issueReg ..⟩
  case h_18 => exact execLd ..
  case h_19 => exact ⟨_, rfl, issue (fun s _ => stored s _ _ _ _ _ _) ..⟩
  case h_20 | h_21 => exact ⟨_, rfl, issueReg ..⟩
  case h_22 => exact ⟨_, rfl, issue (fun s _ => setThread s _ _) ..⟩
  case h_23 | h_24 => exact ⟨_, rfl, issueReg ..⟩
  case h_25 => exact ⟨_, rfl, issue (fun s _ => loaded s _ _ _ _) ..⟩
  case h_26 => exact ⟨_, rfl, issue (fun s _ => stored s _ _ _ _ _ _) ..⟩
  case h_27 => exact ⟨_, rfl, issueReg ..⟩
  case h_28 | h_29 | h_31 => exact ⟨_, rfl, issue (fun s _ => setThread s _ _) ..⟩
  case h_30 => exact ⟨_, rfl, issue (fun s _ => signalled s _ _ _ _ _) ..⟩
  case h_32 => exact execArr ..
  case h_33 => exact execAprog ..
  case h_34 | h_35 | h_36 | h_37 | h_38 | h_39 | h_40 | h_41 | h_42 | h_43 | h_44 => exact ⟨_, rfl, issueCmd ..⟩
  case h_45 | h_46 | h_47 | h_48 | h_49 | h_50 | h_51 | h_52 | h_53 | h_54 | h_55 => exact ⟨_, rfl, issueCmd ..⟩
  case h_56 | h_57 | h_58 | h_60 | h_62 => exact ⟨_, rfl, issueCmd ..⟩
  case h_59 | h_61 => exact ⟨_, rfl, issueDraw ..⟩
  case h_63 => exact ⟨_, rfl, issueMover (rest := fun s _ => pmCorrectedAll s _) ..⟩
  case h_64 | h_66 => exact ⟨_, rfl, issueMover (rest := fun s _ => refl s) ..⟩
  case h_65 => exact ⟨_, rfl, issueMover (rest := fun s _ => nameStream s _ _) ..⟩
  case h_67 | h_68 => exact ⟨_, rfl, issueMover (rest := fun s _ => modBerth s _ _) ..⟩
  case h_69 | h_70 => exact ⟨_, rfl, issue (fun s t => endStep s _ t _) ..⟩
  case h_71 => exact ⟨_, rfl, issue (fun s _ => setThread s _ _) ..⟩

end KeepsForm

/-- Settles O58: each cluster instruction completes and keeps the form, and its step takes it from the front of the queue. -/
theorem instructionStepsKeepMemories : Obligations.InstructionStepsKeepMemories := by
  unfold Obligations.InstructionStepsKeepMemories
  intro s u i rest queued spelled form stepped
  obtain ⟨v, ran, kept⟩ := KeepsForm.exec_spelled spelled { s with pending := rest }
  have steps : step s = exec i { s with pending := rest } := by rw [step, queued]
  rw [steps, ran, Host.Outcome.next.injEq] at stepped
  subst stepped
  exact ⟨kept.memories form, kept.pending⟩

/-! ## An exception (R139, R140, R144, R150) -/

section Exception
variable (s : State) (lt : BitVec 12) (e : Exc)

theorem excTaken_threads : (excTaken s lt e).threads = (setThread s lt (faultedThread (thread s lt) e)).threads :=
  (congrArg State.threads (excCounted_frame (excFaults s lt e) (physOf s (lcluOf lt)) e) :)

theorem excTaken_berths : (excTaken s lt e).berths = (modBerth s (thread s lt).berth (withdrawnBerth (thread s lt) e)).berths :=
  (congrArg State.berths (excCounted_frame (excFaults s lt e) (physOf s (lcluOf lt)) e) :)

/-- The flag of an exception does not lie in the register of its cluster's trace. -/
theorem cluTrc_excTaken (bit : Nat) :
    cluTrc (excTaken s lt e) (physOf s (lcluOf lt)) bit = cluTrc s (physOf s (lcluOf lt)) bit := by
  generalize at_ : physOf s (lcluOf lt) = n
  have regs : (excCounted (excFaults s lt e) n e).regs = s.regs := (congrArg State.regs (excCounted_frame (excFaults s lt e) n e) :)
  have apart : cluOff n + 4 ≠ (fExcEv n).off := by simp [fExcEv]
  have word : regWord (excTaken s lt e) (cluOff n + 4) = regWord s (cluOff n + 4) := by
    rw [excTaken, at_, regWord_setFlag_other _ _ apart, regWord, regs, regWord]
  unfold cluTrc regField
  rw [word]

/-- With the cluster's exceptions not traced, an exception is taken and its cluster's registers hold it. -/
theorem raiseExc_untraced (untraced : cluTrc s (physOf s (lcluOf lt)) 2 = false) : raiseExc s lt e =
    { excTaken s lt e with sched := { s.sched with
      excReg := tabPut s.sched.excReg (physOf s (lcluOf lt)) ((excCode e).toNat, (thread s lt).berth.toNat, (thread s lt).pc.toNat) } } := by
  have off : ¬ cluTrc (excTaken s lt e) (physOf s (lcluOf lt)) 2 = true := by simp [cluTrc_excTaken, untraced]
  have sched : (excTaken s lt e).sched = s.sched := (congrArg State.sched (excTaken_frame s lt e) :)
  rw [raiseExc_eq, show excTraced s lt e = excTaken s lt e from if_neg off, sched]

theorem ctr_excTaken : ctr (excTaken s lt e) (cExceptions (physOf s (lcluOf lt))) =
    ctr s (cExceptions (physOf s (lcluOf lt))) + 1 := by
  generalize at_ : physOf s (lcluOf lt) = n
  have notFlag : cExceptions n ≠ (fExcEv n).ctr := by simp only [cExceptions, cluCtr, fExcEv, flagCtr]; omega
  have notOverrun : cExceptions n ≠ cStepOverrun n := by simp only [cExceptions, cStepOverrun, cluCtr]; omega
  have counted : ctr (excCounted (excFaults s lt e) n e) (cExceptions n) = ctr (excFaults s lt e) (cExceptions n) + 1 := by
    by_cases spent : e = .stepOverrun
    · rw [show excCounted _ n e = bump (bump _ (cExceptions n)) (cStepOverrun n) from if_pos spent, ctr_bump_other _ _ _ notOverrun,
        ctr_bump_same]
    · rw [show excCounted _ n e = bump _ (cExceptions n) from if_neg spent, ctr_bump_same]
  rw [excTaken, at_, ctr_setFlag, if_neg notFlag, counted]
  rfl

end Exception

/-- Settles O8: an exception with no trace is the fault of its thread and its berth, two counts, a flag and the cluster's registers. -/
theorem exceptionEffect : Obligations.ExceptionEffect := by
  unfold Obligations.ExceptionEffect
  intro s lt e untraced t n u
  have frame := raiseExc_frame s lt e
  have taken : u = _ := raiseExc_untraced s lt e untraced
  have threads : u.threads = (setThread s lt (faultedThread t e)).threads := by rw [taken]; exact excTaken_threads s lt e
  have berths : u.berths = (modBerth s t.berth (withdrawnBerth t e)).berths := by rw [taken]; exact excTaken_berths s lt e
  refine ⟨?_, fun k other => ?_, ?_, fun k other => ?_, ?_, ?_, ?_,
    ⟨(congrArg State.store frame :), (congrArg State.pm frame :), (congrArg State.ret frame :)⟩⟩
  · rw [thread, threads]; exact thread_setThread_same s lt (faultedThread t e)
  · rw [thread, threads]; exact thread_setThread_other s lt k (faultedThread t e) other
  · rw [berth, berths]; exact berth_modBerth_same s t.berth (withdrawnBerth t e)
  · rw [berth, berths]; exact berth_modBerth_other s t.berth k (withdrawnBerth t e) other
  · rw [taken]; exact ctr_excTaken s lt e
  · rw [taken]; exact flagOn_setFlag_same _ (fExcEv n) (by simp [fExcEv])
  · rw [taken]; exact tabGet_put_same ..

/-! ## Commands enter the engines' queues (R126, R127, R149) -/

section Enter
variable {s : State} {lt : BitVec 12} {eng op : Nat} {f : Fields} {c : Cmd} {checks : Thread → List (Option Exc)}

/-- The state in which command `c` of an issued instruction has entered its queue: the instruction is counted, the command stands last,
and the thread has its marks and one more command outstanding. -/
def enteredAs (s : State) (lt : BitVec 12) (eng op : Nat) (f : Fields) (c : Cmd) : State :=
  setThread (setQueue (countIssue s lt) (lcluOf lt) eng (queue s (lcluOf lt) eng ++ [c])) lt
    (unmarkZero (markCmd (addOutst (advance (thread s lt)) eng) op f true))

theorem entered_enteredAs : entered s (enteredAs s lt eng op f c) lt eng op f c := by
  refine ⟨queue_setQueue_same .., fun l e other => queue_setQueue_other _ _ _ l e _ other, thread_setThread_same .., fun k other => ?_⟩
  exact thread_setThread_other _ lt k _ other

theorem countsOne_enteredAs : countsOne s (enteredAs s lt eng op f c) (cIssued (physOf s (lcluOf lt))) := fun k =>
  ctr_bump s (cIssued (physOf s (lcluOf lt))) k

theorem frameQueues_enteredAs : frameQueues s (enteredAs s lt eng op f c) := by
  have counted := congrArg (fun v : State => { v with threads := s.threads, queues := s.queues })
    (addCtr_frame s (cIssued (physOf s (lcluOf lt))) 1)
  exact counted

/-- What `entered` says is read from the queues and the threads alone. -/
theorem entered_of_same {u v : State} (queues : v.queues = u.queues) (threads : v.threads = u.threads) (h : entered s u lt eng op f c) :
    entered s v lt eng op f c := by
  simp only [entered, onlyThread, queue, thread, queues, threads] at h ⊢
  exact h

/-- A change of one berth is not among what `frameQueues` allows, and nothing else about it is. -/
theorem frameQueues_modBerth {u : State} (b : BitVec 12) (g : Berth → Berth) (h : frameQueues s u) :
    frameQueues s { modBerth u b g with berths := s.berths } := by
  have framed := congrArg (fun v : State => { v with berths := s.berths }) h
  exact framed

/-- An instruction of an engine that does nothing else enters its queue, and changes nothing but that. -/
theorem issuesAs_of_entered {i : Instr} {own : List (Option Exc)}
    (enters : canIssue s lt op f = true → queueFull s (lcluOf lt) eng = false → firstExc own = none →
      exec i s = .next (enteredAs s lt eng op f c)) : issuesAs s lt eng f i op own c := fun issued room passed =>
  ⟨_, enters issued room passed, entered_enteredAs, countsOne_enteredAs, frameQueues_enteredAs⟩

/-- A command's operands are those of the state before its issue was counted. -/
theorem issueCmd_enters (issued : canIssue s lt op f = true) (room : queueFull s (lcluOf lt) eng = false)
    (passed : firstExc (checks (thread s lt)) = none) :
    issueCmd s lt eng op f checks = enteredAs s lt eng op f (mkCmd s lt (advance (thread s lt)) op f) :=
  issue_acts s lt op f checks _ _ issued passed (if_neg (by rw [room]; decide))

theorem issueMover_enters {note : State → Thread → Cmd → Cmd} {more : State → Thread → State} (issued : canIssue s lt op f = true)
    (room : queueFull s (lcluOf lt) 5 = false) (passed : firstExc (checks (thread s lt)) = none) :
    issueMover s lt op f checks note more = more (enteredAs s lt 5 op f
      (note (countIssue s lt) (advance (thread s lt)) (mkCmd s lt (advance (thread s lt)) op f))) (advance (thread s lt)) :=
  issue_acts s lt op f checks _ _ issued passed (if_neg (by rw [room]; decide))

/-- The berth's substream after a draw has taken its ordinal (R211). -/
def drawTaken (b : Berth) : Berth := { b with sub := { b.sub with ord := b.sub.ord + 1 } }

theorem issueDraw_enters (issued : canIssue s lt op f = true) (room : queueFull s (lcluOf lt) 3 = false)
    (passed : firstExc (checks (thread s lt)) = none) : issueDraw s lt op f checks =
      modBerth (enteredAs s lt 3 op f (mkCmd s lt (advance (thread s lt)) op f)) (thread s lt).berth drawTaken :=
  issue_acts s lt op f checks _ _ issued passed (if_neg (by rw [room]; decide))

/-- A vector, recurrence, sampler or convolution command with no other effect. -/
theorem issuesTo_of_issueCmd {i : Instr} (runs : exec i s = .next (issueCmd s lt eng op f checks)) :
    issuesTo s lt eng f i op (checks (thread s lt)) :=
  issuesAs_of_entered fun issued room passed => runs.trans (congrArg _ (issueCmd_enters issued room passed))

/-- A mover command with no other effect, as it was noted. -/
theorem issuesAs_of_issueMover {i : Instr} {note : State → Thread → Cmd → Cmd} {more : State → Thread → State}
    (runs : exec i s = .next (issueMover s lt op f checks note more)) (nothing : ∀ u t, more u t = u) :
    issuesAs s lt 5 f i op (checks (thread s lt))
      (note (countIssue s lt) (advance (thread s lt)) (mkCmd s lt (advance (thread s lt)) op f)) :=
  issuesAs_of_entered fun issued room passed =>
    runs.trans (congrArg _ ((issueMover_enters issued room passed).trans (nothing _ _)))

/-- A command that enters its queue while its berth notes it changes that berth and what every command changes. -/
theorem entered_modBerth {e : State} (b : BitVec 12) (g : Berth → Berth) (enters : entered s e lt eng op f c) (frame : frameQueues s e) :
    let u := modBerth e b g
    entered s u lt eng op f c ∧ onlyBerth s u b ∧ berth u b = g (berth s b) ∧ frameQueues s { u with berths := s.berths } := by
  have berths : e.berths = s.berths := (congrArg State.berths frame :)
  have kept (k : BitVec 12) : berth e k = berth s k := by rw [berth, berths, berth]
  exact ⟨entered_of_same rfl rfl enters, fun k other => (berth_modBerth_other e b k g other).trans (kept k),
    (berth_modBerth_same e b g).trans (congrArg g (kept b)), frameQueues_modBerth b g frame⟩

end Enter

/-- Settles O11: each of the 22 vector instructions is a command for queue 1 with no other effect. -/
theorem vectorCommandsEnter : Obligations.VectorCommandsEnter := by
  unfold Obligations.VectorCommandsEnter
  intro s lt f t go
  have vector {i : Instr} {op : Nat} {checks : Thread → List (Option Exc)} (runs : exec i s = .next (issueCmd s lt 1 op f checks)) :
      go i op (checks t) := issuesTo_of_issueCmd runs
  exact ⟨vector rfl, vector rfl, vector rfl, vector rfl, vector rfl, vector rfl, vector rfl, vector rfl, vector rfl, vector rfl,
    vector rfl, vector rfl, vector rfl, vector rfl, vector rfl, vector rfl, vector rfl, vector rfl, vector rfl, vector rfl,
    vector rfl, vector rfl⟩

/-- Settles O12: commands with no other effect, two draws that take their berth's ordinal, and MFRAME and MEMIT that their berth notes. -/
theorem engineCommandsEnter : Obligations.EngineCommandsEnter := by
  unfold Obligations.EngineCommandsEnter
  intro s lt f t b c
  have draws {i : Instr} {op : Nat} {checks : Thread → List (Option Exc)} (runs : exec i s = .next (issueDraw s lt op f checks))
      (issued : canIssue s lt op f = true) (room : queueFull s (lcluOf lt) 3 = false) (passed : firstExc (checks t) = none) :
      exec i s = .next (modBerth (enteredAs s lt 3 op f (c op)) b drawTaken) :=
    runs.trans (congrArg _ (issueDraw_enters issued room passed))
  refine ⟨issuesTo_of_issueCmd rfl, issuesTo_of_issueCmd rfl, issuesTo_of_issueCmd rfl, issuesTo_of_issueCmd rfl,
    issuesTo_of_issueCmd rfl, issuesAs_of_issueMover (note := noteAddr lt f) (more := fun u _ => u) rfl (fun _ _ => rfl),
    issuesAs_of_issueMover (note := noteAddr lt f) (more := noMore) rfl (fun _ _ => rfl),
    issuesAs_of_issueMover (note := noNote) (more := noMore) rfl (fun _ _ => rfl), fun issued room passed => ?_, fun issued room passed => ?_,
    fun issued room passed => ?_, fun issued room passed => ?_⟩
  · exact ⟨_, draws rfl issued room passed, entered_modBerth b drawTaken entered_enteredAs frameQueues_enteredAs⟩
  · exact ⟨_, draws rfl issued room passed, entered_modBerth b drawTaken entered_enteredAs frameQueues_enteredAs⟩
  · exact ⟨_, congrArg Host.Outcome.next (issueMover_enters issued room passed), entered_modBerth b _ entered_enteredAs frameQueues_enteredAs⟩
  · exact ⟨_, congrArg Host.Outcome.next (issueMover_enters issued room passed), entered_modBerth b _ entered_enteredAs frameQueues_enteredAs⟩

/-! ## The head of an engine's queue completes (R127) -/

/-- A completion as its parts show it: beside the command's own work, threads and activity only. -/
theorem completeHead_parts {s : State} {l eng : Nat} {c : Cmd} {q : List Cmd} (head : queue s l eng = c :: q)
    (run : State → Cmd → State) :
    let u := completeHead s l eng run
    let w := run (setQueue s l eng q) c
    u.queues = w.queues ∧ u.ctrs = w.ctrs ∧ u.berths = w.berths ∧ sameMemories w u := by
  intro u w
  obtain ⟨ts, left⟩ := retireCmd_threads (storeMoved w c.client (cmdStoreBytes c)) l eng c
  have done : u = { storeMoved w c.client (cmdStoreBytes c) with threads := ts } := (completeHead_cons head run).trans left
  rw [done]
  exact ⟨rfl, rfl, rfl, rfl, rfl, rfl⟩

/-- The command has left its queue where its work leaves the queues. -/
theorem queue_completeHead {s : State} {l eng : Nat} {c : Cmd} {q : List Cmd} {run : State → Cmd → State}
    (head : queue s l eng = c :: q) (kept : (run (setQueue s l eng q) c).queues = (setQueue s l eng q).queues) :
    queue (completeHead s l eng run) l eng = q := by
  obtain ⟨queues, -⟩ := completeHead_parts head run
  rw [queue, queues, kept]
  exact queue_setQueue_same s l eng q

/-! ### What an engine's work leaves (R127, R202, R242) -/

/-- The work leaves the queues, the repair map and the counter of index `i`. -/
structure WorkFrame (i : Nat) (s u : State) : Prop where
  queues : u.queues = s.queues
  map : u.map = s.map
  counter : ctr u i = ctr s i

/-- The work leaves package memory and the retained SRAM too. -/
structure StoreWork (i : Nat) (s u : State) : Prop extends WorkFrame i s u where
  pm : u.pm = s.pm
  ret : u.ret = s.ret

namespace WorkFrame
variable {i : Nat} {s u : State}

theorem refl (s : State) : WorkFrame i s s := ⟨rfl, rfl, rfl⟩

theorem trans {t : State} (first : WorkFrame i s t) (second : WorkFrame i t u) : WorkFrame i s u :=
  ⟨second.queues.trans first.queues, second.map.trans first.map, second.counter.trans first.counter⟩

theorem of_ctrs (queues : u.queues = s.queues) (map : u.map = s.map) (ctrs : u.ctrs = s.ctrs) : WorkFrame i s u :=
  ⟨queues, map, by rw [ctr, ctrs, ctr]⟩

theorem foldl {α : Type} {g : State → α → State} (each : ∀ s x, WorkFrame i s (g s x)) (l : List α) (s : State) :
    WorkFrame i s (l.foldl g s) := by
  induction l generalizing s with
  | nil => exact refl s
  | cons x l ih => exact (each s x).trans (ih (g s x))

/-- A fold over a state with something beside it. -/
theorem foldl_fst {α β : Type} {g : State × β → α → State × β} (each : ∀ a x, WorkFrame i a.1 (g a x).1) (l : List α) (a : State × β) :
    WorkFrame i a.1 (l.foldl g a).1 := by
  induction l generalizing a with
  | nil => exact refl a.1
  | cons x l ih => exact (each a x).trans (ih (g a x))

end WorkFrame

namespace StoreWork
variable {i : Nat} {s u : State}

theorem refl (s : State) : StoreWork i s s := ⟨.refl s, rfl, rfl⟩

theorem trans {t : State} (first : StoreWork i s t) (second : StoreWork i t u) : StoreWork i s u :=
  ⟨first.toWorkFrame.trans second.toWorkFrame, second.pm.trans first.pm, second.ret.trans first.ret⟩

section
variable (s : State)

theorem addCtr {j : Nat} (n : Nat) (other : i ≠ j) : StoreWork i s (addCtr s j n) :=
  ⟨⟨rfl, rfl, ctr_addCtr_other s j n i other⟩, rfl, rfl⟩

/-- A count at another place of a cluster's set (R489). -/
theorem addClu (n m : Nat) {j k : Nat} (x : Nat) (inSet : j < 64) (inSet' : k < 64) (other : j ≠ k) :
    StoreWork (cluCtr n j) s (Machine.addCtr s (cluCtr m k) x) := addCtr s x (cluCtr_ne n m inSet inSet' other)

theorem setStore (m : List (Nat × BitVec 8)) : StoreWork i s { s with store := m } := ⟨.of_ctrs rfl rfl rfl, rfl, rfl⟩

theorem setBerth (b : BitVec 12) (v : Berth) : StoreWork i s (setBerth s b v) := ⟨.of_ctrs rfl rfl rfl, rfl, rfl⟩

theorem useFree : StoreWork i s (useFree s) := ⟨.of_ctrs rfl rfl rfl, rfl, rfl⟩

theorem setTile (k : Nat) (t : Tile) : StoreWork i s (setTile s k t) := ⟨.of_ctrs rfl rfl rfl, rfl, rfl⟩

/-! ### RSTEP (R180–R182) -/

theorem placeSeed (c : Cmd) (blk len off : Nat) (seed : List (BitVec 8)) : StoreWork i s (placeSeed s c blk len off seed) := by
  unfold Machine.placeSeed
  extract_lets v o s1
  have marked : StoreWork i s s1 := setBerth s _ _
  split
  · exact refl s
  · split
    · exact marked.trans (setStore s1 _)
    · exact marked

theorem rSeed (c : Cmd) (r : RL) : StoreWork i s (rSeed s c r) := by
  unfold Machine.rSeed
  split
  · exact refl s
  · exact placeSeed s c _ _ _ _

/-- The stored state counts what it clips and its NaNs, and no command. -/
theorem rStore (n l : Nat) (r : RL) (d : VH) (step : Nat) (xs : List Fl) : StoreWork (cRstepCmds n) s (rStore s l r d step xs) := by
  unfold Machine.rStore
  extract_lets base ws blk groups mx sigma epsAt qs s1 s2 byte head codes hc phase tail
  have counted : StoreWork (cRstepCmds n) s s2 := (setStore s _).trans
    ((addClu s1 n (physOf s l) _ (k := 33) (by decide) (by decide) (by decide)).trans
      (addClu _ n (physOf s l) _ (k := 5) (by decide) (by decide) (by decide)))
  split
  · exact setStore s _
  · split
    · exact counted.trans (setStore s2 _)
    · exact counted.trans (setStore s2 _)

end

end StoreWork

/-- RSTEP's work counts the command beside what it writes to its cluster's store. -/
theorem runRstep_works (s : State) (c : Cmd) :
    let u := runRstep s c
    let n := physOf s (lcluOf c.lt)
    u.queues = s.queues ∧ ctr u (cRstepCmds n) = ctr s (cRstepCmds n) + 1 ∧ u.pm = s.pm ∧ u.ret = s.ret := by
  intro u n
  have seeded : StoreWork (cRstepCmds n) s (rSeed s c (rlAt s (lcluOf c.lt) c.sy.toNat)) := .rSeed s c _
  simp only [u, runRstep]
  generalize rSeed s c (rlAt s (lcluOf c.lt) c.sy.toNat) = s0 at seeded
  have serves : physOf s0 (lcluOf c.lt) = n := by rw [physOf, seeded.map]; rfl
  unfold rstepWork
  extract_lets l r d z x us y zs els s1 s2
  have stored : StoreWork (cRstepCmds n) s0 s2 := (StoreWork.rStore s0 n l r d c.step els).trans (.setStore s1 _)
  have worked := seeded.trans stored
  rw [serves]
  exact ⟨worked.queues, (ctr_bump_same s2 _).trans (congrArg (· + 1) worked.counter), worked.pm, worked.ret⟩

/-! ### CONV (R224–R242) -/

section Blocks
variable (k : CvRun) (l : Nat) (es : List (Nat × Nat)) (codes : List Nat) (eps : Nat) (za : Int) (b : Nat) (bs : List Nat) (a : List Int)

/-- The product of row block b on its part of the window's codes. -/
abbrev blockProduct : CvRun × List Int := cvProduct k l ((es[b]?).getD (0, 0)) ((codes.drop (512 * b)).take 512) eps za

/-- A product added to the sums of the row blocks before it. -/
abbrev blockSum (p : CvRun × List Int) : CvRun × List Int := cvAdd p.1 (physOf k.st l) a p.2

/-- The first row block starts the sums.  (The unfolding stays at reducible terms: the products themselves are large.) -/
theorem cvBlocks_cons_none : cvBlocks k l es codes eps za (b :: bs) none =
    cvBlocks (blockProduct k l es codes eps za b).1 l es codes eps za bs (some (blockProduct k l es codes eps za b).2) := by
  delta cvBlocks
  with_reducible rfl

/-- A later row block adds to them. -/
theorem cvBlocks_cons_some : cvBlocks k l es codes eps za (b :: bs) (some a) =
    cvBlocks (blockSum k l a (blockProduct k l es codes eps za b)).1 l es codes eps za bs
      (some (blockSum k l a (blockProduct k l es codes eps za b)).2) := by
  delta cvBlocks
  with_reducible rfl

end Blocks

namespace WorkFrame

section
variable {n : Nat} (cluster : n < 18) (s : State)

/-- A count at another place of a cluster's set. -/
theorem addClu (m : Nat) {j : Nat} (x : Nat) (inSet : j < 64) (other : 41 ≠ j) : WorkFrame (cCvCmds n) s (addCtr s (cluCtr m j) x) :=
  (StoreWork.addClu s n m x (by decide) inSet other).toWorkFrame

include cluster

theorem addTile (m t k x : Nat) : WorkFrame (cCvCmds n) s (addCtr s (tileCtr m t k) x) :=
  (StoreWork.addCtr s x (by unfold cCvCmds cluCtr tileCtr; omega)).toWorkFrame

theorem countPm (wr : Bool) (a len : Nat) : WorkFrame (cCvCmds n) s (countPm s wr a len) := by
  have frame := countPm_frame s wr a len
  exact ⟨(congrArg State.queues frame :), (congrArg State.map frame :), ctr_countPm (by unfold cCvCmds cluCtr; omega) wr a len⟩

theorem movePm (m : Nat) (c : BitVec 10) (wr : Bool) (a len : Nat) : WorkFrame (cCvCmds n) s (movePm s m c wr a len) := by
  unfold Machine.movePm
  extract_lets s1 own s2
  have counted : WorkFrame (cCvCmds n) s s1 := countPm cluster s wr a len
  have bridged : WorkFrame (cCvCmds n) s1 s2 := by
    unfold s2
    split
    · exact refl s1
    · refine (StoreWork.addCtr s1 len ?_).toWorkFrame
      unfold cCvCmds cluCtr memCtr
      split <;> omega
  exact (counted.trans bridged).trans (of_ctrs rfl rfl rfl)

/-! #### Products of the front end -/

theorem countConverted (m t convs : Nat) (r : Converted) : WorkFrame (cCvCmds n) s (countConverted s m t convs r) := by
  unfold Machine.countConverted
  extract_lets s1 s2 s3 s4
  have tiles : WorkFrame (cCvCmds n) s s3 := ((addTile cluster s m t 1 _).trans (addTile cluster s1 m t 2 _)).trans (addTile cluster s2 m t 3 _)
  exact (tiles.trans (addClu s3 m _ (j := 1) (by decide) (by decide))).trans (addClu s4 m _ (j := 4) (by decide) (by decide))

variable (k : CvRun) (l : Nat)

theorem cvProduct (e : Nat × Nat) (codes : List Nat) (eps : Nat) (za : Int) :
    WorkFrame (cCvCmds n) k.st (cvProduct k l e codes eps za).1.st := by
  unfold Machine.cvProduct
  extract_lets s m tn t lr bs product a row t1 r s1 s2
  have met : WorkFrame (cCvCmds n) s s1 := ((StoreWork.setTile s _ t1).toWorkFrame.trans (countConverted cluster _ m tn _ r)).trans
    (StoreWork.useFree _).toWorkFrame
  exact (met.trans (addTile cluster s1 m tn 0 1)).trans (addClu _ m 1 (j := 42) (by decide) (by decide))

omit cluster in
theorem cvAdd (m : Nat) (a b : List Int) : WorkFrame (cCvCmds n) k.st (cvAdd k m a b).1.st :=
  addClu k.st m _ (j := 43) (by decide) (by decide)

theorem cvBlocks (es : List (Nat × Nat)) (codes : List Nat) (eps : Nat) (za : Int) (bs : List Nat) (acc : Option (List Int)) :
    WorkFrame (cCvCmds n) k.st (cvBlocks k l es codes eps za bs acc).1.st := by
  induction bs generalizing k acc with
  | nil => exact refl k.st
  | cons b bs ih =>
    have product : WorkFrame (cCvCmds n) k.st (blockProduct k l es codes eps za b).1.st := cvProduct cluster k l _ _ eps za
    cases acc with
    | none => rw [cvBlocks_cons_none]; exact product.trans (ih _ _)
    | some a => rw [cvBlocks_cons_some]; exact (product.trans (cvAdd _ _ a _)).trans (ih _ _)

omit cluster in
theorem winoA (m i : Nat) (a b c e : List Int) : WorkFrame (cCvCmds n) k.st (winoA k m i a b c e).1.st := by
  unfold Machine.winoA
  extract_lets neg p q
  split
  · exact (cvAdd k m a b).trans (cvAdd p.1 m p.2 c)
  · exact (cvAdd k m b (neg c)).trans (cvAdd q.1 m q.2 (neg e))

theorem winoProducts (es : List (Nat × Nat)) (vecs : List (List Nat)) (eps : Nat) (js : List Nat) :
    WorkFrame (cCvCmds n) k.st (winoProducts k l es vecs eps js).1.st := by
  induction js generalizing k with
  | nil => exact refl k.st
  | cons j js ih => rw [Machine.winoProducts]; exact (cvProduct cluster k l _ _ eps 0).trans (ih _)

omit cluster in
theorem cvEach {g : CvRun → Nat → CvRun × List Int} (each : ∀ k j, WorkFrame (cCvCmds n) k.st (g k j).1.st) (js : List Nat) :
    WorkFrame (cCvCmds n) k.st (cvEach g k js).1.st := by
  induction js generalizing k with
  | nil => exact refl k.st
  | cons j js ih => exact (each k j).trans (ih _)

theorem winoTile (d : CD) (rd : Nat → Nat → Nat → Nat) (sgn int8 : Bool) (eps ot of : Nat) :
    WorkFrame (cCvCmds n) k.st (winoTile k l d rd sgn int8 eps ot of).1.st := by
  unfold Machine.winoTile
  extract_lets m bits x v vs clips k0 p sums rows u
  have transformed : WorkFrame (cCvCmds n) k.st k0.st := (addClu k.st m 1 (j := 44) (by decide) (by decide)).trans
    (addClu _ m clips (j := 0) (by decide) (by decide))
  have products : WorkFrame (cCvCmds n) k0.st p.1.st := winoProducts cluster k0 l d.entries _ eps (upTo 16)
  have summed : WorkFrame (cCvCmds n) p.1.st rows.1.st := cvEach p.1 (fun k _ => winoA k m _ _ _ _ _) (upTo 8)
  exact ((transformed.trans products).trans summed).trans (cvEach rows.1 (fun k _ => winoA k m _ _ _ _ _) (upTo 4))

/-! #### Output, stripes and the whole command -/

variable (c : Cmd) (d : CD)

omit cluster in
theorem pmPut (a : Nat) (bs : List (BitVec 8)) : WorkFrame (cCvCmds n) s (pmPut s a bs) := of_ctrs rfl rfl rfl

omit cluster in
theorem pmElem (pa bits j v : Nat) : WorkFrame (cCvCmds n) s (pmElem s pa bits j v) := by
  unfold Machine.pmElem
  extract_lets b
  split
  · exact pmPut s _ _
  · exact pmPut s _ _

omit cluster in
theorem cvSpill (pa : Nat) (outs : Tab (List Nat)) (ts : List Nat) : WorkFrame (cCvCmds n) s (cvSpill s d pa outs ts).1 := by
  refine foldl_fst (fun a t => ?_) ts (s, 0)
  split
  · exact (pmPut a.1 _ _).trans (pmPut _ _ _)
  · exact foldl (fun s _ => pmElem s _ _ _ _) _ a.1

theorem cvFetch (bits j : Nat) : WorkFrame (cCvCmds n) s (cvFetch s c d bits j).1 := by
  unfold Machine.cvFetch
  extract_lets m pa coded bytes s1
  split
  · exact refl s
  · have moved : WorkFrame (cCvCmds n) s s1 := (movePm cluster s m c.client false pa bytes).trans (addClu _ m _ (j := 45) (by decide) (by decide))
    split
    · exact moved.trans (addClu s1 m coded (j := 48) (by decide) (by decide))
    · exact moved

theorem cvCompute (u : Nat) : WorkFrame (cCvCmds n) s (cvCompute s c d u).1.st := by
  unfold Machine.cvCompute
  extract_lets l t lr bits w za pa rd k r
  split
  · exact winoTile cluster k l d rd _ _ _ _ _
  · exact cvBlocks cluster k l _ _ _ _ _ _

omit cluster in
theorem cvPut (delta : Nat) (a : State × Cmd) (e : Nat × List Int) : WorkFrame (cCvCmds n) a.1 (cvPut d delta a e).1 := by
  unfold Machine.cvPut
  extract_lets r
  have counted : WorkFrame (cCvCmds n) a.1 r.1 := addClu a.1 _ _ (j := 2) (by decide) (by decide)
  split
  · exact counted
  · exact counted.trans (of_ctrs rfl rfl rfl)

theorem cvEndStripe : WorkFrame (cCvCmds n) s (cvEndStripe s c d).1 := by
  unfold Machine.cvEndStripe
  extract_lets m pa t0 ts sp s1
  split
  · exact refl s
  · have moved : WorkFrame (cCvCmds n) s s1 := (cvSpill s d pa c.cv.outs ts).trans (movePm cluster sp.1 m c.client true pa sp.2)
    split
    · exact (moved.trans (addClu s1 m _ (j := 46) (by decide) (by decide))).trans (addClu _ m _ (j := 47) (by decide) (by decide))
    · exact moved

theorem cvUnit (a : State × Cmd) : WorkFrame (cCvCmds n) a.1 (cvUnit a).1 := by
  unfold Machine.cvUnit
  extract_lets s d u lr delta fetch fetched b r done cv c1 e
  have ready : WorkFrame (cCvCmds n) a.1 b.1 := by
    unfold b
    split
    · exact cvFetch cluster s _ d _ _
    · exact refl a.1
  have computed : WorkFrame (cCvCmds n) b.1 r.1.st := cvCompute cluster b.1 b.2 d u
  have put : WorkFrame (cCvCmds n) r.1.st e.1 := foldl_fst (fun a x => cvPut d delta a x) _ (r.1.st, c1)
  have worked := (ready.trans computed).trans put
  split
  · exact worked.trans (cvEndStripe cluster e.1 e.2 d)
  · exact worked

theorem cvSteps (a : State × Cmd) (m : Nat) : WorkFrame (cCvCmds n) a.1 (cvSteps a m).1 := by
  induction m generalizing a with
  | zero => exact refl a.1
  | succ m ih => exact (cvUnit cluster a).trans (ih _)

omit cluster in
theorem cvStage (l : Nat) (use : Bool) (h : VH) : WorkFrame (cCvCmds n) s (cvStage s l use h) := by
  unfold Machine.cvStage
  split
  · exact of_ctrs rfl rfl rfl
  · exact refl s

end

end WorkFrame

/-- CONV's work counts the command beside what its products, its stripes and its staging count (R226, R242). -/
theorem runConv_works (s : State) (c : Cmd) (cluster : physOf s (lcluOf c.lt) < 18) :
    (runConv s c).queues = s.queues ∧
      ctr (runConv s c) (cCvCmds (physOf s (lcluOf c.lt))) = ctr s (cCvCmds (physOf s (lcluOf c.lt))) + 1 := by
  unfold runConv
  extract_lets l n d e outB s1 s2 ns s3 k
  have steps : WorkFrame (cCvCmds n) s e.1 := .cvSteps cluster (s, c) _
  have scaled : WorkFrame (cCvCmds n) e.1 s1 := by
    unfold s1
    split
    · exact .addClu e.1 n 1 (j := 3) (by decide) (by decide)
    · exact .refl e.1
  have staged : WorkFrame (cCvCmds n) s1 s2 := (WorkFrame.cvStage s1 l _ _).trans (.cvStage _ l _ _)
  have worked : WorkFrame (cCvCmds n) s s3 := ((steps.trans scaled).trans staged).trans (.of_ctrs rfl rfl rfl)
  exact ⟨worked.queues, (ctr_bump_same s3 _).trans (congrArg (· + 1) worked.counter)⟩

section Complete
variable {s : State} {c : Cmd}

/-- An SRAND's work writes the words of its berth's substream to d (R217). -/
theorem runSampler_srand (op : c.op = 0x82) :
    let u := runSampler s c
    let d := vhOf c.hd
    let n := physOf s (lcluOf c.lt)
    u.queues = s.queues ∧ u.store = vhWriteAll s.store (storeBase n) d 0
      (((noiseWords (berth s c.berth).sub.key c.step c.ord (vhCount d)).take (vhCount d)).map some) ∧ u.pm = s.pm ∧ u.ret = s.ret := by
  intro u d n
  have works : u = runRand s c := by simp only [u, runSampler, op]
  rw [works]
  exact ⟨rfl, rfl, rfl, rfl⟩

/-- An MST's work writes the rows of x to package memory (R165). -/
theorem runMover_mst (op : c.op = 0xC1) :
    let u := runMover s c
    u.queues = s.queues ∧ u.pm = memPutBytes s.pm c.pa (readRows s (lcluOf c.lt) (vhOf c.hx)) ∧ u.store = s.store ∧ u.ret = s.ret := by
  intro u
  have works : u = runMst s c := by simp only [u, runMover, op]
  have moved := movePm_frame (pmPut s c.pa (readRows s (lcluOf c.lt) (vhOf c.hx))) (physOf s (lcluOf c.lt)) c.client true c.pa
    (vhBytes (vhOf c.hx))
  rw [works]
  exact ⟨(congrArg State.queues moved :), (congrArg State.pm moved :), (congrArg State.store moved :), (congrArg State.ret moved :)⟩

/-- An MEMIT's work stages the elements of x with its berth (R166). -/
theorem runMover_memit (op : c.op = 0xC5) : runMover s c = modBerth s c.berth (fun b => { b with
    staged := b.staged ++ (upTo (vhCount (vhOf c.hx))).map
      (fun i => vhRead s.store (storeBase (physOf s (lcluOf c.lt))) (vhOf c.hx) i) }) := by
  simp only [runMover, op, runMemit]

end Complete

/-- Settles O15: each engine's completion is its command's work, and the work leaves the queues. -/
theorem engineCompletions : Obligations.EngineCompletions := by
  unfold Obligations.EngineCompletions
  intro s l c q cyc k n pops
  have empties {eng : Nat} (run : State → Cmd → State) (empty : queue s l.toNat eng = []) :
      Host.Outcome.next (φ := Fault) (ρ := Refusal) (completeHead s l.toNat eng run) = .next s :=
    congrArg _ (completeHead_empty empty run)
  refine ⟨empties _, empties _, empties _, empties _, fun op head => ?_, fun op head => ?_, fun cluster head => ?_, fun op head => ?_,
    fun op head => ?_⟩
  · obtain ⟨-, ctrs, -, store, pm, ret⟩ := completeHead_parts head runRecurrence
    have works : runRecurrence (setQueue s l.toNat 2 q) c = runRstep (setQueue s l.toNat 2 q) c := by simp only [runRecurrence, op]
    obtain ⟨kept, counted, pm', ret'⟩ := runRstep_works (setQueue s l.toNat 2 q) c
    refine ⟨_, rfl, queue_completeHead head (by rw [works, kept]), ?_, ?_, ?_⟩
    · rw [ctr, ctrs, works]; exact counted
    · rw [pm, works, pm']; rfl
    · rw [ret, works, ret']; rfl
  · obtain ⟨-, -, -, store, pm, ret⟩ := completeHead_parts head runSampler
    obtain ⟨kept, written, pm', ret'⟩ := runSampler_srand (s := setQueue s l.toNat 3 q) op
    exact ⟨_, rfl, queue_completeHead head kept, store.trans written, pm.trans pm', ret.trans ret'⟩
  · obtain ⟨-, ctrs, -⟩ := completeHead_parts head runConv
    obtain ⟨kept, counted⟩ := runConv_works (setQueue s l.toNat 4 q) c cluster
    refine ⟨_, rfl, queue_completeHead head kept, ?_⟩
    exact (congrArg (fun t => tabGet 0 t (cCvCmds n)) ctrs).trans counted
  · obtain ⟨-, -, -, store, pm, ret⟩ := completeHead_parts head (fun s c => chargeEngine (runMover s c) c cyc.toNat)
    obtain ⟨kept, written, store', ret'⟩ := runMover_mst (s := setQueue s l.toNat 5 q) op
    exact ⟨_, rfl, queue_completeHead head kept, pm.trans written, store.trans store', ret.trans ret'⟩
  · obtain ⟨-, -, berths, memories⟩ := completeHead_parts head (fun s c => chargeEngine (runMover s c) c cyc.toNat)
    have staged := runMover_memit (s := setQueue s l.toNat 5 q) op
    refine ⟨_, rfl, queue_completeHead head (by rw [chargeEngine, staged]; rfl), ?_, ?_⟩
    · rw [berth, berths, chargeEngine, staged]
      exact congrArg Berth.staged ((berth_modBerth_same _ c.berth _).trans (congrArg _ (berth_modBerth_same _ c.berth _)))
    · rw [chargeEngine, staged] at memories; exact memories

/-! ## The loss of the device (O24) -/

/-- The step that runs ends with the device (R141). -/
theorem loseDevice_running {s : State} (notLost : s.lost.lost = false) (cls unit detail : Nat) :
    (loseDevice s cls unit detail).sched.running = false := by
  simp only [loseDevice, notLost, Bool.false_eq_true, if_false, msix0_sched]

/-- A lost device is not lost again. -/
theorem loseDevice_of_lost {s : State} (lost : s.lost.lost = true) (cls unit detail : Nat) : loseDevice s cls unit detail = s := if_pos lost

/-- What the scrub of a lost device is about: the loss, what is destroyed, and what could hold up the end of a window. -/
def lossPart (s : State) := (s.lost, s.store, s.berths, s.sec.keys, s.fw, s.sec.held, s.sec.cwHeld, s.sec.tdDue)

section LossPart
variable (s : State)

theorem lossPart_foldl {β : Type} {f : State → β → State} (each : ∀ u b, lossPart (f u b) = lossPart u) (l : List β) :
    lossPart (l.foldl f s) = lossPart s :=
  List.foldlRecOn (motive := fun u => lossPart u = lossPart s) l f rfl fun u kept b _ => (each u b).trans kept

theorem lossPart_setTdi (t : Tdi) : lossPart (setTdi s t) = lossPart s := by
  by_cases same : s.sec.tdi = t
  · rw [show setTdi s t = s from if_pos same]
  · rw [show setTdi s t = _ from if_neg same]; rfl

theorem lossPart_setTapEn_false : lossPart (setTapEn s false) = lossPart s := by
  by_cases tap : s.rng.nt = .tap
  · rw [show setTapEn s false = _ from if_pos tap]; rfl
  · rw [show setTapEn s false = _ from if_neg tap]; rfl

theorem lossPart_setLevels (v : BitVec 5) : lossPart (setLevels s v) = lossPart s := by
  have opened (u : State) (p : Bool) : lossPart (if p then u else setRegField u (dbgOff + 4) 1 1 0) = lossPart u := by cases p <;> rfl
  have tapped (u : State) (p : Bool) : lossPart (if p then u else setTapEn u false) = lossPart u := by
    cases p
    · exact lossPart_setTapEn_false u
    · rfl
  have logged (u : State) (n : Nat) : lossPart (logEvent u 8 0xFFFF n) = lossPart u := rfl
  by_cases same : v = s.sec.levels
  · rw [show setLevels s v = s from if_pos same]
  · rw [show setLevels s v = _ from if_neg same, logged, tapped, opened]; rfl

/-- A scrub zeroes the stores and the berths, and touches nothing of the loss, the keys, the firmware and what is held. -/
theorem lossPart_scrub (keep : Bool) :
    lossPart (scrub s keep) = (s.lost, [], [], s.sec.keys, s.fw, s.sec.held, s.sec.cwHeld, s.sec.tdDue) := by
  have ends (u : State) (n : Nat) : lossPart (clearGens (audioScrub (addCtr u (bthCtr 3) n))) = lossPart u := rfl
  have worked (u : State) (a b : Nat) : lossPart (sysWork u a b) = lossPart u := rfl
  have counted (u : State) (w : Nat → Nat) : lossPart ((upTo 8).foldl (fun s st => addCtr s (stackCtr st 1) (w st)) u) = lossPart u :=
    lossPart_foldl u (fun s st => (rfl : lossPart (addCtr s (stackCtr st 1) (w st)) = lossPart s)) _
  rw [scrub, ends, worked, counted]
  rfl

theorem lossPart_vacate7 : lossPart (vacate7 s) = lossPart s := by
  have stopped (p : Bool) : lossPart (if p then setTdi s .unlocked else s) = lossPart s := by
    cases p
    · rfl
    · exact lossPart_setTdi s _
  have due (u : State) (p : Prop) [Decidable p] : lossPart (if p then u else setLevels u (u.sec.levels ||| u.sec.levelsDue)) = lossPart u := by
    by_cases none : p
    · rw [if_pos none]
    · rw [if_neg none, lossPart_setLevels]
  have cleared (u : State) : lossPart { u with sec := { u.sec with levelsDue := 0 } } = lossPart u := rfl
  have vacant (u : State) (us : Nat) : lossPart (logEvent (bump (setIrqFlag (bumpView { u with sec := { u.sec with
      tenancy := .vacant, tenantId := 0, tEpoch := 0, tdisp := false, dbgTeardown := false, tdStep := 0, tdTick := s.tick,
      tdiStop := false } }) fTdDone) (secCtr 1)) 6 0xFFFF us) = lossPart u := rfl
  rw [vacate7, cleared, due, vacant, stopped]

/-- The scrub of a lost device leaves its loss marked scrubbed, with no store, no berth and no key. -/
theorem lossPart_lostScrub (lost : s.lost.lost = true) (once : s.lost.scrubbed = false) (clocked : s.clk.stopped = false) :
    lossPart (lostScrub s) =
      ({ s.lost with scrubbed := true }, [], [], [], s.fw, s.sec.held, s.sec.cwHeld, s.sec.tdDue) := by
  have runs : ¬ ((!s.lost.lost) = true ∨ s.lost.scrubbed = true ∨ s.clk.stopped = true) := by simp [lost, once, clocked]
  have ends (u : State) (p : Prop) [Decidable p] : lossPart (if p then vacate7 u else u) = lossPart u := by
    by_cases down : p
    · rw [if_pos down, lossPart_vacate7]
    · rw [if_neg down]
  have marked (u : State) : lossPart { u with lost := { u.lost with scrubbed := true } } =
      ({ (lossPart u).1 with scrubbed := true }, (lossPart u).2) := rfl
  rw [show lostScrub s = _ from if_neg runs, ends, marked, lossPart_scrub]

end LossPart

/-- The end of a window with nothing held changes nothing, nor does it while one is open. -/
theorem closeWindow_of_nothing {s : State} (reports : s.sec.held = []) (operations : s.sec.cwHeld = []) (teardown : s.sec.tdDue = false) :
    closeWindow s = s := by
  cases closed : windowOpen s with
  | true => exact if_pos closed
  | false => exact NothingHeld.closeWindow_eq ⟨closed, reports, operations, teardown⟩

theorem exec_uncorrectableFault {cls unit : Nat} (classed : 1 ≤ cls) (known : cls ≤ 11) (named : unit < 365 ∨ unit = 0xFFFF) (detail : Nat)
    (s : State) : exec (.uncorrectableFault cls unit detail) s = .next (loseDevice s cls unit detail) :=
  onUnit_of (decide_eq_true ⟨classed, known, named⟩) _

theorem exec_engineProgressTimeout {n eng : Nat} (cluster : n < 18) (engine : eng < 6) (met : Bool) (s : State) :
    exec (.engineProgressTimeout n eng met) s = .next (if met then bump s (obsCtr 9) else loseDevice s 4 (unitClu n) eng) :=
  onUnit_of (decide_eq_true ⟨cluster, engine⟩) _

/-- Settles O24: the loss is recorded once, and the scrub that follows leaves no key, no store and no berth. -/
theorem deviceLoss : Obligations.DeviceLoss := by
  unfold Obligations.DeviceLoss
  intro s
  refine ⟨fun notLost => ⟨?_, ?_⟩, ?_, ?_⟩
  · intro cls unit detail classed known named
    refine ⟨_, exec_uncorrectableFault classed known named detail s, ?_⟩
    rw [loseDevice_lost notLost]
    exact ⟨rfl, rfl, rfl, rfl, rfl, loseDevice_running notLost cls unit detail⟩
  · intro n eng cluster engine
    refine ⟨⟨_, exec_engineProgressTimeout cluster engine false s, ?_⟩, ⟨_, exec_engineProgressTimeout cluster engine true s, ?_⟩⟩
    · rw [if_neg Bool.false_ne_true, loseDevice_lost notLost]
      exact ⟨rfl, rfl, rfl, rfl⟩
    · exact ⟨ctr_bump s (obsCtr 9), addCtr_frame s _ 1⟩
  · intro lost cls unit detail classed known named
    rw [exec_uncorrectableFault classed known named, loseDevice_of_lost lost]
  · intro lost once clocked reports operations teardown
    have scrubbed := lossPart_lostScrub s lost once clocked
    simp only [lossPart, reports, operations, teardown, Prod.mk.injEq] at scrubbed
    obtain ⟨loss, store, berths, keys, -, held, cwHeld, tdDue⟩ := scrubbed
    refine ⟨lostScrub s, congrArg _ (closeWindow_of_nothing held cwHeld tdDue), ?_, keys, store, berths⟩
    rw [loss]

/-! ## What a record leaves of the clusters' counters (R488) -/

/-- A record was posted or an item left, and no counter of a cluster has moved. -/
structure OnlyRecords (s u : State) : Prop where
  frame : frameItem s u
  counts : ∀ k, 0x400 ≤ k → k < 0x900 → ctr u k = ctr s k

namespace OnlyRecords
variable {s t u : State}

theorem refl (s : State) : OnlyRecords s s := ⟨frameItem_refl s, fun _ _ _ => rfl⟩

theorem trans (first : OnlyRecords s t) (second : OnlyRecords t u) : OnlyRecords s u :=
  ⟨frameItem_trans first.frame second.frame, fun k low high => (second.counts k low high).trans (first.counts k low high)⟩

theorem foldl {β : Type} {f : State → β → State} (each : ∀ s b, OnlyRecords s (f s b)) (l : List β) : OnlyRecords s (l.foldl f s) :=
  List.foldlRecOn (motive := OnlyRecords s) l f (refl s) fun t kept b _ => kept.trans (each t b)

/-- A change of the clients alone. -/
theorem of_clients (h : { u with clients := s.clients } = s) : OnlyRecords s u := by
  have counters : u.ctrs = s.ctrs := (congrArg State.ctrs h :)
  exact ⟨frameItem_of (congrArg (fun v : State => { v with ctrs := s.ctrs, act := s.act, emitted := s.emitted }) h),
    fun k _ _ => by rw [ctr, counters, ctr]⟩

/-- The counters of the hub lie below those of the clusters. -/
theorem ctr_addCtr_hif {k : Nat} (low : 0x400 ≤ k) (s : State) (n : Nat) {j : Nat} (inSet : j < 32) :
    ctr (addCtr s (hifCtr j) n) k = ctr s k := ctr_addCtr_other _ _ _ _ (by simp only [hifCtr]; omega)

theorem testIrq (s : State) (c : BitVec 10) : OnlyRecords s (testIrq s c) := by
  refine ⟨testIrq_frame s c, fun k low high => ?_⟩
  simp only [Machine.testIrq]
  split
  · rw [ctr_addCtr_hif low _ _ (by decide)]; rfl
  · rfl

theorem putRecord (s : State) (c : BitVec 10) (r : Record) : OnlyRecords s (putRecord s c r) := by
  refine ⟨putRecord_frame s c r, fun k low high => ?_⟩
  have charged (u : State) (n : Nat) (v : Client) : ctr (setClient (hostBytes u c n) c v) k = ctr u k := rfl
  have emitted (v : Client) (e : Emit) : ctr (emit (setClient s c v) e) k = ctr s k := rfl
  rw [Machine.putRecord, signalIrq, (testIrq _ c).counts k low high, charged, bump, ctr_addCtr_hif low _ _ (by decide), emitted]

theorem spillRecord (s : State) (c : BitVec 10) (r : Record) : OnlyRecords s (spillRecord s c r) := by
  refine ⟨spillRecord_frame s c r, fun k low high => ?_⟩
  have spilled (v : Client) (a : Nat) (bs : List (BitVec 8)) : ctr (pmPut (setClient s c v) a bs) k = ctr s k := rfl
  rw [Machine.spillRecord, ctr_bump_other _ _ _ (by simp only [memCtr]; omega), ctr_hubPm (by omega), spilled]

theorem postRecord (s : State) (c : BitVec 10) (r : Record) : OnlyRecords s (postRecord s c r) := by
  simp only [Machine.postRecord]
  split
  · exact refl s
  · split
    · exact putRecord s c r
    · exact spillRecord s c _

theorem notice (s : State) (c : BitVec 10) (op status : Nat) (tag : BitVec 32) (d : List (BitVec 8)) :
    OnlyRecords s (notice s c op status tag d) := postRecord s c _

theorem completeItem (s : State) (c : BitVec 10) (i : Item) (status : Nat) (d : List (BitVec 8)) :
    OnlyRecords s (completeItem s c i status d) := by
  have left : OnlyRecords s (itemLeft s c i) := ⟨frameItem_of rfl, fun k low _ => ctr_addCtr_hif low _ 1 (by decide)⟩
  exact left.trans (postRecord _ c _)

theorem unhold (s : State) (p : Item → Bool) : OnlyRecords s (unhold s p) := of_clients rfl

theorem completeAll (s : State) (p : Item → Bool) (status : Nat) (d : Item → List (BitVec 8)) :
    OnlyRecords s (completeAll s p status d) :=
  foldl (fun _ _ => foldl (fun t i => completeItem t _ i status (d i)) _) _

section Kept
variable (h : OnlyRecords s u)
include h

theorem pre : u.pre = s.pre := (congrArg State.pre h.frame.1 :)
theorem store : u.store = s.store := (congrArg State.store h.frame.1 :)
theorem threads : u.threads = s.threads := (congrArg State.threads h.frame.1 :)
theorem queues : u.queues = s.queues := (congrArg State.queues h.frame.1 :)
theorem berths : u.berths = s.berths := (congrArg State.berths h.frame.1 :)

/-- Memory past the spill rings reads as before. -/
theorem memBytes_past {a : Nat} (past : 0x10000000 ≤ a) (n : Nat) : memBytes u.pm a n = memBytes s.pm a n := by
  induction n generalizing a with
  | zero => rfl
  | succ n ih => rw [memBytes, memBytes, h.frame.2 a (.inr past), ih (by omega)]

end Kept
end OnlyRecords

/-! ## The berths of a cluster when every berth is marked -/

/-- The berths of cluster l, each with its mark: how a save and a restore change them. -/
def markOn (l : Nat) (mark : Bool) (b : Berth) : Berth := if b.st ≠ .free ∧ lcluOf b.lthread = l then { b with preempted := mark } else b

theorem markOn_st (l : Nat) (mark : Bool) (b : Berth) : (markOn l mark b).st = b.st := by unfold markOn; split <;> rfl

theorem markOn_lthread (l : Nat) (mark : Bool) (b : Berth) : (markOn l mark b).lthread = b.lthread := by unfold markOn; split <;> rfl

theorem mem_berthsOn {s : State} {l : Nat} {e : Nat × Berth} :
    e ∈ berthsOn s l ↔ e ∈ s.berths ∧ e.2.st ≠ .free ∧ lcluOf e.2.lthread = l := by
  simp only [berthsOn, heldBerths, List.mem_filter, decide_eq_true_eq, and_assoc]

/-- A berth of the cluster after the marking is one that was there before, and bears the mark. -/
theorem berthsOn_marked {s u : State} {l : Nat} {mark : Bool} (marked : u.berths = s.berths.map (fun e => (e.1, markOn l mark e.2)))
    {e : Nat × Berth} (there : e ∈ berthsOn u l) : e.2.preempted = mark ∧ ∃ b ∈ berthsOn s l, b.2.st = e.2.st := by
  obtain ⟨listed, held, placed⟩ := mem_berthsOn.1 there
  rw [marked] at listed
  obtain ⟨b, was, rfl⟩ := List.mem_map.1 listed
  rw [markOn_st] at held
  rw [markOn_lthread] at placed
  refine ⟨?_, b, mem_berthsOn.2 ⟨was, held, placed⟩, (markOn_st l mark b.2).symm⟩
  rw [markOn, if_pos ⟨held, placed⟩]

/-! ## The save (R133) -/

/-- Cluster l saved with an image: its threads, queues and berths vacated, the image on record (R133 step 6). -/
def recordSaved (s : State) (l : Nat) (img : Image) : State :=
  let t := setSavePhase (vacate s l) l .saved
  { t with pre := { t.pre with image := t.pre.image ++ [(l, img)] } }

/-- The save counted and logged: cluster n has saved one more image, of `size` bytes. -/
def saveCounted (s : State) (l n size : Nat) : State :=
  logEvent (sysWork (addCtr (bump s (cSaves n)) (cSaveBytes n) size) 0 size) 4 0xFFFF (2 ^ l)

/-- What a save is about: the images and what stands on the clusters. -/
def savedPart (s : State) := (s.pre, s.store, s.threads, s.queues, s.berths)

/-- The state with the item that the save of cluster l answers answered. -/
def withAnswered (s : State) (answers : Tab (Nat × Nat)) : State := { s with pre := { s.pre with item := answers } }

/-- Records leave the answered items as they are. -/
theorem OnlyRecords.withAnswered {s u : State} (h : OnlyRecords s u) (answers : Tab (Nat × Nat)) :
    OnlyRecords (withAnswered s answers) (withAnswered u answers) :=
  ⟨⟨congrArg (fun v : State => Machine.withAnswered v answers) h.frame.1, h.frame.2⟩, h.counts⟩

section Save
variable {s : State} {l : Nat}

/-- The answer to a pre-emption is its entry's removal and at most a record. -/
theorem saveAnswered_records (s : State) (l : Nat) : ∃ answers, OnlyRecords (withAnswered s answers) (saveAnswered s l) := by
  cases answers : tabFind s.pre.item l with
  | none => exact ⟨s.pre.item, by simp only [saveAnswered, answers]; exact .refl s⟩
  | some cq =>
    obtain ⟨c, q⟩ := cq
    refine ⟨tabErase s.pre.item l, ?_⟩
    simp only [saveAnswered, answers]
    split
    · exact .refl _
    · split
      · split
        · exact .completeItem _ _ _ _ _
        · exact .refl _
      · exact .unhold _ _

/-- Where the engines of a cluster at the end of its stop are halted (R131). -/
def haltedAt (s : State) (l : Nat) : State := haltGather (haltConv (advanceConv s l) l) l

/-- With no convolution and no mover command under way there is nothing to halt. -/
theorem haltedAt_idle (conv : queue s l 4 = []) (mover : queue s l 5 = []) : haltedAt s l = s := by
  have advanced : advanceConv s l = s := by simp only [advanceConv, conv]
  have halted : haltConv s l = s := by simp only [haltConv, conv]
  have gathered : haltGather s l = s := by simp only [haltGather, mover]
  rw [haltedAt, advanced, halted, gathered]

/-- A save that completes: the image of what the halt left, the counts, and then records only. -/
theorem saveDone_records (notLost : s.lost.lost = false) (stops : savePhase s l = .stopping) (stopped : enginesStopped s l = true) :
    ∃ answers, OnlyRecords (withAnswered (saveCounted (recordSaved (writeImage (haltedAt s l) l) l (imageOf (haltedAt s l) l))
      l (physOf s l) (imageOf (haltedAt s l) l).size) answers) (saveDone s l) := by
  have runs : (Machine.stopping s l && enginesStopped s l && !s.lost.lost) = true := by
    simp only [Machine.stopping, stops, stopped, notLost, decide_true, Bool.not_false, Bool.and_self]
  let counted := saveCounted (recordSaved (writeImage (haltedAt s l) l) l (imageOf (haltedAt s l) l)) l (physOf s l) (imageOf (haltedAt s l) l).size
  let told := (clientsOn s l).foldl
    (fun s e => notice s (BitVec.ofNat 10 e.1) 0x82 stPreempted 0 (natLe l 2 ++ natLe e.2 2)) counted
  have done : saveDone s l = saveAnswered told l := if_pos runs
  have tells : OnlyRecords counted told := .foldl (fun _ _ => .notice _ _ _ _ _ _) _
  obtain ⟨answers, answered⟩ := saveAnswered_records told l
  refine ⟨answers, ?_⟩
  rw [done]
  exact (tells.withAnswered answers).trans answered

theorem saveDone_other (other : savePhase s l ≠ .stopping) : saveDone s l = s :=
  if_neg (by simp only [Machine.stopping, decide_eq_false other, Bool.false_and, Bool.false_eq_true, not_false_iff])

theorem saveDone_running (running : enginesStopped s l = false) : saveDone s l = s :=
  if_neg (by simp only [running, Bool.and_false, Bool.false_and, Bool.false_eq_true, not_false_iff])

section Counted
variable (t : State) (n size : Nat)

/-- The counting of a save is counters, the charge of the system's work and the event log. -/
theorem savedPart_saveCounted : savedPart (saveCounted t l n size) = savedPart t := by
  have logged (u : State) : savedPart (logEvent u 4 0xFFFF (2 ^ l)) = savedPart u := rfl
  have worked (u : State) : savedPart (sysWork u 0 size) = savedPart u := rfl
  have added (u : State) (i k : Nat) : savedPart (addCtr u i k) = savedPart u := rfl
  rw [saveCounted, logged, worked, added, bump, added]

theorem saveCounted_pm : (saveCounted t l n size).pm = t.pm := by
  have logged (u : State) : (logEvent u 4 0xFFFF (2 ^ l)).pm = u.pm := rfl
  have worked (u : State) : (sysWork u 0 size).pm = u.pm := rfl
  rw [saveCounted, logged, worked, addCtr_pm, bump_pm]

/-- Of the counters of saves only the one of cluster n moves. -/
theorem ctr_saveCounted : ctr (saveCounted t l n size) (cSaves n) = ctr t (cSaves n) + 1 := by
  have logged : cSaves n ≠ obsCtr 7 := by simp only [cSaves, cluCtr, obsCtr]; omega
  have otherSet : cSaves n ≠ cSaveBytes n := cluCtr_ne n n (by decide) (by decide) (by decide)
  calc ctr (saveCounted t l n size) (cSaves n)
      = ctr (sysWork (addCtr (bump t (cSaves n)) (cSaveBytes n) size) 0 size) (cSaves n) := ctr_bump_other _ _ _ logged
    _ = ctr t (cSaves n) + 1 := by
      rw [ctr_sysWork (by simp only [cSaves, cluCtr]; omega), ctr_addCtr_other _ _ _ _ otherSet, ctr_bump_same]

end Counted

/-! ### What the saved image leaves -/

section Recorded
variable (t : State) (img : Image)

theorem recordSaved_phase : savePhase (recordSaved t l img) l = .saved := savePhase_setSavePhase_same (vacate t l) l .saved
theorem recordSaved_image : (recordSaved t l img).pre.image = t.pre.image ++ [(l, img)] := rfl
theorem recordSaved_pm : (recordSaved t l img).pm = t.pm := rfl
theorem recordSaved_store : (recordSaved t l img).store = t.store := rfl
theorem recordSaved_ctrs : (recordSaved t l img).ctrs = t.ctrs := rfl
theorem recordSaved_berths : (recordSaved t l img).berths = t.berths.map (fun e => (e.1, markOn l true e.2)) := rfl
theorem recordSaved_threads : (recordSaved t l img).threads = t.threads.filter (fun e => decide (e.1 / 256 ≠ l)) := rfl
theorem recordSaved_queues : (recordSaved t l img).queues = t.queues.filter (fun e => decide (e.1 / 8 ≠ l)) := rfl

end Recorded

/-- A table reads its default at a key that a filter on the keys drops. -/
theorem tabGet_filter_dropped {α : Type} (d : α) (t : Tab α) (p : Nat → Bool) {k : Nat} (dropped : p k = false) :
    tabGet d (t.filter (fun e => p e.1)) k = d := by
  have absent : tabFind (t.filter (fun e => p e.1)) k = none := by
    induction t with
    | nil => rfl
    | cons e t ih =>
      cases kept : p e.1 with
      | false => rw [List.filter_cons_of_neg (by rw [kept]; exact Bool.false_ne_true), ih]
      | true =>
        have other : e.1 ≠ k := fun same => by rw [same, dropped] at kept; exact Bool.false_ne_true kept
        rw [List.filter_cons_of_pos (p := fun e : Nat × α => p e.1) kept, tabFind, if_neg other, ih]
  rw [tabGet, absent, Option.getD_none]

theorem slotAt_past (l : Nat) : 0x10000000 ≤ slotAt l := by
  rw [slotAt, paOf]
  exact (Nat.le_add_right _ _).trans (Nat.le_add_left _ _)

/-- The image's items and their check word lie in the slot. -/
theorem slot_writeImage (s : State) (l : Nat) (bs : List (BitVec 8)) (items : bs = saveItems s l) :
    memBytes (writeImage s l).pm (slotAt l) (bs.length + 8) = bs ++ natLe (Config.checksum bs).toNat 8 := by
  have written : (writeImage s l).pm = memPutBytes s.pm (slotAt l) (bs ++ natLe (Config.checksum bs).toNat 8) := by
    rw [writeImage, useFree_pm, countPm_pm, pmPut_pm, items]
  have length : (bs ++ natLe (Config.checksum bs).toNat 8).length = bs.length + 8 := by rw [List.length_append]; rfl
  rw [written, ← length, memBytes_putBytes_same]

theorem ctr_writeImage {k : Nat} (low : k < 0xA00) (s : State) (l : Nat) : ctr (writeImage s l) k = ctr s k := by
  have used (u : State) : ctr (useFree u) k = ctr u k := rfl
  have put (a : Nat) (bs : List (BitVec 8)) : ctr (pmPut s a bs) k = ctr s k := rfl
  rw [writeImage, used, ctr_countPm low, put]

theorem savedPart_writeImage (s : State) (l : Nat) : savedPart (writeImage s l) = savedPart s := by
  have used (u : State) : savedPart (useFree u) = savedPart u := rfl
  have counted (u : State) (wr : Bool) (a n : Nat) : savedPart (countPm u wr a n) = savedPart u :=
    (congrArg savedPart (countPm_frame u wr a n) :)
  have put (a : Nat) (bs : List (BitVec 8)) : savedPart (pmPut s a bs) = savedPart s := rfl
  rw [writeImage, used, counted, put]

end Save

section SaveClauses
variable {s : State} {l : Nat}

theorem withAnswered_pre (s : State) (answers : Tab (Nat × Nat)) : (withAnswered s answers).pre = { s.pre with item := answers } := rfl
theorem withAnswered_pm (s : State) (answers : Tab (Nat × Nat)) : (withAnswered s answers).pm = s.pm := rfl
theorem ctr_withAnswered (s : State) (answers : Tab (Nat × Nat)) (k : Nat) : ctr (withAnswered s answers) k = ctr s k := rfl

/-- The records after a save leave what the save has put down, but for the item it answers. -/
theorem saved_of_records {t u : State} {n size : Nat} {answers : Tab (Nat × Nat)}
    (h : OnlyRecords (withAnswered (saveCounted t l n size) answers) u) :
    u.pre = { t.pre with item := answers } ∧ u.store = t.store ∧ u.threads = t.threads ∧ u.queues = t.queues ∧ u.berths = t.berths := by
  have kept := savedPart_saveCounted (l := l) t n size
  simp only [savedPart, Prod.mk.injEq] at kept
  obtain ⟨pre, store, threads, queues, berths⟩ := kept
  refine ⟨h.pre.trans ?_, h.store.trans store, h.threads.trans threads, h.queues.trans queues, h.berths.trans berths⟩
  rw [withAnswered_pre, pre]

/-- They stay below the slots of the images, and move no counter of saves. -/
theorem slots_of_records {t u : State} {n size : Nat} {answers : Tab (Nat × Nat)}
    (h : OnlyRecords (withAnswered (saveCounted t l n size) answers) u) (cluster : n < 18) :
    (∀ k, memBytes u.pm (slotAt l) k = memBytes t.pm (slotAt l) k) ∧ ctr u (cSaves n) = ctr t (cSaves n) + 1 := by
  constructor
  · intro k
    rw [h.memBytes_past (slotAt_past l), withAnswered_pm, saveCounted_pm]
  · rw [h.counts _ (by simp only [cSaves, cluCtr]; omega) (by simp only [cSaves, cluCtr]; omega), ctr_withAnswered, ctr_saveCounted]

/-- A save that completes leaves the cluster saved with an image in its slot (R133). -/
theorem saveDone_saved (notLost : s.lost.lost = false) (stops : savePhase s l = .stopping) (stopped : enginesStopped s l = true) :
    savePhase (saveDone s l) l = .saved ∧ slotHolds (saveDone s l) l = true := by
  obtain ⟨answers, records⟩ := saveDone_records notLost stops stopped
  obtain ⟨pre, -⟩ := saved_of_records records
  constructor
  · rw [savePhase, pre]
    exact recordSaved_phase (writeImage (haltedAt s l) l) (imageOf (haltedAt s l) l)
  · rw [slotHolds, pre, recordSaved_image, List.any_append]
    simp only [List.any_cons, decide_true, Bool.true_or, Bool.or_true]

/-- With nothing to halt the image is the cluster's own, its bytes lie in the slot, and the cluster is vacated and counted. -/
theorem saveDone_vacated (notLost : s.lost.lost = false) (stops : savePhase s l = .stopping) (stopped : enginesStopped s l = true)
    (conv : queue s l 4 = []) (mover : queue s l 5 = []) (served : physOf s l < 18) :
    let u := saveDone s l
    let bs := saveItems s l
    u.pre.image = s.pre.image ++ [(l, imageOf s l)] ∧
    memBytes u.pm (slotAt l) (bs.length + 8) = bs ++ natLe (Config.checksum bs).toNat 8 ∧ u.store = s.store ∧
    (∀ lt, lcluOf lt = l → thread u lt = {}) ∧ (∀ e, e < 8 → queue u l e = []) ∧ (∀ e ∈ berthsOn u l, e.2.preempted = true) ∧
    ctr u (cSaves (physOf s l)) = ctr s (cSaves (physOf s l)) + 1 := by
  intro u bs
  obtain ⟨answers, records⟩ := saveDone_records notLost stops stopped
  rw [haltedAt_idle conv mover] at records
  obtain ⟨pre, store, threads, queues, berths⟩ := saved_of_records records
  obtain ⟨slots, counted⟩ := slots_of_records records served
  have kept := savedPart_writeImage s l
  simp only [savedPart, Prod.mk.injEq] at kept
  obtain ⟨pre', store', -, -, berths'⟩ := kept
  refine ⟨?_, ?_, ?_, fun lt own => ?_, fun e engine => ?_, fun e there => ?_, ?_⟩
  · rw [pre, recordSaved_image, pre']
  · rw [slots, recordSaved_pm, slot_writeImage s l bs rfl]
  · rw [store, recordSaved_store, store']
  · rw [thread, threads, recordSaved_threads]
    exact tabGet_filter_dropped _ _ (fun k => decide (k / 256 ≠ l)) (decide_eq_false (not_not_intro own))
  · rw [queue, queues, recordSaved_queues]
    exact tabGet_filter_dropped _ _ (fun k => decide (k / 8 ≠ l)) (decide_eq_false (not_not_intro (by omega)))
  · have marked : u.berths = s.berths.map (fun e => (e.1, markOn l true e.2)) := by rw [berths, recordSaved_berths, berths']
    exact (berthsOn_marked marked there).1
  · have written := ctr_writeImage (k := cSaves (physOf s l)) (by simp only [cSaves, cluCtr]; omega) s l
    rw [counted, ← written, ctr, recordSaved_ctrs, ctr]

end SaveClauses

/-! ## The start of a restore (R135) -/

section Start
variable {s : State} {l : Nat}

theorem restoreStart_saved (notLost : s.lost.lost = false) (saved : savePhase s l = .saved)
    (left : (berthsOn s l).all (fun e => e.2.preempted) = true) (noTeardown : s.sec.tenancy ≠ .teardown) (serves : lcluOut s l = false)
    (stays : migrating s l = false) : restoreStart s l = setSavePhase s l .restoring :=
  if_pos ⟨saved, left, noTeardown, by rw [serves]; rfl, by rw [stays]; rfl, by rw [notLost]; rfl⟩

theorem restoreStart_other (other : savePhase s l ≠ .saved) : restoreStart s l = s := if_neg fun h => other h.1

end Start

/-! ## The end of a restore (R135, R136) -/

/-- A thread as the restore returns it: a stopped one sleeps. -/
def threadBack (t : Thread) : Thread := { t with st := if t.st = .stopped then .sleeping else t.st }

/-- The threads of an image, put back one after another. -/
def threadsBack (s : State) (ts : Tab Thread) : State := ts.foldl (fun s e => setThread s (BitVec.ofNat 12 e.1) (threadBack e.2)) s

/-- A thread that no entry names is as before. -/
theorem thread_threadsBack_other {ts : Tab Thread} {lt : BitVec 12} (other : ∀ e ∈ ts, BitVec.ofNat 12 e.1 ≠ lt) (s : State) :
    thread (threadsBack s ts) lt = thread s lt := by
  refine List.foldlRecOn (motive := fun u => thread u lt = thread s lt) ts _ rfl fun u kept e listed => ?_
  rw [thread_setThread_other _ _ _ _ (other e listed).symm, kept]

/-- Threads listed under rising numbers are back, each its own. -/
theorem thread_threadsBack {ts : Tab Thread} (rising : tabRising ts = true) (numbered : ∀ e ∈ ts, e.1 < 4096) (s : State) :
    ∀ e ∈ ts, thread (threadsBack s ts) (BitVec.ofNat 12 e.1) = threadBack e.2 := by
  induction ts generalizing s with
  | nil => exact fun e listed => absurd listed List.not_mem_nil
  | cons head ts ih =>
    obtain ⟨above, rising'⟩ := (tabRising_cons head ts).1 rising
    obtain ⟨headNumbered, numbered'⟩ := List.forall_mem_cons.1 numbered
    refine List.forall_mem_cons.2 ⟨?_, ih rising' numbered' (setThread s (BitVec.ofNat 12 head.1) (threadBack head.2))⟩
    have other : ∀ e ∈ ts, BitVec.ofNat 12 e.1 ≠ BitVec.ofNat 12 head.1 := fun e listed same => by
      have numbers := congrArg BitVec.toNat same
      have later := above e listed
      have small := numbered' e listed
      rw [BitVec.toNat_ofNat, BitVec.toNat_ofNat, Nat.mod_eq_of_lt small, Nat.mod_eq_of_lt headNumbered] at numbers
      omega
    exact (thread_threadsBack_other other _).trans (thread_setThread_same _ _ _)

/-- The store cells of an image, put back from address `b` up. -/
def cellsBack (b : Nat) (cells st : List Host.Cell) : List Host.Cell := cells.foldl (fun st c => memPut st (b + c.1) c.2) st

/-- Cells listed under rising addresses are back, each its own. -/
theorem memByte_cellsBack {b : Nat} {cells : List Host.Cell} (rising : tabRising cells = true) (st : List Host.Cell) :
    ∀ c ∈ cells, memByte (cellsBack b cells st) (b + c.1) = c.2 := by
  induction cells generalizing st with
  | nil => exact fun c listed => absurd listed List.not_mem_nil
  | cons head cells ih =>
    obtain ⟨above, rising'⟩ := (tabRising_cons head cells).1 rising
    refine List.forall_mem_cons.2 ⟨?_, ih rising' (memPut st (b + head.1) head.2)⟩
    refine List.foldlRecOn (motive := fun m => memByte m (b + head.1) = head.2) cells _ (memByte_put_same _ _ _) fun m kept c listed => ?_
    have later := above c listed
    rw [memByte_put_other _ _ _ _ (by omega), kept]

/-! ### What the return of an image leaves -/

/-- What a restore may not lose: the preemption's records, the stores, the berths, the map and the counts of restores. -/
def restorePart (s : State) := (s.pre, s.store, s.berths, s.map, fun n : Fin 18 => ctr s (cRestores n))

section RestorePart
variable (s : State) (l : Nat)

theorem restorePart_foldl {β : Type} {f : State → β → State} (each : ∀ u b, restorePart (f u b) = restorePart u) (list : List β) :
    restorePart (list.foldl f s) = restorePart s :=
  List.foldlRecOn (motive := fun u => restorePart u = restorePart s) list f rfl fun u kept b _ => (each u b).trans kept

theorem restorePart_modTile (k : Nat) (f : Tile → Tile) : restorePart (modTile s k f) = restorePart s := rfl

theorem restorePart_reprogram : restorePart (reprogram s l) = restorePart s :=
  restorePart_foldl s (fun u _ => restorePart_foldl u (fun v r => restorePart_modTile v _ (tileRecord _ r)) _) _

/-- A change that keeps the counts of restores and nothing but counters else. -/
theorem restorePart_of_counts {u : State} (same : { u with ctrs := s.ctrs } = s)
    (counts : ∀ k, 0x400 ≤ k → k < 0x900 → ctr u k = ctr s k) : restorePart u = restorePart s := by
  have kept : restorePart { u with ctrs := s.ctrs } = restorePart s := congrArg restorePart same
  have restores : (fun n : Fin 18 => ctr u (cRestores n)) = fun n : Fin 18 => ctr s (cRestores n) := funext fun n =>
    counts _ (by simp only [cRestores, cluCtr]; omega) (by simp only [cRestores, cluCtr]; omega)
  exact (congrArg (fun c => (u.pre, u.store, u.berths, u.map, c)) restores).trans kept

/-- The read of an image counts at the stacks and for the system, and is logged. -/
theorem restorePart_read (a size ns bytes arg : Nat) :
    restorePart (logEvent (sysWork (countPm s false a size) ns bytes) 4 0xFFFF arg) = restorePart s := by
  have logged (u : State) : restorePart (logEvent u 4 0xFFFF arg) = restorePart u := by
    have written (r : List Host.Cell) : restorePart { u with ret := r } = restorePart u := rfl
    exact (restorePart_of_counts _ (addCtr_frame _ (obsCtr 7) 1) fun k low _ =>
      ctr_bump_other _ _ _ (by simp only [obsCtr]; omega)).trans (written _)
  have worked (u : State) : restorePart (sysWork u ns bytes) = restorePart u := by
    have restores : (fun n : Fin 18 => ctr (sysWork u ns bytes) (cRestores n)) = fun n : Fin 18 => ctr u (cRestores n) :=
      funext fun n => ctr_sysWork (by simp only [cRestores, cluCtr]; omega) u ns bytes
    exact congrArg (fun c => (u.pre, u.store, u.berths, u.map, c)) restores
  rw [logged, worked]
  exact restorePart_of_counts s (countPm_frame s false a size) fun k _ high => ctr_countPm (by omega) false a size

theorem restorePart_threadsBack (ts : Tab Thread) : restorePart (threadsBack s ts) = restorePart s := by
  have each (u : State) (e : Nat × Thread) :
      restorePart (setThread u (BitVec.ofNat 12 e.1) (threadBack e.2)) = restorePart u := rfl
  exact restorePart_foldl s each ts

/-- The image's tiles, each in its slot. -/
def tilesBack (s : State) (l : Nat) (m : Image) : State :=
  (servedSlots s l).foldl (fun s j => modTile s (tileOfSlot s l j)
    (fun t => { t with params := (tabGet {} m.tiles j).params, banks := (tabGet {} m.tiles j).banks,
                       nextBank := (tabGet {} m.tiles j).nextBank })) s

theorem restorePart_tilesBack (m : Image) : restorePart (tilesBack s l m) = restorePart s :=
  restorePart_foldl s (fun u _ => restorePart_modTile u _ _) _

/-- The store of a cluster with the image's cells back. -/
def storeBack (s : State) (l : Nat) (m : Image) : List Host.Cell :=
  cellsBack (storeBase (physOf s l)) m.store (m.wins.foldl (fun st w => memZero st (storeBase (physOf s l) + w.base) w.len) s.store)

/-- The return of an image writes the stores and the threads, and what no client sees: tiles, queues, streams and the generator. -/
theorem putImage_eq (m : Image) : ∃ q v g, putImage s l m =
    { threadsBack (tilesBack { s with store := storeBack s l m } l m) m.threads with queues := q, streams := v, rng := g } :=
  ⟨_, _, _, rfl⟩

theorem restorePart_putImage (m : Image) : restorePart (putImage s l m) = restorePart { s with store := storeBack s l m } := by
  obtain ⟨q, v, g, back⟩ := putImage_eq s l m
  have ended (u : State) : restorePart { u with queues := q, streams := v, rng := g } = restorePart u := rfl
  rw [back, ended, restorePart_threadsBack, restorePart_tilesBack]

theorem thread_putImage {m : Image} (rising : tabRising m.threads = true) (numbered : ∀ e ∈ m.threads, e.1 < 4096) :
    ∀ e ∈ m.threads, thread (putImage s l m) (BitVec.ofNat 12 e.1) = threadBack e.2 := by
  obtain ⟨q, v, g, back⟩ := putImage_eq s l m
  have ended (u : State) (lt : BitVec 12) : thread { u with queues := q, streams := v, rng := g } lt = thread u lt := rfl
  intro e listed
  rw [back, ended, thread_threadsBack rising numbered _ e listed]

end RestorePart

/-! ### Berths that left while their context lay in the image (R138) -/

section Voids
variable (s : State)

theorem pre_foldl {β : Type} {f : State → β → State} (each : ∀ u b, (f u b).pre = u.pre) (list : List β) :
    (list.foldl f s).pre = s.pre :=
  List.foldlRecOn (motive := fun u => u.pre = s.pre) list f rfl fun u kept b _ => (each u b).trans kept

theorem unbindAudio_pre (b : BitVec 12) : (unbindAudio s b).pre = s.pre := by
  have routed (u : State) (p : Prop) [Decidable p] (off : Nat) : (if p then setRegField u off 15 15 0 else u).pre = u.pre := by
    split
    · rfl
    · rfl
  refine pre_foldl s (f := _) (fun u i => ?_) (upTo 112)
  exact routed u _ (audRoute (i / 2) (i % 2))

theorem clearRecords_pre (slot : BitVec 8) (c : Copy) : (clearRecords s slot c).pre = s.pre :=
  pre_foldl s (fun u j => modTile_pre u (tileOfSlot u c.lclu.toNat j)
    (fun t => { t with recs := t.recs.filter (fun e => decide (e.2.modSlot ≠ slot)) })) c.slots

theorem finishUnload_pre (slot : BitVec 8) : (finishUnload s slot).pre = s.pre := by
  have cleared : ((module s slot).copies.foldl (fun s c => clearRecords s slot c) s).pre = s.pre :=
    pre_foldl s (fun u c => clearRecords_pre u slot c) _
  simp only [finishUnload]
  split
  · split
    · rw [(OnlyRecords.completeItem _ _ _ _ _).pre, bump_pre, setModule_pre, cleared]
    · rw [bump_pre, setModule_pre, cleared]
  · rfl

/-- A berth that reaches FREE leaves the records of preemption as they are. -/
theorem freeBerth_pre (b : BitVec 12) : (freeBerth s b).pre = s.pre := by
  have routed (u : State) : (routesOff u b).pre = u.pre := rfl
  have cleared (u : State) (lt : BitVec 12) : (clearThread u lt).pre = u.pre := rfl
  have voided (u : State) : (voidProposals u b).pre = u.pre := rfl
  have dropped : (dropStreams s b).pre = s.pre := rfl
  rw [freeBerth, finishUnload_pre, (OnlyRecords.completeAll _ _ _ _).pre, bump_pre, voided, setBerth_pre, cleared, routed,
    unbindAudio_pre, dropped]

theorem freeVoids_pre (l : Nat) : (freeVoids s l).pre = s.pre := by
  refine pre_foldl s (fun u e => ?_) _
  split
  · exact freeBerth_pre u _
  · rfl

/-- With no berth leaving there is none to free. -/
theorem freeVoids_none {s : State} {l : Nat} (none : ∀ e ∈ berthsOn s l, e.2.st ≠ .draining) : freeVoids s l = s :=
  List.foldlRecOn (motive := fun u => u = s) _ _ rfl fun u same e listed => by rw [if_neg (none e listed), same]

end Voids

/-! ### The image is back -/

/-- The image's items read from the slot and put back where they belong (R135 steps 2 and 3). -/
def imageBack (s : State) (l : Nat) (m : Image) : State :=
  let w := restoreWork s l
  putImage (reprogram (logEvent (sysWork (countPm s false (slotAt l) m.size) w.1 (w.2 + m.size)) 4 0xFFFF (2 ^ l + 65536)) l) l m

/-- The slot of a cluster released, its berths pre-empted no more (R135 step 5, R136). -/
def slotReleased (s : State) (l : Nat) : State :=
  setSavePhase { s with
    pre := { s.pre with image := s.pre.image.filter (fun e => decide (e.1 ≠ l)), owner := tabErase s.pre.owner l }
    berths := s.berths.map (fun e => (e.1, markOn l false e.2)) } l .none

section Back
variable {s : State} {l : Nat} {m : Image}

theorem restored_eq : restored s l m =
    let t := freeVoids (slotReleased (imageBack s l m) l) l
    unhold (bump t (cRestores (physOf t l))) (fun _ => true) := rfl

theorem slotReleased_phase (s : State) (l : Nat) : savePhase (slotReleased s l) l = .none := savePhase_setSavePhase_same _ l .none

theorem slotHolds_slotReleased (s : State) (l : Nat) : slotHolds (slotReleased s l) l = false := by
  have others : (slotReleased s l).pre.image = s.pre.image.filter (fun e => decide (e.1 ≠ l)) := rfl
  rw [slotHolds, others, List.any_eq_false]
  intro e listed
  rw [List.mem_filter, decide_eq_true_eq] at listed
  rw [decide_eq_true_eq]
  exact listed.2

/-- A restored cluster is in no phase of a pre-emption, and its slot holds no image. -/
theorem restored_released (s : State) (l : Nat) (m : Image) : savePhase (restored s l m) l = .none ∧ slotHolds (restored s l m) l = false := by
  have kept : (restored s l m).pre = (slotReleased (imageBack s l m) l).pre := by
    rw [restored_eq, (OnlyRecords.unhold _ _).pre, bump_pre, freeVoids_pre]
  constructor
  · rw [savePhase, kept]; exact slotReleased_phase (imageBack s l m) l
  · rw [slotHolds, kept]; exact slotHolds_slotReleased (imageBack s l m) l

/-- With the image back the store holds its cells, and what else a restore may not lose is as before. -/
theorem restorePart_imageBack (s : State) (l : Nat) (m : Image) : ∃ st,
    restorePart (imageBack s l m) = (s.pre, st, s.berths, s.map, fun n : Fin 18 => ctr s (cRestores n)) ∧
    (tabRising m.store = true → ∀ c ∈ m.store, memByte st (storeBase (physOf s l) + c.1) = c.2) := by
  let w := restoreWork s l
  let r := reprogram (logEvent (sysWork (countPm s false (slotAt l) m.size) w.1 (w.2 + m.size)) 4 0xFFFF (2 ^ l + 65536)) l
  have ready : restorePart r = restorePart s := by rw [restorePart_reprogram, restorePart_read]
  have stored (u : State) (st : List Host.Cell) (same : restorePart u = restorePart s) :
      restorePart { u with store := st } = (s.pre, st, s.berths, s.map, fun n : Fin 18 => ctr s (cRestores n)) := by
    simp only [restorePart, Prod.mk.injEq] at same
    obtain ⟨pre, -, berths, map, restores⟩ := same
    exact congr (congrArg _ pre) (congrArg _ (congr (congrArg _ berths) (congr (congrArg _ map) restores)))
  have served : physOf r l = physOf s l := by
    simp only [restorePart, Prod.mk.injEq] at ready
    obtain ⟨-, -, -, map, -⟩ := ready
    rw [physOf, map, physOf]
  refine ⟨storeBack r l m, ?_, fun rising => ?_⟩
  · rw [imageBack, restorePart_putImage, stored r _ ready]
  · rw [← served]
    exact memByte_cellsBack rising _

/-- The threads, cells and berths of a cluster from which no berth is leaving are back, and the restore is counted. -/
theorem restored_back (stays : ∀ e ∈ berthsOn s l, e.2.st ≠ .draining) (served : physOf s l < 18) (risingThreads : tabRising m.threads = true)
    (numbered : ∀ e ∈ m.threads, e.1 < 4096) (risingCells : tabRising m.store = true) :
    let u := restored s l m
    (∀ e ∈ m.threads, thread u (BitVec.ofNat 12 e.1) = threadBack e.2) ∧
    (∀ c ∈ m.store, memByte u.store (storeBase (physOf s l) + c.1) = c.2) ∧ (∀ e ∈ berthsOn u l, e.2.preempted = false) ∧
    ctr u (cRestores (physOf s l)) = ctr s (cRestores (physOf s l)) + 1 := by
  intro u
  let t := slotReleased (imageBack s l m) l
  obtain ⟨st, kept, cells⟩ := restorePart_imageBack s l m
  simp only [restorePart, Prod.mk.injEq] at kept
  obtain ⟨-, store, berths, map, restores⟩ := kept
  have marked : t.berths = s.berths.map (fun e => (e.1, markOn l false e.2)) := congrArg (List.map _) berths
  have none : freeVoids t l = t := freeVoids_none fun e there => by
    obtain ⟨-, b, was, same⟩ := berthsOn_marked marked there
    rw [← same]; exact stays b was
  have phys : physOf t l = physOf s l := congrArg (fun r : RepairMap => tabGet 31 r.clu l) map
  have ends : u = unhold (bump t (cRestores (physOf s l))) (fun _ => true) := by
    rw [← phys]
    show restored s l m = _
    rw [restored_eq]
    show unhold (bump (freeVoids t l) (cRestores (physOf (freeVoids t l) l))) _ = _
    rw [none]
  have records : OnlyRecords (bump t (cRestores (physOf s l))) u := by rw [ends]; exact .unhold _ _
  refine ⟨fun e listed => ?_, fun c listed => ?_, fun e there => ?_, ?_⟩
  · have back := thread_putImage (reprogram (logEvent (sysWork (countPm s false (slotAt l) m.size) (restoreWork s l).1
      ((restoreWork s l).2 + m.size)) 4 0xFFFF (2 ^ l + 65536)) l) l risingThreads numbered e listed
    have same : u.threads = (imageBack s l m).threads := records.threads
    rw [thread, same]
    exact back
  · have same : u.store = (imageBack s l m).store := records.store
    rw [same, store]
    exact cells risingCells c listed
  · have same : u.berths = s.berths.map (fun e => (e.1, markOn l false e.2)) := records.berths.trans marked
    exact (berthsOn_marked same there).1
  · have before : ctr t (cRestores (physOf s l)) = ctr s (cRestores (physOf s l)) := congrFun restores ⟨physOf s l, served⟩
    rw [records.counts _ (by simp only [cRestores, cluCtr]; omega) (by simp only [cRestores, cluCtr]; omega), ctr_bump_same, before]

end Back

/-! ### What RESTORE_COMPLETE finds -/

section Done
variable {s : State} {l : Nat} {m : Nat × Image}

theorem restoreDone_good (notLost : s.lost.lost = false) (restores : savePhase s l = .restoring)
    (image : s.pre.image.find? (fun e => decide (e.1 = l)) = some m) (good : imageGood s l m.2 = true) :
    restoreDone s l = restored s l m.2 := by
  simp only [restoreDone, image, restores, notLost, good, ne_eq, not_true_eq_false, Bool.false_eq_true, or_self, if_false, if_true]

theorem restoreDone_bad (notLost : s.lost.lost = false) (restores : savePhase s l = .restoring)
    (image : s.pre.image.find? (fun e => decide (e.1 = l)) = some m) (bad : imageGood s l m.2 = false) :
    restoreDone s l = loseDevice s 6 0xFFFF l := by
  simp only [restoreDone, image, restores, notLost, bad, ne_eq, not_true_eq_false, Bool.false_eq_true, or_self, if_false]

theorem restoreDone_other (other : savePhase s l ≠ .restoring) : restoreDone s l = s := by
  rw [restoreDone]
  split
  · rfl
  · rw [if_pos (.inl other)]

end Done

/-- Settles O26: the save, the start and the end of the restore, each in its phase only. -/
theorem preemptionPhases : Obligations.PreemptionPhases := by
  unfold Obligations.PreemptionPhases
  intro s l
  have next {u v : State} (same : u = v) : (Host.Outcome.next u : Host.Outcome State Fault Refusal) = .next v := congrArg _ same
  refine ⟨fun notLost stops stopped => ?_, fun other => next (saveDone_other other), fun _ running => next (saveDone_running running),
    fun notLost saved left noTeardown serves stays => ?_, fun other => next (restoreStart_other other),
    fun m notLost restores image => ⟨fun good => ?_, fun bad => ?_⟩, fun other => next (restoreDone_other other)⟩
  · obtain ⟨phase, held⟩ := saveDone_saved notLost stops stopped
    exact ⟨_, rfl, phase, held, saveDone_vacated notLost stops stopped⟩
  · refine ⟨_, next (restoreStart_saved notLost saved left noTeardown serves stays), savePhase_setSavePhase_same s _ _, rfl⟩
  · obtain ⟨phase, released⟩ := restored_released s l.toNat m.2
    refine ⟨_, next (restoreDone_good notLost restores image good), phase, released,
      fun stays served risingThreads numbered risingCells => ?_⟩
    exact restored_back (fun e there => of_decide_eq_true (List.all_eq_true.1 stays e there)) served risingThreads
      (fun e listed => of_decide_eq_true (List.all_eq_true.1 numbered e listed)) risingCells
  · refine ⟨_, next (restoreDone_bad notLost restores image bad), ?_⟩
    rw [loseDevice_lost notLost]
    exact ⟨rfl, rfl, rfl⟩

end Sys2Proof.Machine
end

section
/-! The family of the cluster instruction reference (06_cluster_instruction_reference.md): the instruction word (O59), the scalar
instructions (O2, O4, O5), handle registers (O6), loads and stores (O7), waits and fences (O9), the end of a step (O10). -/

namespace Sys2Proof.Machine
open Sys2Proof

/-! ## The instruction word (R145, R148) -/

section Word
variable {op : Nat} {f : Fields}

/-- Bits that lie above the low part of a word are bits of its upper part. -/
theorem extractLsb'_above {v w start len : Nat} {hi : BitVec v} {lo : BitVec w} {field : BitVec len} (past : w ≤ start)
    (above : hi.extractLsb' (start - w) len = field) : (hi ++ lo).extractLsb' start len = field :=
  (BitVec.extractLsb'_append_eq_of_le past).trans above

/-- Each field is the low part of what is left of the word above the fields before it. -/
theorem fieldsOf_encodeWord : fieldsOf (encodeWord op f) = f := by
  have low {v w : Nat} {hi : BitVec v} {lo : BitVec w} : (hi ++ lo).extractLsb' 0 w = lo := BitVec.extractLsb'_append_eq_right
  have fromY {start len : Nat} {field : BitVec len} (past : 18 ≤ start)
      (above : (f.imm ++ BitVec.ofBool f.pn ++ f.pg ++ f.z ++ f.y).extractLsb' (start - 8 - 5 - 5) len = field) :
      (encodeWord op f).extractLsb' start len = field :=
    extractLsb'_above (by omega) (extractLsb'_above (by omega) (extractLsb'_above (by omega) above))
  have fromPg {start len : Nat} {field : BitVec len} (past : 28 ≤ start)
      (above : (f.imm ++ BitVec.ofBool f.pn ++ f.pg).extractLsb' (start - 8 - 5 - 5 - 5 - 5) len = field) :
      (encodeWord op f).extractLsb' start len = field :=
    fromY (by omega) (extractLsb'_above (by omega) (extractLsb'_above (by omega) above))
  have d : (encodeWord op f).extractLsb' 8 5 = f.d := extractLsb'_above (by decide) low
  have x : (encodeWord op f).extractLsb' 13 5 = f.x := extractLsb'_above (by decide) (extractLsb'_above (by decide) low)
  have y : (encodeWord op f).extractLsb' 18 5 = f.y := fromY (by decide) low
  have z : (encodeWord op f).extractLsb' 23 5 = f.z := fromY (by decide) (extractLsb'_above (by decide) low)
  have pg : (encodeWord op f).extractLsb' 28 3 = f.pg := fromPg (by decide) low
  have pn : (encodeWord op f).extractLsb' 31 1 = BitVec.ofBool f.pn := fromPg (by decide) (extractLsb'_above (by decide) low)
  have imm : (encodeWord op f).extractLsb' 32 32 = f.imm :=
    fromPg (by decide) (extractLsb'_above (by decide) BitVec.extractLsb'_append_eq_left)
  have pnBit : (encodeWord op f).getLsbD 31 = f.pn := by
    have bit := congrArg (fun b => b.getLsbD 0) pn
    simpa using bit
  rw [fieldsOf, d, x, y, z, pg, pnBit, imm]

theorem opcodeOf_encodeWord (byte : op < 256) : opcodeOf (encodeWord op f) = op := by
  have low : (encodeWord op f).extractLsb' 0 8 = BitVec.ofNat 8 op := BitVec.extractLsb'_append_eq_right
  rw [opcodeOf, low, BitVec.toNat_ofNat, Nat.mod_eq_of_lt byte]

/-- A word decodes to the instruction of its opcode and its fields. -/
theorem decodeWord_encodeWord (lt : BitVec 12) (byte : op < 256) : decodeWord lt (encodeWord op f) = instrOf lt op f := by
  rw [decodeWord, opcodeOf_encodeWord byte, fieldsOf_encodeWord]

/-- An instruction's opcode is a byte, and is assigned to that instruction: one case for each row of R148. -/
theorem instrOf_of_spelling {i : Instr} {lt : BitVec 12} (spelled : spelling i = some (lt, op, f)) :
    op < 256 ∧ instrOf lt op f = some (withoutError i) := by
  unfold spelling at spelled
  split at spelled
  case h_72 => cases spelled
  all_goals
    cases spelled
    exact ⟨by decide, rfl⟩

end Word

/-- Settles O59: the fields of a word are read back from it, and its opcode is that of one instruction. -/
theorem decodeEncode : Obligations.DecodeEncode := by
  unfold Obligations.DecodeEncode
  intro i lt op f spelled
  obtain ⟨byte, assigned⟩ := instrOf_of_spelling spelled
  rw [decodeWord_encodeWord lt byte, assigned]

/-! ## The forms that an issued instruction takes (R114, R147–R150) -/

section Forms
variable {s : State} {lt : BitVec 12} {op : Nat} {f : Fields} {i : Instr} {checks : Thread → List (Option Exc)}
  {block : Thread → Option WaitOn} {act : State → Thread → State}

theorem issue_raises {e : Exc} (issued : canIssue s lt op f = true) (failed : firstExc (checks (thread s lt)) = some e) :
    issue s lt op f checks block act = raiseExc s lt e := by
  rw [issue_runs _ _ _ _ _ _ _ issued, failed]

theorem issue_holds {w : WaitOn} (issued : canIssue s lt op f = true) (waits : block (thread s lt) = some w) :
    issue s lt op f noChecks block act = hold s lt w := by
  rw [issue_runs _ _ _ _ _ _ _ issued, show firstExc (noChecks (thread s lt)) = none from rfl]
  simp only [waits]

/-- An instruction on the registers of its thread writes what it makes of the thread as issued. -/
theorem writesThread_of_issueReg {g : Thread → Thread} {u : Thread} (runs : exec i s = .next (issueReg s lt op f g))
    (makes : g (advance (thread s lt)) = u) (issued : canIssue s lt op f = true) : writesThread i s lt u := by
  subst makes
  exact writesThread_of s lt i _ (runs.trans (congrArg _ (issueReg_acts s lt op f g issued)))

/-- An instruction that writes its thread once its checks pass and its wait is over. -/
theorem writesThread_of_issue {g : State → Thread → Thread} {u : Thread}
    (runs : exec i s = .next (issue s lt op f checks block (fun v t => setThread v lt (g v t))))
    (makes : g (countIssue s lt) (advance (thread s lt)) = u) (issued : canIssue s lt op f = true)
    (passed : firstExc (checks (thread s lt)) = none) (free : block (thread s lt) = none) : writesThread i s lt u := by
  subst makes
  exact writesThread_of s lt i _ (runs.trans (congrArg _ (issue_acts s lt op f checks block _ issued passed free)))

/-- An instruction that is not issued leaves its thread WAITING with its pc on it, and nothing else changed (R114). -/
theorem held_of_issue {w : WaitOn} (runs : exec i s = .next (issue s lt op f noChecks block act)) (issued : canIssue s lt op f = true)
    (waits : block (thread s lt) = some w) :
    ∃ u, exec i s = .next u ∧ thread u lt = { thread s lt with st := .waiting, wait := some w } ∧
      { u with threads := s.threads } = s :=
  ⟨_, runs.trans (congrArg _ (issue_holds issued waits)), thread_setThread_same .., rfl⟩

theorem onlyThread_countIssue (t : Thread) : onlyThread s (setThread (countIssue s lt) lt t) lt := fun k other =>
  thread_setThread_other _ lt k t other

end Forms

/-! ## The scalar instructions (R154) -/

/-- Settles O2: each is one operation on two scalar registers, whose values its issue does not change. -/
theorem scalarResults : Obligations.ScalarResults := by
  unfold Obligations.ScalarResults
  intro s lt f t x y r
  have alu {i : Instr} {op : Nat} (g : BitVec 64 → BitVec 64 → BitVec 64) (runs : exec i s = .next (aluOp s lt op f g))
      (issued : canIssue s lt op f = true) : writesThread i s lt (r (g x y)) := writesThread_of_issueReg runs rfl issued
  exact ⟨alu (· + ·) rfl, alu (· - ·) rfl, alu (· * ·) rfl, alu (· &&& ·) rfl, alu (· ||| ·) rfl, alu (· ^^^ ·) rfl,
    alu (fun a b => a <<< (b.toNat % 64)) rfl, alu (fun a b => a >>> (b.toNat % 64)) rfl,
    alu (fun a b => a.sshiftRight (b.toNat % 64)) rfl, alu (fun a b => if b.toInt < a.toInt then b else a) rfl,
    alu (fun a b => if a.toInt < b.toInt then b else a) rfl⟩

theorem cmpOperand_register {t : Thread} {f : Fields} (form : immBits f 4 4 = 0) : cmpOperand t f = readS t f.y.toNat := by
  rw [cmpOperand, form, if_neg (by decide)]

theorem cmpOperand_immediate {t : Thread} {f : Fields} (form : immBits f 4 4 = 1) :
    cmpOperand t f = BitVec.ofInt 64 (signedOf 24 (immBits f 31 8)) := if_pos form

/-- Settles O4: each writes one register of its thread; CMP's second operand is of the form that imm[4] names. -/
theorem immediatesAndPredicates : Obligations.ImmediatesAndPredicates := by
  unfold Obligations.ImmediatesAndPredicates
  intro s lt f t
  have cmp : canIssue s lt 0x0F f = true → writesThread (.cmp lt f) s lt (writeP (advance t) f.d.toNat
      (allBits (cmpBy (immBits f 3 0) (readS t f.x.toNat) (cmpOperand t f)))) := writesThread_of_issueReg rfl rfl
  refine ⟨writesThread_of_issueReg rfl rfl, writesThread_of_issueReg rfl rfl, writesThread_of_issueReg rfl rfl,
    writesThread_of_issueReg rfl rfl, fun issued form => ?_, fun issued form => ?_, writesThread_of_issueReg rfl rfl⟩
  · rw [← cmpOperand_register form]; exact cmp issued
  · rw [← cmpOperand_immediate form]; exact cmp issued

/-- A relative target counts from the instruction's own address. -/
theorem relTarget_advance (t : Thread) (f : Fields) : relTarget (advance t) f = t.pc + f.imm * 8 := by
  rw [relTarget, advance, BitVec.add_sub_cancel]

/-- Settles O5: two relative targets, and JR's, whose one check is its alignment. -/
theorem branchTargets : Obligations.BranchTargets := by
  unfold Obligations.BranchTargets
  intro s lt f t
  refine ⟨?_, ?_, fun issued aligned => ?_, fun issued misaligned => ?_⟩
  · rw [← relTarget_advance]; exact writesThread_of_issueReg rfl rfl
  · rw [← relTarget_advance]; exact writesThread_of_issueReg rfl rfl
  · have passed : firstExc [chk (decide ((readS t f.x.toNat).toNat % 8 = 0)) .misaligned] = none := by
      rw [decide_eq_true aligned]; rfl
    exact writesThread_of_issue rfl rfl issued passed rfl
  · have failed : firstExc [chk (decide ((readS t f.x.toNat).toNat % 8 = 0)) .misaligned] = some .misaligned := by
      rw [decide_eq_false misaligned]; rfl
    exact congrArg _ (issue_raises issued failed)

/-! ## Handle registers (R146) -/

/-- Settles O6: each writes one register of its thread; HGET reads the half that imm[1] names. -/
theorem handleRegisters : Obligations.HandleRegisters := by
  unfold Obligations.HandleRegisters
  intro s lt f t h
  have hget : canIssue s lt 0x17 f = true → writesThread (.hget lt f) s lt (writeS (advance t) f.d.toNat
      (if immBits f 1 1 = 1 then (h >>> 64).setWidth 64 else h.setWidth 64)) := writesThread_of_issueReg rfl rfl
  refine ⟨writesThread_of_issueReg rfl rfl, fun issued half => ?_, fun issued half => ?_, writesThread_of_issueReg rfl rfl⟩
  · have low := hget issued
    rwa [half, if_neg (by decide)] at low
  · have high := hget issued
    rwa [if_pos half] at high

/-! ## Loads and stores (R120, R122, R154, R260) -/

section Access
variable {s : State} {lt : BitVec 12} {i : Instr} {t : Thread} {a k : Nat}

theorem firstExc_of_chkRead (aligned : a % k = 0) (window : (inWin t.bw ⟨a, k⟩ || inWin t.mw ⟨a, k⟩) = true) :
    firstExc [chk (decide (a % k = 0)) .misaligned, chkRead t ⟨a, k⟩] = none := by
  rw [chkRead, decide_eq_true aligned, window]; rfl

theorem firstExc_of_chkWrite (aligned : a % k = 0) (window : inWin t.bw ⟨a, k⟩ = true) :
    firstExc [chk (decide (a % k = 0)) .misaligned, chkWrite t ⟨a, k⟩] = none := by
  rw [chkWrite, decide_eq_true aligned, if_pos window]; rfl

/-- A misaligned address comes before a window that does not hold it (R150). -/
theorem firstExc_misaligned_read (misaligned : a % k ≠ 0) :
    firstExc [chk (decide (a % k = 0)) .misaligned, chkRead t ⟨a, k⟩] = some .misaligned := by
  rw [decide_eq_false misaligned, chkRead]
  cases inWin t.bw ⟨a, k⟩ || inWin t.mw ⟨a, k⟩ <;> rfl

theorem firstExc_misaligned_write (misaligned : a % k ≠ 0) :
    firstExc [chk (decide (a % k = 0)) .misaligned, chkWrite t ⟨a, k⟩] = some .misaligned := by
  rw [decide_eq_false misaligned, chkWrite]
  cases inWin t.bw ⟨a, k⟩
  · cases inWin t.mw ⟨a, k⟩ <;> rfl
  · rfl

theorem loadsThread_of {u : Thread} {n : Nat}
    (runs : exec i s = .next (storeMoved (setThread (countIssue s lt) lt u) (thread s lt).client n)) : loadsThread i s lt u n :=
  ⟨_, runs, thread_setThread_same .., onlyThread_countIssue u, countsOne_issue s lt u, rfl⟩

@[simp] theorem length_natLe (v n : Nat) : (natLe v n).length = n := by
  induction n generalizing v with
  | zero => rfl
  | succ n ih => rw [natLe, List.length_cons, ih]

/-- The store of a cluster after the `n` bytes of a number have been written to it: they read back, and every other byte as before. -/
theorem storePut_natLe (s : State) (l a v n : Nat) :
    let u := storePut s l a (natLe v n)
    let b := physOf s l * 2 ^ 25 + a
    memBytes u.store b n = natLe v n ∧ ∀ c, (c < b ∨ b + n ≤ c) → memByte u.store c = memByte s.store c := by
  intro u b
  have written := memBytes_putBytes_same s.store b (natLe v n)
  rw [length_natLe] at written
  exact ⟨written, fun c outside => memByte_putBytes_other s.store b c _ (by rwa [length_natLe])⟩

/-- A store writes the bytes of a number into its cluster's store, notes them for its client, and does nothing else. -/
theorem storesBytes_of {l v n : Nat} {c : BitVec 10}
    (runs : exec i s = .next (storeMoved (storePut (setThread (countIssue s lt) lt t) l a (natLe v n)) c n)) :
    ∃ u, exec i s = .next u ∧ thread u lt = t ∧ onlyThread s u lt ∧
      memBytes u.store (physOf s l * 2 ^ 25 + a) n = natLe v n ∧
      (∀ b, (b < physOf s l * 2 ^ 25 + a ∨ physOf s l * 2 ^ 25 + a + n ≤ b) → memByte u.store b = memByte s.store b) ∧
      { u with threads := s.threads, ctrs := s.ctrs, store := s.store } = storeMoved s c n := by
  obtain ⟨written, others⟩ := storePut_natLe (setThread (countIssue s lt) lt t) l a v n
  exact ⟨_, runs, thread_setThread_same .., onlyThread_countIssue t, written, others, rfl⟩

end Access

/-- The state in which an LD reports `ecc` corrected errors of cluster `n`'s memories (R123). -/
def eccNoted (s : State) (n ecc : Nat) : State := if ecc = 0 then s else addCtr (setFlag s (fEccEv n)) (cEccCorr n) ecc

theorem flagOn_eccNoted {ecc : Nat} (reports : ecc ≠ 0) (s : State) (n : Nat) : flagOn (eccNoted s n ecc) (fEccEv n) = true := by
  rw [eccNoted, if_neg reports]
  exact flagOn_setFlag_same s (fEccEv n) (by simp [fEccEv])

theorem ctr_eccNoted {ecc : Nat} (reports : ecc ≠ 0) (s : State) (n : Nat) :
    ctr (eccNoted s n ecc) (cEccCorr n) = ctr s (cEccCorr n) + BitVec.ofNat 48 ecc := by
  have notFlag : cEccCorr n ≠ (fEccEv n).ctr := by simp only [cEccCorr, cluCtr, fEccEv, flagCtr]; omega
  rw [eccNoted, if_neg reports, ctr_addCtr_same, ctr_setFlag, if_neg notFlag]

/-- What an LD reports changes flags and counters only. -/
theorem eccNoted_frame (s : State) (n ecc : Nat) : { eccNoted s n ecc with ctrs := s.ctrs, regs := s.regs } = s := by
  by_cases clean : ecc = 0
  · rw [eccNoted, if_pos clean]
  · rw [eccNoted, if_neg clean]; rfl

/-- Settles O7: each access passes its two checks or its alignment fails first, and then reads or writes its bytes. -/
theorem loadsAndStores : Obligations.LoadsAndStores := by
  unfold Obligations.LoadsAndStores
  intro s lt f t n a k v h
  have ld (ecc : Nat) (issued : canIssue s lt 0x11 f = true) (aligned : a % k = 0)
      (window : (inWin t.bw ⟨a, k⟩ || inWin t.mw ⟨a, k⟩) = true) : exec (.ld lt f ecc) s =
        .next (storeMoved (setThread (eccNoted (countIssue s lt) n ecc) lt (writeS (advance t) f.d.toNat
          (if f.z.toNat / 4 = 1 then BitVec.ofInt 64 (signedOf (8 * k) v) else BitVec.ofNat 64 v))) t.client k) :=
    congrArg _ (issue_acts _ _ _ _ _ _ _ issued (firstExc_of_chkRead aligned window) rfl)
  refine ⟨fun issued aligned window => loadsThread_of (ld 0 issued aligned window), fun ecc issued aligned window reports => ?_,
    fun ecc issued misaligned => congrArg _ (issue_raises issued (firstExc_misaligned_read misaligned)),
    fun issued aligned window => ?_,
    fun issued misaligned => congrArg _ (issue_raises issued (firstExc_misaligned_write misaligned)),
    fun issued aligned window => ?_,
    fun issued misaligned => congrArg _ (issue_raises issued (firstExc_misaligned_read misaligned)),
    fun issued aligned window => ?_⟩
  · have frame := eccNoted_frame (countIssue s lt) n ecc
    have threads : (eccNoted (countIssue s lt) n ecc).threads = s.threads := (congrArg State.threads frame :)
    refine ⟨_, ld ecc issued aligned window,
      ⟨(congrArg State.store frame :), (congrArg State.pm frame :), (congrArg State.ret frame :)⟩, fun j other => ?_,
      flagOn_eccNoted reports (countIssue s lt) n, ?_, thread_setThread_same ..⟩
    · have kept : thread (eccNoted (countIssue s lt) n ecc) j = thread s j := by rw [thread, threads, thread]
      exact (thread_setThread_other _ lt j _ other).trans kept
    · have notIssued : cEccCorr n ≠ cIssued n := by simp only [cEccCorr, cIssued, cluCtr]; omega
      have counted := ctr_eccNoted reports (countIssue s lt) n
      rw [countIssue, ctr_bump_other _ _ _ notIssued] at counted
      exact counted
  · exact storesBytes_of (congrArg _ (issue_acts _ _ _ _ _ _ _ issued (firstExc_of_chkWrite aligned window) rfl))
  · exact loadsThread_of (congrArg _ (issue_acts _ _ _ _ _ _ _ issued (firstExc_of_chkRead aligned window) rfl))
  · exact storesBytes_of (congrArg _ (issue_acts _ _ _ _ _ _ _ issued (firstExc_of_chkWrite aligned window) rfl))

/-! ## Waits and fences (R168–R175) -/

section Waits
variable {s : State} {lt : BitVec 12} {t : Thread} {f : Fields} {mask : Nat}

theorem engineWait_none (idle : anyOutst t mask = false) : engineWait t mask = none := by
  rw [engineWait, if_neg (by rw [idle]; decide)]

theorem finishWait_none (idle : anyOutst t 63 = false) : finishWait t = none := by
  rw [finishWait, if_neg (by rw [idle]; decide)]

/-- What an FWAIT waits for, if its counter has not reached its target. -/
def counterWait (s : State) (lt : BitVec 12) (f : Fields) (t : Thread) : Option WaitOn :=
  let target := (readS t f.x.toNat).setWidth 32
  if reached (fenceCtr s lt t (immBits f 3 0)) target then none else some (.counter f.d (BitVec.ofNat 4 (immBits f 3 0)) target)

theorem counterWait_none (come : reached (fenceCtr s lt t (immBits f 3 0)) ((readS t f.x.toNat).setWidth 32) = true) :
    counterWait s lt f t = none := if_pos come

theorem counterWait_some (ahead : reached (fenceCtr s lt t (immBits f 3 0)) ((readS t f.x.toNat).setWidth 32) = false) :
    counterWait s lt f t = some (.counter f.d (BitVec.ofNat 4 (immBits f 3 0)) ((readS t f.x.toNat).setWidth 32)) :=
  if_neg (by rw [ahead]; decide)

/-- A signal changes threads, the count of issues and the store only: the threads that wait on its counter are woken (R170). -/
theorem signalled_frame (s : State) (lt : BitVec 12) (t : Thread) (l a : Nat) (bs : List (BitVec 8)) :
    { wake (storePut (setThread (countIssue s lt) lt t) l a bs) l with threads := s.threads, ctrs := s.ctrs, store := s.store } = s := by
  simp only [wake, storePut, setThread, countIssue, bump, addCtr]

/-- FSIG past its release mask (R170). -/
theorem exec_fsig (issued : canIssue s lt 0x1D f = true) (released : anyOutst (thread s lt) (immBits f 9 4) = false) :
    exec (.fsig lt f) s = .next (wake (storePut (setThread (countIssue s lt) lt (advance (thread s lt))) (lcluOf lt)
      (fenceAddr (thread s lt) (immBits f 3 0))
      (natLe (fenceCtr s lt (thread s lt) (immBits f 3 0) + BitVec.ofNat 32 (immBits f 31 16)).toNat 4)) (lcluOf lt)) :=
  congrArg Host.Outcome.next (issue_acts s lt 0x1D f _ _ _ issued rfl (engineWait_none released))

theorem execFwait_eq : execFwait lt f s = .next (issue s lt 0x1E f noChecks (counterWait s lt f)
    (fun u t => setThread u lt (writeP t f.d.toNat (BitVec.allOnes 1024)))) := rfl

theorem timedOut_frame (s : State) (lt : BitVec 12) (i : Nat) (t : Thread) :
    { setThread (bump (countIssue s lt) i) lt t with threads := s.threads, ctrs := s.ctrs } = s := by
  simp only [setThread, countIssue, bump, addCtr]

/-- The timeout of a thread that waits on a fence counter (R171, R175). -/
theorem exec_fwaitTimeout {d : BitVec 5} {i : BitVec 4} {v : BitVec 32} (notLost : s.lost.lost = false)
    (waiting : (thread s lt).st = .waiting) (counter : (thread s lt).wait = some (.counter d i v)) (met : Bool) :
    let n := physOf s (lcluOf lt)
    exec (.fwaitTimeout lt met) s = .next (setThread (bump (countIssue s lt) (if met then cFwNear n else cFwTmo n)) lt
      (advance { writeP (thread s lt) d.toNat (allBits met) with st := .ready, wait := none, since := readyAt s 0 })) := by
  intro n
  change execFwaitTimeout lt met s = _
  simp only [execFwaitTimeout, notLost, waiting, counter, Bool.false_eq_true, if_false]
  rfl

theorem allBits_eq (b : Bool) : allBits b = if b then BitVec.allOnes 1024 else 0 := rfl

theorem ctr_bump_add (s : State) (i k : Nat) : ctr (bump s i) k = ctr s k + (if k = i then 1 else 0) := by
  rw [ctr_bump]
  split
  · rfl
  · exact (BitVec.add_zero _).symm

end Waits

/-- Settles O9: each waits on one thing, and acts on its thread or its fence counter when that has come. -/
theorem waitsAndFences : Obligations.WaitsAndFences := by
  unfold Obligations.WaitsAndFences
  intro s lt f t n vm am k c target
  refine ⟨fun issued come => writesThread_of_issue rfl rfl issued rfl (if_pos come),
    fun issued pending => held_of_issue rfl issued (if_neg pending),
    fun issued idle => writesThread_of_issue rfl rfl issued rfl (engineWait_none idle),
    fun issued busy => held_of_issue rfl issued (if_pos busy), fun issued idle => ?_,
    fun issued come => writesThread_of_issue execFwait_eq rfl issued rfl (counterWait_none come),
    fun issued ahead => held_of_issue execFwait_eq issued (counterWait_some ahead), fun d i v notLost waiting counter met => ?_⟩
  · obtain ⟨written, others⟩ := storePut_natLe (setThread (countIssue s lt) lt (advance t)) (lcluOf lt) (fenceAddr t k)
      (c + BitVec.ofNat 32 (immBits f 31 16)).toNat 4
    exact ⟨_, exec_fsig issued idle, written, others, signalled_frame ..⟩
  · rw [← allBits_eq]
    refine ⟨_, exec_fwaitTimeout notLost waiting counter met, thread_setThread_same ..,
      fun j other => thread_setThread_other _ lt j _ other, fun j => ?_, timedOut_frame ..⟩
    exact (ctr_bump_add (countIssue s lt) _ j).trans (congrArg (· + _) (ctr_bump_add s (cIssued n) j))

/-! ## The end of a step (R35, R167) -/

/-- A berth whose commit is asked for (R35). -/
def askedToCommit (last : Bool) (b : Berth) : Berth := { b with committed := true, lastStep := last || decide (b.step = 16777215) }

section EndStep
variable {i : Instr} {s : State} {lt : BitVec 12} {t : Thread} {last : Bool}

theorem thread_endStep : thread (endStep s lt t last) lt = { t with st := .sleeping, pc := t.entryPc } :=
  thread_setThread_same s lt { t with st := .sleeping, pc := t.entryPc }

theorem onlyThread_endStep : onlyThread s (endStep s lt t last) lt := fun k other =>
  thread_setThread_other s lt k { t with st := .sleeping, pc := t.entryPc } other

theorem berth_endStep : berth (endStep s lt t last) t.berth = askedToCommit last (berth s t.berth) :=
  berth_modBerth_same (setThread s lt { t with st := .sleeping, pc := t.entryPc }) t.berth (askedToCommit last)

theorem onlyBerth_endStep : onlyBerth s (endStep s lt t last) t.berth := fun b other =>
  berth_modBerth_other (setThread s lt { t with st := .sleeping, pc := t.entryPc }) t.berth b (askedToCommit last) other

/-- The end of a step changes its thread, its berth and the count of issues only. -/
theorem endsStep_of (runs : exec i s = .next (endStep (countIssue s lt) lt (advance (thread s lt)) last)) :
    let t := thread s lt
    ∃ u, exec i s = .next u ∧ thread u lt = { advance t with st := .sleeping, pc := t.entryPc } ∧
      berth u t.berth = askedToCommit last (berth s t.berth) ∧ onlyThread s u lt ∧ onlyBerth s u t.berth ∧
      { u with threads := s.threads, ctrs := s.ctrs, berths := s.berths } = s :=
  ⟨_, runs, thread_endStep, berth_endStep, onlyThread_endStep,
    onlyBerth_endStep (s := countIssue s lt) (t := advance (thread s lt)), rfl⟩

end EndStep

/-- Settles O10: BEND and BLAST differ in the mark of the last step, which BLAST sets whatever the step's index. -/
theorem stepEndAndInfo : Obligations.StepEndAndInfo := by
  unfold Obligations.StepEndAndInfo
  intro s lt f t
  refine ⟨fun issued idle => ?_, fun issued idle => ?_, fun issued => ?_, rfl, rfl, rfl, rfl, rfl⟩
  · exact endsStep_of (last := false) (congrArg _ (issue_acts _ _ _ _ _ _ _ issued rfl (finishWait_none idle)))
  · exact endsStep_of (last := true) (congrArg _ (issue_acts _ _ _ _ _ _ _ issued rfl (finishWait_none idle)))
  · exact writesThread_of_issue rfl rfl issued rfl rfl

end Sys2Proof.Machine
end

section
/-! The family of recurrence and state (07_recurrence_and_state.md): the copies of a berth's window (O31). -/

namespace Sys2Proof.Machine
open Sys2Proof

/-! ## Copied bytes (R120, R276) -/

@[simp] theorem length_memBytes (m : List (Nat × BitVec 8)) (a n : Nat) : (memBytes m a n).length = n := by
  induction n generalizing a with
  | zero => rfl
  | succ n ih => rw [memBytes, List.length_cons, ih]

/-- Bytes copied from one place read the same at the other, whatever the two memories are. -/
theorem memBytes_copied (m src : List (Nat × BitVec 8)) (a b n : Nat) :
    memBytes (memPutBytes m a (memBytes src b n)) a n = memBytes src b n := by
  have written := memBytes_putBytes_same m a (memBytes src b n)
  rwa [length_memBytes] at written

/-- The store of a cluster reads by its map entry and the store's bytes alone. -/
theorem storeBytes_congr {s u : State} (store : u.store = s.store) (map : u.map = s.map) (l a n : Nat) :
    storeBytes u l a n = storeBytes s l a n := by
  rw [storeBytes, storeBytes, store, physOf, physOf, map]

/-! ## Items that complete leave the counters of the berths (R202, R272, R318) -/

section RecordCounters
variable {k : Nat} (below : k < memCtr 0) (s : State) (c : BitVec 10)
include below

/-- The counters of the hub lie past those of the berths. -/
theorem ctr_addCtr_hif_below (j n : Nat) : ctr (addCtr s (hifCtr j) n) k = ctr s k :=
  ctr_addCtr_other _ _ _ _ (by simp only [memCtr] at below; simp only [hifCtr]; omega)

theorem ctr_testIrq_below : ctr (testIrq s c) k = ctr s k := by
  simp only [testIrq]
  split
  · exact ctr_addCtr_hif_below below _ 19 1
  · rfl

theorem ctr_putRecord_below (r : Record) : ctr (putRecord s c r) k = ctr s k :=
  (ctr_testIrq_below below _ c).trans (ctr_addCtr_hif_below below _ 2 1)

theorem ctr_spillRecord_below (r : Record) : ctr (spillRecord s c r) k = ctr s k := by
  have small : k < 0xA00 := by simp only [memCtr] at below; omega
  rw [spillRecord, ctr_bump_other _ _ _ (by simp only [memCtr] at below ⊢; omega), ctr_hubPm small]
  rfl

theorem ctr_postRecord_below (r : Record) : ctr (postRecord s c r) k = ctr s k := by
  simp only [postRecord]
  split
  · rfl
  · split
    · exact ctr_putRecord_below below s c r
    · exact ctr_spillRecord_below below s c _

theorem ctr_completeItem_below (i : Item) (status : Nat) (d : List (BitVec 8)) : ctr (completeItem s c i status d) k = ctr s k :=
  (ctr_postRecord_below below _ c _).trans (ctr_addCtr_hif_below below _ 1 1)

theorem ctr_completeAll_below (p : Item → Bool) (status : Nat) (d : Item → List (BitVec 8)) :
    ctr (completeAll s p status d) k = ctr s k :=
  List.foldlRecOn (motive := fun u => ctr u k = ctr s k) _ _ rfl fun _ kept _ _ =>
    List.foldlRecOn (motive := fun u => ctr u k = ctr s k) _ _ kept fun t kept i _ =>
      (ctr_completeItem_below below t _ i status (d i)).trans kept

end RecordCounters

/-! ## What the end of a copy answers (R194, R267) -/

/-- Items have completed or may be taken up again, and no counter of the calibration, the sequence layer, the random source or
the berths has moved. -/
structure AnswersItems (s u : State) : Prop where
  records : OnlyRecords s u
  counts : ∀ k, k < memCtr 0 → ctr u k = ctr s k

namespace AnswersItems
variable {s t u : State} {b : BitVec 12}

theorem completeBegun (s : State) (b : BitVec 12) (op : Nat) : AnswersItems s (completeBegun s b op) :=
  ⟨OnlyRecords.completeAll .., fun _ below => ctr_completeAll_below below ..⟩

theorem completeBegun_unholdBerth (s : State) (b : BitVec 12) (op : Nat) :
    AnswersItems s (unholdBerth (Machine.completeBegun s b op) b) :=
  ⟨(completeBegun s b op).records.trans (OnlyRecords.unhold ..), (completeBegun s b op).counts⟩

section Kept
variable (h : AnswersItems t u)
include h

theorem store : u.store = t.store := h.records.store
theorem ret : u.ret = t.ret := (congrArg State.ret h.records.frame.1 :)
theorem map : u.map = t.map := (congrArg State.map h.records.frame.1 :)
theorem storeBytes (l a n : Nat) : storeBytes u l a n = storeBytes t l a n := storeBytes_congr h.store h.map l a n
theorem spillOnly (pm : t.pm = s.pm) : spillOnly s u := fun a out => by rw [h.records.frame.2 a out, pm]
theorem thread (lt : BitVec 12) : thread u lt = thread t lt := by rw [Machine.thread, h.records.threads, Machine.thread]
theorem berth (k : BitVec 12) : berth u k = berth t k := berth_of_frameItem h.records.frame k
theorem onlyBerth (only : onlyBerth s t b) : onlyBerth s u b := fun k other => (h.berth k).trans (only k other)

end Kept
end AnswersItems

/-! ## PARK_COPY_DONE and UNPARK_COPY_DONE (R194) -/

section Copies
variable {s : State} {b : BitVec 12}

/-- The copy of berth `b`'s window has ended: its bytes are counted, the berth is `v`, and the copy is counted in `k`. -/
def copyEnded (s : State) (b : BitVec 12) (wr : Bool) (v : Berth) (k : Nat) : State :=
  let e := berth s b
  bump (setBerth (hubPm s e.client wr (swapAt e) (winLen e)) b v) k

section Ended
variable (s b) (wr : Bool) (v : Berth) (k : Nat)

theorem copyEnded_pm : (copyEnded s b wr v k).pm = s.pm := hubPm_pm s (berth s b).client ..
theorem copyEnded_store : (copyEnded s b wr v k).store = s.store := hubPm_store s (berth s b).client ..
theorem copyEnded_ret : (copyEnded s b wr v k).ret = s.ret := hubPm_ret s (berth s b).client ..
theorem copyEnded_map : (copyEnded s b wr v k).map = s.map :=
  (congrArg State.map (hubPm_frame s (berth s b).client wr (swapAt (berth s b)) (winLen (berth s b))) :)
theorem copyEnded_berth : berth (copyEnded s b wr v k) b = v := berth_setBerth_same _ b v
theorem copyEnded_onlyBerth : onlyBerth s (copyEnded s b wr v k) b := fun j other =>
  (onlyBerth_setBerth v j other).trans (berth_hubPm ..)
theorem copyEnded_ctr {k : Nat} (low : k < 0xA00) : ctr (copyEnded s b wr v k) k = ctr s k + 1 :=
  (ctr_bump_same ..).trans (congrArg (· + 1) (ctr_hubPm (c := (berth s b).client) low ..))

end Ended

/-- The window's bytes lie in the swap area. -/
def windowOut (s : State) (b : BitVec 12) : State :=
  let e := berth s b
  pmPut s (swapAt e) (storeBytes s (lcluOf e.lthread) e.winBase (winLen e))

/-- The swap area's bytes lie in the window. -/
def windowBack (s : State) (b : BitVec 12) : State :=
  let e := berth s b
  storePut s (lcluOf e.lthread) e.winBase (pmBytes s (swapAt e) (winLen e))

theorem parkCopyDone_copies (copying : (berth s b).copying = true) (out : (berth s b).copyBack = false)
    (held : (berth s b).st ≠ .free) : parkCopyDone s b =
      unholdBerth (completeBegun (copyEnded (windowOut s b) b true { berth s b with copying := false } (seqDevCtr 0)) b 0x07) b :=
  if_pos ⟨copying, by rw [out]; rfl, held⟩

theorem unparkCopyDone_copies (copying : (berth s b).copying = true) (back : (berth s b).copyBack = true)
    (held : (berth s b).st ≠ .free) : unparkCopyDone s b =
      completeBegun (copyEnded (windowBack s b) b false
        { berth s b with copying := false, copyBack := false, unparkDue := true } (seqDevCtr 1)) b 0x08 :=
  if_pos ⟨copying, back, held⟩

theorem parkCopyDone_idle (idle : (berth s b).copying = false) : parkCopyDone s b = s :=
  if_neg fun under => by simp [idle] at under

theorem unparkCopyDone_idle (idle : (berth s b).copying = false) : unparkCopyDone s b = s :=
  if_neg fun under => by simp [idle] at under

/-- The swap area lies past the spill rings, so the records of the items that complete leave it. -/
theorem memBytes_windowOut {u : State} {v : Berth} {k : Nat} (past : 0x10000000 ≤ swapAt (berth s b))
    (answers : AnswersItems (copyEnded (windowOut s b) b true v k) u) :
    let e := berth s b
    memBytes u.pm (swapAt e) (winLen e) = storeBytes s (lcluOf e.lthread) e.winBase (winLen e) := by
  intro e
  rw [answers.records.memBytes_past past, copyEnded_pm]
  exact memBytes_copied ..

theorem storeBytes_windowBack {u : State} {v : Berth} {k : Nat}
    (answers : AnswersItems (copyEnded (windowBack s b) b false v k) u) :
    let e := berth s b
    storeBytes u (lcluOf e.lthread) e.winBase (winLen e) = pmBytes s (swapAt e) (winLen e) := by
  intro e
  rw [answers.storeBytes, storeBytes_congr (copyEnded_store ..) (copyEnded_map ..)]
  exact memBytes_copied ..

/-! ## BERTH_MOVE_COPY_DONE (R267) -/

/-- The berth's streams are dropped, and the window's bytes lie at the reserved place. -/
def windowAt (s : State) (b lt : BitVec 12) (base : Nat) : State :=
  let e := berth s b
  storePut (dropStreams s b) (lcluOf lt) base (storeBytes (dropStreams s b) (lcluOf e.lthread) e.winBase (winLen e))

/-- The berth and its thread stand at the reserved place too. -/
def berthMoved (s : State) (b lt : BitVec 12) (base : Nat) : State :=
  let e := berth s b
  let bound := setThread (clearThread (windowAt s b lt base) e.lthread) lt (movedThread (dropStreams s b) e lt base)
  voidProposals (bump (setBerth bound b { e with lthread := lt, winBase := base, moving := false, moveThr := none }) (bthCtr 7)) b

theorem moveDone_moves {lt : BitVec 12} {base : Nat} (target : (berth s b).moveThr = some (lt, base))
    (moving : (berth s b).moving = true) : moveDone s b = unholdBerth (completeBegun (berthMoved s b lt base) b 0x09) b := by
  simp only [moveDone, target, moving, if_true]
  rfl

theorem moveDone_idle (idle : (berth s b).moving = false) : moveDone s b = s := by
  simp only [moveDone, idle, Bool.false_eq_true, if_false]
  split <;> rfl

section Moved
variable (s b) (lt : BitVec 12) (base : Nat)

theorem berthMoved_store : (berthMoved s b lt base).store = (windowAt s b lt base).store := by
  simp only [berthMoved, voidProposals, bump_store, setBerth_store, clearThread, setThread_store]

theorem berthMoved_ctrs : (berthMoved s b lt base).ctrs = (bump s (bthCtr 7)).ctrs := by
  simp only [berthMoved, voidProposals, bump, addCtr_ctrs, setBerth_ctrs, clearThread, setThread_ctrs, windowAt, storePut_ctrs,
    dropStreams]

/-- A move changes one store, two threads, one berth, its streams, its proposals and a count. -/
theorem berthMoved_frame :
    { berthMoved s b lt base with store := s.store, threads := s.threads, berths := s.berths, streams := s.streams,
                                  sched := s.sched, ctrs := s.ctrs } = s := by
  simp only [berthMoved, voidProposals, bump, addCtr, setBerth, clearThread, setThread, windowAt, storePut, dropStreams]

theorem berthMoved_pm : (berthMoved s b lt base).pm = s.pm := (congrArg State.pm (berthMoved_frame s b lt base) :)
theorem berthMoved_ret : (berthMoved s b lt base).ret = s.ret := (congrArg State.ret (berthMoved_frame s b lt base) :)
theorem berthMoved_map : (berthMoved s b lt base).map = s.map := (congrArg State.map (berthMoved_frame s b lt base) :)

theorem storeBytes_berthMoved : storeBytes (berthMoved s b lt base) (lcluOf lt) base (winLen (berth s b)) =
    storeBytes s (lcluOf (berth s b).lthread) (berth s b).winBase (winLen (berth s b)) := by
  rw [storeBytes_congr (s := windowAt s b lt base) (berthMoved_store ..) (berthMoved_map ..)]
  exact memBytes_copied ..

theorem berthMoved_berth : berth (berthMoved s b lt base) b =
    { berth s b with lthread := lt, winBase := base, moving := false, moveThr := none } := berth_setBerth_same _ b _

theorem berthMoved_onlyBerth : onlyBerth s (berthMoved s b lt base) b := fun k other => berth_setBerth_other _ b k _ other

theorem berthMoved_thread : thread (berthMoved s b lt base) lt = movedThread (dropStreams s b) (berth s b) lt base :=
  thread_setThread_same _ lt _

theorem berthMoved_oldThread {lt : BitVec 12} (other : lt ≠ (berth s b).lthread) :
    thread (berthMoved s b lt base) (berth s b).lthread = {} :=
  (thread_setThread_other _ lt _ _ other.symm).trans (thread_setThread_same ..)

theorem berthMoved_ctr : ctr (berthMoved s b lt base) (bthCtr 7) = ctr s (bthCtr 7) + 1 := by
  rw [ctr, berthMoved_ctrs, ← ctr, ctr_bump_same]

end Moved
end Copies

/-- Settles O31: each end of a copy is one range of bytes written, the berth's new entry and one count; the items that it answers
leave all three. -/
theorem berthCopies : Obligations.BerthCopies := by
  unfold Obligations.BerthCopies
  intro s b e l
  refine ⟨fun copying out held past => ?_, fun copying back held => ?_, fun lt base target moving other => ?_,
    fun idle => ⟨congrArg Host.Outcome.next (parkCopyDone_idle idle), congrArg Host.Outcome.next (unparkCopyDone_idle idle)⟩,
    fun idle => congrArg Host.Outcome.next (moveDone_idle idle)⟩
  · have answers := AnswersItems.completeBegun_unholdBerth
      (copyEnded (windowOut s b) b true { e with copying := false } (seqDevCtr 0)) b 0x07
    refine ⟨_, congrArg Host.Outcome.next (parkCopyDone_copies copying out held), memBytes_windowOut past answers,
      answers.store.trans (copyEnded_store ..), answers.ret.trans (copyEnded_ret ..), (answers.berth b).trans (copyEnded_berth ..),
      answers.onlyBerth (copyEnded_onlyBerth (windowOut s b) b _ _ _), ?_⟩
    exact (answers.counts _ (by decide)).trans (copyEnded_ctr (windowOut s b) b _ _ (by decide))
  · have answers := AnswersItems.completeBegun (copyEnded (windowBack s b) b false
      { e with copying := false, copyBack := false, unparkDue := true } (seqDevCtr 1)) b 0x08
    refine ⟨_, congrArg Host.Outcome.next (unparkCopyDone_copies copying back held), storeBytes_windowBack answers,
      answers.spillOnly (copyEnded_pm (windowBack s b) ..), answers.ret.trans (copyEnded_ret ..),
      (answers.berth b).trans (copyEnded_berth ..), answers.onlyBerth (copyEnded_onlyBerth (windowBack s b) b _ _ _), ?_⟩
    exact (answers.counts _ (by decide)).trans (copyEnded_ctr (windowBack s b) b _ _ (by decide))
  · have answers := AnswersItems.completeBegun_unholdBerth (berthMoved s b lt base) b 0x09
    have thread := (answers.thread lt).trans (berthMoved_thread s b lt base)
    refine ⟨_, congrArg Host.Outcome.next (moveDone_moves target moving),
      (answers.storeBytes ..).trans (storeBytes_berthMoved s b lt base), answers.spillOnly (berthMoved_pm ..),
      answers.ret.trans (berthMoved_ret ..),
      (answers.berth b).trans (berthMoved_berth ..), answers.onlyBerth (berthMoved_onlyBerth s b lt base),
      (answers.thread _).trans (berthMoved_oldThread s b base other), ?_, ?_,
      (answers.counts _ (by decide)).trans (berthMoved_ctr ..)⟩
    · rw [thread, movedThread]
    · rw [thread]
      rfl

end Sys2Proof.Machine
end

section
/-! The family of sampling and random bits (08_sampling_and_random_bits.md): the noise source, its health tests and the requests that
wait for entropy (O27). -/

namespace Sys2Proof.Machine
open Sys2Proof

/-! ## The health tests (R204, R205) -/

theorem length_rawBits {n : Nat} (lo hi : BitVec n) : (rawBits n lo hi).length = n + n := by
  simp [rawBits, upTo]

section Tests
variable {s : State} {bits : List Bool}

/-- A failure names one of the two tests, at one of the bits. -/
theorem mem_ntFails {e : Nat × Flag} (fails : e ∈ ntFails s bits) : e.1 < bits.length ∧ (e.2 = fRctFail ∨ e.2 = fAptFail) := by
  obtain ⟨i, inside, either⟩ := List.mem_flatMap.mp fails
  have below : i < bits.length := List.mem_range.mp inside
  rcases List.mem_append.mp either with rct | apt
  · rw [List.mem_singleton.mp (List.mem_ite_nil_right.mp rct).2]
    exact ⟨below, .inl rfl⟩
  · rw [List.mem_singleton.mp (List.mem_ite_nil_right.mp apt).2]
    exact ⟨below, .inr rfl⟩

/-- The counters of the two flags are the flags' own, past those of the random source. -/
theorem rngCtr_ne_testCtr {f : Flag} (test : f = fRctFail ∨ f = fAptFail) {k : Nat} (inSet : k < 16) : rngCtr k ≠ f.ctr := by
  rcases test with rfl | rfl
  · simp only [rngCtr, fRctFail, flagCtr]; omega
  · simp only [rngCtr, fAptFail, flagCtr]; omega

end Tests

/-! ### Raw bits pass -/

section Passed
variable (s : State) (bits : List Bool) (n : Nat)

@[simp] theorem keepRun_nt : (keepRun s bits).rng.nt = s.rng.nt := rfl
@[simp] theorem rawPassed_nt : (rawPassed s n).rng.nt = s.rng.nt := rfl
@[simp] theorem flagOn_keepRun (f : Flag) : flagOn (keepRun s bits) f = flagOn s f := rfl
@[simp] theorem ctr_keepRun (k : Nat) : ctr (keepRun s bits) k = ctr s k := rfl

theorem sameMemories_bitsPassed : sameMemories s (keepRun (rawPassed s n) bits) := ⟨rfl, rfl, rfl⟩

end Passed

/-! ### Flags set one after the other (R455) -/

section Flags
variable (s : State) {f : Flag}

theorem flagOn_setFlag_kept (g : Flag) (on : flagOn s f = true) : flagOn (setFlag s g) f = true := by
  rw [flagOn_setFlag, on, Bool.true_or]

theorem flagOn_foldl_setFlag_kept (fs : List Flag) (on : flagOn s f = true) : flagOn (fs.foldl setFlag s) f = true :=
  List.foldlRecOn (motive := fun u => flagOn u f = true) fs setFlag on fun u kept g _ => flagOn_setFlag_kept u g kept

theorem flagOn_foldl_setFlag {fs : List Flag} (listed : f ∈ fs) (bit : f.bit < 32) : flagOn (fs.foldl setFlag s) f = true := by
  induction fs generalizing s with
  | nil => exact absurd listed List.not_mem_nil
  | cons g gs ih =>
    rcases List.mem_cons.mp listed with rfl | later
    · exact flagOn_foldl_setFlag_kept _ gs (flagOn_setFlag_same s f bit)
    · exact ih (setFlag s g) later

theorem ctr_foldl_setFlag {fs : List Flag} {k : Nat} (others : ∀ g ∈ fs, k ≠ g.ctr) : ctr (fs.foldl setFlag s) k = ctr s k :=
  List.foldlRecOn (motive := fun u => ctr u k = ctr s k) fs setFlag rfl fun u kept g listed => by
    rw [ctr_setFlag, if_neg (others g listed), kept]

end Flags

/-! ## STARTUP_TEST_END (R204, R205) -/

section Startup
variable {s : State} {lo hi : BitVec 2048}

/-- The start-up bits meet tests that begin afresh, and `retest` clears. -/
def startupBegun (s : State) : State := setRegField { s with rng := { s.rng with run := 0, block := none } } rngOff 1 1 0

/-- The start-up test has passed. -/
def startupPassed (s : State) : State := { startupBegun s with rng := { (startupBegun s).rng with nt := .ok } }

/-- The tests with failures `fs` are counted once and flagged, and the last lies n raw bits back. -/
def startupFailed (s : State) (fs : List (Nat × Flag)) (n : Nat) : State :=
  let t := (fs.map (·.2)).eraseDups.foldl setFlag (bump (startupBegun s) (rngCtr 1))
  { t with rng := { t.rng with nt := .error, sinceFail := n } }

/-- The tests read the run of the raw bits alone. -/
theorem ntFails_startupBegun (bits : List Bool) :
    ntFails (startupBegun s) bits = ntFails { s with rng := { s.rng with run := 0 } } bits := by
  simp only [ntFails, startupBegun, setRegField_rng]
  rfl

variable (startup : s.rng.nt = .startup) (enabled : ntEnabled s = true)
include startup enabled

theorem startupEnd_passes (clean : ntFails (startupBegun s) (rawBits 2048 lo hi) = []) :
    startupEnd s lo hi = keepRun (rawPassed (startupPassed s) 4096) (rawBits 2048 lo hi) := by
  rw [startupEnd, if_neg (by simp [startup, enabled])]
  extract_lets
  split
  · rfl
  · rename_i fails
    exact absurd (fails.symm.trans clean) (List.cons_ne_nil _ _)

/-- A start-up test that fails counts once, sets the flags of the tests that failed and ends in ERROR. -/
theorem startupEnd_fails (fails : ntFails (startupBegun s) (rawBits 2048 lo hi) ≠ []) : ∃ n, startupEnd s lo hi =
    keepRun (startupFailed s (ntFails (startupBegun s) (rawBits 2048 lo hi)) n) (rawBits 2048 lo hi) := by
  rw [startupEnd, if_neg (by simp [startup, enabled])]
  extract_lets
  split
  · rename_i clean
    exact absurd clean fails
  · rename_i f fs listed
    have same : ntFails (startupBegun s) (rawBits 2048 lo hi) = f :: fs := listed
    rw [same]
    exact ⟨_, rfl⟩

omit startup enabled

theorem flagOn_startupFailed {fs : List (Nat × Flag)} {p : Nat} {f : Flag} (listed : (p, f) ∈ fs) (bit : f.bit < 32) (n : Nat) :
    flagOn (startupFailed s fs n) f = true :=
  flagOn_foldl_setFlag _ (List.mem_eraseDups.mpr (List.mem_map_of_mem listed)) bit

theorem ctr_startupFailed {fs : List (Nat × Flag)} (tests : ∀ e ∈ fs, e.2 = fRctFail ∨ e.2 = fAptFail) (n : Nat) :
    ctr (startupFailed s fs n) (rngCtr 1) = ctr s (rngCtr 1) + 1 := by
  refine (ctr_foldl_setFlag _ fun f listed => ?_).trans (ctr_bump_same (startupBegun s) _)
  obtain ⟨e, fails, rfl⟩ := List.mem_map.mp (List.mem_eraseDups.mp listed)
  exact rngCtr_ne_testCtr (tests e fails) (by decide)

end Startup

/-! ## NOISE_BLOCK_READY (R203, R205) -/

section Health
variable {s : State}

theorem healthFail_error (f : Flag) (error : s.rng.nt = .error) : (healthFail s f).rng.nt = .error := by
  simp [healthFail, error]

theorem healthFail_soon (f : Flag) (ok : s.rng.nt = .ok) (soon : s.rng.sinceFail ≤ 2 ^ 20) : (healthFail s f).rng.nt = .error := by
  simp only [healthFail, ok, soon, and_self, decide_true, if_true]

theorem healthFail_regs (f : Flag) : (healthFail s f).regs = (setFlag s f).regs := rfl

theorem flagOn_healthFail_kept {f : Flag} (g : Flag) (on : flagOn s f = true) : flagOn (healthFail s g) f = true := by
  rw [flagOn, healthFail_regs, ← flagOn, flagOn_setFlag_kept s g on]

theorem flagOn_healthFail_same {f : Flag} (bit : f.bit < 32) : flagOn (healthFail s f) f = true := by
  rw [flagOn, healthFail_regs, ← flagOn, flagOn_setFlag_same s f bit]

theorem healthFails_nil (i n : Nat) : healthFails s i n [] = rawPassed s (n - i) := by rw [healthFails]

theorem healthFails_cons (i n : Nat) (e : Nat × Flag) (fs : List (Nat × Flag)) :
    healthFails s i n (e :: fs) = healthFails (healthFail (rawPassed s (e.1 + 1 - i)) e.2) (e.1 + 1) n fs := by rw [healthFails]

/-- Once in ERROR, the source stays there whatever fails next. -/
theorem healthFails_error (i n : Nat) (fs : List (Nat × Flag)) (error : s.rng.nt = .error) :
    (healthFails s i n fs).rng.nt = .error := by
  induction fs generalizing s i with
  | nil => exact error
  | cons e fs ih =>
    rw [healthFails_cons]
    exact ih _ (healthFail_error e.2 error)

theorem flagOn_healthFails_kept {f : Flag} (i n : Nat) (fs : List (Nat × Flag)) (on : flagOn s f = true) :
    flagOn (healthFails s i n fs) f = true := by
  induction fs generalizing s i with
  | nil => exact on
  | cons e fs ih =>
    rw [healthFails_cons]
    exact ih _ (flagOn_healthFail_kept e.2 on)

theorem flagOn_healthFails {f : Flag} {p : Nat} (i n : Nat) {fs : List (Nat × Flag)} (listed : (p, f) ∈ fs) (bit : f.bit < 32) :
    flagOn (healthFails s i n fs) f = true := by
  induction fs generalizing s i with
  | nil => exact absurd listed List.not_mem_nil
  | cons e fs ih =>
    rw [healthFails_cons]
    rcases List.mem_cons.mp listed with rfl | later
    · exact flagOn_healthFails_kept _ n fs (flagOn_healthFail_same bit)
    · exact ih _ later

/-- A failure within 2^20 raw bits of the last one leaves the source in ERROR (R205). -/
theorem healthFails_soon {n : Nat} {fs : List (Nat × Flag)} (fails : fs ≠ []) (inside : ∀ e ∈ fs, e.1 < n) (ok : s.rng.nt = .ok)
    (soon : s.rng.sinceFail + n < 2 ^ 20) : (healthFails s 0 n fs).rng.nt = .error := by
  cases fs with
  | nil => exact absurd rfl fails
  | cons e fs =>
    have first := inside e List.mem_cons_self
    have passed : (rawPassed s (e.1 + 1 - 0)).rng.sinceFail ≤ s.rng.sinceFail + (e.1 + 1 - 0) := Nat.min_le_right ..
    have error : (healthFail (rawPassed s (e.1 + 1 - 0)) e.2).rng.nt = .error := healthFail_soon e.2 ok (by omega)
    rw [healthFails_cons, healthFails_error (e.1 + 1) n fs error]

end Health

/-! ### The block is served (R203, R206, R207) -/

/-- The state of the source and the count of good blocks are as before. -/
def keepsSource (s u : State) : Prop := u.rng.nt = s.rng.nt ∧ ctr u (rngCtr 0) = ctr s (rngCtr 0)

theorem keepsSource_trans {s t u : State} (first : keepsSource s t) (second : keepsSource t u) : keepsSource s u :=
  ⟨second.1.trans first.1, second.2.trans first.2⟩

section Serve
variable (s : State)

theorem keepsSource_refl : keepsSource s s := ⟨rfl, rfl⟩

theorem keepsSource_setGen (g : Nat) (d : Drbg) : keepsSource s (setGen s g d) := ⟨rfl, rfl⟩

theorem keepsSource_unholdWaiters (ws : List (Option Waiter)) : keepsSource s (unholdWaiters s ws) := ⟨rfl, rfl⟩

theorem keepsSource_seedGen (g : Nat) : keepsSource s (seedGen s g) := by
  refine keepsSource_trans ?_ (keepsSource_setGen _ g _)
  split
  · exact ⟨rfl, ctr_bump_other _ _ _ (by decide)⟩
  · exact ⟨rfl, rfl⟩

theorem keepsSource_genRequest (g : Nat) : keepsSource s (genRequest s g).1 := by
  simp only [genRequest]
  split
  · exact keepsSource_refl s
  · split
    · exact keepsSource_setGen s g _
    · refine keepsSource_trans ?_ (keepsSource_setGen _ g _)
      split
      · exact keepsSource_seedGen s g
      · exact keepsSource_refl s

theorem keepsSource_giveNonce : keepsSource s (giveNonce s) := by
  have asked := keepsSource_genRequest s hubGen
  simp only [giveNonce]
  split
  all_goals
    rename_i answer
    rw [answer] at asked
    exact asked

theorem keepsSource_serveBlock : keepsSource s (serveBlock s) := by
  simp only [serveBlock]
  split
  · exact keepsSource_refl s
  · rename_i g _
    have served (ws : List (Option Waiter)) :
        keepsSource s (unholdWaiters (setGen (seedGen s g) g { genOf (seedGen s g) g with waiting := [] }) ws) :=
      keepsSource_trans (keepsSource_trans (keepsSource_seedGen s g) (keepsSource_setGen _ g _)) (keepsSource_unholdWaiters _ ws)
    split
    · exact keepsSource_trans (served _) (keepsSource_giveNonce _)
    · exact served _

end Serve

section Block
variable {s : State} {lo hi : BitVec 512}

/-- The bits of a block have met the continuous tests. -/
def noiseTested (s : State) (bits : List Bool) : State := keepRun (healthFails s 0 1024 (ntFails s bits)) bits

/-- A block of an OK source that no test fails on is counted and served. -/
theorem noiseBlock_good (ok : s.rng.nt = .ok) (enabled : ntEnabled s = true) (clean : ntFails s (rawBits 512 lo hi) = []) :
    ∃ t, keepsSource s t ∧ noiseBlock s lo hi = serveBlock (bump t (rngCtr 0)) := by
  rw [noiseBlock, if_neg (by simp [ok, enabled])]
  generalize rawBits 512 lo hi = bits at clean ⊢
  simp only [clean, healthFails_nil]
  generalize 1024 - 0 = n
  rw [keepRun_nt, rawPassed_nt, ok]
  refine ⟨_, ?_, rfl⟩
  exact ⟨ok.symm, rfl⟩

theorem noiseTested_error {bits : List Bool} (ok : s.rng.nt = .ok) (length : bits.length = 1024) (fails : ntFails s bits ≠ [])
    (soon : s.rng.sinceFail + 1024 < 2 ^ 20) : (noiseTested s bits).rng.nt = .error :=
  healthFails_soon fails (fun _ listed => length ▸ (mem_ntFails listed).1) ok soon

/-- In ERROR a block has met the tests and serves nothing. -/
theorem noiseBlock_error (ok : s.rng.nt = .ok) (enabled : ntEnabled s = true)
    (error : (noiseTested s (rawBits 512 lo hi)).rng.nt = .error) : noiseBlock s lo hi = noiseTested s (rawBits 512 lo hi) := by
  rw [noiseBlock, if_neg (by simp [ok, enabled])]
  generalize rawBits 512 lo hi = bits at error ⊢
  rw [noiseTested] at error
  simp only [error, noiseTested]

end Block

/-! ## RNG_CTRL and RNG_RAW_CTRL (R221, R448) -/

/-- Bits [6:2] of a word, which are RNG_CTRL's CFG field, read in place. -/
theorem and_cfgMask (x : Nat) : x &&& 0x7C = x / 4 % 32 * 4 := by
  have mask : (0x7C : Nat) = (2 ^ 5 - 1) <<< 2 := rfl
  refine Nat.eq_of_testBit_eq fun i => ?_
  rw [show x / 4 % 32 * 4 = (x >>> 2 % 2 ^ 5) <<< 2 by rw [Nat.shiftLeft_eq, Nat.shiftRight_eq_div_pow]; rfl, mask]
  simp only [Nat.testBit_and, Nat.testBit_shiftLeft, Nat.testBit_two_pow_sub_one, Nat.testBit_mod_two_pow, Nat.testBit_shiftRight]
  by_cases low : 2 ≤ i
  · simp [low, Bool.and_comm, show 2 + (i - 2) = i by omega]
  · simp [low]

/-- RNG_CTRL with the CFG field that it holds is written though the source is enabled (R448). -/
theorem cfgWrite_rngCtrl {s : State} {v : Nat} (same : rngCtrlWord v / 4 % 32 = regField s rngOff 6 2) (en : Bool) (run : Wrote) :
    cfgWrite s rngOff (rngCtrlWord v) 0x7C en run = run := by
  have held : regWord s rngOff &&& BitVec.ofNat 32 0x7C = BitVec.ofNat 32 (rngCtrlWord v) &&& BitVec.ofNat 32 0x7C := by
    apply BitVec.eq_of_toNat_eq
    simp only [BitVec.toNat_and, BitVec.toNat_ofNat, Nat.reduceMod, Nat.reducePow, and_cfgMask]
    simp only [regField, bitsOf] at same
    omega
  simp only [cfgWrite, held, ne_eq, not_true, decide_false, Bool.and_false, Bool.false_eq_true, if_false]

section Ctrl
variable (s : State) (v : Nat)

/-- What a write of RNG_CTRL that nothing ignores makes of the source: `reseed_log2`, then `retest`, then `nt_en`. -/
def rngCtrlWritten : State :=
  let t := setRegField s rngOff 6 2 (clampNat 10 20 (bitsOf v 6 2))
  let t2 := if bitsOf v 1 1 = 1 then startRetest t else t
  if ntEnabled t2 = decide (bitsOf v 0 0 = 1) then t2 else setNtEn t2 (decide (bitsOf v 0 0 = 1))

/-- A field above bit 0 is written beside `nt_en`. -/
theorem ntEnabled_setRegField {hi lo : Nat} (field : (hi, lo) = (6, 2) ∨ (hi, lo) = (1, 1)) :
    ntEnabled (setRegField s rngOff hi lo v) = ntEnabled s := by
  have same : regField (setRegField s rngOff hi lo v) rngOff 0 0 = regField s rngOff 0 0 := by
    simp only [setRegField, regField, regWord_setRegWord_same, BitVec.toNat_ofNat]
    obtain ⟨rfl, rfl⟩ | ⟨rfl, rfl⟩ := field.imp Prod.mk.inj Prod.mk.inj
    all_goals
      simp only [putBits, bitsOf]
      omega
  rw [ntEnabled, same, ntEnabled]

theorem ntEnabled_startRetest : ntEnabled (startRetest s) = ntEnabled s :=
  ntEnabled_setRegField _ _ (.inr rfl)

theorem ntEnabled_setNtEn_false : ntEnabled (setNtEn s false) = false := by
  have off : ntEnabled (setRegField s rngOff 0 0 0) = false := by
    simp only [ntEnabled, setRegField, regField, regWord_setRegWord_same, BitVec.toNat_ofNat, putBits, bitsOf, decide_eq_false_iff_not]
    omega
  exact off

/-- Of the registers and the debug levels a write of RNG_CTRL touches its own word alone. -/
structure OnlyRngCtrl (s u : State) : Prop where
  sec : u.sec = s.sec
  memories : sameMemories s u
  regs : ∀ off, off ≠ rngOff → regWord u off = regWord s off

theorem OnlyRngCtrl.trans {s t u : State} (first : OnlyRngCtrl s t) (second : OnlyRngCtrl t u) : OnlyRngCtrl s u :=
  ⟨second.sec.trans first.sec, sameMemories_trans first.memories second.memories,
    fun off other => (second.regs off other).trans (first.regs off other)⟩

theorem OnlyRngCtrl.setRegField (hi lo : Nat) : OnlyRngCtrl s (setRegField s rngOff hi lo v) :=
  ⟨rfl, ⟨rfl, rfl, rfl⟩, fun _ other => regWord_setRegWord_other _ _ _ _ other⟩

theorem OnlyRngCtrl.withRng (r : Rng) : OnlyRngCtrl s { s with rng := r } := ⟨rfl, ⟨rfl, rfl, rfl⟩, fun _ _ => rfl⟩

theorem OnlyRngCtrl.rngCtrlWritten : OnlyRngCtrl s (rngCtrlWritten s v) := by
  have reseed := setRegField s (clampNat 10 20 (bitsOf v 6 2)) 6 2
  have retest (u : State) : OnlyRngCtrl u (startRetest u) := (withRng u _).trans (setRegField _ 1 1 1)
  have enable (u : State) (on : Bool) : OnlyRngCtrl u (setNtEn u on) := by
    cases on
    · exact (setRegField u 0 0 0).trans (withRng _ _)
    · exact setRegField u 1 0 0
  unfold Machine.rngCtrlWritten
  extract_lets t t2
  have tested : OnlyRngCtrl s t2 := by
    unfold t2
    split
    · exact reseed.trans (retest t)
    · exact reseed
  split
  · exact tested
  · exact tested.trans (enable t2 _)

end Ctrl

/-- Of the debug levels' registers none is RNG_CTRL (R503). -/
theorem levelsNow_of_onlyRngCtrl {s u : State} (only : OnlyRngCtrl s u) : levelsNow (bumpView u) = levelsNow s := by
  have regs := only.regs
  have rng := regs (rngOff + 0x10) (by decide)
  have dbg := regs (dbgOff + 4) (by decide)
  have clu (n : Nat) := regs (cluOff n + 4) (by unfold cluOff rngOff; omega)
  simp only [levelsNow, trcOn, trcData, cluTrc, regField, regWord, bumpView_regs, bumpView_sec, only.sec] at rng dbg clu ⊢
  simp only [rng, dbg, clu]
  rfl

/-- The host's write of RNG_CTRL, where no policy lock and no rule of its fields holds it (R221, R405, R448). -/
theorem hostWord_rngCtrl {s : State} (live : alive s = true) (ready : s.clk.ready = true) (unlocked : s.sec.polLock = false)
    {w : BitVec 32} (same : rngCtrlWord w.toNat / 4 % 32 = regField s rngOff 6 2)
    (retests : bitsOf w.toNat 1 1 = 1 → s.rng.nt = .error) : hostWord s rngOff w = bumpView (rngCtrlWritten s w.toNat) := by
  have obeyed : ¬ (bitsOf w.toNat 1 1 = 1 ∧ s.rng.nt ≠ .error) := fun ignored => ignored.2 (retests ignored.1)
  have applied : applyWord s false none rngOff w = .done (bumpView (rngCtrlWritten s w.toNat)) := by
    have written : writeRngCtrl s w.toNat = .done (rngCtrlWritten s w.toNat) := by
      rw [writeRngCtrl, cfgWrite_rngCtrl same, if_neg obeyed]
      rfl
    simp [applyWord, ready, rngOff, writeRng, policyWrite, lockHolds, unlocked, written]
  simp only [hostWord, hostWordWith, live, applied, levelsMoved, levelsNow_of_onlyRngCtrl (OnlyRngCtrl.rngCtrlWritten s w.toNat),
    Bool.not_true, Bool.false_eq_true, if_false, if_true]

section Writes
variable {s : State}

/-- A word with `retest` set keeps the other fields of RNG_CTRL. -/
theorem withField_retest (w : BitVec 32) : bitsOf (withField w 1 1 1).toNat 1 1 = 1 ∧
    bitsOf (withField w 1 1 1).toNat 0 0 = bitsOf w.toNat 0 0 ∧ rngCtrlWord (withField w 1 1 1).toNat = rngCtrlWord w.toNat := by
  have range := w.isLt
  have low : bitsOf (withField w 1 1 1).toNat 0 0 = bitsOf w.toNat 0 0 := by
    simp only [withField, putBits, bitsOf, BitVec.toNat_ofNat]
    omega
  have reseed : bitsOf (withField w 1 1 1).toNat 6 2 = bitsOf w.toNat 6 2 := by
    simp only [withField, putBits, bitsOf, BitVec.toNat_ofNat]
    omega
  refine ⟨?_, low, by simp only [rngCtrlWord, low, reseed]⟩
  simp only [withField, putBits, bitsOf, BitVec.toNat_ofNat]
  omega

/-- `retest` of an enabled source starts the start-up test. -/
theorem rngCtrlWritten_retest {v : Nat} (enabled : ntEnabled s = true) (retest : bitsOf v 1 1 = 1) (on : bitsOf v 0 0 = 1) :
    rngCtrlWritten s v = startRetest (setRegField s rngOff 6 2 (clampNat 10 20 (bitsOf v 6 2))) := by
  have stays : ntEnabled (startRetest (setRegField s rngOff 6 2 (clampNat 10 20 (bitsOf v 6 2)))) = true := by
    rw [ntEnabled_startRetest, ntEnabled_setRegField _ _ (.inl rfl), enabled]
  simp only [rngCtrlWritten, retest, on, stays, decide_true, if_true]

/-- `nt_en` cleared stops an enabled source. -/
theorem rngCtrlWritten_stop {v : Nat} (enabled : ntEnabled s = true) (noRetest : bitsOf v 1 1 ≠ 1) (off : bitsOf v 0 0 ≠ 1) :
    rngCtrlWritten s v = setNtEn (setRegField s rngOff 6 2 (clampNat 10 20 (bitsOf v 6 2))) false := by
  have stays := ntEnabled_setRegField s (clampNat 10 20 (bitsOf v 6 2)) (hi := 6) (lo := 2) (.inl rfl)
  simp only [rngCtrlWritten, if_neg noRetest, stays, enabled, off, decide_false, Bool.true_eq_false, if_false]

/-- A change of levels is recorded beside the random source and the guard. -/
theorem levelsMoved_source (s t : State) : (levelsMoved s t).rng = t.rng ∧ (levelsMoved s t).guardOpen = t.guardOpen := by
  unfold levelsMoved
  split
  · exact ⟨rfl, rfl⟩
  · exact ⟨rfl, rfl⟩

/-- `tap_en` written 1 with the guard and the tap level open takes an OK source to the tap (R221, R451). -/
theorem hostWord_tapEn (live : alive s = true) (ready : s.clk.ready = true) (isOpen : s.guardOpen = true)
    (level : s.sec.levels.getLsbD 3 = true) (closed : regField s (rngOff + 0x10) 0 0 = 0) {w : BitVec 32}
    (taps : bitsOf w.toNat 0 0 = 1) :
    hostWord s (rngOff + 0x10) w = levelsMoved s (setTapEn { s with guardOpen := false } true) := by
  have off : regField { s with guardOpen := false } (rngOff + 0x10) 0 0 = 0 := closed
  have written : writeTap { s with guardOpen := false } w.toNat = .done (setTapEn { s with guardOpen := false } true) := by
    simp [writeTap, level, taps, off]
  have applied : applyWord s false none (rngOff + 0x10) w = .done (setTapEn { s with guardOpen := false } true) := by
    simp [applyWord, ready, rngOff, writeRng, guarded, isOpen, written]
  simp only [hostWord, hostWordWith, live, applied, Bool.not_true, Bool.false_eq_true, if_false]

theorem setTapEn_ok (ok : s.rng.nt = .ok) : (setTapEn s true).rng.nt = .tap ∧ (setTapEn s true).rng.raw = [] := by
  simp only [setTapEn, ok, true_or, if_true, and_self]

theorem setTapEn_guardOpen (s : State) (on : Bool) : (setTapEn s on).guardOpen = s.guardOpen := by
  unfold setTapEn
  extract_lets t
  split
  · split <;> rfl
  · split <;> rfl

theorem rawRead_empty (empty : s.rng.raw = []) : rawRead s = emit s (.readData (rngOff + 0x14) 0) := by
  simp only [rawRead, empty]

theorem rawRead_cons {v : BitVec 32} {rest : List (BitVec 32)} (raw : s.rng.raw = v :: rest) : rawRead s =
    { s with rng := { s.rng with raw := rest }, emitted := .readData (rngOff + 0x14) v :: s.emitted } := by
  simp only [rawRead, raw, emit]

end Writes

/-! ## ENTROPY_WAIT_TIMEOUT (R207, R457) -/

section Entropy
variable {s t u : State} {w : Option Waiter} {g : Nat}

theorem exec_entropyWaitTimeout (unit : g < 19) (met : Bool) :
    exec (.entropyWaitTimeout g met) s = .next (entropyExpired s g met) :=
  congrArg (fun ok => onUnit ok (entropyExpired s g met)) (decide_eq_true unit)

theorem entropyExpired_idle (idle : (genOf s g).waiting = []) (met : Bool) : entropyExpired s g met = s := by
  simp only [entropyExpired, idle]

theorem entropyExpired_met {rest : List (Option Waiter)} (waits : (genOf s g).waiting = w :: rest) :
    entropyExpired s g true = bump s (obsCtr 9) := by
  simp only [entropyExpired, waits, if_true]

theorem entropyExpired_refuses {rest : List (Option Waiter)} (waits : (genOf s g).waiting = w :: rest) :
    entropyExpired s g false = refuseWaiter s w := by
  simp only [entropyExpired, waits, Bool.false_eq_true, if_false]

@[simp] theorem settle_waiting (d : Drbg) : (settle d).waiting = d.waiting := by
  unfold settle
  split <;> rfl

/-- A withdrawn request waits at no generator. -/
theorem notMem_waiting_genUnwait (s : State) (w : Option Waiter) (h : Nat) : w ∉ (genOf (genUnwait s w) h).waiting := by
  rw [genOf, tabGet]
  cases found : tabFind (genUnwait s w).rng.gens h with
  | none => exact List.not_mem_nil
  | some d =>
    obtain ⟨e, -, kept⟩ := List.mem_filterMap.mp (mem_of_tabFind found)
    have left : d = settle { e.2 with waiting := e.2.waiting.filter (fun x => decide (x ≠ w)) } :=
      (congrArg Prod.snd (Option.some.inj (Option.ite_none_left_eq_some.mp kept).2)).symm
    simp [left]

/-- A request has left the generators and its refusal is counted. -/
def requestRefused (s : State) (w : Option Waiter) : State := bump (genUnwait s w) (rngCtr 3)

/-- From `s` to `u` request `w` is withdrawn and counted as refused, and else only an item may have completed. -/
structure RefusesRequest (s : State) (w : Option Waiter) (u : State) : Prop where
  count : ctr u (rngCtr 3) = ctr s (rngCtr 3) + 1
  gens : u.rng = (genUnwait s w).rng
  frame : frameItem s { u with rng := s.rng }

theorem RefusesRequest.requestRefused (s : State) (w : Option Waiter) : RefusesRequest s w (requestRefused s w) :=
  ⟨ctr_bump_same (genUnwait s w) _, rfl, frameItem_of rfl⟩

theorem frameItem_withRng (h : frameItem t u) (r : Rng) : frameItem { t with rng := r } { u with rng := r } :=
  ⟨congrArg (fun v : State => { v with rng := r }) h.1, h.2⟩

theorem RefusesRequest.trans_frameItem (refused : RefusesRequest s w t) (rest : frameItem t u)
    (count : ctr u (rngCtr 3) = ctr t (rngCtr 3)) : RefusesRequest s w u :=
  ⟨count.trans refused.count, (congrArg State.rng rest.1 :).trans refused.gens,
    frameItem_trans refused.frame (frameItem_withRng rest s.rng)⟩

/-- The refusal of an IMPORT counts in the sequence layer too. -/
def importRefused (s : State) (w : Option Waiter) (i : Item) : State :=
  if i.op = 0x10 then bump (requestRefused s w) (seqDevCtr 4) else requestRefused s w

theorem refuseWaiter_item {v : Waiter} {i : Item} (item : findItem s v.client v.item = some i) :
    refuseWaiter s (some v) = completeItem (importRefused s (some v) i) v.client i stOutOfService
      (if namesBerth i.op then berthDetail i.berth else []) := by
  have same : findItem (requestRefused s (some v)) v.client v.item = some i := item
  rw [requestRefused] at same
  simp only [refuseWaiter, Option.bind_some, same, Option.map_some, importRefused, requestRefused]

theorem refuseWaiter_noItem (none : ∀ v, w = some v → findItem s v.client v.item = none) : refuseWaiter s w = requestRefused s w := by
  cases w with
  | none => rfl
  | some v =>
    have same : findItem (requestRefused s (some v)) v.client v.item = .none := none v rfl
    rw [requestRefused] at same
    simp only [refuseWaiter, Option.bind_some, same, Option.map_none, requestRefused]

theorem RefusesRequest.importRefused (s : State) (w : Option Waiter) (i : Item) : RefusesRequest s w (importRefused s w i) := by
  unfold Machine.importRefused
  split
  · exact (requestRefused s w).trans_frameItem (frameItem_of rfl) (ctr_bump_other _ _ _ (by decide))
  · exact requestRefused s w

theorem RefusesRequest.refuseWaiter (s : State) (w : Option Waiter) : RefusesRequest s w (refuseWaiter s w) := by
  by_cases none : ∀ v, w = some v → findItem s v.client v.item = none
  · rw [refuseWaiter_noItem none]
    exact requestRefused s w
  · push Not at none
    obtain ⟨v, rfl, item⟩ := none
    obtain ⟨i, item⟩ := Option.ne_none_iff_exists'.mp item
    rw [refuseWaiter_item item]
    exact (importRefused s (some v) i).trans_frameItem (completeItem_frame ..) (ctr_completeItem_below (by decide) ..)

/-- An item completes alike from two states with the same clients, count of completed items and tick. -/
theorem completed_of_same {c : BitVec 10} {i : Item} {status : Nat} {d : List (BitVec 8)} (clients : t.clients = s.clients)
    (count : ctr t (hifCtr 1) = ctr s (hifCtr 1)) (tick : t.tick = s.tick) (done : completed t u c i status d) :
    completed s u c i status d := by
  simpa only [completed, onlyClient, client, clients, count, tick] using done

theorem importRefused_same (s : State) (w : Option Waiter) (i : Item) : (importRefused s w i).clients = s.clients ∧
    ctr (importRefused s w i) (hifCtr 1) = ctr s (hifCtr 1) ∧ (importRefused s w i).tick = s.tick := by
  have counted : ctr (requestRefused s w) (hifCtr 1) = ctr s (hifCtr 1) := ctr_bump_other (genUnwait s w) _ _ (by decide)
  have clients : (requestRefused s w).clients = s.clients := rfl
  have tick : (requestRefused s w).tick = s.tick := rfl
  unfold importRefused
  split
  · exact ⟨by rw [bump_clients, clients], (ctr_bump_other _ _ _ (by decide)).trans counted, by rw [bump_tick, tick]⟩
  · exact ⟨clients, counted, tick⟩

/-- The refused request's item completes with OUT_OF_SERVICE. -/
theorem completed_refuseWaiter {v : Waiter} {i : Item} (item : findItem s v.client v.item = some i)
    (writes : writable (client s v.client) = true) : completed s (refuseWaiter s (some v)) v.client i stOutOfService
      (if namesBerth i.op then berthDetail i.berth else []) := by
  obtain ⟨clients, count, tick⟩ := importRefused_same s (some v) i
  have stillWrites : writable (client (importRefused s (some v) i) v.client) = true := by rw [client, clients]; exact writes
  rw [refuseWaiter_item item]
  exact completed_of_same clients count tick (completed_completeItem stillWrites ..)

end Entropy

/-- Settles O27, a clause for each row: the start-up bits, a block's bits, the writes of the two control words, the raw buffer and the
wait for entropy. -/
theorem noiseSource : Obligations.NoiseSource := by
  unfold Obligations.NoiseSource
  intro s fresh
  refine ⟨fun startup enabled lo hi => ⟨fun clean => ?_, fun i fails => ?_⟩,
    fun ok enabled lo hi => ⟨fun clean => ?_, fun i fails soon => ?_⟩, fun live ready unlocked => ⟨fun error enabled w on same => ?_,
      fun enabled w off same => ?_, fun isOpen level ok closed w taps => ?_⟩, fun empty => ?_, fun v rest raw => ?_,
    fun g unit waits => ?_, fun g met unit waits => ?_, fun g w rest unit waits => ?_⟩
  · rw [← ntFails_startupBegun] at clean
    have ends := startupEnd_passes startup enabled clean
    refine ⟨_, congrArg Host.Outcome.next ends, by rw [keepRun_nt, rawPassed_nt, startupPassed], ?_⟩
    exact sameMemories_trans (b := startupPassed s) ⟨rfl, rfl, rfl⟩ (sameMemories_bitsPassed _ _ _)
  · rw [← ntFails_startupBegun] at fails
    obtain ⟨n, ends⟩ := startupEnd_fails startup enabled (List.ne_nil_of_mem fails)
    refine ⟨_, congrArg Host.Outcome.next ends, rfl, ?_, ?_⟩
    · rw [flagOn_keepRun, flagOn_startupFailed fails (by decide)]
    · rw [ctr_keepRun, ctr_startupFailed fun e listed => (mem_ntFails listed).2]
  · obtain ⟨t, ⟨state, count⟩, block⟩ := noiseBlock_good ok enabled clean
    obtain ⟨state', count'⟩ := keepsSource_serveBlock (bump t (rngCtr 0))
    exact ⟨_, congrArg Host.Outcome.next block, by rw [count', ctr_bump_same, count], by rw [state', bump_rng, state, ok]⟩
  · have error := noiseTested_error ok (length_rawBits lo hi) (List.ne_nil_of_mem fails) soon
    refine ⟨_, congrArg Host.Outcome.next (noiseBlock_error ok enabled error), error, ?_⟩
    rw [noiseTested, flagOn_keepRun, flagOn_healthFails 0 1024 fails (by decide)]
  · obtain ⟨retest, bit0, stored⟩ := withField_retest w
    have written := hostWord_rngCtrl live ready unlocked (by rw [stored]; exact same) fun _ => error
    refine ⟨_, congrArg Host.Outcome.next written, ?_, (OnlyRngCtrl.rngCtrlWritten s _).memories⟩
    rw [rngCtrlWritten_retest enabled retest (bit0.trans on)]
    rfl
  · have bits : bitsOf w.toNat 1 1 ≠ 1 ∧ bitsOf w.toNat 0 0 ≠ 1 := by simp only [bitsOf] at off ⊢; omega
    have written := hostWord_rngCtrl live ready unlocked same fun retest => absurd retest bits.1
    have memories := (OnlyRngCtrl.rngCtrlWritten s w.toNat).memories
    rw [rngCtrlWritten_stop enabled bits.1 bits.2] at written memories
    exact ⟨_, congrArg Host.Outcome.next written, rfl, rfl, ntEnabled_setNtEn_false _, memories⟩
  · obtain ⟨source, guard⟩ := levelsMoved_source s (setTapEn { s with guardOpen := false } true)
    obtain ⟨tap, raw⟩ := setTapEn_ok (s := { s with guardOpen := false }) ok
    have written := hostWord_tapEn live ready isOpen level closed taps
    refine ⟨_, congrArg Host.Outcome.next written, by rw [source, tap], by rw [source, raw], ?_⟩
    rw [guard, setTapEn_guardOpen]
  · exact congrArg Host.Outcome.next (rawRead_empty empty)
  · exact congrArg Host.Outcome.next (rawRead_cons raw)
  · rw [exec_entropyWaitTimeout unit]
    obtain ⟨w, rest, waits⟩ := List.exists_cons_of_ne_nil waits
    exact ⟨_, congrArg Host.Outcome.next (entropyExpired_met waits), ctr_bump s _, rfl⟩
  · rw [exec_entropyWaitTimeout unit, entropyExpired_idle waits]
  · have refused := RefusesRequest.refuseWaiter s w
    refine ⟨_, by rw [exec_entropyWaitTimeout unit, entropyExpired_refuses waits], refused.count, fun h => ?_, refused.frame,
      fun v i named item writes => ?_⟩
    · rw [genOf, refused.gens]
      exact notMem_waiting_genUnwait s w h
    · subst named
      exact completed_refuseWaiter item writes

end Sys2Proof.Machine
end

section
/-! The family of berths, manifests and scheduling (10_berths_manifests_scheduling.md): the locks of berths (O29), the items that complete
at once (O28), modules, admission and pre-emption (O32), and the step machinery (O20). -/

namespace Sys2Proof.Machine
open Sys2Proof

/-! ## Items that complete beside a change of the state (R312, R318) -/

section Done
variable {s t u : State} {c : BitVec 10} {i : Item} {d : List (BitVec 8)} {v : Berth}

/-- An item completes after a change that left the clients, the count of completed items and the tick. -/
theorem completed_after (clients : t.clients = s.clients) (count : ctr t (hifCtr 1) = ctr s (hifCtr 1)) (tick : t.tick = s.tick)
    (writes : writable (client s c) = true) (status : Nat) (d : List (BitVec 8)) :
    completed s (completeItem t c i status d) c i status d :=
  completed_of_same clients count tick (completed_completeItem (by rw [client, clients]; exact writes) status d)

/-- What comes after a completion and leaves the clients, the output and the count of completed items leaves it complete. -/
theorem completed_before {status : Nat} (done : completed s t c i status d) (clients : u.clients = t.clients)
    (emitted : u.emitted = t.emitted) (count : ctr u (hifCtr 1) = ctr t (hifCtr 1)) : completed s u c i status d := by
  simpa only [completed, onlyClient, client, clients, emitted, count] using done

/-- Nothing that has left the device is taken back when a record falls due. -/
theorem emitted_postRecord {e : Emit} (out : e ∈ s.emitted) (r : Record) : e ∈ (postRecord s c r).emitted := by
  simp only [postRecord]
  split
  · exact out
  · split
    · exact testIrq_emitted (List.mem_cons_of_mem _ out)
    · have same : (spillRecord s c { r with spilled := true }).emitted = s.emitted :=
        (congrArg State.emitted (hubPm_frame ..) :)
      rw [same]
      exact out

theorem emitted_completeItem {e : Emit} (out : e ∈ s.emitted) (status : Nat) (d : List (BitVec 8)) :
    e ∈ (completeItem s c i status d).emitted :=
  emitted_postRecord (s := itemLeft s c i) out _

theorem frameItem_withBerths (kept : frameItem t u) (bs : Tab Berth) : frameItem { t with berths := bs } { u with berths := bs } :=
  ⟨congrArg (fun v : State => { v with berths := bs }) kept.1, kept.2⟩

theorem berth_of_berths (berths : u.berths = t.berths) (k : BitVec 12) : berth u k = berth t k := by simp only [berth, berths]

theorem berth_bump (s : State) (n : Nat) (k : BitVec 12) : berth (bump s n) k = berth s k := rfl
theorem ctr_setBerth (s : State) (b : BitVec 12) (v : Berth) (k : Nat) : ctr (setBerth s b v) k = ctr s k := rfl

/-- The item has completed, its berth is `v`, and but for what `frameItem` allows nothing else has changed. -/
def doneWith (s u : State) (c : BitVec 10) (i : Item) (d : List (BitVec 8)) (v : Berth) : Prop :=
  completed s u c i stOk d ∧ onlyBerth s u i.berth ∧ berth u i.berth = v ∧ frameItem s { u with berths := s.berths }

/-- The item completes when its berth has been set and counters of other events have moved. -/
theorem doneWith_completeItem (writes : writable (client s c) = true) (marked : { t with ctrs := s.ctrs } = setBerth s i.berth v)
    (count : ctr t (hifCtr 1) = ctr s (hifCtr 1)) (d : List (BitVec 8)) : doneWith s (completeItem t c i stOk d) c i d v := by
  have berths : t.berths = (setBerth s i.berth v).berths := (congrArg State.berths marked :)
  have clients : t.clients = s.clients := (congrArg State.clients marked :)
  have tick : t.tick = s.tick := (congrArg State.tick marked :)
  have answered := completeItem_frame t c i stOk d
  have each (k : BitVec 12) : berth (completeItem t c i stOk d) k = berth (setBerth s i.berth v) k := by
    rw [berth_of_frameItem answered, berth, berths, ← berth]
  have changed : frameItem s { t with berths := s.berths } :=
    frameItem_of (congrArg (fun u : State => { u with berths := s.berths, clients := s.clients, act := s.act, emitted := s.emitted }) marked)
  refine ⟨completed_after clients count tick writes _ _, fun k other => ?_, ?_,
    frameItem_trans changed (frameItem_withBerths answered s.berths)⟩
  · rw [each, berth_setBerth_other s _ _ _ other]
  · rw [each, berth_setBerth_same]

end Done

/-! ## LOCK (R264, R266) -/

section Lock
variable {s : State} {c : BitVec 10} {i : Item} {b : BitVec 12}

theorem exec_lockItem (ready : readyItem s c 0x0A = some i) : exec (.lockItem c) s = .next (runLockItem c s i) :=
  congrArg _ (takeItem_ready _ ready)

/-- A LOCK of a berth with no lock held or due acquires it, unless something keeps the berth away. -/
theorem runLockItem_acquires (noLock : (berth s i.berth).lockDue = none) (flags : leAt (part0 i) 16 1 < 4)
    (reserved : restZero (part0 i) [(16, 1), (20, 4)] = true)
    (unlocked : (berth s i.berth).st = .admitted ∨ (berth s i.berth).st = .running ∨ (berth s i.berth).st = .parked)
    (free : (frozenNow s (berth s i.berth) || (berth s i.berth).copying || (berth s i.berth).unparkDue) = false)
    (here : (berth s i.berth).st ≠ .running → awayNow s (berth s i.berth) = false) :
    runLockItem c s i = acquire s i.berth c i := by
  have passes : ¬ (4 ≤ leAt (part0 i) 16 1 ∨ (!restZero (part0 i) [(16, 1), (20, 4)]) = true) := by
    simp only [reserved, Bool.not_true, Bool.false_eq_true, or_false]; omega
  have meets : meet c (berth s i.berth) [.admitted, .running, .parked] false = .run := by
    rcases unlocked with st | st | st <;> simp [meet, isLocked, noLock, st]
  have notAbandoned : ¬ ((berth s i.berth).st = .abandoned ∧ leAt (part0 i) 16 1 % 2 = 1) := by
    rcases unlocked with st | st | st <;> simp [st]
  have near : (awayNow s (berth s i.berth) && decide ((berth s i.berth).st ≠ .running)) = false := by
    by_cases running : (berth s i.berth).st = .running
    · simp [running]
    · simp [here running]
  simp only [runLockItem, passes, notAbandoned, meets, free, near, Bool.or_self, Bool.false_eq_true, if_false]

/-- The entry of a berth whose lock is granted from its state. -/
def lockedBerth (s : State) (e : Berth) (c : BitVec 10) (i : Item) : Berth :=
  { e with st := .locked, heldFrom := e.st, lkOwner := c, lkEpoch := (client s c).cepoch, lkSeq := e.lkSeq + 1,
           lease := leAt (part0 i) 20 4, leaseFrom := s.tick.toNat }

theorem countPark_ctrs (s : State) (was now : BState) : ∃ n, countPark s was now = { s with ctrs := n } := by
  unfold countPark
  split
  · exact ⟨_, rfl⟩
  · split
    · exact ⟨_, rfl⟩
    · split
      · exact ⟨_, rfl⟩
      · exact ⟨_, rfl⟩

/-- Entries into PARKED and exits from it have counters of their own (R274). -/
theorem ctr_countPark {k : Nat} (notIn : k ≠ bthCtr 4) (notOut : k ≠ bthCtr 5) (s : State) (was now : BState) :
    ctr (countPark s was now) k = ctr s k := by
  unfold countPark
  split
  · rfl
  · split
    · exact ctr_bump_other _ _ _ notIn
    · split
      · exact ctr_bump_other _ _ _ notOut
      · rfl

/-- The lock of an unlocked berth that does not run is granted at once: the berth is set, the grant counted, and the item completes. -/
theorem acquire_grants (noLock : (berth s b).lockDue = none) (still : (berth s b).st = .admitted ∨ (berth s b).st = .parked) :
    acquire s b c i = completeItem
      (bump (setBerth (countPark s (berth s b).st .locked) b (lockedBerth s (berth s b) c i)) (bthCtr 10)) c i stOk
      (berthDetail b ++ natLe ((berth s b).lkSeq + 1).toNat 2 ++ natLe (berth s b).lkOwner.toNat 2
        ++ natLe (berth s b).lkEpoch.toNat 2 ++ natLe 0 1) := by
  have notRunning : (berth s b).st ≠ .running := by rcases still with st | st <;> simp [st]
  have notAbandoned : ¬ (berth s b).st = .abandoned := by rcases still with st | st <;> simp [st]
  obtain ⟨n, parks⟩ := countPark_ctrs s (berth s b).st .locked
  unfold acquire
  simp only [notRunning, if_false, parks, grantLock]
  simp only [show berth { s with ctrs := n } b = berth s b from rfl, notAbandoned, decide_false, Bool.false_and, Bool.false_eq_true, if_false,
    Bool.not_false, Bool.and_true, lockedBerth, noLock]
  rfl

/-- The detail of a granted LOCK: its berth, the token, and who held the lock before (R317). -/
def lockDetail (s : State) (b : BitVec 12) : List (BitVec 8) :=
  berthDetail b ++ natLe ((berth s b).lkSeq + 1).toNat 2 ++ natLe (berth s b).lkOwner.toNat 2
    ++ natLe (berth s b).lkEpoch.toNat 2 ++ natLe 0 1

theorem lockItem_granted (ready : readyItem s c 0x0A = some i) (noLock : (berth s i.berth).lockDue = none)
    (flags : leAt (part0 i) 16 1 < 4) (reserved : restZero (part0 i) [(16, 1), (20, 4)] = true)
    (still : (berth s i.berth).st = .admitted ∨ (berth s i.berth).st = .parked)
    (near : (awayNow s (berth s i.berth) || (berth s i.berth).copying || (berth s i.berth).unparkDue) = false) :
    ∃ u, exec (.lockItem c) s = .next u ∧ doneWith s u c i (lockDetail s i.berth) (lockedBerth s (berth s i.berth) c i) ∧
      ctr u (bthCtr 10) = ctr s (bthCtr 10) + 1 := by
  obtain ⟨writes, -, -⟩ := readyItem_some ready
  simp only [Bool.or_eq_false_iff] at near
  obtain ⟨⟨here, noCopy⟩, noUnpark⟩ := near
  have thawed : frozenNow s (berth s i.berth) = false := by
    simp only [awayNow, Bool.or_eq_false_iff] at here
    exact here.1.1
  have acquires := runLockItem_acquires (c := c) noLock flags reserved (by tauto) (by simp only [thawed, noCopy, noUnpark, Bool.or_self])
    (fun _ => here)
  rw [acquire_grants noLock still] at acquires
  refine ⟨_, (exec_lockItem ready).trans (congrArg _ acquires), doneWith_completeItem writes ?_ ?_ _, ?_⟩
  · obtain ⟨n, parks⟩ := countPark_ctrs s (berth s i.berth).st .locked
    rw [parks]
    rfl
  · exact (ctr_bump_other _ _ _ (by decide)).trans (ctr_countPark (by decide) (by decide) ..)
  · rw [ctr_completeItem_below (by decide), ctr_bump_same]
    exact congrArg (· + 1) (ctr_countPark (by decide) (by decide) ..)

theorem holdItem_setBerth_frame (v : Berth) :
    { holdItem (setBerth s b v) c i with berths := s.berths, clients := s.clients } = s := by
  simp only [holdItem, modItem, modClient, setClient, setBerth]

/-- The LOCK of a running berth waits for the boundary (R245). -/
theorem lockItem_due (ready : readyItem s c 0x0A = some i) (noLock : (berth s i.berth).lockDue = none)
    (flags : leAt (part0 i) 16 1 < 4) (reserved : restZero (part0 i) [(16, 1), (20, 4)] = true)
    (running : (berth s i.berth).st = .running)
    (free : (frozenNow s (berth s i.berth) || (berth s i.berth).copying || (berth s i.berth).unparkDue) = false) :
    ∃ u, exec (.lockItem c) s = .next u ∧ berth u i.berth = { berth s i.berth with lockDue := some ⟨c, i.seq⟩ } ∧
      onlyBerth s u i.berth ∧ { u with berths := s.berths, clients := s.clients } = s := by
  have runs := exec_lockItem ready
  rw [runLockItem_acquires noLock flags reserved (.inr (.inl running)) free (fun other => absurd running other), acquire,
    if_pos running] at runs
  generalize ({ berth s i.berth with lockDue := some ⟨c, i.seq⟩ } : Berth) = v at runs
  refine ⟨_, runs, ?_, fun k other => ?_, holdItem_setBerth_frame v⟩
  · rw [holdItem, berth_modItem, berth_setBerth_same]
  · rw [holdItem, berth_modItem, berth_setBerth_other s _ _ _ other]

end Lock

/-! ## UNLOCK (R264, R265) -/

section Unlock
variable {s : State} {c : BitVec 10} {i : Item} {b : BitVec 12}

theorem exec_unlockItem (ready : readyItem s c 0x0B = some i) : exec (.unlockItem c) s = .next (runUnlock c s i) :=
  congrArg _ (takeItem_ready _ ready)

theorem runUnlock_releases (locked : (berth s i.berth).st = .locked) (owns : (berth s i.berth).lkOwner = c)
    (token : (berth s i.berth).lkSeq.toNat = leAt (part0 i) 16 2) (reserved : restZero (part0 i) [(16, 2)] = true) :
    runUnlock c s i = releaseLock (completeItem s c i stOk (berthDetail i.berth)) i.berth := by
  have small : ¬ (2 ^ 14 ≤ leAt (part0 i) 16 2) := by
    have := (berth s i.berth).lkSeq.isLt
    omega
  simp only [runUnlock, small, reserved, Bool.not_true, Bool.false_eq_true, or_self, if_false, locked, owns, token, ne_eq,
    not_true_eq_false, reduceCtorEq]

/-- A berth becomes RUNNING: berths and V of its client change (R256). -/
theorem setRunning_acct (s : State) (b : BitVec 12) (f : Berth → Berth) :
    ∃ as, setRunning s b f = { setBerth s b { f (berth s b) with st := .running } with acct := as } := by
  unfold setRunning
  extract_lets
  split
  · split
    · exact ⟨_, rfl⟩
    · exact ⟨_, rfl⟩
  · exact ⟨_, rfl⟩

theorem setRunning_berths (s : State) (b : BitVec 12) (f : Berth → Berth) :
    (setRunning s b f).berths = (setBerth s b { f (berth s b) with st := .running }).berths := by
  obtain ⟨as, runs⟩ := setRunning_acct s b f
  rw [runs]

/-- The entry of a berth whose lock is released with no waiter. -/
def releasedBerth (e : Berth) : Berth :=
  { e with st := e.heldFrom, leaveDue := e.leaveDue || e.orphanLeave, orphanLeave := false }

/-- A berth that is RUNNING runs again as one that was LOCKED would: V of its client may rise (R256). -/
def runAgain (s : State) (b : BitVec 12) : State :=
  if (berth s b).st = .running then setRunning (setBerth s b { berth s b with st := .locked }) b id else s

theorem runAgain_frame (s : State) (b : BitVec 12) : { runAgain s b with berths := s.berths, acct := s.acct } = s := by
  unfold runAgain
  split
  · generalize ({ berth s b with st := .locked } : Berth) = v
    obtain ⟨as, runs⟩ := setRunning_acct (setBerth s b v) b id
    generalize ({ id (berth (setBerth s b v) b) with st := .running } : Berth) = w at runs
    rw [runs, setBerth, setBerth]
  · rfl

theorem berth_runAgain (s : State) (b k : BitVec 12) : berth (runAgain s b) k = berth s k := by
  unfold runAgain
  split
  case isFalse => rfl
  case isTrue running =>
    rw [berth_of_berths (setRunning_berths ..)]
    by_cases other : k = b
    · rw [other, berth_setBerth_same, berth_setBerth_same, id, ← running]
    · rw [berth_setBerth_other _ b k _ other, berth_setBerth_other _ b k _ other]

theorem releaseLock_eq (s : State) (b : BitVec 12) : releaseLock s b =
    runAgain (serveWaiters
      (if (berth s b).waiters.any (fun w => ((findItem s w.client w.item).map (·.op)) == some 0x0A) then
        setBerth s b (releasedBerth (berth s b))
      else countPark (setBerth s b (releasedBerth (berth s b))) .locked (berth s b).heldFrom) b true 9) b := rfl

theorem serveWaiters_none (none : (berth s b).waiters = []) (direct : Bool) (n : Nat) : serveWaiters s b direct n = s := by
  cases n with
  | zero => rfl
  | succ n => simp only [serveWaiters, none]

/-- The berth is back in the state that it was locked from. -/
def putBack (s : State) (b : BitVec 12) : State :=
  countPark (setBerth s b (releasedBerth (berth s b))) .locked (berth s b).heldFrom

theorem berth_putBack (s : State) (b k : BitVec 12) :
    berth (putBack s b) k = berth (setBerth s b (releasedBerth (berth s b))) k := by
  obtain ⟨n, parks⟩ := countPark_ctrs (setBerth s b (releasedBerth (berth s b))) .locked (berth s b).heldFrom
  exact berth_of_berths (congrArg State.berths parks) k

/-- With no waiter a release puts the berth back in the state that it was locked from; one that was RUNNING runs again. -/
theorem releaseLock_unwaited (unwaited : (berth s b).waiters = []) : releaseLock s b = runAgain (putBack s b) b := by
  have none : (berth (putBack s b) b).waiters = [] := by rw [berth_putBack, berth_setBerth_same]; exact unwaited
  rw [releaseLock_eq, unwaited, List.any_nil, if_neg Bool.false_ne_true]
  exact congrArg (runAgain · b) (serveWaiters_none none true 9)

/-- What an unwaited release changes: its berth, the counts of PARKED, and V of a client whose berth runs again. -/
structure Releases (s u : State) (b : BitVec 12) : Prop where
  rest : { u with berths := s.berths, acct := s.acct, ctrs := s.ctrs } = s
  itsBerth : berth u b = releasedBerth (berth s b)
  only : onlyBerth s u b
  count : ctr u (hifCtr 1) = ctr s (hifCtr 1)
  acct : (berth s b).heldFrom ≠ .running → u.acct = s.acct

theorem releases_unwaited (unwaited : (berth s b).waiters = []) : Releases s (releaseLock s b) b := by
  rw [releaseLock_unwaited unwaited]
  have frame := runAgain_frame (putBack s b) b
  have ctrs : (runAgain (putBack s b) b).ctrs = (putBack s b).ctrs := (congrArg State.ctrs frame :)
  obtain ⟨n, parks⟩ := countPark_ctrs (setBerth s b (releasedBerth (berth s b))) .locked (berth s b).heldFrom
  refine ⟨?_, ?_, fun k other => ?_, ?_, fun still => ?_⟩
  · have kept : { putBack s b with berths := s.berths, acct := s.acct, ctrs := s.ctrs } = s := by rw [putBack, parks]; rfl
    calc { runAgain (putBack s b) b with berths := s.berths, acct := s.acct, ctrs := s.ctrs }
        = { { runAgain (putBack s b) b with berths := (putBack s b).berths, acct := (putBack s b).acct } with
            berths := s.berths, acct := s.acct, ctrs := s.ctrs } := rfl
      _ = s := by rw [frame, kept]
  · rw [berth_runAgain, berth_putBack, berth_setBerth_same]
  · rw [berth_runAgain, berth_putBack, berth_setBerth_other s b k _ other]
  · rw [ctr, ctrs, ← ctr]
    exact ctr_countPark (by decide) (by decide) ..
  · have stays : (berth (putBack s b) b).st ≠ .running := by rw [berth_putBack, berth_setBerth_same]; exact still
    rw [runAgain, if_neg stays, putBack, parks]
    rfl

variable {t u : State}

theorem Releases.completed {d : List (BitVec 8)} (release : Releases t u b) (done : completed s t c i stOk d) :
    completed s u c i stOk d := by
  have clients : u.clients = t.clients := (congrArg State.clients release.rest :)
  have emitted : u.emitted = t.emitted := (congrArg State.emitted release.rest :)
  exact completed_before done clients emitted release.count

theorem Releases.frameItem (release : Releases t u b) (answered : frameItem s t) :
    frameItem s { u with berths := s.berths, acct := s.acct } := by
  have kept : Machine.frameItem t { u with berths := t.berths, acct := t.acct } :=
    frameItem_of (congrArg (fun v : State => { v with clients := t.clients, act := t.act, emitted := t.emitted }) release.rest)
  have berths : t.berths = s.berths := (congrArg State.berths answered.1 :)
  have accounts : t.acct = s.acct := (congrArg State.acct answered.1 :)
  rw [← berths, ← accounts]
  exact frameItem_trans answered kept

theorem unlockItem_releases (ready : readyItem s c 0x0B = some i) (locked : (berth s i.berth).st = .locked)
    (owns : (berth s i.berth).lkOwner = c) (token : (berth s i.berth).lkSeq.toNat = leAt (part0 i) 16 2)
    (reserved : restZero (part0 i) [(16, 2)] = true) (unwaited : (berth s i.berth).waiters = []) :
    ∃ u, exec (.unlockItem c) s = .next u ∧ completed s u c i stOk (berthDetail i.berth) ∧ onlyBerth s u i.berth ∧
      berth u i.berth = releasedBerth (berth s i.berth) ∧ frameItem s { u with berths := s.berths, acct := s.acct } ∧
      ((berth s i.berth).heldFrom ≠ .running → u.acct = s.acct) := by
  have runs := (exec_unlockItem ready).trans (congrArg _ (runUnlock_releases locked owns token reserved))
  have done := completed_completeItem (readyItem_some ready).1 stOk (berthDetail i.berth) (s := s) (i := i)
  have answered := completeItem_frame s c i stOk (berthDetail i.berth)
  generalize completeItem s c i stOk (berthDetail i.berth) = t at runs done answered
  have each (k : BitVec 12) : berth t k = berth s k := berth_of_frameItem answered k
  have release : Releases t (releaseLock t i.berth) i.berth := releases_unwaited (by rw [each]; exact unwaited)
  generalize releaseLock t i.berth = u at runs release
  have accounts : t.acct = s.acct := (congrArg State.acct answered.1 :)
  refine ⟨u, runs, release.completed done, fun k other => ?_, ?_, release.frameItem answered, fun still => ?_⟩
  · rw [release.only k other, each]
  · rw [release.itsBerth, each]
  · rw [release.acct (by rw [each]; exact still), accounts]

end Unlock

/-! ## LEASE_EXPIRY (R264, R265) -/

section Lease
variable {s t u : State} {c : BitVec 10} {b : BitVec 12}

/-- A client has no item of a number: none comes with items that complete. -/
theorem findItem_completeItem_none {k : BitVec 10} {q : Nat} (none : findItem s k q = none) (i : Item) (status : Nat)
    (d : List (BitVec 8)) : findItem (completeItem s c i status d) k q = .none := by
  rw [completeItem_eq, findItem]
  obtain ⟨items, others, -⟩ := keepsItems_postRecord (s := itemLeft s c i) (c := c) (itemRecord s i status d)
  by_cases other : k = c
  · subst other
    rw [items, client_itemLeft]
    rw [findItem, List.find?_eq_none] at none
    exact List.find?_eq_none.2 fun j listed => none j (List.mem_of_mem_filter listed)
  · rw [others k other, onlyClient_itemLeft k other]
    exact none

/-- A completed item has left its client's items. -/
theorem findItem_completeItem_self (i : Item) (status : Nat) (d : List (BitVec 8)) :
    findItem (completeItem s c i status d) c i.seq = none := by
  rw [completeItem_eq, findItem]
  obtain ⟨items, -, -⟩ := keepsItems_postRecord (s := itemLeft s c i) (c := c) (itemRecord s i status d)
  rw [items, client_itemLeft, List.find?_eq_none]
  intro j listed
  simpa using (List.mem_filter.1 listed).2

/-- The item found by a number has that number. -/
theorem findItem_seq {q : Nat} {i : Item} (found : findItem s c q = some i) : i.seq = q := by
  simpa using List.find?_some found

/-- The entry of a berth whose lock is abandoned. -/
def abandonedBerth (e : Berth) : Berth := { e with st := .abandoned, waiters := [], lockDue := none }

/-- The lock is abandoned and counted; its waiters have not been answered yet. -/
def lockAbandoned (s : State) (b : BitVec 12) : State := bump (setBerth s b (abandonedBerth (berth s b))) (bthCtr 11)

/-- A waiter of an abandoned lock completes (R265). -/
def abandonWaiter (b : BitVec 12) (s : State) (w : Waiter) : State :=
  match findItem s w.client w.item with
  | some i => completeItem s w.client i stLockAbandoned (berthDetail b)
  | none => s

theorem abandonLock_eq (s : State) (b : BitVec 12) :
    abandonLock s b = (berth s b).waiters.foldl (abandonWaiter b) (lockAbandoned s b) := rfl

theorem answersItems_abandonWaiter (s : State) (w : Waiter) : AnswersItems s (abandonWaiter b s w) := by
  unfold abandonWaiter
  split
  · exact ⟨OnlyRecords.completeItem .., fun _ below => ctr_completeItem_below below ..⟩
  · exact ⟨.refl s, fun _ _ => rfl⟩

theorem findItem_abandonWaiter_self (s : State) (w : Waiter) : findItem (abandonWaiter b s w) w.client w.item = none := by
  unfold abandonWaiter
  split
  case h_1 i found => exact findItem_seq found ▸ findItem_completeItem_self i _ _
  case h_2 none => exact none

theorem findItem_abandonWaiter_none {k : BitVec 10} {q : Nat} (none : findItem s k q = none) (w : Waiter) :
    findItem (abandonWaiter b s w) k q = .none := by
  unfold abandonWaiter
  split
  · exact findItem_completeItem_none none ..
  · exact none

theorem answersItems_abandonWaiters (ws : List Waiter) (s : State) : AnswersItems s (ws.foldl (abandonWaiter b) s) := by
  refine List.foldlRecOn (motive := AnswersItems s) ws _ ⟨.refl s, fun _ _ => rfl⟩ fun t kept w _ => ?_
  obtain ⟨records, counts⟩ := answersItems_abandonWaiter (b := b) t w
  exact ⟨kept.records.trans records, fun k below => (counts k below).trans (kept.counts k below)⟩

/-- Every waiter's item has completed when all of them have been served. -/
theorem findItem_abandonWaiters (ws : List Waiter) (s : State) :
    ∀ w ∈ ws, findItem (ws.foldl (abandonWaiter b) s) w.client w.item = none := by
  induction ws generalizing s with
  | nil => exact fun w listed => absurd listed List.not_mem_nil
  | cons v ws ih =>
    intro w listed
    rcases List.mem_cons.1 listed with rfl | later
    · exact List.foldlRecOn (motive := fun u => findItem u w.client w.item = none) ws _ (findItem_abandonWaiter_self s w)
        fun u none v _ => findItem_abandonWaiter_none none v
    · exact ih _ w later

/-- An abandoned lock leaves its berth ABANDONED, is counted, and completes every waiter (R265). -/
theorem abandonLock_abandons (s : State) (b : BitVec 12) :
    onlyBerth s (abandonLock s b) b ∧ ctr (abandonLock s b) (bthCtr 11) = ctr s (bthCtr 11) + 1 ∧
      berth (abandonLock s b) b = abandonedBerth (berth s b) ∧
      (∀ w ∈ (berth s b).waiters, findItem (abandonLock s b) w.client w.item = none) ∧
      frameItem s { abandonLock s b with berths := s.berths } := by
  rw [abandonLock_eq]
  have answers := answersItems_abandonWaiters (b := b) (berth s b).waiters (lockAbandoned s b)
  have frame : frameItem s { lockAbandoned s b with berths := s.berths } := frameItem_of rfl
  refine ⟨fun k other => ?_, ?_, ?_, findItem_abandonWaiters _ _,
    frameItem_trans frame (frameItem_withBerths answers.records.frame s.berths)⟩
  · rw [answers.berth, lockAbandoned, berth_bump, berth_setBerth_other s b k _ other]
  · rw [answers.counts _ (by decide), lockAbandoned, ctr_bump_same, ctr_setBerth]
  · rw [answers.berth, lockAbandoned, berth_bump, berth_setBerth_same]

end Lease

/-- Settles O29, a clause for each row: LOCK is granted at once or becomes due, UNLOCK of an unwaited berth puts it back, the lease
expires, or a release in its cycle counts a near miss. -/
theorem berthLocks : Obligations.BerthLocks := by
  unfold Obligations.BerthLocks
  intro s c i b e d x
  refine ⟨fun ready noLock flags reserved => ⟨fun still near => ?_, fun running free => ?_⟩,
    fun ready locked owns token reserved unwaited => ?_, fun locked leased => ?_, ?_⟩
  · obtain ⟨u, runs, ⟨done, only, itsBerth, frame⟩, count⟩ := lockItem_granted ready noLock flags reserved still near
    exact ⟨u, runs, only, count, done, itsBerth, frame⟩
  · exact lockItem_due ready noLock flags reserved running free
  · exact unlockItem_releases ready locked owns token reserved unwaited
  · obtain ⟨only, count, itsBerth, gone, frame⟩ := abandonLock_abandons s b
    have expires : leaseExpired s b false = abandonLock s b := if_pos ⟨locked, leased⟩
    exact ⟨_, congrArg Host.Outcome.next expires, only, count, itsBerth, gone, frame⟩
  · exact ⟨_, rfl, fun k => ctr_bump s _ k, rfl⟩

/-! ## Items that complete at once (R263, R314, R317) -/

section AtOnce
variable {s t u : State} {c : BitVec 10} {i : Item}

theorem exec_nopItem (ready : readyItem s c 0x13 = some i) (reserved : restZero (part0 i) [] = true) :
    exec (.nopItem c) s = .next (completeItem s c i stOk []) :=
  congrArg _ ((takeItem_ready _ ready).trans (if_pos reserved))

/-! ### OUT_RET and SET_LIMIT -/

theorem runBerthOp_outRet (h : i.op = 0x05) : runBerthOp c s i = runOutRet c s i := by simp only [runBerthOp, h]
theorem runBerthOp_readState (h : i.op = 0x0C) :
    runBerthOp c s i = onBerth s c i [.parked] true (fun s e => runReadState c s i e) := by simp only [runBerthOp, h]
theorem runBerthOp_setLimit (h : i.op = 0x0E) :
    runBerthOp c s i = onBerth s c i [] true (fun s e => runSetLimit c s i e) := by simp only [runBerthOp, h]
theorem runBerthOp_export (h : i.op = 0x0F) :
    runBerthOp c s i = onBerth s c i [.parked] false (fun s e => runExport c s i e) := by simp only [runBerthOp, h]

theorem exec_outRetItem (ready : readyItem s c 0x05 = some i) : exec (.outRetItem c) s = .next (runOutRet c s i) := by
  obtain ⟨-, -, opcode⟩ := readyItem_some ready
  exact congrArg _ ((takeItem_ready _ ready).trans (runBerthOp_outRet opcode))

/-- OUT_RET of 1 to 65,536 blocks that the berth has filled and the client not yet returned (R315, R317). -/
theorem runOutRet_returns (held : (berth s i.berth).st ≠ .free) (stays : (berth s i.berth).st ≠ .draining)
    (reserved : restZero (part0 i) [(16, 4)] = true) (least : 1 ≤ leAt (part0 i) 16 4) (most : leAt (part0 i) 16 4 ≤ 65536)
    (host : (berth s i.berth).destAudio = false)
    (filled : (berth s i.berth).returned + leAt (part0 i) 16 4 ≤ (berth s i.berth).obBlocks + (berth s i.berth).filled) :
    runOutRet c s i = completeItem (setBerth s i.berth
      { berth s i.berth with returned := (berth s i.berth).returned + leAt (part0 i) 16 4 }) c i stOk (berthDetail i.berth) := by
  have inRange : ¬ (leAt (part0 i) 16 4 = 0 ∨ 65536 < leAt (part0 i) 16 4 ∨ (berth s i.berth).destAudio = true ∨
      (berth s i.berth).obBlocks + (berth s i.berth).filled < (berth s i.berth).returned + leAt (part0 i) 16 4) := by
    simp only [host, Bool.false_eq_true, false_or]
    omega
  simp only [runOutRet, held, stays, or_self, if_false, reserved, Bool.not_true, Bool.false_eq_true, inRange]

/-- SET_LIMIT at or past the berth's step (R263). -/
theorem runSetLimit_sets {e : Berth} (reserved : restZero (part0 i) [(16, 4)] = true) (small : leAt (part0 i) 16 4 < 2 ^ 24)
    (ahead : e.step ≤ leAt (part0 i) 16 4) : runSetLimit c s i e = completeItem (setBerth s i.berth
      { e with stepLast := BitVec.ofNat 24 (leAt (part0 i) 16 4) }) c i stOk (berthDetail i.berth) := by
  simp only [runSetLimit, Nat.not_le.2 small, reserved, Bool.not_true, Bool.false_eq_true, or_self, if_false, Nat.not_lt.2 ahead]

theorem doneWith_setBerth (writes : writable (client s c) = true) (v : Berth) (d : List (BitVec 8)) :
    doneWith s (completeItem (setBerth s i.berth v) c i stOk d) c i d v := by
  refine doneWith_completeItem writes ?_ (ctr_setBerth ..) d
  rw [setBerth]

theorem exec_setLimitItem (ready : readyItem s c 0x0E = some i) (locked : (berth s i.berth).st = .locked)
    (owns : lockOwner (berth s i.berth) = c) :
    exec (.setLimitItem c) s = .next (runSetLimit c s i (berth s i.berth)) :=
  congrArg _ (takeBerthOp_run ready runBerthOp_setLimit (meet_owner _ locked owns))

/-! ### SNAPSHOT and READ_STATE: bytes written to host memory -/

/-- Bytes have been written to host memory for a client. -/
def hostWritten (s : State) (c : BitVec 10) (a : BitVec 64) (bs : List (BitVec 8)) (n : Nat) : State :=
  hostBytes (emit s (.hostWrite a bs)) c n

theorem hostWritten_clients (a : BitVec 64) (bs : List (BitVec 8)) (n : Nat) : (hostWritten s c a bs n).clients = s.clients := rfl
theorem hostWritten_ctrs (a : BitVec 64) (bs : List (BitVec 8)) (n : Nat) : (hostWritten s c a bs n).ctrs = s.ctrs := rfl
theorem hostWritten_tick (a : BitVec 64) (bs : List (BitVec 8)) (n : Nat) : (hostWritten s c a bs n).tick = s.tick := rfl
theorem hostWritten_emitted (a : BitVec 64) (bs : List (BitVec 8)) (n : Nat) :
    (hostWritten s c a bs n).emitted = .hostWrite a bs :: s.emitted := rfl
theorem hostWritten_frame (s : State) (c : BitVec 10) (a : BitVec 64) (bs : List (BitVec 8)) (n : Nat) :
    { hostWritten s c a bs n with act := s.act, emitted := s.emitted } = s := rfl

/-- An item completes with bytes that it has written to host memory, after counters and activity have moved. -/
theorem completed_hostWritten (writes : writable (client s c) = true) (counted : { t with ctrs := s.ctrs, act := s.act } = s)
    (count : ctr t (hifCtr 1) = ctr s (hifCtr 1)) (a : BitVec 64) (bs : List (BitVec 8)) (n : Nat) (d : List (BitVec 8)) :
    completed s (completeItem (hostWritten t c a bs n) c i stOk d) c i stOk d ∧
      frameItem s (completeItem (hostWritten t c a bs n) c i stOk d) ∧
      Emit.hostWrite a bs ∈ (completeItem (hostWritten t c a bs n) c i stOk d).emitted := by
  have clients : t.clients = s.clients := (congrArg State.clients counted :)
  have tick : t.tick = s.tick := (congrArg State.tick counted :)
  have first : frameItem s t := frameItem_of (congrArg (fun v : State => { v with clients := s.clients, emitted := s.emitted }) counted)
  have written : frameItem t (hostWritten t c a bs n) :=
    frameItem_of (congrArg (fun v : State => { v with clients := t.clients, ctrs := t.ctrs }) (hostWritten_frame t c a bs n))
  refine ⟨completed_after ?_ ?_ ?_ writes stOk d, frameItem_trans (frameItem_trans first written) (completeItem_frame ..), ?_⟩
  · rw [hostWritten_clients, clients]
  · rw [ctr, hostWritten_ctrs, ← ctr, count]
  · rw [hostWritten_tick, tick]
  · refine emitted_completeItem ?_ stOk d
    rw [hostWritten_emitted]
    exact List.mem_cons_self

/-- The accounting records of clients first to first + n - 1 (R259). -/
def snapshotBytes (s : State) (first n : Nat) : List (BitVec 8) :=
  (upTo n).flatMap (fun k => acctBytes s (acctOf s (BitVec.ofNat 10 (first + k))))

theorem exec_snapshotItem (ready : readyItem s c 0x12 = some i)
    (reserved : restZero (part0 i) [(16, 2), (18, 2), (24, 8)] = true) (first : leAt (part0 i) 16 2 ≤ 1023)
    (least : 1 ≤ leAt (part0 i) 18 2) (last : leAt (part0 i) 16 2 + leAt (part0 i) 18 2 ≤ 1024)
    (aligned : leAt (part0 i) 24 8 % 64 = 0) :
    let bs := snapshotBytes s (leAt (part0 i) 16 2) (leAt (part0 i) 18 2)
    exec (.snapshotItem c) s = .next (completeItem
      (hostWritten s c (BitVec.ofNat 64 (leAt (part0 i) 24 8)) bs bs.length) c i stOk (natLe s.sched.dstep.toNat 8)) := by
  intro bs
  have inRange : ¬ (1023 < leAt (part0 i) 16 2 ∨ leAt (part0 i) 18 2 = 0 ∨ 1024 < leAt (part0 i) 18 2 ∨
      1024 < leAt (part0 i) 16 2 + leAt (part0 i) 18 2 ∨ leAt (part0 i) 24 8 % 64 ≠ 0) := by omega
  refine congrArg _ ((takeItem_ready _ ready).trans ?_)
  simp only [runSnapshot, reserved, Bool.not_true, Bool.false_eq_true, inRange, if_false]
  rfl

/-- READ_STATE meets a PARKED berth with no lock due, or one that its client has locked. -/
theorem exec_readStateItem (ready : readyItem s c 0x0C = some i)
    (may : ((berth s i.berth).st = .parked ∧ (berth s i.berth).lockDue = none) ∨
      ((berth s i.berth).st = .locked ∧ lockOwner (berth s i.berth) = c)) :
    exec (.readStateItem c) s = .next (runReadState c s i (berth s i.berth)) := by
  refine congrArg _ (takeBerthOp_run ready runBerthOp_readState ?_)
  rcases may with ⟨parked, noLock⟩ | ⟨locked, owns⟩
  · simp [meet, isLocked, parked, noLock]
  · exact meet_owner _ locked owns

/-- The bytes of a section that lie in package memory have been read there. -/
def sectionRead (s : State) (c : BitVec 10) (i : Item) (e : Berth) (n : Nat) : State :=
  match secAt s e (stSec i) with
  | some a => hubPm s c false (a + stOff i) n
  | none => s

theorem sectionRead_counted (e : Berth) (n : Nat) : { sectionRead s c i e n with ctrs := s.ctrs, act := s.act } = s ∧
    ctr (sectionRead s c i e n) (hifCtr 1) = ctr s (hifCtr 1) := by
  unfold sectionRead
  split
  · exact ⟨hubPm_frame .., ctr_hubPm (by decide) ..⟩
  · exact ⟨rfl, rfl⟩

theorem runReadState_reads {e : Berth} (reserved : stResv i = true) (range : stRange s e i = true)
    (here : (awayNow s e || e.copying) = false) : 
    let bs := secRead s e (stSec i) (stOff i) (stLen i)
    runReadState c s i e = completeItem
      (hostWritten (sectionRead s c i e bs.length) c (BitVec.ofNat 64 (stHost i)) bs bs.length) c i stOk (stDetail i) := by
  intro bs
  simp only [runReadState, reserved, range, here, Bool.not_true, Bool.false_eq_true, if_false, sectionRead] <;> rfl

/-! ### EXPORT (R195–R197) -/

theorem exec_exportItem (ready : readyItem s c 0x0F = some i) (parked : (berth s i.berth).st = .parked)
    (noLock : (berth s i.berth).lockDue = none) :
    exec (.exportItem c) s = .next (runExport c s i (berth s i.berth)) :=
  congrArg _ (takeBerthOp_run ready runBerthOp_export (by simp [meet, isLocked, parked, noLock]))

/-- A generator that has not failed and needs no block answers at once, and only it changes (R206, R207). -/
theorem genRequest_answers {g : Nat} (sound : (genOf s g).state ≠ 3) (full : needsBlock s g = false) :
    ∃ d k, genRequest s g = (setGen s g d, .key k) := by
  simp only [genRequest, sound, full, Bool.false_and, Bool.false_eq_true, if_false]
  exact ⟨_, _, rfl⟩

/-- A blob is sealed from the berth, its module and memories, and not from a generator. -/
theorem sealBlob_setGen (g : Nat) (d : Drbg) (e : Berth) (k : TKey) (nonce : List (BitVec 8)) :
    sealBlob (setGen s g d) e k nonce = sealBlob s e k nonce := by
  have body : blobBody (setGen s g d) e = blobBody s e := rfl
  have header (len n : Nat) : blobHeader (setGen s g d) e k nonce len n = blobHeader s e k nonce len n := rfl
  simp only [sealBlob, body, header]

/-- The state whose EXPORT item completes: the nonce drawn, the berth's bytes read, the blob written, the EXPORT counted. -/
def exported (s : State) (c : BitVec 10) (i : Item) (e : Berth) (d : Drbg) (blob : List (BitVec 8)) : State :=
  let s2 := hubPm (setGen s hubGen d) c false (swapAt e) (winLen e + (usedPart (berthModel (setGen s hubGen d) e) e).2)
  bump (hostWritten s2 c (BitVec.ofNat 64 (leAt (part0 i) 24 8)) blob (blobLen s e)) (seqDevCtr 2)

theorem runExport_exports {e : Berth} {k : TKey} {d : Drbg} {w : BitVec 256}
    (reserved : restZero (part0 i) [(24, 8), (32, 4)] = true) (aligned : leAt (part0 i) 24 8 % 64 = 0)
    (noCopyBack : e.copyBack = false) (noUnpark : e.unparkDue = false) (here : (awayNow s e || e.copying) = false)
    (room : blobLen s e ≤ leAt (part0 i) 32 4) (key : stateKey s s.sec.tEpoch = some k)
    (draws : genRequest s hubGen = (setGen s hubGen d, .key w)) : runExport c s i e =
      completeItem (exported s c i e d (sealBlob s e k (natLe w.toNat 12))) c i stOk
        (berthDetail i.berth ++ [0, 0] ++ natLe (blobLen s e) 4) := by
  simp only [runExport, reserved, aligned, noCopyBack, noUnpark, here, Nat.not_lt.2 room, key, draws, sealBlob_setGen, Bool.not_true,
    Bool.or_self, Bool.false_eq_true, ne_eq, not_true_eq_false, if_false]
  rfl

section Exported
variable (s c i) (e : Berth) (d : Drbg) (blob : List (BitVec 8))

theorem exported_frame :
    { exported s c i e d blob with ctrs := s.ctrs, act := s.act, emitted := s.emitted, rng := s.rng } = s := by
  have read := hubPm_frame (setGen s hubGen d) c false (swapAt e) (winLen e + (usedPart (berthModel (setGen s hubGen d) e) e).2)
  unfold exported
  generalize hubPm (setGen s hubGen d) c false (swapAt e) (winLen e + (usedPart (berthModel (setGen s hubGen d) e) e).2) = t at read ⊢
  exact congrArg (fun v : State => { v with ctrs := s.ctrs, act := s.act, emitted := s.emitted, rng := s.rng }) read

theorem exported_emitted : Emit.hostWrite (BitVec.ofNat 64 (leAt (part0 i) 24 8)) blob ∈ (exported s c i e d blob).emitted := by
  rw [exported, bump_emitted, hostWritten_emitted]
  exact List.mem_cons_self

/-- The EXPORT is counted, and nothing else below the stacks' sets. -/
theorem ctr_exported {k : Nat} (low : k < 0xA00) :
    ctr (exported s c i e d blob) k = if k = seqDevCtr 2 then ctr s k + 1 else ctr s k := by
  rw [exported, ctr_bump]
  have read : ctr (hostWritten (hubPm (setGen s hubGen d) c false (swapAt e)
      (winLen e + (usedPart (berthModel (setGen s hubGen d) e) e).2)) c (BitVec.ofNat 64 (leAt (part0 i) 24 8)) blob (blobLen s e)) k =
      ctr s k := by
    rw [ctr, hostWritten_ctrs, ← ctr, ctr_hubPm low]
    rfl
  simp only [read]

end Exported

/-- The item of an EXPORT completes, and the EXPORT is counted; the memories stay but for the spill rings. -/
theorem completed_exported (writes : writable (client s c) = true) (e : Berth) (d : Drbg) (blob detail : List (BitVec 8)) :
    let u := completeItem (exported s c i e d blob) c i stOk detail
    completed s u c i stOk detail ∧ ctr u (seqDevCtr 2) = ctr s (seqDevCtr 2) + 1 ∧
      Emit.hostWrite (BitVec.ofNat 64 (leAt (part0 i) 24 8)) blob ∈ u.emitted ∧ u.berths = s.berths ∧ keptMemories s u := by
  intro u
  have frame := exported_frame s c i e d blob
  have clients : (exported s c i e d blob).clients = s.clients := (congrArg State.clients frame :)
  have tick : (exported s c i e d blob).tick = s.tick := (congrArg State.tick frame :)
  have berths : (exported s c i e d blob).berths = s.berths := (congrArg State.berths frame :)
  have kept : keptMemories s (exported s c i e d blob) := keptMemories_of_same (congrArg State.store frame :)
    (congrArg State.ret frame :) (congrArg State.pm frame :)
  have answered := completeItem_frame (exported s c i e d blob) c i stOk detail
  refine ⟨completed_after clients ?_ tick writes stOk detail, ?_, emitted_completeItem (exported_emitted ..) stOk detail,
    (congrArg State.berths answered.1 :).trans berths, keptMemories_trans kept (keptMemories_of_frameItem answered)⟩
  · rw [ctr_exported s c i e d blob (by decide), if_neg (by decide)]
  · rw [ctr_completeItem_below (by decide), ctr_exported s c i e d blob (by decide), if_pos rfl]

end AtOnce

/-- Settles O28, a clause for each row. That OUT_RET completes on a berth in any state but FREE and DRAINING is the model's choice
(log 146). -/
theorem itemsThatComplete : Obligations.ItemsThatComplete := by
  unfold Obligations.ItemsThatComplete
  intro s c i e d bd first n away
  refine ⟨fun ready reserved => ?_, fun ready held stays reserved least most host filled => ?_,
    fun ready locked owns reserved small ahead => ?_, fun ready reserved inFirst least last aligned => ?_,
    fun ready may here reserved range => ?_, fun k ready parked noLock here noCopyBack noUnpark reserved aligned room
      key sound full => ?_⟩
  · obtain ⟨writes, -, -⟩ := readyItem_some ready
    exact ⟨_, exec_nopItem ready reserved, completed_completeItem writes _ _, completeItem_frame ..⟩
  · obtain ⟨writes, -, -⟩ := readyItem_some ready
    have returns := runOutRet_returns (c := c) held stays reserved least most host filled
    exact ⟨_, (exec_outRetItem ready).trans (congrArg _ returns), doneWith_setBerth writes _ _⟩
  · obtain ⟨writes, -, -⟩ := readyItem_some ready
    have sets := runSetLimit_sets (s := s) (c := c) reserved small ahead
    exact ⟨_, (exec_setLimitItem ready locked owns).trans (congrArg _ sets), doneWith_setBerth writes _ _⟩
  · obtain ⟨writes, -, -⟩ := readyItem_some ready
    obtain ⟨done, frame, written⟩ := completed_hostWritten (i := i) (t := s) writes rfl rfl (BitVec.ofNat 64 (leAt d 24 8))
      (snapshotBytes s first n) (snapshotBytes s first n).length (natLe s.sched.dstep.toNat 8)
    exact ⟨_, exec_snapshotItem ready reserved inFirst least last aligned, done, frame, written⟩
  · obtain ⟨writes, -, -⟩ := readyItem_some ready
    have reads := runReadState_reads (c := c) reserved range here
    obtain ⟨counted, count⟩ := sectionRead_counted (s := s) (c := c) (i := i) e (secRead s e (stSec i) (stOff i) (stLen i)).length
    exact ⟨_, (exec_readStateItem ready may).trans (congrArg _ reads), completed_hostWritten writes counted count ..⟩
  · obtain ⟨writes, -, -⟩ := readyItem_some ready
    obtain ⟨g, w, draws⟩ := genRequest_answers sound full
    have exports := runExport_exports (c := c) reserved aligned noCopyBack noUnpark here room key draws
    exact ⟨_, natLe w.toNat 12, (exec_exportItem ready parked noLock).trans (congrArg _ exports), length_natLe ..,
      completed_exported writes ..⟩

/-! ## What the end of a berth's work leaves (R138, R140, R245, R265) -/

/-- A part that each step of a fold keeps is kept by the fold. -/
theorem foldl_keeps {σ α β : Type} {part : σ → β} {f : σ → α → σ} (each : ∀ s x, part (f s x) = part s)
    (l : List α) (s : σ) :
    part (l.foldl f s) = part s :=
  List.foldlRecOn (motive := fun u => part u = part s) l f rfl fun u kept x _ => (each u x).trans kept

/-- Nothing but berths, routes and what `frameItem` allows has changed. -/
structure BerthFrame (s u : State) : Prop where
  frame : frameItem s { u with berths := s.berths, chn := s.chn }

namespace BerthFrame
variable {s t u : State}

theorem of_frameItem (h : frameItem s u) : BerthFrame s u := by
  have berths : u.berths = s.berths := (congrArg State.berths h.1 :)
  have chn : u.chn = s.chn := (congrArg State.chn h.1 :)
  refine ⟨?_⟩
  rw [← berths, ← chn]
  exact h

/-- Berths, routes, counters, activity and the output alone. -/
theorem of_same (h : { u with berths := s.berths, chn := s.chn, ctrs := s.ctrs, act := s.act, emitted := s.emitted } = s) :
    BerthFrame s u :=
  ⟨frameItem_of (congrArg (fun v : State => { v with clients := s.clients }) h)⟩

theorem refl (s : State) : BerthFrame s s := of_same rfl

theorem trans (first : BerthFrame s t) (second : BerthFrame t u) : BerthFrame s u := by
  refine ⟨frameItem_trans first.frame ⟨?_, second.frame.2⟩⟩
  exact congrArg (fun v : State => { v with berths := s.berths, chn := s.chn }) second.frame.1

theorem foldl {β : Type} {f : State → β → State} (each : ∀ s b, BerthFrame s (f s b)) (l : List β) (s : State) :
    BerthFrame s (l.foldl f s) :=
  List.foldlRecOn (motive := BerthFrame s) l f (refl s) fun t kept b _ => kept.trans (each t b)

section Kept
variable (h : BerthFrame s u)
include h

theorem threads : u.threads = s.threads := (congrArg State.threads h.frame.1 :)
theorem pre : u.pre = s.pre := (congrArg State.pre h.frame.1 :)
theorem tick : u.tick = s.tick := (congrArg State.tick h.frame.1 :)
theorem clk : u.clk = s.clk := (congrArg State.clk h.frame.1 :)
theorem sched : u.sched = s.sched := (congrArg State.sched h.frame.1 :)
theorem memories : keptMemories s u := by
  obtain ⟨store, ret, pm⟩ := keptMemories_of_frameItem h.frame
  exact ⟨store, ret, pm⟩

end Kept

section Operations
variable (s) (b : BitVec 12)

theorem setBerth (v : Berth) : BerthFrame s (setBerth s b v) := of_same rfl
theorem modBerth (f : Berth → Berth) : BerthFrame s (modBerth s b f) := of_same rfl
theorem bump (n : Nat) : BerthFrame s (bump s n) := of_same rfl
theorem modAct (c : BitVec 10) (f : Activity → Activity) : BerthFrame s (modAct s c f) := of_same rfl
theorem completeItem (c : BitVec 10) (i : Item) (status : Nat) (d : List (BitVec 8)) : BerthFrame s (completeItem s c i status d) :=
  of_frameItem (completeItem_frame ..)
theorem completeAll (p : Item → Bool) (status : Nat) (d : Item → List (BitVec 8)) : BerthFrame s (completeAll s p status d) :=
  of_frameItem (completeAll_frame ..)
theorem berthNotice (op status : Nat) (d : List (BitVec 8)) : BerthFrame s (berthNotice s b op status d) :=
  of_frameItem (notice_frame ..)

theorem countPark (was now : BState) : BerthFrame s (countPark s was now) := by
  obtain ⟨n, parks⟩ := countPark_ctrs s was now
  rw [parks]
  exact of_same rfl

theorem giveCredit : BerthFrame s (giveCredit s b) := by
  unfold Machine.giveCredit
  split
  · exact of_same rfl
  · exact refl s

theorem closeBlock (vals : List Nat) (last : Bool) (step : Nat) : BerthFrame s (closeBlock s b vals last step) := by
  unfold Machine.closeBlock
  extract_lets e n bytes addr s1 s2
  have written : BerthFrame s s1 := of_same rfl
  exact (written.trans (setBerth s1 b _)).trans (berthNotice s2 b _ _ _)

theorem closePartial : BerthFrame s (closePartial s b) := by
  unfold Machine.closePartial
  extract_lets e
  split
  · exact refl s
  · exact (closeBlock s b _ _ _).trans (modBerth _ b _)

theorem endNotice (cause : EndCause) : BerthFrame s (endNotice s b cause) := by
  unfold Machine.endNotice
  extract_lets e exc pc
  split
  · exact refl s
  · exact refl s
  · exact berthNotice s b _ _ _

/-- A berth drains: its last block closes, its end is noted, and the items on it complete (R245). -/
theorem drainBerth (cause : EndCause) : BerthFrame s (drainBerth s b cause) := by
  unfold Machine.drainBerth startDrain
  extract_lets s1 s2 drain s3
  have noted : BerthFrame s s2 := (closePartial s b).trans (endNotice s1 b cause)
  have drained : BerthFrame s s3 := (noted.trans (countPark s2 _ _)).trans (modBerth _ b drain)
  exact drained.trans (completeAll s3 _ _ _)

theorem abandonLock : BerthFrame s (abandonLock s b) := by
  rw [abandonLock_eq]
  have marked : BerthFrame s (lockAbandoned s b) := (setBerth s b _).trans (bump _ _)
  exact marked.trans (of_frameItem (answersItems_abandonWaiters _ _).records.frame)

/-- A faulted berth is charged, and drains or is abandoned (R140). -/
theorem dropFaulted : BerthFrame s (dropFaulted s b) := by
  unfold Machine.dropFaulted
  extract_lets e s1
  have charged : BerthFrame s s1 := modAct s _ _
  split
  · exact charged
  · split
    · exact charged.trans (abandonLock s1 b)
    · exact (charged.trans (giveCredit s1 b)).trans (drainBerth _ b .exception)

/-- A leave that takes effect at once drains its berth, or waits for the boundary of its committed step (R138). -/
theorem leaveAtOnce : BerthFrame s (leaveAtOnce s b) := by
  unfold Machine.leaveAtOnce
  extract_lets e s1
  have told : BerthFrame s s1 := (setBerth s b _).trans (completeAll _ _ _ _)
  split
  · exact told
  · exact told.trans (drainBerth s1 b .leave)

end Operations
end BerthFrame

/-! ## PREEMPT (R130, R133) -/

section Preempt
variable (s : State) (l : Nat)

theorem stopThread_stopThread (t : Thread) : stopThread (stopThread t) = stopThread t := by
  cases st : t.st <;> simp [stopThread, st]

theorem thread_of_threads {u : State} (threads : u.threads = s.threads) (lt : BitVec 12) : thread u lt = thread s lt := by
  rw [thread, threads, thread]

theorem thread_stopCluster (lt : BitVec 12) :
    thread (stopCluster s l) lt = if lcluOf lt = l then stopThread (thread s lt) else thread s lt :=
  tabGet_map (α := Thread) {} (fun k t => if k / 256 = l then stopThread t else t) (fun k => by split <;> rfl) s.threads lt.toNat

theorem creditsBack_frame : BerthFrame s (creditsBack s l) := BerthFrame.foldl (fun t _ => .giveCredit t _) _ s

/-- The stop of a cluster before its faulted and leaving berths are dealt with: threads stopped, the phase set, the tile migrations
dropped, the item on record (R133). -/
def stopBegun (s : State) (l : Nat) (c : BitVec 10) (item : Nat) : State :=
  let s1 := setSavePhase (stopCluster (creditsBack s l) l) l .stopping
  let mine (m : TileMigr) : Bool := decide (m.clu = physOf s l) && !m.switched
  let owed := (s1.cal.tileMigr.filter mine).map (fun m => tileKey m.clu m.old)
  { s1 with
    cal := { s1.cal with tileMigr := s1.cal.tileMigr.filter (fun m => !mine m), owedTiles := s1.cal.owedTiles ++ owed }
    pre := { s1.pre with item := tabPut s1.pre.item l (c.toNat, item), owner := tabPut s1.pre.owner l c.toNat } }

theorem startSave_frame (c : BitVec 10) (item : Nat) : BerthFrame (stopBegun s l c item) (startSave s l c item) := by
  have dropped (t : State) (es : List (Nat × Berth)) :
      BerthFrame t (es.foldl (fun s e => dropFaulted s (BitVec.ofNat 12 e.1)) t) := .foldl (fun t _ => .dropFaulted t _) _ t
  have left (t : State) (es : List (Nat × Berth)) :
      BerthFrame t (es.foldl (fun s e => leaveAtOnce s (BitVec.ofNat 12 e.1)) t) := .foldl (fun t _ => .leaveAtOnce t _) _ t
  exact (dropped _ _).trans (left _ _)

theorem thread_startSave (c : BitVec 10) (item : Nat) (lt : BitVec 12) :
    thread (startSave s l c item) lt = if lcluOf lt = l then stopThread (thread s lt) else thread s lt := by
  rw [thread_of_threads _ (startSave_frame s l c item).threads]
  refine (thread_stopCluster (creditsBack s l) l lt).trans ?_
  rw [thread_of_threads _ (creditsBack_frame s l).threads]

theorem savePhase_startSave (c : BitVec 10) (item k : Nat) :
    savePhase (startSave s l c item) k = if k = l then .stopping else savePhase s k := by
  have phases : (startSave s l c item).pre.phase = tabSet .none s.pre.phase l .stopping := by
    rw [(startSave_frame s l c item).pre, ← (creditsBack_frame s l).pre]
    rfl
  rw [savePhase, phases]
  split
  case isTrue same => rw [same, tabGet_set_same]
  case isFalse other => rw [tabGet_set_other _ _ _ _ _ _ other, savePhase]

theorem startSave_kept (c : BitVec 10) (item : Nat) : keptMemories s (startSave s l c item) := by
  have begun : keptMemories (creditsBack s l) (stopBegun s l c item) := keptMemories_of_same rfl rfl rfl
  exact keptMemories_trans (keptMemories_trans (creditsBack_frame s l).memories begun) (startSave_frame s l c item).memories

/-- The stops of a list of clusters for one item. -/
def startSaves (s : State) (ls : List Nat) (c : BitVec 10) (item : Nat) : State := ls.foldl (fun s l => startSave s l c item) s

theorem thread_startSaves (ls : List Nat) (c : BitVec 10) (item : Nat) (lt : BitVec 12) :
    thread (startSaves s ls c item) lt = if lcluOf lt ∈ ls then stopThread (thread s lt) else thread s lt := by
  induction ls generalizing s with
  | nil => simp [startSaves]
  | cons l ls ih =>
    refine (ih (startSave s l c item)).trans ?_
    rw [thread_startSave]
    simp only [List.mem_cons]
    by_cases first : lcluOf lt = l
    · simp only [first, true_or, if_true, stopThread_stopThread, ite_self]
    · simp only [first, false_or, if_false]

theorem savePhase_startSaves (ls : List Nat) (c : BitVec 10) (item k : Nat) :
    savePhase (startSaves s ls c item) k = if k ∈ ls then .stopping else savePhase s k := by
  induction ls generalizing s with
  | nil => simp [startSaves]
  | cons l ls ih =>
    refine (ih (startSave s l c item)).trans ?_
    rw [savePhase_startSave]
    by_cases later : k ∈ ls <;> simp [later]

theorem startSaves_kept (ls : List Nat) (c : BitVec 10) (item : Nat) : keptMemories s (startSaves s ls c item) :=
  List.foldlRecOn (motive := keptMemories s) ls _ keptMemories_refl fun t kept l _ => keptMemories_trans kept (startSave_kept t l c item)

theorem preemptItem_stops {s : State} {c : BitVec 10} {i : Item} (ready : readyItem s c 0x11 = some i)
    (reserved : restZero (part0 i) [(16, 2)] = true) (named : leAt (part0 i) 16 2 ≠ 0)
    (settled : (slotsOf (leAt (part0 i) 16 2)).any (migrating s) = false)
    (may : (slotsOf (leAt (part0 i) 16 2)).all (mayPreempt s) = true) :
    ∃ f, takeItem s c 0x11 (runPreempt c) = startSaves (modItem s c i.seq f) (slotsOf (leAt (part0 i) 16 2)) c i.seq := by
  rw [takeItem_ready (runPreempt c) ready]
  refine ⟨fun j => { j with begun := true, held := false, aux := leAt (part0 i) 16 2 }, ?_⟩
  simp only [runPreempt, reserved, named, settled, may, Bool.not_true, Bool.false_eq_true, if_false]
  rfl

end Preempt

/-! ## LOAD and LOAD_RESIDENT (R270, R271) -/

section Load
variable (s : State) (slot : BitVec 8) (c : BitVec 10) (i : Item) (m : ModuleDesc)

/-- What the placement of copies keeps: clients, berths, and the module's state and descriptor. -/
def placingPart (s : State) : Tab Client × Tab Berth × ModState × ModuleDesc :=
  (s.clients, s.berths, (module s slot).st, (module s slot).desc)

/-- What the placement of images keeps: the copies as well. -/
def imagingPart (s : State) : Tab Client × Tab Berth × ModState × ModuleDesc × List Copy :=
  (s.clients, s.berths, (module s slot).st, (module s slot).desc, (module s slot).copies)

/-- What the load of the copies and its charge keep: clients, berths, modules. -/
def loadingPart (s : State) : Tab Client × Tab Berth × Tab Module := (s.clients, s.berths, s.mods)

theorem placingPart_placeCopy (k : Nat) (d : ModelDecl) (p : Placing) :
    placingPart slot (placeCopy slot k d p).s = placingPart slot p.s := by
  unfold placeCopy
  extract_lets fits
  split
  · rfl
  · split
    · rfl
    · simp [placingPart]
      exact ⟨rfl, rfl⟩

theorem placingPart_placeCopies : placingPart slot (placeCopies s slot i m).s = placingPart slot s := by
  refine foldl_keeps (part := fun p : Placing => placingPart slot p.s) (fun p e => ?_) _ _
  exact foldl_keeps (part := fun p : Placing => placingPart slot p.s) (fun p _ => placingPart_placeCopy slot e.2 e.1 p) _ _

theorem loadingPart_countPm (wr : Bool) (a n : Nat) : loadingPart (countPm s wr a n) = loadingPart s := by
  unfold countPm
  split
  · rfl
  · exact foldl_keeps (part := loadingPart) (by intros; rfl) _ _

theorem loadingPart_hubPm (wr : Bool) (a n : Nat) : loadingPart (hubPm s c wr a n) = loadingPart s :=
  loadingPart_countPm s wr a n

theorem imagingPart_of_loadingPart {t u : State} (same : loadingPart u = loadingPart t) : imagingPart slot u = imagingPart slot t := by
  simp only [loadingPart, Prod.mk.injEq] at same
  obtain ⟨clients, berths, mods⟩ := same
  simp only [imagingPart, module, clients, berths, mods]

theorem imagingPart_images (t : State) (images : List (Nat × Nat)) :
    imagingPart slot (setModule t slot { module t slot with images := images }) = imagingPart slot t := by
  simp only [imagingPart, module_setModule_same]
  rfl

theorem imagingPart_placeImages {s : State} {t : State} (placed : placeImages s slot c m = some t) :
    imagingPart slot t = imagingPart slot s := by
  refine List.foldlRecOn (motive := fun o : Option State => ∀ u, o = some u → imagingPart slot u = imagingPart slot s) _ _ ?_
    (fun o kept die _ u next => ?_) t placed
  · intro u same
    rw [← Option.some.inj same]
  · obtain ⟨v, before, fits⟩ := Option.bind_eq_some_iff.1 next
    obtain ⟨off, -, stored⟩ := Option.map_eq_some_iff.1 fits
    rw [← stored, imagingPart_of_loadingPart slot (loadingPart_hubPm ..)]
    exact (imagingPart_images slot (pmPut v _ _) _).trans (kept v before)

theorem loadingPart_storePut (l a : Nat) (bs : List (BitVec 8)) : loadingPart (storePut s l a bs) = loadingPart s := rfl

theorem loadingPart_loadWindow (k : Copy) (d : ModelDecl) : loadingPart (loadWindow s k d) = loadingPart s := by
  refine (foldl_keeps (part := loadingPart) ?_ _ _).trans ((foldl_keeps (part := loadingPart) ?_ _ _).trans
    (loadingPart_storePut ..))
  · exact fun _ _ => loadingPart_storePut ..
  · exact fun _ _ => loadingPart_storePut ..

theorem loadingPart_loadCopy (k : Copy) : loadingPart (loadCopy s slot m k) = loadingPart s := by
  refine (foldl_keeps (part := loadingPart) ?_ _ _).trans ((foldl_keeps (part := loadingPart) ?_ _ _).trans
    (loadingPart_loadWindow s k _))
  · intros; rfl
  · intros; rfl

/-- The load begins: the copies are written and charged, the item is under way. -/
theorem startLoad_begins : ∃ t, startLoad s c i slot m = beginItem t c i ∧ loadingPart t = loadingPart s :=
  ⟨_, rfl, foldl_keeps (part := loadingPart) (fun t k => loadingPart_loadCopy t slot m k) _ _⟩

theorem loadItem_starts {s t : State} {c : BitVec 10} {i : Item} {m : ModuleDesc} {slot : BitVec 8} {p : Placing}
    (ready : readyItem s c 0x01 = some i) (reserved : restZero (part0 i) [(16, 16), (32, 32)] = true)
    (aligned : leAt (part0 i) 16 8 % 64 = 0) (sound : contentFault s i m = none) (free : freeSlot s = some slot)
    (copies : placeCopies (setModule s slot { st := .loading, desc := m, client := c, item := i.seq }) slot i m = p)
    (fit : p.noFit = false) (mem : p.noMem = false) (whole : p.compact = []) (images : placeImages p.s slot c m = some t) :
    exec (.loadItem c m) s = .next (startLoad t c i slot m) := by
  refine (congrArg _ (takeItem_ready (runLoad m c) ready)).trans (congrArg _ ?_)
  simp only [runLoad, reserved, aligned, sound, free, copies, fit, mem, whole, images, Bool.not_true, Bool.false_eq_true, ne_eq,
    not_true_eq_false, if_false, List.isEmpty_nil, if_true]

/-- A LOAD with a place for every copy and image begins (R270). -/
theorem loadItem_begins {s t : State} {c : BitVec 10} {i : Item} {m : ModuleDesc} {slot : BitVec 8} {p : Placing}
    (copies : placeCopies (setModule s slot { st := .loading, desc := m, client := c, item := i.seq }) slot i m = p)
    (images : placeImages p.s slot c m = some t) :
    (module (startLoad t c i slot m) slot).st = .loading ∧ (module (startLoad t c i slot m) slot).desc = m ∧
      (module (startLoad t c i slot m) slot).copies = (module p.s slot).copies ∧ hasBegun s (startLoad t c i slot m) c i ∧
      (startLoad t c i slot m).berths = s.berths := by
  obtain ⟨v, starts, loaded⟩ := startLoad_begins t slot c i m
  have imaged : imagingPart slot v = imagingPart slot p.s :=
    (imagingPart_of_loadingPart slot loaded).trans (imagingPart_placeImages slot c m images)
  have placed := placingPart_placeCopies (setModule s slot { st := .loading, desc := m, client := c, item := i.seq }) slot i m
  rw [copies] at placed
  simp only [imagingPart, Prod.mk.injEq] at imaged
  simp only [placingPart, Prod.mk.injEq, module_setModule_same] at placed
  obtain ⟨clients, berths, st, desc, same⟩ := imaged
  obtain ⟨clients0, berths0, st0, desc0⟩ := placed
  rw [starts]
  exact ⟨st.trans st0, desc.trans desc0, same, hasBegun_of_clients (clients.trans clients0) hasBegun_beginItem, berths.trans berths0⟩

/-- A LOAD with the content of a bad module completes with BAD_DESCRIPTOR (R270). -/
theorem loadItem_refuses {s : State} {c : BitVec 10} {i : Item} {m : ModuleDesc} (ready : readyItem s c 0x01 = some i)
    (reserved : restZero (part0 i) [(16, 16), (32, 32)] = true) (aligned : leAt (part0 i) 16 8 % 64 = 0)
    (bad : contentFault s i m = some .bad) :
    exec (.loadItem c m) s = .next (badItem (bump s (bthCtr 18)) c i 0 2) := by
  refine (congrArg _ (takeItem_ready (runLoad m c) ready)).trans (congrArg _ ?_)
  simp only [runLoad, reserved, aligned, bad, Bool.not_true, Bool.false_eq_true, ne_eq, not_true_eq_false, if_false]
  rfl

/-- The clusters of a module's copies, as a mask. -/
def copyMask (m : Module) : Nat :=
  sumNat ((upTo 16).map (fun l => if m.copies.any (fun k => decide (k.lclu.toNat = l)) then 2 ^ l else 0))

theorem frameItem_withMods {t u : State} (kept : frameItem t u) (ms : Tab Module) :
    frameItem { t with mods := ms } { u with mods := ms } :=
  ⟨congrArg (fun v : State => { v with mods := ms }) kept.1, kept.2⟩

theorem mods_completeItem (status : Nat) (d : List (BitVec 8)) : (completeItem s c i status d).mods = s.mods :=
  (congrArg State.mods (completeItem_frame s c i status d).1 :)

/-- The slot holds a module that has been loaded, which is counted. -/
def moduleLoaded (v : Module) : State := bump (setModule s slot v) (bthCtr 17)

theorem loadResident_completes {i : Item} (loading : (module s slot).st = .loading)
    (found : findItem s (module s slot).client (module s slot).item = some i) :
    loadResident s slot = completeItem (moduleLoaded s slot { module s slot with st := .loaded }) (module s slot).client i stOk
      (natLe slot.toNat 1 ++ [0, 0, 0] ++ natLe (copyMask (module s slot)) 4) := by
  unfold loadResident
  extract_lets m s1 mask
  rw [if_neg (not_not.2 loading)]
  have again : findItem s1 m.client m.item = some i := found
  rw [again]
  rfl

/-- The load of a resident module completes for the item of its client (R271). -/
theorem moduleLoaded_completes {v : Module} {i : Item} (writes : writable (client s c) = true) (d : List (BitVec 8)) :
    let u := completeItem (moduleLoaded s slot v) c i stOk d
    module u slot = v ∧ completed s u c i stOk d ∧ frameItem s { u with mods := s.mods } := by
  have marked : frameItem s { moduleLoaded s slot v with mods := s.mods } := frameItem_of rfl
  have answered := frameItem_withMods (completeItem_frame (moduleLoaded s slot v) c i stOk d) s.mods
  refine ⟨?_, ?_, frameItem_trans marked answered⟩
  · rw [module, mods_completeItem]
    exact module_setModule_same s slot v
  · have count : ctr (moduleLoaded s slot v) (hifCtr 1) = ctr s (hifCtr 1) := ctr_bump_other (setModule s slot v) _ _ (by decide)
    exact completed_after (s := s) (t := moduleLoaded s slot v) rfl count rfl writes stOk d

end Load

/-! ## UNLOAD (R271) -/

section Unload
variable (s : State) (slot : BitVec 8) (c : BitVec 10) (i : Item)

/-- The module of a slot is gone, with the records of its copies, and the unloading is counted. -/
def moduleGone : State :=
  bump (setModule ((module s slot).copies.foldl (fun s c => clearRecords s slot c) s) slot {}) (bthCtr 19)

theorem clearRecords_tiles (k : Copy) : { clearRecords s slot k with tiles := [] } = { s with tiles := [] } :=
  foldl_keeps (part := fun u : State => { u with tiles := [] }) (by intros; rfl) _ _

theorem moduleGone_eq : ∃ ts, moduleGone s slot = bump (setModule { s with tiles := ts } slot {}) (bthCtr 19) := by
  have cleared := foldl_keeps (part := fun u : State => { u with tiles := [] }) (fun t k => clearRecords_tiles t slot k)
    (module s slot).copies s
  unfold moduleGone
  generalize (module s slot).copies.foldl (fun s c => clearRecords s slot c) s = u at cleared ⊢
  have same : u = { s with tiles := u.tiles } := congrArg (fun v : State => { v with tiles := u.tiles }) cleared
  exact ⟨u.tiles, congrArg (fun u : State => bump (setModule u slot {}) (bthCtr 19)) same⟩

theorem clients_moduleGone : (moduleGone s slot).clients = s.clients := by
  obtain ⟨ts, gone⟩ := moduleGone_eq s slot
  rw [gone]
  rfl

theorem module_bump (s : State) (n : Nat) (k : BitVec 8) : module (bump s n) k = module s k := rfl

theorem moduleGone_kept : (moduleGone s slot).berths = s.berths ∧ keptMemories s (moduleGone s slot) ∧
    module (moduleGone s slot) slot = {} ∧ ctr (moduleGone s slot) (bthCtr 19) = ctr s (bthCtr 19) + 1 := by
  obtain ⟨ts, gone⟩ := moduleGone_eq s slot
  rw [gone]
  have kept : keptMemories s (bump (setModule { s with tiles := ts } slot {}) (bthCtr 19)) := by
    refine keptMemories_of_same ?_ ?_ ?_ <;> simp only [bump, addCtr, setModule]
  exact ⟨rfl, kept, (module_bump _ _ slot).trans (module_setModule_same { s with tiles := ts } slot {}),
    ctr_bump_same (setModule { s with tiles := ts } slot {}) (bthCtr 19)⟩

theorem finishUnload_completes {i : Item} (unloading : (module s slot).st = .unloading)
    (unused : (heldBerths s).all (fun e => decide (e.2.modSlot ≠ slot)) = true)
    (found : findItem s (module s slot).client (module s slot).item = some i) :
    finishUnload s slot = completeItem (moduleGone s slot) (module s slot).client i stOk [] := by
  have same : findItem (moduleGone s slot) (module s slot).client (module s slot).item = some i := by
    rw [findItem, client, clients_moduleGone]
    exact found
  unfold finishUnload
  extract_lets m s1 s2
  rw [if_pos ⟨unloading, unused⟩]
  have again : findItem s2 m.client m.item = some i := same
  rw [again]
  rfl

theorem findItem_modItem_self {q : Nat} {f : Item → Item} (number : ∀ j, (f j).seq = j.seq) (found : findItem s c q = some i) :
    findItem (modItem s c q f) c q = some (f i) := by
  have named : i.seq = q := findItem_seq found
  rw [findItem, client_modItem, List.find?_map]
  have test : ((fun j : Item => decide (j.seq = q)) ∘ fun j => if j.seq = q then f j else j) = fun j => decide (j.seq = q) := by
    funext j
    by_cases same : j.seq = q <;> simp [same, number]
  rw [test]
  rw [findItem] at found
  rw [found, Option.map_some, if_pos named]

/-- A module unloads for the item that has begun. -/
def unloadBegun (v : Module) : State := beginItem (setModule s slot v) c i

/-- The item once it has begun. -/
def begunItem (i : Item) : Item := { i with begun := true, held := false }

theorem unloadBegun_completes {s : State} {c : BitVec 10} {i : Item} {slot : BitVec 8} (v : Module) (unloading : v.st = .unloading)
    (byClient : v.client = c) (byItem : v.item = i.seq) (found : findItem s c i.seq = some i)
    (unused : (heldBerths s).all (fun e => decide (e.2.modSlot ≠ slot)) = true) :
    finishUnload (unloadBegun s slot c i v) slot =
      completeItem (moduleGone (unloadBegun s slot c i v) slot) c (begunItem i) stOk [] := by
  have begun : module (unloadBegun s slot c i v) slot = v := module_setModule_same s slot v
  have item : findItem (unloadBegun s slot c i v) c i.seq = some (begunItem i) :=
    findItem_modItem_self (setModule s slot v) c i (fun _ => rfl) found
  refine (finishUnload_completes (unloadBegun s slot c i v) slot (i := begunItem i) ?_ unused ?_).trans ?_
  · rw [begun, unloading]
  · rw [begun, byClient, byItem, item]
  · rw [begun, byClient]

/-- UNLOAD of a loaded module without berths completes (R271). -/
theorem unloadItem_completes {s : State} {c : BitVec 10} {i : Item} {slot : BitVec 8}
    (slotIs : BitVec.ofNat 8 (leAt (part0 i) 16 1) = slot) (ready : readyItem s c 0x02 = some i)
    (found : findItem s c i.seq = some i) (reserved : restZero (part0 i) [(16, 1)] = true) (loaded : (module s slot).st = .loaded)
    (unused : (heldBerths s).all (fun e => decide (e.2.modSlot ≠ slot)) = true) :
    ∃ v, exec (.unloadItem c) s =
      .next (completeItem (moduleGone (unloadBegun s slot c i v) slot) c (begunItem i) stOk []) := by
  refine ⟨{ module s slot with st := .unloading, client := c, item := i.seq }, ?_⟩
  refine Eq.trans ?_ (congrArg _ (unloadBegun_completes _ rfl rfl rfl found unused))
  refine (congrArg _ (takeItem_ready (runUnload c) ready)).trans (congrArg _ ?_)
  simp only [runUnload, slotIs, reserved, loaded, Bool.not_true, Bool.false_eq_true, ne_eq, not_true_eq_false, if_false]
  rfl

/-- The completion of an UNLOAD leaves the slot free, the berths and the memories (R271). -/
theorem moduleGone_frees (v : Module) :
    let u := completeItem (moduleGone (unloadBegun s slot c i v) slot) c (begunItem i) stOk []
    module u slot = {} ∧ ctr u (bthCtr 19) = ctr s (bthCtr 19) + 1 ∧ keptMemories s u ∧ u.berths = s.berths ∧
      findItem u c i.seq = none := by
  have begun : keptMemories s (unloadBegun s slot c i v) := keptMemories_of_same rfl rfl rfl
  have berths : (unloadBegun s slot c i v).berths = s.berths := rfl
  have count : ctr (unloadBegun s slot c i v) (bthCtr 19) = ctr s (bthCtr 19) := rfl
  generalize unloadBegun s slot c i v = t at begun berths count
  obtain ⟨same, kept, free, counted⟩ := moduleGone_kept t slot
  have answered := completeItem_frame (moduleGone t slot) c (begunItem i) stOk []
  refine ⟨?_, ?_, keptMemories_trans begun (keptMemories_trans kept (keptMemories_of_frameItem answered)), ?_, ?_⟩
  · rw [module, mods_completeItem]
    exact free
  · rw [ctr_completeItem_below (by decide), counted, count]
  · exact ((congrArg State.berths answered.1 :).trans same).trans berths
  · exact findItem_completeItem_self (begunItem i) stOk []

end Unload

/-! ## ADMIT (R249, R209) -/

/-- What the draw of a berth's key leaves: everything but the generators and their counters. -/
structure DrawsKey (s t : State) : Prop where
  rest : { t with rng := s.rng, ctrs := s.ctrs } = s
  counts : ∀ k, k ≠ rngCtr 2 → k ≠ rngCtr 4 → ctr t k = ctr s k

namespace DrawsKey
variable {s t u : State}

theorem refl (s : State) : DrawsKey s s := ⟨rfl, fun _ _ _ => rfl⟩

theorem trans (first : DrawsKey s t) (second : DrawsKey t u) : DrawsKey s u := by
  refine ⟨?_, fun k two four => (second.counts k two four).trans (first.counts k two four)⟩
  exact (congrArg (fun v : State => { v with rng := s.rng, ctrs := s.ctrs }) second.rest).trans first.rest

theorem setGen (s : State) (g : Nat) (d : Drbg) : DrawsKey s (setGen s g d) := ⟨rfl, fun _ _ _ => rfl⟩

theorem bump (s : State) {n : Nat} (counter : n = rngCtr 2 ∨ n = rngCtr 4) : DrawsKey s (bump s n) := by
  refine ⟨rfl, fun k two four => ctr_bump_other s n k ?_⟩
  obtain same | same := counter
  · exact same ▸ two
  · exact same ▸ four

theorem seedGen (s : State) (g : Nat) : DrawsKey s (seedGen s g) := by
  have taken : DrawsKey s (takeBlock s) := ⟨rfl, fun _ _ _ => rfl⟩
  refine trans ?_ (setGen _ g _)
  split
  · exact taken.trans (bump _ (.inl rfl))
  · exact taken

theorem genRequest (s : State) (g : Nat) : DrawsKey s (genRequest s g).1 := by
  unfold Machine.genRequest
  extract_lets d s1 e r
  split
  · exact refl s
  · split
    · exact setGen s g _
    · have seeded : DrawsKey s s1 := by
        show DrawsKey s (if _ then _ else _)
        split
        · exact seedGen s g
        · exact refl s
      exact seeded.trans (setGen s1 g _)

theorem placeKey (s : State) (l : Nat) (replay : Bool) (seed : BitVec 256) : DrawsKey s (placeKey s l replay seed).1 := by
  have drawn := genRequest s (physOf s l)
  unfold Machine.placeKey
  split
  · exact bump s (.inr rfl)
  · split
    · next s1 k same =>
      rw [same] at drawn
      exact drawn.trans (bump s1 (.inr rfl))
    · exact drawn

end DrawsKey

section Admit
variable (s : State) (b lt : BitVec 12) (c : BitVec 10) (i : Item) (r : AdmitReq) (m : ModelDecl)

/-- The entry of an admitted berth (R249). -/
def admittedBerth (base pmBase : Nat) (key : BitVec 256) : Berth :=
  { st := if r.lock then .locked else .admitted, heldFrom := .admitted, replay := r.replay, destAudio := r.audio, client := c,
    modSlot := r.slot, model := r.model, lthread := lt, stepLast := BitVec.ofNat 24 (r.stepLimit - 1),
    lkOwner := if r.lock then c else 0, lkEpoch := if r.lock then (client s c).cepoch else 0, lkSeq := if r.lock then 1 else 0,
    lease := if r.lock then r.lease else 0, leaseFrom := s.tick.toNat, stRes := storeOf m / 64,
    pmRes := region0Of m r.inDepth r.pmExtra / 4096, pmBase := pmBase, pmDie := dieOf (physOf s (lcluOf lt)), winBase := base,
    tag := i.tag, obBase := BitVec.ofNat 64 r.obBase, obBlocks := r.obBlocks, blkVals := r.blkVals, returned := r.obBlocks,
    audStream := r.audStream, inDepth := r.inDepth,
    sub := { key := key, replay := r.replay, fromSeed := r.replay, margin := if r.replay then r.margin else 0 } }

/-- The admitted berth's destination is bound where it is an audio stream, and a lock with the admission is counted (R249). -/
def admissionBound (s : State) : State :=
  let s1 := if r.audio then bindAudio s b r.audStream else s
  if r.lock then bump s1 (bthCtr 10) else s1

theorem placeBerth_eq (base pmBase : Nat) (key : BitVec 256) : placeBerth s b c i.tag r m lt base pmBase key =
    admissionBound b r (bindThread (storePut (setBerth s b (admittedBerth s lt c i r m base pmBase key)) (lcluOf lt) base
      (m.template.take (storeOf m))) lt b) := rfl

/-- The rest of the admission leaves berths, threads, clients, the tick and the counters of other events. -/
theorem admissionBound_eq : ∃ a n, admissionBound b r s = { s with aud := a, ctrs := n } ∧
    ∀ k, k ≠ bthCtr 10 → ctr (admissionBound b r s) k = ctr s k := by
  unfold admissionBound
  extract_lets s1
  have bound : ∃ a, s1 = { s with aud := a } := by
    show ∃ a, (if r.audio then bindAudio s b r.audStream else s) = _
    split
    · exact ⟨_, rfl⟩
    · exact ⟨s.aud, rfl⟩
  obtain ⟨a, bound⟩ := bound
  rw [bound]
  split
  · exact ⟨a, _, rfl, fun k other => ctr_bump_other { s with aud := a } _ k other⟩
  · exact ⟨a, s.ctrs, rfl, fun k _ => rfl⟩

/-- The thread of an admitted berth sleeps at the entry of its model (R249). -/
theorem thread_bindThread {e : Berth} (entry : berth s b = e)
    (model : (module s e.modSlot).desc.models[e.model]? = some m) :
    ∃ t : Thread, bindThread s lt b = setThread s lt t ∧ t.st = .sleeping ∧ t.berth = b ∧ t.pc = BitVec.ofNat 32 m.entryPc := by
  subst entry
  refine ⟨_, rfl, rfl, rfl, ?_⟩
  simp only [model, Option.getD_some]

/-- The model of an admission is one of its loaded module's. -/
theorem models_of_admitModel {slot : BitVec 8} {model : Nat} (declared : admitModel s slot model = some m) :
    (module s slot).desc.models[model]? = some m := by
  unfold admitModel at declared
  extract_lets e at declared
  split at declared
  · exact declared
  · cases declared

/-- An admission with a place and a key puts the berth on the thread (R249). -/
theorem placeBerth_admits {base pmBase : Nat} {key : BitVec 256} (declared : (module s r.slot).desc.models[r.model]? = some m) :
    ∃ (t : Thread) (u : State), placeBerth s b c i.tag r m lt base pmBase key = u ∧
      t.st = .sleeping ∧ t.berth = b ∧ t.pc = BitVec.ofNat 32 m.entryPc ∧
      u.threads = (setThread s lt t).threads ∧ u.berths = (setBerth s b (admittedBerth s lt c i r m base pmBase key)).berths ∧
      u.clients = s.clients ∧ u.tick = s.tick ∧ ∀ k, k ≠ bthCtr 10 → ctr u k = ctr s k := by
  have entry : (admittedBerth s lt c i r m base pmBase key).modSlot = r.slot ∧
      (admittedBerth s lt c i r m base pmBase key).model = r.model := ⟨rfl, rfl⟩
  rw [placeBerth_eq]
  generalize admittedBerth s lt c i r m base pmBase key = e at entry
  obtain ⟨t, bound, sleeping, ofBerth, atEntry⟩ := thread_bindThread
    (storePut (setBerth s b e) (lcluOf lt) base (m.template.take (storeOf m))) b lt m (berth_setBerth_same s b e)
    (by rw [entry.1, entry.2]; exact declared)
  rw [bound]
  obtain ⟨v, placed⟩ : ∃ v, v = setThread (storePut (setBerth s b e) (lcluOf lt) base (m.template.take (storeOf m))) lt t :=
    ⟨_, rfl⟩
  rw [← placed]
  have threads : v.threads = (setThread s lt t).threads := by simp only [placed, setThread, storePut, setBerth]
  have berths : v.berths = (setBerth s b e).berths := by simp only [placed, setThread, storePut, setBerth]
  have clients : v.clients = s.clients := by simp only [placed, setThread, storePut, setBerth]
  have tick : v.tick = s.tick := by simp only [placed, setThread, storePut, setBerth]
  have ctrs : v.ctrs = s.ctrs := by simp only [placed, setThread, storePut, setBerth]
  obtain ⟨a, n, rest, counts⟩ := admissionBound_eq v b r
  have same (k : Nat) : ctr v k = ctr s k := by rw [ctr, ctrs, ctr]
  refine ⟨t, _, rfl, sleeping, ofBerth, atEntry, ?_, ?_, ?_, ?_, fun k other => (counts k other).trans (same k)⟩
  · rw [rest]; exact threads
  · rw [rest]; exact berths
  · rw [rest]; exact clients
  · rw [rest]; exact tick

/-- The state in which an admission completes, and its answer (R249). -/
def admission (base pmBase : Nat) (key : BitVec 256) : State :=
  completeItem (bump (placeBerth s b c i.tag r m lt base pmBase key) (bthCtr 0)) c i stOk
    (berthDetail b ++ natLe lt.toNat 2 ++ natLe (if r.lock then 1 else 0) 2)

/-- The request has a model, a valid destination, a free entry and a place that waits for nothing (R249). -/
structure Admits (s : State) (i : Item) (r : AdmitReq) (m : ModelDecl) (b lt : BitVec 12) (base pmBase : Nat) : Prop where
  reserved : admitResv i = true
  range : admitRange r = true
  model : admitModel s r.slot r.model = some m
  dest : admitDest s r m = true
  entry : freeEntry s = some b
  alone : r.preempting = false
  fresh : i.aux = 0
  place : placeIn s r.slot r.model (storeOf m) (some (region0Of m r.inDepth r.pmExtra)) (upTo 16) = .at lt
  settled : migrating s (lcluOf lt) = false
  window : fitTop (storeOf m) (storeGaps s (lcluOf lt)) = some base
  region : fitLow (region0Of m r.inDepth r.pmExtra) (bpGaps s (dieOf (physOf s (lcluOf lt)))) = some pmBase

theorem admitAt_places {s t : State} {base pmBase : Nat} {k : BitVec 256}
    (window : fitTop (storeOf m) (storeGaps s (lcluOf lt)) = some base)
    (region : fitLow (region0Of m r.inDepth r.pmExtra) (bpGaps s (dieOf (physOf s (lcluOf lt)))) = some pmBase)
    (drawn : placeKey s (lcluOf lt) r.replay r.seed = (t, .key k)) :
    admitAt s c i r m b lt = admission t b lt c i r m base pmBase k := by
  simp only [admitAt, window, region, drawn]
  rfl

theorem admitItem_admits {s t : State} {base pmBase : Nat} {k : BitVec 256} (ready : readyItem s c 0x03 = some i)
    (ok : Admits s i (admitReq i) m b lt base pmBase)
    (drawn : placeKey s (lcluOf lt) (admitReq i).replay (admitReq i).seed = (t, .key k)) :
    exec (.admitItem c) s = .next (admission t b lt c i (admitReq i) m base pmBase k) := by
  have placed : admitPlace s c i (admitReq i) m b = admission t b lt c i (admitReq i) m base pmBase k := by
    simp only [admitPlace, ok.alone, ok.fresh, ok.place, ok.settled, Bool.false_or, ne_eq, not_true_eq_false, decide_false,
      Bool.false_eq_true, if_false]
    exact admitAt_places b lt c i (admitReq i) m ok.window ok.region drawn
  refine (congrArg _ (takeItem_ready (runAdmit c) ready)).trans (congrArg _ ?_)
  simp only [runAdmit, ok.reserved, ok.range, ok.model, ok.dest, ok.entry, Bool.not_true, Bool.false_eq_true, if_false]
  exact placed

/-- An admission leaves the other berths and threads, and completes with its berth, thread and lock (R249). -/
theorem admission_admits {s t : State} {base pmBase : Nat} {key : BitVec 256} (drawn : DrawsKey s t)
    (writes : writable (client s c) = true) (declared : (module s r.slot).desc.models[r.model]? = some m) :
    let u := admission t b lt c i r m base pmBase key
    let d := berthDetail b ++ natLe lt.toNat 2 ++ natLe (if r.lock then 1 else 0) 2
    ctr u (bthCtr 0) = ctr s (bthCtr 0) + 1 ∧ onlyBerth s u b ∧ completed s u c i stOk d ∧
      berth u b = admittedBerth t lt c i r m base pmBase key ∧
      (thread u lt).st = .sleeping ∧ (thread u lt).berth = b ∧ (thread u lt).pc = BitVec.ofNat 32 m.entryPc ∧
      onlyThread s u lt := by
  have clients : t.clients = s.clients := (congrArg State.clients drawn.rest :)
  have berths : t.berths = s.berths := (congrArg State.berths drawn.rest :)
  have threads : t.threads = s.threads := (congrArg State.threads drawn.rest :)
  have mods : t.mods = s.mods := (congrArg State.mods drawn.rest :)
  have tick : t.tick = s.tick := (congrArg State.tick drawn.rest :)
  obtain ⟨h, v, places, sleeping, ofBerth, atEntry, hs, bs, cs, at_, counts⟩ := placeBerth_admits t b lt c i r m
    (base := base) (pmBase := pmBase) (key := key) (by rw [module, mods]; exact declared)
  unfold admission
  rw [places]
  generalize admittedBerth t lt c i r m base pmBase key = e at bs ⊢
  generalize berthDetail b ++ natLe lt.toNat 2 ++ natLe (if r.lock then 1 else 0) 2 = d
  have answered := completeItem_frame (bump v (bthCtr 0)) c i stOk d
  have each (k : BitVec 12) : berth (completeItem (bump v (bthCtr 0)) c i stOk d) k = berth (setBerth t b e) k :=
    berth_of_berths ((congrArg State.berths answered.1 :).trans bs) k
  have every (k : BitVec 12) : thread (completeItem (bump v (bthCtr 0)) c i stOk d) k = thread (setThread t lt h) k :=
    thread_of_threads _ ((congrArg State.threads answered.1 :).trans hs) k
  have counted (k : Nat) (two : k ≠ rngCtr 2) (four : k ≠ rngCtr 4) (locks : k ≠ bthCtr 10) : ctr v k = ctr s k :=
    (counts k locks).trans (drawn.counts k two four)
  have count : ctr (bump v (bthCtr 0)) (hifCtr 1) = ctr s (hifCtr 1) :=
    (ctr_bump_other v _ _ (by decide)).trans (counted _ (by decide) (by decide) (by decide))
  have done : completed s (completeItem (bump v (bthCtr 0)) c i stOk d) c i stOk d :=
    completed_after (s := s) (t := bump v (bthCtr 0)) (cs.trans clients) count (at_.trans tick) writes stOk d
  refine ⟨?_, fun k other => ?_, done, (each b).trans (berth_setBerth_same t b e), ?_, ?_, ?_, fun k other => ?_⟩
  · rw [ctr_completeItem_below (by decide), ctr_bump_same, counted _ (by decide) (by decide) (by decide)]
  · rw [each, berth_setBerth_other t b k e other, berth_of_berths berths]
  · rw [every, thread_setThread_same, sleeping]
  · rw [every, thread_setThread_same, ofBerth]
  · rw [every, thread_setThread_same, atEntry]
  · rw [every, thread_setThread_other t lt k h other, thread_of_threads _ threads]

end Admit

/-- Settles O32. That a LOAD with the content of a bad module answers with part 0, reason 2 is the model's choice (log 47).
Each item that passes its checks is followed to the state in which it completes or begins: the placement and the load of a
module change tiles, the package memory, the stores and the module's own entry; an admission draws its key first; a
pre-emption stops its clusters one after the other, and the berths that it drops on the way leave threads and phases. -/
theorem modulesAndAdmission : Obligations.ModulesAndAdmission := by
  unfold Obligations.ModulesAndAdmission
  intro s c i d
  refine ⟨?_, ?_, ?_, ?_, ?_, ?_⟩
  · intro m slot s1 ready reserved aligned sound free p fit mem whole images
    exact ⟨_, loadItem_starts ready reserved aligned sound free rfl fit mem whole images, loadItem_begins rfl images⟩
  · intro m ready reserved aligned bad
    obtain ⟨writes, -, -⟩ := readyItem_some ready
    have counted : frameItem s (bump s (bthCtr 18)) := frameItem_of rfl
    refine ⟨_, loadItem_refuses ready reserved aligned bad,
      completed_after (s := s) (t := bump s (bthCtr 18)) rfl (ctr_bump_other s _ _ (by decide)) rfl writes _ _,
      frameItem_trans counted (completeItem_frame ..), ?_⟩
    exact (ctr_completeItem_below (by decide) ..).trans (ctr_bump_same s _)
  · intro slot m loading found writes
    exact ⟨_, congrArg Host.Outcome.next (loadResident_completes s slot loading found),
      moduleLoaded_completes s slot m.client writes _⟩
  · intro slot ready found reserved loaded unused
    obtain ⟨v, completes⟩ := unloadItem_completes rfl ready found reserved loaded unused
    exact ⟨_, completes, moduleGone_frees s slot c i v⟩
  · intro r m b lt base pmb k s1 ready reserved range model dest entry alone fresh place settled window region drawn
    obtain ⟨writes, -, -⟩ := readyItem_some ready
    have ok : Admits s i r m b lt base pmb :=
      ⟨reserved, range, model, dest, entry, alone, fresh, place, settled, window, region⟩
    have draws : DrawsKey s s1 := by
      have drawing := DrawsKey.placeKey s (lcluOf lt) r.replay r.seed
      rw [drawn] at drawing
      exact drawing
    obtain ⟨count, others, done, placed, sleeping, ofBerth, atEntry, otherThreads⟩ := admission_admits b lt c i r m
      (base := base) (pmBase := pmb) (key := k) draws writes (models_of_admitModel s m model)
    refine ⟨_, admitItem_admits b lt c i m ready ok drawn, count, others, done, ?_, ?_, ?_, ?_, ?_, ?_, sleeping, ofBerth, atEntry,
      otherThreads⟩ <;> (rw [placed]; rfl)
  · intro ls ready reserved named settled may
    obtain ⟨f, stops⟩ := preemptItem_stops ready reserved named settled may
    refine ⟨startSaves (modItem s c i.seq f) ls c i.seq, congrArg _ stops, fun l listed => ?_, fun l other => ?_,
      fun lt listed => ?_, fun lt other => ?_, ?_⟩
    · rw [savePhase_startSaves, if_pos listed]
    · rw [savePhase_startSaves, if_neg other]
      rfl
    · rw [thread_startSaves, if_pos listed]
      rfl
    · rw [thread_startSaves, if_neg other]
      rfl
    · have begun : keptMemories s (modItem s c i.seq f) := keptMemories_of_same rfl rfl rfl
      exact keptMemories_trans begun (startSaves_kept _ ls c i.seq)

/-! ## What keeps the tick, the clocks and the count of device steps

A step boundary runs through commits, calibration, lock grants, parks, manifests and releases.  None of them moves the tick, the
clock block or the number of the device step; each operation on the way is said to keep them once. -/

/-- The tick, the clock block and the number of the device step are the same. -/
structure SameClock (s u : State) : Prop where
  tick : u.tick = s.tick
  clk : u.clk = s.clk
  dstep : u.sched.dstep = s.sched.dstep

namespace SameClock
variable {s t u : State}

theorem refl (s : State) : SameClock s s := ⟨rfl, rfl, rfl⟩

theorem trans (first : SameClock s t) (second : SameClock t u) : SameClock s u :=
  ⟨second.tick.trans first.tick, second.clk.trans first.clk, second.dstep.trans first.dstep⟩

theorem branch {p : Prop} [Decidable p] (yes : SameClock s t) (no : SameClock s u) : SameClock s (if p then t else u) := by
  split
  · exact yes
  · exact no

theorem foldl {β : Type} {f : State → β → State} (each : ∀ s b, SameClock s (f s b)) (l : List β) (s : State) :
    SameClock s (l.foldl f s) :=
  List.foldlRecOn (motive := SameClock s) l f (refl s) fun t kept b _ => kept.trans (each t b)

theorem foldl_fst {α β : Type} {f : State × α → β → State × α} (each : ∀ a b, SameClock a.1 (f a b).1)
    (l : List β) (a : State × α) :
    SameClock a.1 (l.foldl f a).1 :=
  List.foldlRecOn (motive := fun x => SameClock a.1 x.1) l f (refl a.1) fun x kept b _ => kept.trans (each x b)

theorem of_berthFrame (h : BerthFrame s u) : SameClock s u := ⟨h.tick, h.clk, by rw [h.sched]⟩

section
variable (s : State)

/-! ### Single writes -/

theorem addCtr (i n : Nat) : SameClock s (addCtr s i n) := ⟨rfl, rfl, rfl⟩
theorem bump (i : Nat) : SameClock s (bump s i) := ⟨rfl, rfl, rfl⟩
theorem setFlag (f : Flag) : SameClock s (setFlag s f) := ⟨rfl, rfl, rfl⟩
theorem useFree : SameClock s (useFree s) := ⟨rfl, rfl, rfl⟩
theorem modAct (c : BitVec 10) (f : Activity → Activity) : SameClock s (modAct s c f) := ⟨rfl, rfl, rfl⟩
theorem setAcct (c : BitVec 10) (v : Acct) : SameClock s (setAcct s c v) := ⟨rfl, rfl, rfl⟩
theorem setThread (lt : BitVec 12) (h : Thread) : SameClock s (setThread s lt h) := ⟨rfl, rfl, rfl⟩
theorem setTile (k : Nat) (v : Tile) : SameClock s (setTile s k v) := ⟨rfl, rfl, rfl⟩
theorem modTile (k : Nat) (f : Tile → Tile) : SameClock s (modTile s k f) := ⟨rfl, rfl, rfl⟩
theorem setBerth (b : BitVec 12) (v : Berth) : SameClock s (setBerth s b v) := ⟨rfl, rfl, rfl⟩
theorem modBerth (b : BitVec 12) (f : Berth → Berth) : SameClock s (modBerth s b f) := ⟨rfl, rfl, rfl⟩
theorem modClient (c : BitVec 10) (f : Client → Client) : SameClock s (modClient s c f) := ⟨rfl, rfl, rfl⟩
theorem setModule (m : BitVec 8) (v : Module) : SameClock s (setModule s m v) := ⟨rfl, rfl, rfl⟩
theorem setRoute (rt : Nat) (r : Route) : SameClock s (setRoute s rt r) := ⟨rfl, rfl, rfl⟩
theorem setPort (k : Nat) (p : Port) : SameClock s (setPort s k p) := ⟨rfl, rfl, rfl⟩
theorem stepSeq (k : Nat) : SameClock s (stepSeq s k) := ⟨rfl, rfl, rfl⟩
theorem setAud (st : Nat) (a : AStream) : SameClock s (setAud s st a) := ⟨rfl, rfl, rfl⟩
theorem pmPut (a : Nat) (bs : List (BitVec 8)) : SameClock s (pmPut s a bs) := ⟨rfl, rfl, rfl⟩
theorem setRegField (off hi lo v : Nat) : SameClock s (setRegField s off hi lo v) := ⟨rfl, rfl, rfl⟩
theorem unhold (p : Item → Bool) : SameClock s (unhold s p) := ⟨rfl, rfl, rfl⟩
theorem mapStep : SameClock s (mapStep s) := ⟨rfl, rfl, rfl⟩
theorem logEvent (code unit arg : Nat) : SameClock s (logEvent s code unit arg) := ⟨rfl, rfl, rfl⟩
theorem sysWork (ns bytes : Nat) : SameClock s (sysWork s ns bytes) := ⟨rfl, rfl, rfl⟩

theorem setSched {v : Sched} (same : v.dstep = s.sched.dstep) : SameClock s { s with sched := v } := ⟨rfl, rfl, same⟩

theorem setDbg (v : Dbg) : SameClock s { s with dbg := v } := ⟨rfl, rfl, rfl⟩

theorem traceRec (type src : Nat) (b : BitVec 12) (body : List (BitVec 8)) : SameClock s (traceRec s type src b body) := by
  unfold Machine.traceRec
  split
  · exact refl s
  · split
    · exact (trans (setDbg s _) (setFlag _ _)).trans (bump _ _)
    · exact setDbg s _

theorem countPm (wr : Bool) (a n : Nat) : SameClock s (countPm s wr a n) := by
  unfold Machine.countPm
  split
  · exact refl s
  · exact foldl (fun s _ => addCtr s _ _) _ s

theorem hubPm (c : BitVec 10) (wr : Bool) (a n : Nat) : SameClock s (hubPm s c wr a n) := (countPm s wr a n).trans (modAct _ c _)

theorem movePm (n : Nat) (c : BitVec 10) (wr : Bool) (a len : Nat) : SameClock s (movePm s n c wr a len) := by
  unfold Machine.movePm
  extract_lets s1 own s2
  have bridged : SameClock s1 s2 := branch (refl s1) (addCtr s1 _ _)
  exact ((countPm s wr a len).trans bridged).trans (modAct s2 c _)

/-! ### What is common with the end of a berth's work -/

theorem completeItem (c : BitVec 10) (i : Item) (status : Nat) (d : List (BitVec 8)) : SameClock s (completeItem s c i status d) :=
  of_berthFrame (.completeItem s c i status d)
theorem completeAll (p : Item → Bool) (status : Nat) (d : Item → List (BitVec 8)) : SameClock s (completeAll s p status d) :=
  of_berthFrame (.completeAll s p status d)
theorem drainBerth (b : BitVec 12) (cause : EndCause) : SameClock s (drainBerth s b cause) := of_berthFrame (.drainBerth s b cause)
theorem countPark (was now : BState) : SameClock s (countPark s was now) := of_berthFrame (.countPark s was now)

/-! ### A berth's step is committed (R252) -/

theorem pushValue (st k fmt v : Nat) : SameClock s (pushValue s st k fmt v) := by
  unfold Machine.pushValue
  extract_lets a r x p s1 s2 s3
  have pushed : SameClock s s1 := setAud s _ _
  have dropped : SameClock s s2 := branch (pushed.trans (bump s1 _)) pushed
  have clipped : SameClock s s3 := branch (dropped.trans (bump s2 _)) dropped
  exact branch (refl s) (branch (clipped.trans (bump s3 _)) clipped)

theorem deliverAudio (e : Berth) (fmt : Nat) (vs : List Nat) : SameClock s (deliverAudio s e fmt vs) := by
  refine foldl (fun s p => ?_) _ s
  split
  · exact pushValue s _ _ _ _
  · exact refl s

theorem fillBlocks (b : BitVec 12) (step : Nat) (ended : Bool) (vs : List Nat) (n : Nat) :
    SameClock s (fillBlocks s b step ended vs n) := by
  induction n generalizing s vs with
  | zero => exact modBerth s b _
  | succ n ih => exact branch (modBerth s b _) ((of_berthFrame (.closeBlock s b _ _ _)).trans (ih _ _))

theorem deliverHost (b : BitVec 12) (step : Nat) (ended : Bool) (vs : List Nat) : SameClock s (deliverHost s b step ended vs) :=
  fillBlocks s b step ended _ _

theorem traceStep (b : BitVec 12) (e : Berth) (m : ModelDecl) : SameClock s (traceStep s b e m) := by
  unfold Machine.traceStep
  extract_lets n s1 vals
  have traced : SameClock s s1 := branch ((traceRec s _ _ b _).trans (useFree _)) (refl s)
  exact branch (traced.trans (traceRec s1 _ _ b _)) traced

theorem faultRoute (rt cause : Nat) : SameClock s (faultRoute s rt cause) := by
  unfold Machine.faultRoute
  extract_lets r s1 e
  have faulted : SameClock s s1 := ⟨rfl, rfl, rfl⟩
  exact branch (refl s) (branch faulted (faulted.trans (drainBerth s1 _ _)))

theorem localCredit (f : List (BitVec 8)) : SameClock s (localCredit s f) := by
  unfold Machine.localCredit
  extract_lets rt r job live q n
  split
  · exact bump s _
  · refine branch (bump s _) ?_
    split
    · exact bump s _
    · exact branch (bump s _) ((stepSeq s q).trans (setRoute _ rt _))

theorem localData (f : List (BitVec 8)) : SameClock s (localData s f) := by
  unfold Machine.localData
  extract_lets rt r job
  split
  · exact bump s _
  · refine branch (bump s _) ?_
    split
    · exact (bump s _).trans (faultRoute _ rt _)
    · refine branch ((bump s _).trans (faultRoute _ rt _)) ?_
      exact ((((stepSeq s _).trans (pmPut _ _ _)).trans (hubPm _ _ _ _ _)).trans (setBerth _ _ _)).trans (modAct _ _ _)

theorem dispatchFrame (dst : Nat) (f : List (BitVec 8)) : SameClock s (dispatchFrame s dst f) :=
  branch (branch (localCredit s f) (localData s f)) (branch (bump s _) (setPort s _ _))

theorem chainSend (b : BitVec 12) : SameClock s (chainSend s b) := by
  unfold Machine.chainSend
  split
  · exact refl s
  · extract_lets e job
    split
    · exact refl s
    · extract_lets q p
      exact branch (faultRoute s _ _) (((stepSeq s q).trans (modAct _ _ _)).trans (dispatchFrame _ _ _))

theorem commitBerth (b : BitVec 12) : SameClock s (commitBerth s b) := by
  unfold Machine.commitBerth
  extract_lets e m adv ended s1 s2 s3 s4 h s5
  have delivered : SameClock s s1 := branch (deliverAudio s e _ _) (deliverHost s b _ _ _)
  have sent : SameClock s s2 := (delivered.trans (chainSend s1 b)).trans (traceStep _ b e m)
  have stepped : SameClock s s5 := ((sent.trans (modAct s2 _ _)).trans (modBerth s3 b _)).trans (setThread s4 _ _)
  exact branch stepped (branch (stepped.trans (drainBerth s5 b _)) stepped)

/-! ### The commits of a boundary (R252) -/

theorem resetAtBoundary (c : BitVec 10) : SameClock s (resetAtBoundary s c) := by
  unfold Machine.resetAtBoundary
  extract_lets s1
  have marked : SameClock s s1 := by
    refine foldl (fun s e => ?_) _ s
    extract_lets b x own
    refine branch (refl s) (branch ?_ (branch (branch (setBerth s b _) (setBerth s b _)) (refl s)))
    exact (setBerth s b _).trans (of_berthFrame (.abandonLock _ b))
  exact marked.trans (modClient s1 c _)

theorem takeActivity (c : BitVec 10) : SameClock s (takeActivity s c) := ⟨rfl, rfl, rfl⟩

theorem accountStep : SameClock s (accountStep s) := by
  have taken : SameClock s ((accountClients s).foldl Machine.takeActivity s) := foldl takeActivity _ s
  exact taken.trans ⟨rfl, rfl, rfl⟩

theorem returnCredits : SameClock s (returnCredits s) := by
  refine foldl (fun s x => ?_) _ s
  extract_lets r n
  refine branch (refl s) ?_
  split
  · exact refl s
  · exact (((stepSeq s _).trans (useFree _)).trans (setRoute _ _ _)).trans (dispatchFrame _ _ _)

theorem routeDisables : SameClock s (routeDisables s) := ⟨rfl, rfl, rfl⟩

theorem commitStep : SameClock s (commitStep s) := by
  unfold Machine.commitStep
  extract_lets done es cs s1 s2 s3 s4 s5
  have committed : SameClock s s1 := foldl commitBerth _ s
  have charged : SameClock s1 s2 := foldl (fun s c => setAcct s c _) _ s1
  have dropped : SameClock s2 s3 := foldl (fun s b => of_berthFrame (.dropFaulted s b)) _ s2
  have reset : SameClock s3 s4 := foldl (fun s e => branch (resetAtBoundary s _) (refl s)) _ s3
  have left : SameClock s4 s5 := foldl (fun s b => drainBerth s b _) _ s4
  have settled := (((committed.trans charged).trans dropped).trans reset).trans left
  exact ((settled.trans (returnCredits s5)).trans (routeDisables _)).trans (accountStep _)

theorem framesVisible : SameClock s (framesVisible s) := by
  unfold Machine.framesVisible
  extract_lets s1 s2 bad s3 s4
  have seen : SameClock s s1 := ⟨rfl, rfl, rfl⟩
  have refused : SameClock s2 s3 := foldl (fun s x => branch (refl s) (completeItem s _ _ _ _)) _ s2
  have unheld : SameClock s3 s4 := unhold s3 _
  refine (((seen.trans (completeAll s1 _ _ _)).trans refused).trans unheld).trans ?_
  exact foldl (fun s b => modBerth s b _) _ s4

/-! ### Locks, parks and starts that take effect (R257, R264) -/

theorem grantLock (b : BitVec 12) (c : BitVec 10) (i : Item) : SameClock s (grantLock s b c i) := by
  unfold Machine.grantLock
  extract_lets e fromAb adopt lease e1 s1 h s2
  have locked : SameClock s s1 := (setBerth s b e1).trans (bump _ _)
  have adopted : SameClock s s2 := branch (locked.trans (setThread s1 _ _)) locked
  exact adopted.trans (completeItem s2 c i _ _)

theorem grantDue (b : BitVec 12) : SameClock s (grantDue s b) := by
  unfold Machine.grantDue
  extract_lets e
  split
  · exact refl s
  · split
    · exact branch (setBerth s b _) (branch (refl s) (grantLock s b _ _))
    · exact setBerth s b _

theorem dropStreams (b : BitVec 12) : SameClock s (dropStreams s b) := ⟨rfl, rfl, rfl⟩

theorem parkNow (b : BitVec 12) (auto : Bool) : SameClock s (parkNow s b auto) := by
  unfold Machine.parkNow
  extract_lets s1 s2
  have parked : SameClock s s2 := ((dropStreams s b).trans (countPark _ _ _)).trans (modBerth s1 b _)
  exact branch (parked.trans (bump s2 _)) parked

theorem setRunning (b : BitVec 12) (f : Berth → Berth) : SameClock s (setRunning s b f) := by
  unfold Machine.setRunning
  extract_lets c had s1
  have running : SameClock s s1 := modBerth s b _
  split
  · exact branch running (running.trans (setAcct s1 c _))
  · exact running

theorem nowRunning (b : BitVec 12) : SameClock s (nowRunning s b) :=
  ((countPark s _ _).trans (setRunning _ b _)).trans (unhold _ _)

theorem compactOne (l n : Nat) : SameClock s (compactOne s l n) := by
  unfold Machine.compactOne
  refine branch ⟨rfl, rfl, rfl⟩ (branch (refl s) ?_)
  split
  · exact modBerth s _ _
  · exact refl s

theorem takeEffect : SameClock s (takeEffect s) := by
  unfold Machine.takeEffect
  extract_lets s1 s2 s3 s4 s5
  have granted : SameClock s s1 := foldl grantDue _ s
  have parked : SameClock s1 s2 := foldl (fun s b => parkNow s b false) _ s1
  have unparked : SameClock s2 s3 := foldl nowRunning _ s2
  have moving : SameClock s3 s4 := ⟨rfl, rfl, rfl⟩
  have started : SameClock s4 s5 := foldl nowRunning _ s4
  refine ((((granted.trans parked).trans unparked).trans moving).trans started).trans ?_
  exact foldl (β := Nat × Nat) (fun s e => compactOne s e.1 e.2) _ s5

/-! ### Manifests and releases (R254, R245) -/

theorem leaveOut (b : BitVec 12) (cause : Nat) : SameClock s (leaveOut s b cause) := by
  unfold Machine.leaveOut
  extract_lets e l run s1 s2 waits
  have counted : SameClock s s1 := (setBerth s b _).trans (bump _ _)
  have forced : SameClock s s2 := branch (counted.trans (bump s1 _)) counted
  exact branch ((forced.trans (bump s2 _)).trans (modAct _ _ _)) (branch (forced.trans (parkNow s2 b true)) forced)

theorem leaveAllOut (cause : Nat) (l : List Cand) : SameClock s (l.foldl (fun s x => Machine.leaveOut s x.b cause) s) :=
  foldl (fun s (x : Cand) => leaveOut s x.b cause) l s

theorem takeCredit (b : BitVec 12) : SameClock s (takeCredit s b) := by
  unfold Machine.takeCredit
  split
  · exact setRoute s _ _
  · exact refl s

theorem enterStep (b : BitVec 12) (k rank count : Nat) : SameClock s (enterStep s b k rank count) :=
  ((setBerth s b _).trans (takeCredit _ b)).trans (setThread _ _ _)

theorem buildManifest (l : Nat) : SameClock s (buildManifest s l) := by
  unfold Machine.buildManifest
  extract_lets bs s1 cands taken s2 entered n traced entries
  have away : SameClock s s1 := by
    refine foldl (fun s b => ?_) _ s
    split
    · exact refl s
    · exact leaveOut s b _
  have left : SameClock s1 s2 := (leaveAllOut s1 5 taken.full).trans (leaveAllOut _ 6 taken.left)
  have inStep : SameClock s2 entered := foldl (fun s x => enterStep s _ _ _ _) _ s2
  have recorded : SameClock entered traced := branch (foldl (fun s x => traceRec s _ _ _ _) _ entered) (refl entered)
  have listed := ((away.trans left).trans inStep).trans recorded
  exact branch (listed.trans (setSched traced rfl)) (listed.trans (setSched traced rfl))

theorem unbindAudio (b : BitVec 12) : SameClock s (unbindAudio s b) := by
  unfold Machine.unbindAudio
  extract_lets s1 free str
  have routed : SameClock s s1 := foldl (fun s _ => branch (setRegField s _ _ _ _) (refl s)) _ s
  exact routed.trans ⟨rfl, rfl, rfl⟩

theorem clearRecords (slot : BitVec 8) (c : Copy) : SameClock s (clearRecords s slot c) := foldl (fun s _ => modTile s _ _) _ s

theorem finishUnload (slot : BitVec 8) : SameClock s (finishUnload s slot) := by
  unfold Machine.finishUnload
  extract_lets m s1 s2
  have cleared : SameClock s s1 := foldl (fun s c => clearRecords s slot c) _ s
  have gone : SameClock s s2 := (cleared.trans (setModule s1 slot {})).trans (bump _ _)
  refine branch ?_ (refl s)
  split
  · exact gone.trans (completeItem s2 _ _ _ _)
  · exact gone

theorem routesOff (b : BitVec 12) : SameClock s (routesOff s b) := ⟨rfl, rfl, rfl⟩
theorem voidProposals (b : BitVec 12) : SameClock s (voidProposals s b) := ⟨rfl, rfl, rfl⟩

theorem freeBerth (b : BitVec 12) : SameClock s (freeBerth s b) := by
  unfold Machine.freeBerth
  extract_lets e s1 s2 s3 s4
  have unbound : SameClock s s1 := ((dropStreams s b).trans (unbindAudio _ b)).trans (routesOff _ b)
  have cleared : SameClock s s3 :=
    (((unbound.trans (setThread s1 _ _)).trans (setBerth s2 b {})).trans (voidProposals _ b)).trans (bump _ _)
  exact (cleared.trans (completeAll s3 _ _ _)).trans (finishUnload s4 _)

end

end SameClock

/-- One more device step. -/
def stepCounted (s : State) : State := { s with sched := { s.sched with dstep := s.sched.dstep + 1 } }

namespace SameClock
variable {t u : State}

section
variable (s : State)

/-! ### The engines' progress (R224) -/

theorem countConverted (n t convs : Nat) (r : Converted) : SameClock s (countConverted s n t convs r) :=
  ((((addCtr s _ _).trans (addCtr _ _ _)).trans (addCtr _ _ _)).trans (addCtr _ _ _)).trans (addCtr _ _ _)

section
variable (k : CvRun)

theorem cvProduct (l : Nat) (e : Nat × Nat) (codes : List Nat) (eps : Nat) (za : Int) :
    SameClock k.st (cvProduct k l e codes eps za).1.st := by
  unfold Machine.cvProduct
  extract_lets s n tn t lr bs product a row t1 r s1 s2
  have converted : SameClock s s1 := ((setTile s _ t1).trans (countConverted _ n tn _ r)).trans (useFree _)
  exact (converted.trans (bump s1 _)).trans (bump _ _)

theorem cvAdd (n : Nat) (a b : List Int) : SameClock k.st (cvAdd k n a b).1.st := addCtr k.st _ _

theorem cvBlocks (l : Nat) (es : List (Nat × Nat)) (codes : List Nat) (eps : Nat) (za : Int) (bs : List Nat) (acc : Option (List Int)) :
    SameClock k.st (cvBlocks k l es codes eps za bs acc).1.st := by
  induction bs generalizing k acc with
  | nil => exact refl k.st
  | cons b bs ih =>
    have product : SameClock k.st (blockProduct k l es codes eps za b).1.st := cvProduct k l _ _ eps za
    cases acc with
    | none => rw [cvBlocks_cons_none]; exact product.trans (ih _ _)
    | some a => rw [cvBlocks_cons_some]; exact (product.trans (cvAdd _ _ a _)).trans (ih _ _)

theorem winoA (n i : Nat) (a b c e : List Int) : SameClock k.st (winoA k n i a b c e).1.st := by
  unfold Machine.winoA
  extract_lets neg p q
  split
  · exact (cvAdd k n a b).trans (cvAdd p.1 n p.2 c)
  · exact (cvAdd k n b (neg c)).trans (cvAdd q.1 n q.2 (neg e))

theorem winoProducts (l : Nat) (es : List (Nat × Nat)) (vecs : List (List Nat)) (eps : Nat) (js : List Nat) :
    SameClock k.st (winoProducts k l es vecs eps js).1.st := by
  induction js generalizing k with
  | nil => exact refl k.st
  | cons j js ih => rw [Machine.winoProducts]; exact (cvProduct k l _ _ eps 0).trans (ih _)

theorem cvEach {g : CvRun → Nat → CvRun × List Int} (each : ∀ k j, SameClock k.st (g k j).1.st) (js : List Nat) :
    SameClock k.st (cvEach g k js).1.st := by
  induction js generalizing k with
  | nil => exact refl k.st
  | cons j js ih => exact (each k j).trans (ih _)

theorem winoTile (l : Nat) (d : CD) (rd : Nat → Nat → Nat → Nat) (sgn int8 : Bool) (eps ot of : Nat) :
    SameClock k.st (winoTile k l d rd sgn int8 eps ot of).1.st := by
  unfold Machine.winoTile
  extract_lets n bits x v vs clips k0 p sums rows u
  have transformed : SameClock k.st k0.st := (bump k.st _).trans (addCtr _ _ clips)
  have products : SameClock k0.st p.1.st := winoProducts k0 l d.entries _ eps (upTo 16)
  have summed : SameClock p.1.st rows.1.st := cvEach p.1 (fun k _ => winoA k n _ _ _ _ _) (upTo 8)
  exact ((transformed.trans products).trans summed).trans (cvEach rows.1 (fun k _ => winoA k n _ _ _ _ _) (upTo 4))

end

theorem pmElem (pa bits j v : Nat) : SameClock s (pmElem s pa bits j v) := by
  unfold Machine.pmElem
  extract_lets b
  exact branch (pmPut s _ _) (pmPut s _ _)

variable (c : Cmd) (d : CD)

theorem cvSpill (pa : Nat) (outs : Tab (List Nat)) (ts : List Nat) : SameClock s (cvSpill s d pa outs ts).1 := by
  refine foldl_fst (fun a t => ?_) ts (s, 0)
  split
  · exact (pmPut a.1 _ _).trans (pmPut _ _ _)
  · exact foldl (fun s _ => pmElem s _ _ _ _) _ a.1

theorem cvFetch (bits j : Nat) : SameClock s (cvFetch s c d bits j).1 := by
  unfold Machine.cvFetch
  extract_lets n pa coded bytes s1
  split
  · exact refl s
  · have moved : SameClock s s1 := (movePm s n c.client false pa bytes).trans (addCtr _ _ _)
    exact branch (moved.trans (addCtr s1 _ coded)) moved

theorem cvCompute (u : Nat) : SameClock s (cvCompute s c d u).1.st := by
  unfold Machine.cvCompute
  extract_lets l t lr bits w za pa rd k r
  split
  · exact winoTile k l d rd _ _ _ _ _
  · exact cvBlocks k l _ _ _ _ _ _

theorem cvStorePos (p : Nat) (vs : List Nat) : SameClock s (cvStorePos s c d p vs) := ⟨rfl, rfl, rfl⟩

theorem cvPut (delta : Nat) (a : State × Cmd) (e : Nat × List Int) : SameClock a.1 (cvPut d delta a e).1 := by
  unfold Machine.cvPut
  extract_lets r
  have counted : SameClock a.1 r.1 := addCtr a.1 _ _
  split
  · exact counted
  · exact counted.trans (cvStorePos r.1 _ _ _ _)

theorem cvEndStripe : SameClock s (cvEndStripe s c d).1 := by
  unfold Machine.cvEndStripe
  extract_lets n pa t0 ts sp s1
  split
  · exact refl s
  · have moved : SameClock s s1 := (cvSpill s d pa c.cv.outs ts).trans (movePm sp.1 n c.client true pa sp.2)
    exact branch ((moved.trans (addCtr s1 _ _)).trans (addCtr _ _ _)) moved

theorem cvUnit (a : State × Cmd) : SameClock a.1 (cvUnit a).1 := by
  unfold Machine.cvUnit
  extract_lets s d u lr delta fetch fetched b r done cv c1 e
  have ready : SameClock a.1 b.1 := by
    unfold b
    split
    · exact cvFetch s _ d _ _
    · exact refl a.1
  have computed : SameClock b.1 r.1.st := cvCompute b.1 b.2 d u
  have put : SameClock r.1.st e.1 := foldl_fst (fun a x => cvPut d delta a x) _ (r.1.st, c1)
  have worked := (ready.trans computed).trans put
  split
  · exact worked.trans (cvEndStripe e.1 e.2 d)
  · exact worked

theorem cvSteps (a : State × Cmd) (n : Nat) : SameClock a.1 (cvSteps a n).1 := by
  induction n generalizing a with
  | zero => exact refl a.1
  | succ n ih => exact (cvUnit a).trans (ih _)

theorem setQueue (l eng : Nat) (q : List Cmd) : SameClock s (setQueue s l eng q) := ⟨rfl, rfl, rfl⟩

theorem advanceConv (l : Nat) : SameClock s (advanceConv s l) := by
  unfold Machine.advanceConv
  split
  · exact refl s
  · next c q _ => exact ((cvSteps (s, c) _).trans (setQueue _ _ _ _)).trans (useFree _)

/-! ### Calibration and the map at a boundary (R92, R99, R102) -/

theorem setCal (v : CalUnit) : SameClock s { s with cal := v } := ⟨rfl, rfl, rfl⟩
theorem setMap (v : RepairMap) : SameClock s { s with map := v } := ⟨rfl, rfl, rfl⟩

theorem mapDue (m : MapChange) : SameClock s (mapDue s m) := branch (refl s) (setMap s _)

theorem askCluster (n : Nat) : SameClock s (askCluster s n) := by
  unfold Machine.askCluster
  split
  · exact refl s
  · refine branch (refl s) (branch (branch (refl s) (setCal s _)) ?_)
    split
    · exact setCal s _
    · exact branch (refl s) (mapDue s _)

theorem askTile (n t : Nat) : SameClock s (askTile s n t) := by
  unfold Machine.askTile
  split
  · refine branch (refl s) (branch (branch (refl s) (setCal s _)) ?_)
    split
    · exact setCal s _
    · exact askCluster s n
  · exact refl s

theorem repairColumn (n t : Nat) : SameClock s (repairColumn s n t) := by
  unfold Machine.repairColumn
  extract_lets k
  refine branch (refl s) ?_
  split
  · exact refl s
  · split
    · exact setTile s _ _
    · exact askTile s n t

theorem repairTile (n t : Nat) : SameClock s (repairTile s n t) := by
  unfold Machine.repairTile
  refine branch (branch (refl s) (setCal s _)) ?_
  refine foldl (fun s b => ?_) _ s
  split
  · exact repairColumn s n t
  · exact branch (askTile s n t) (mapDue s _)

theorem beginOwed : SameClock s (beginOwed s) := by
  unfold Machine.beginOwed
  extract_lets cal s1 s2
  have tiles : SameClock s1 (s.cal.owedTiles.foldl (fun s k => Machine.askTile s (k / 17) (k % 17)) s1) :=
    foldl (fun s (k : Nat) => askTile s (k / 17) (k % 17)) _ s1
  have clusters : SameClock s s2 := ((setCal s _).trans tiles).trans (foldl askCluster _ _)
  exact clusters.trans (foldl (fun s (k : Nat) => repairTile s (k / 17) (k % 17)) _ s2)

theorem refreshTile (key : Nat) : SameClock s (refreshTile s key) := by
  unfold Machine.refreshTile
  extract_lets k rs k1 rows k2
  exact branch (refl s) (((sysWork s _ _).trans (setTile _ key k2)).trans (bump _ _))

theorem refreshTiles : SameClock s (refreshTiles s) := foldl (β := Nat × Tile) (fun s e => refreshTile s e.1) _ s

theorem setRet (v : List Host.Cell) : SameClock s { s with ret := v } := ⟨rfl, rfl, rfl⟩
theorem setFw (v : Fw) : SameClock s { s with fw := v } := ⟨rfl, rfl, rfl⟩
theorem bumpView : SameClock s (bumpView s) := ⟨rfl, rfl, rfl⟩

theorem unitChanged (unit : Nat) (was now : UnitState) : SameClock s (unitChanged s unit was now) := by
  unfold Machine.unitChanged
  extract_lets s1 a
  have logged : SameClock s s1 := (logEvent s _ _ _).trans (bumpView _)
  exact branch (refl s) (branch ((logged.trans (setRet s1 _)).trans (bump _ _)) logged)

theorem changeClu (n : Nat) (v : UnitState) : SameClock s (changeClu s n v) := by
  unfold Machine.changeClu
  extract_lets s1 map s2
  have changed : SameClock s s1 := (setMap s _).trans (unitChanged _ _ _ v)
  have served : SameClock s s2 := branch changed (changed.trans (setMap s1 _))
  exact branch (served.trans (setFw s2 _)) served

theorem changeTile (n t : Nat) (v : UnitState) : SameClock s (changeTile s n t v) := by
  unfold Machine.changeTile
  extract_lets s1
  have changed : SameClock s s1 := (setMap s _).trans (unitChanged _ _ _ v)
  exact branch (changed.trans (setFw s1 _)) changed

theorem stopCluster (l : Nat) : SameClock s (stopCluster s l) := ⟨rfl, rfl, rfl⟩

theorem stopMigrating (m : CluMigr) : SameClock s (stopMigrating s m) :=
  (((stopCluster s _).trans (changeClu _ _ _)).trans (mapStep _)).trans (setCal _ _)

theorem switchCluster (m : CluMigr) : SameClock s (switchCluster s m) := by
  unfold Machine.switchCluster
  extract_lets l map cal s1 s2 s3
  have moved : SameClock s s1 := ⟨rfl, rfl, rfl⟩
  have changed : SameClock s s2 := (moved.trans (changeClu s1 _ _)).trans (changeClu _ _ _)
  have emptied : SameClock s2 s3 := foldl (fun s _ => modTile s _ _) _ s2
  exact (((changed.trans emptied).trans (bump s3 _)).trans (unhold _ _)).trans (mapStep _)

theorem switchTile (m : TileMigr) : SameClock s (switchTile s m) := by
  unfold Machine.switchTile
  extract_lets map s1 s2 s3
  have changed : SameClock s s2 := ((setMap s _).trans (changeTile s1 _ _ _)).trans (changeTile _ _ _ _)
  exact ((changed.trans (modTile s2 _ _)).trans (setCal s3 _)).trans (mapStep _)

theorem cluOutOf (l : Nat) : SameClock s (cluOutOf s l) := by
  unfold Machine.cluOutOf
  extract_lets others s2
  refine (changeClu s _ _).trans (foldl (fun s e => ?_) _ s2)
  extract_lets b x
  refine branch (refl s) (branch ?_ (drainBerth s b _))
  split
  · exact setBerth s b _
  · exact branch (setBerth s b _) (drainBerth s b _)

theorem applyChange (m : MapChange) : SameClock s (applyChange s m) := by
  cases m with
  | cluster n v => exact (changeClu s n v).trans (mapStep _)
  | tile n t v =>
    exact (branch ((changeTile s n t v).trans (modTile _ _ _)) (changeTile s n t v)).trans (mapStep _)
  | spoke n t j k => exact (((setTile s _ _).trans (bump _ _)).trans (mapStep _)).trans (repairTile _ n t)
  | spokeFail n t k => exact (modTile s _ _).trans (mapStep _)
  | ladder n t ld =>
    simp only [Machine.applyChange]
    split
    · exact refl s
    · exact ((((setTile s _ _).trans (addCtr _ _ _)).trans (sysWork _ _ _)).trans (bump _ _)).trans (mapStep _)
  | ladderFail n t ld => exact (modTile s _ _).trans (mapStep _)
  | cluOut l => exact (cluOutOf s l).trans (mapStep _)

theorem commitCal (forced : Bool) : SameClock s (commitCal s forced) := by
  unfold Machine.commitCal
  extract_lets wrap cal s1 s2 s3 s4 s5
  have committed : SameClock s s1 := ⟨rfl, rfl, rfl⟩
  have cleared : SameClock s s2 := (committed.trans (bump s1 _)).trans (setRegField _ _ _ _ _)
  have counted : SameClock s s3 := branch (cleared.trans (bump s2 _)) cleared
  have flagged : SameClock s s4 := branch (counted.trans (setFlag s3 _)) counted
  have wrapped : SameClock s s5 := branch (flagged.trans (bump s4 _)) flagged
  exact wrapped.trans (logEvent s5 _ _ _)

theorem calBoundary : SameClock s (calBoundary s) := by
  unfold Machine.calBoundary
  extract_lets s1 now tsw csw stops changes forced lapse asked map s2 s3
  have advanced : SameClock s (advanceConvs s) := foldl advanceConv _ s
  have refreshed : SameClock (Machine.beginOwed (advanceConvs s)) s1 := refreshTiles _
  have begun : SameClock s s2 := ((advanced.trans (beginOwed _)).trans refreshed).trans (setMap s1 _)
  have changed : SameClock s2 (now.foldl Machine.applyChange s2) := foldl applyChange _ s2
  have switched : SameClock s s3 :=
    (((begun.trans changed).trans (foldl switchTile tsw _)).trans (foldl switchCluster csw _)).trans (foldl stopMigrating stops _)
  exact branch (switched.trans (commitCal s3 forced)) switched

/-! ### The boundary (R252) -/

theorem latchPolicy : SameClock s (latchPolicy s) := ⟨rfl, rfl, rfl⟩

theorem lowerVtimes : SameClock s (lowerVtimes s) := by
  unfold Machine.lowerVtimes
  split
  · split
    · exact ⟨rfl, rfl, rfl⟩
    · exact refl s
  · exact refl s

/-- The boundary counts its step and leaves the count. -/
theorem boundary : SameClock (stepCounted s) (boundary s) := by
  unfold Machine.boundary
  extract_lets goers sched s0 done s1 s2 s3 s4 s5
  have latched : SameClock (stepCounted s) s0 := (latchPolicy (stepCounted s)).trans (lowerVtimes _)
  have committed : SameClock s0 s1 := (branch (traceRec s0 _ _ _ _) (refl s0)).trans (commitStep _)
  have calibrated : SameClock s1 s3 := ((framesVisible s1).trans (calBoundary s2)).trans (takeEffect _)
  have listed : SameClock s3 s4 := foldl buildManifest _ s3
  have freed : SameClock s4 s5 := branch (refl s4) (foldl freeBerth _ s4)
  exact ((((latched.trans committed).trans calibrated).trans listed).trans freed).trans (setSched s5 rfl)

end

end SameClock

/-! ## The step machinery (R254, R257, R262, R268) -/

section StepMachinery
variable (s : State)

theorem exec_stepBoundary_stays (stays : (stepOpen s || s.lost.lost || !s.clk.ready) = true) : exec .stepBoundary s = .next s :=
  congrArg Host.Outcome.next (if_pos stays)

theorem exec_stepBoundary_goes (goes : (stepOpen s || s.lost.lost || !s.clk.ready) = false) :
    exec .stepBoundary s = .next (boundary s) :=
  congrArg Host.Outcome.next (if_neg (by rw [goes]; exact Bool.false_ne_true))

theorem dlMissed_boundary : (boundary s).sched.dlMissed = false := rfl

theorem running_boundary : (boundary s).sched.running = stepOpen (boundary s) := by
  unfold boundary
  extract_lets goers sched s0 done s1 s2 s3 s4 s5
  rfl

/-- The clients of the berths that are late are charged for it. -/
def lateCharged (l : List (BitVec 12)) (s : State) : State :=
  l.foldl (fun s b => modAct s (berth s b).client (fun a => { a with late := a.late + 1 })) s

theorem lateCharged_eq (l : List (BitVec 12)) : ∃ v, lateCharged l s = { s with act := v } := by
  have kept : { lateCharged l s with act := [] } = { s with act := [] } :=
    foldl_keeps (part := fun u : State => { u with act := [] }) (by intros; rfl) l s
  exact ⟨(lateCharged l s).act, congrArg (fun u : State => { u with act := (lateCharged l s).act }) kept⟩

/-- The step is late: counted, charged to the clients of the berths that have not committed, and marked (R254). -/
def stepMissed : State :=
  let late := lateCharged (berthsWhere s (fun e => e.inStep && !e.committed)) (bump s (bthCtr 15))
  { late with sched := { late.sched with dlMissed := true } }

/-- An open step that is not late yet comes under its deadline. -/
theorem stepLate_open (met : Bool) (deadline : stepDlNs s ≠ 0) (running : s.sched.running = true) (early : s.sched.dlMissed = false) :
    stepLate s met = if met then bump s (bthCtr 16) else stepMissed s := by
  simp only [stepLate, deadline, running, early, Bool.not_true, Bool.false_eq_true, or_self, if_false]
  rfl

theorem stepLate_closed (met : Bool) (closed : stepDlNs s = 0 ∨ s.sched.running = false ∨ s.sched.dlMissed = true) :
    stepLate s met = s := by
  refine if_pos (closed.imp id (Or.imp ?_ id))
  intro idle
  simp [idle]

theorem stepMissed_marks : countsOne s (stepMissed s) (bthCtr 15) ∧ (stepMissed s).sched = { s.sched with dlMissed := true } ∧
    { stepMissed s with ctrs := s.ctrs, act := s.act, sched := s.sched } = s := by
  obtain ⟨v, charged⟩ := lateCharged_eq (bump s (bthCtr 15)) (berthsWhere s (fun e => e.inStep && !e.committed))
  simp only [stepMissed, charged]
  exact ⟨fun k => ctr_bump s (bthCtr 15) k, rfl, rfl⟩

/-- The sums of a rebalancing period start anew. -/
def periodCleared : State := { s with sched := { s.sched with rbSum := [], rbCnt := [], rbSteps := 0 } }

theorem rebalance_cleared : ∃ t, rebalance s = periodCleared t := by
  unfold rebalance
  extract_lets clr t all wants s1 s2
  split
  · exact ⟨_, rfl⟩
  · exact ⟨_, rfl⟩

theorem rebalance_off (off : rbEn s = false) :
    rebalance s = { s with sched := { s.sched with proposals := [], rbSum := [], rbCnt := [], rbSteps := 0 } } := by
  have still : rbEn { s with sched := { s.sched with proposals := [] } } = false := off
  unfold rebalance
  extract_lets clr
  rw [still]
  rfl

end StepMachinery

/-- Settles O20. That a boundary without a running berth counts too is the model's choice (log 62), and so is that proposals are kept
until the next period (log 182). What a boundary commits, calibrates, grants, lists and releases leaves the tick, the clocks
and the number of the device step (`SameClock.boundary`); its own last write clears the mark and says whether a step is open. -/
theorem stepMachinery : Obligations.StepMachinery := by
  unfold Obligations.StepMachinery
  intro s
  refine ⟨exec_stepBoundary_stays s, fun goes => ?_, fun deadline running early => ⟨?_, ?_⟩, fun closed met => ?_,
    ?_, fun off => ?_⟩
  · obtain ⟨tick, clk, dstep⟩ := SameClock.boundary s
    have ready : s.clk.ready = true := by
      simp only [Bool.or_eq_false_iff, Bool.not_eq_false'] at goes
      exact goes.2
    exact ⟨_, exec_stepBoundary_goes s goes, dlMissed_boundary s, running_boundary s, dstep, tick, by rw [clk]; exact ready⟩
  · exact ⟨bump s (bthCtr 16), congrArg Host.Outcome.next (stepLate_open s true deadline running early), ctr_bump s (bthCtr 16), rfl⟩
  · exact ⟨stepMissed s, congrArg Host.Outcome.next (stepLate_open s false deadline running early), stepMissed_marks s⟩
  · exact congrArg Host.Outcome.next (stepLate_closed s met closed)
  · obtain ⟨t, cleared⟩ := rebalance_cleared s
    exact ⟨periodCleared t, congrArg Host.Outcome.next cleared, rfl, rfl, rfl⟩
  · exact congrArg Host.Outcome.next (rebalance_off s off)

end Sys2Proof.Machine
end

section
/-! The family of memory and streaming (11_memory_and_streaming.md): gather streams, their run-ahead, and the corrected errors that an
MLD reports (O13). -/

namespace Sys2Proof.Machine
open Sys2Proof

/-! ## The live streams of a logical cluster (R285, R288) -/

theorem streamsOf_of_same {s u : State} (same : u.streams = s.streams) (l : Nat) : streamsOf u l = streamsOf s l := by
  rw [streamsOf, same, streamsOf]

section Streams
variable (s : State) (l : Nat)

@[simp] theorem streamsOf_setStreams (v : List Stream) : streamsOf (setStreams s l v) l = v := tabGet_set_same ..

/-- The live stream as an MGATH leaves it: past the blocks that the command delivers, with the stock that remains. -/
def streamAfter (c : Cmd) : Stream :=
  let d := sdOf c.aux
  { berth := c.berth, client := c.client, desc := c.sy.toNat, word := c.aux, pa := c.pa, pi := c.pi, pos := d.pos + sdN d,
    ahead := landedFor s l c.berth c.sy.toNat d - sdN d, ring := c.hd }

/-- Naming a stream changes the live streams and counters only. -/
theorem nameStream_frame (c : Cmd) : ∃ ss cs, nameStream s l c = { s with streams := ss, ctrs := cs } := by
  unfold nameStream
  extract_lets n live b a d next restarted own
  clear_value own
  split
  · split <;> exact ⟨_, _, rfl⟩
  · split
    · split <;> exact ⟨_, _, rfl⟩
    · split <;> exact ⟨_, _, rfl⟩

/-- A live stream that is named becomes the most recent, whether or not it restarts. -/
theorem nameStream_live {c : Cmd} {m : Stream} (live : (streamsOf s l).find? (isStream c.berth c.sy.toNat) = some m) :
    streamsOf (nameStream s l c) l =
      (streamsOf s l).filter (fun x => !isStream c.berth c.sy.toNat x) ++ [streamAfter s l c] := by
  simp only [nameStream, live]
  split
  · exact streamsOf_setStreams s l _
  · exact (streamsOf_of_same (bump_streams _ _) l).trans (streamsOf_setStreams s l _)

end Streams

/-! ## MGATH enters the mover's queue (R285, R286) -/

section Gather
variable {s : State} {lt : BitVec 12} {f : Fields}

/-- The command of an MGATH, with what it noted at issue. -/
def gatherCmd (s : State) (lt : BitVec 12) (f : Fields) : Cmd :=
  noteGather lt f s (thread s lt) (mkCmd s lt (advance (thread s lt)) 0xC2 f)

/-- What an MGATH notes does not come from the queues, the table of threads or the counters, so it is the same after its own entry. -/
theorem noteGather_enteredAs (c : Cmd) (t : Thread) :
    noteGather lt f (enteredAs s lt 5 0xC2 f c) t (mkCmd (enteredAs s lt 5 0xC2 f c) lt t 0xC2 f) =
      noteGather lt f s t (mkCmd s lt t 0xC2 f) := rfl

/-- The command enters first; its stream is named in the state that it has entered. -/
theorem exec_mgath_enters (issued : canIssue s lt 0xC2 f = true) (room : queueFull s (lcluOf lt) 5 = false)
    (passed : firstExc (mgathChecks s lt f (thread s lt)) = none) :
    exec (.mgath lt f) s =
      .next (nameStream (enteredAs s lt 5 0xC2 f (gatherCmd s lt f)) (lcluOf lt) (gatherCmd s lt f)) := by
  have noted : noteGather lt f (countIssue s lt) (advance (thread s lt)) (mkCmd s lt (advance (thread s lt)) 0xC2 f) =
      gatherCmd s lt f := rfl
  have enters := issueMover_enters (note := noteGather lt f)
    (more := fun u t => nameStream u (lcluOf lt) (noteGather lt f u t (mkCmd u lt t 0xC2 f))) issued room passed
  rw [noted, noteGather_enteredAs] at enters
  exact congrArg Host.Outcome.next enters

theorem entered_nameStream {u : State} {eng op : Nat} {c : Cmd} (l : Nat) (g : Cmd) (enters : entered s u lt eng op f c) :
    entered s (nameStream u l g) lt eng op f c := by
  obtain ⟨ss, cs, named⟩ := nameStream_frame u l g
  rw [named]
  exact entered_of_same rfl rfl enters

theorem sameMemories_nameStream (u : State) (l : Nat) (g : Cmd) : sameMemories u (nameStream u l g) := by
  obtain ⟨ss, cs, named⟩ := nameStream_frame u l g
  rw [named]
  exact ⟨rfl, rfl, rfl⟩

end Gather

/-! ## Package memory that is moved is counted (R259, R300) -/

theorem countPm_counts (s : State) (wr : Bool) (a len : Nat) : ∃ cs, countPm s wr a len = { s with ctrs := cs } := by
  let v := countPm s wr a len
  exact ⟨v.ctrs, (congrArg (fun w : State => { w with ctrs := v.ctrs }) (countPm_frame s wr a len) :)⟩

theorem movePm_counts (s : State) (n : Nat) (c : BitVec 10) (wr : Bool) (a len : Nat) :
    ∃ cs ac, movePm s n c wr a len = { s with ctrs := cs, act := ac } := by
  let v := movePm s n c wr a len
  exact ⟨v.ctrs, v.act, (congrArg (fun w : State => { w with ctrs := v.ctrs, act := v.act }) (movePm_frame s n c wr a len) :)⟩

/-! ## A block lands in its slot of the ring (R285, R287) -/

section Land
variable (s : State) (l : Nat) (cl : BitVec 10) (d : SD) (ring : VH) (pa pi k : Nat)

/-- The bytes of block k of a stream: those that its index names, or zeros where the index lies past the data area. -/
def streamBlock : List (BitVec 8) :=
  let ix := if d.idxFmt = 2 then k else pmLe s (pi + k * sdIdxBytes d) (sdIdxBytes d)
  if d.dataCount ≤ ix then List.replicate d.blk 0 else pmBytes s (pa + ix * d.blk) d.blk

/-- A block that lands is written to its slot; beside that only counters and activity change. -/
theorem landBlock_writes : ∃ cs ac, landBlock s l cl d ring pa pi k = { s with
    store := memPutBytes s.store (storeBase (physOf s l) + (ring.addr + k % ring.rows * vhStride ring)) (streamBlock s d pa pi k)
    ctrs := cs, act := ac } := by
  unfold landBlock streamBlock
  extract_lets n ib ix slot s1 a
  have fetched : ∃ cs ac, s1 = { s with ctrs := cs, act := ac } := by
    unfold s1
    split
    · exact ⟨_, _, rfl⟩
    · exact movePm_counts s n cl false _ _
  obtain ⟨cs, ac, fetched⟩ := fetched
  split
  · rw [fetched]
    exact ⟨_, _, rfl⟩
  · obtain ⟨cs', ac', moved⟩ := movePm_counts (storePut s1 l slot (pmBytes s a d.blk)) n cl false a d.blk
    rw [moved, fetched]
    exact ⟨_, _, rfl⟩

end Land

/-! ## RUN_AHEAD_LANDED (R285) -/

section Ahead
variable {s : State} {l ix : Nat} {m : Stream}

/-- A stream with stock to fill and blocks left takes its next block into its slot, and counts it among those that run ahead. -/
theorem landAhead_lands (named : (streamsOf s l)[ix]? = some m) (stock : m.ahead < aheadCap (sdOf m.word) (vhOf m.ring))
    (left : m.pos + m.ahead < (sdOf m.word).count) :
    let d := sdOf m.word
    let ring := vhOf m.ring
    let j := m.pos + m.ahead
    ∃ cs ac, landAhead s l ix = { setStreams s l ((streamsOf s l).set ix { m with ahead := m.ahead + 1 }) with
      store := memPutBytes s.store (storeBase (physOf s l) + (ring.addr + j % ring.rows * vhStride ring)) (streamBlock s d m.pa m.pi j)
      ctrs := cs, act := ac } := by
  intro d ring j
  obtain ⟨cs, ac, landed⟩ := landBlock_writes s l m.client d ring m.pa m.pi j
  simp only [landAhead, named, stock, left, and_self, if_true]
  rw [landed]
  exact ⟨_, _, rfl⟩

theorem exec_runAheadLanded {k : BitVec 4} (served : physOf s k.toNat ≠ 31) (alive : s.lost.lost = false) :
    exec (.runAheadLanded k ix) s = .next (landAhead s k.toNat ix) := by
  have runs : ¬ (physOf s k.toNat = 31 ∨ s.lost.lost = true) := by simp [served, alive]
  exact congrArg Host.Outcome.next (if_neg runs)

end Ahead

/-! ## Corrected errors reported with an MLD (R105, R279) -/

section Corrected
variable {s : State} {lt : BitVec 12} {f : Fields}

/-- A corrected sector changes counters and the tables of rows only. -/
theorem pmCorrected_frame (s : State) (a row : Nat) : ∃ cs rows, pmCorrected s a row = { s with ctrs := cs, mem := rows } := by
  unfold pmCorrected
  extract_lets k n old rows
  obtain ⟨cs, counted⟩ := countPm_counts (bump { s with mem := rows } (stackCtr (stackOf a) 2)) true (a / 32 * 32) 32
  rw [counted]
  exact ⟨cs, rows, rfl⟩

theorem entered_pmCorrected {u : State} {eng op : Nat} {c : Cmd} (a row : Nat) (enters : entered s u lt eng op f c) :
    entered s (pmCorrected u a row) lt eng op f c := by
  obtain ⟨cs, rows, corrected⟩ := pmCorrected_frame u a row
  rw [corrected]
  exact entered_of_same rfl rfl enters

/-- The command of an MLD, with the package address that its scalar names. -/
def loadCmd (s : State) (lt : BitVec 12) (f : Fields) : Cmd :=
  noteAddr lt f s (thread s lt) (mkCmd s lt (advance (thread s lt)) 0xC0 f)

theorem exec_mld_corrected (issued : canIssue s lt 0xC0 f = true) (room : queueFull s (lcluOf lt) 5 = false)
    (passed : firstExc (mldChecks s lt f (thread s lt)) = none) (p row : Nat) :
    exec (.mld lt f [(p, row)]) s = .next (pmCorrected (enteredAs s lt 5 0xC0 f (loadCmd s lt f)) p row) :=
  congrArg Host.Outcome.next (issueMover_enters issued room passed)

/-- The issue counts in its cluster's set, and not in a stack's (R300, R489). -/
theorem ctr_enteredAs_stack {eng op : Nat} {c : Cmd} (cluster : physOf s (lcluOf lt) < 18) (st k : Nat) :
    ctr (enteredAs s lt eng op f c) (stackCtr st k) = ctr s (stackCtr st k) := by
  have apart : stackCtr st k ≠ cIssued (physOf s (lcluOf lt)) := by
    unfold stackCtr cIssued cluCtr
    omega
  exact (countsOne_enteredAs _).trans (if_neg apart)

end Corrected

/-- Settles O13. That the live position moves at issue, and that corrected errors are reported with an MLD, is the model's choice (logs
39 and 172). An MGATH first enters the queue and then names its stream; a run-ahead block is one write to the store. -/
theorem gatherStreams : Obligations.GatherStreams := by
  unfold Obligations.GatherStreams
  intro s lt f t l a w d pa pi
  refine ⟨fun issued room passed => ?_, fun k ix m served alive named stock left => ?_,
    fun p row issued room passed cluster _ => ?_⟩
  · refine ⟨_, exec_mgath_enters issued room passed, ?_, entered_nameStream l _ entered_enteredAs, fun m live => ?_⟩
    · exact sameMemories_nameStream (enteredAs s lt 5 0xC2 f (gatherCmd s lt f)) l _
    · rw [nameStream_live (enteredAs s lt 5 0xC2 f (gatherCmd s lt f)) l live, List.getLast?_concat]
      rfl
  · intro d ring j bi block
    obtain ⟨cs, ac, lands⟩ := landAhead_lands named stock left
    have inside : ix < (streamsOf s k.toNat).length := (List.getElem?_eq_some_iff.mp named).1
    refine ⟨_, exec_runAheadLanded served alive, ?_⟩
    rw [lands]
    refine ⟨?_, rfl, rfl, rfl, rfl, rfl⟩
    exact (congrArg (·[ix]?) (streamsOf_setStreams s k.toNat _)).trans (List.getElem?_set_self inside)
  · obtain ⟨memories, rows, counted⟩ := pmCorrected_counts (enteredAs s lt 5 0xC0 f (loadCmd s lt f)) p row
    exact ⟨_, exec_mld_corrected issued room passed p row, memories, entered_pmCorrected p row entered_enteredAs, rows,
      counted.trans (congrArg (· + 1) (ctr_enteredAs_stack cluster _ _))⟩

end Sys2Proof.Machine
end

section
/-! The family of the host interface (12_host_interface.md): doorbells (O33), dead pages, interrupts and flushes (O34), rings and items
(O35), the life of a client (O36) and the mailboxes (O37). -/

namespace Sys2Proof.Machine
open Sys2Proof

/-! ## Doorbell pages (R309, R310) -/

section Page
variable {s : State} {c : BitVec 10}

/-- A write to the page of a DISABLED or RESETTING client counts and does nothing else (R309). -/
theorem onPage_dead (dead : pageLive (client s c) = false) (run : Client → State) : onPage s c run = bump s (hifCtr 9) := by
  simp [onPage, dead]

/-- A write to a live page of a device that is not lost does what the doorbell does. -/
theorem onPage_live {run : Client → State} (live : pageLive (client s c) = true)
    (present : (run (client s c)).lost.lost = false) : onPage s c run = run (client s c) := by
  simp [onPage, live, lostAnswer, present]

/-- The write has moved a position: the context of the client is `v`, and nothing else has changed. -/
theorem setClient_moves (s : State) (c : BitVec 10) (v : Client) :
    client (setClient s c v) c = v ∧ onlyClient s (setClient s c v) c ∧ { setClient s c v with clients := s.clients } = s :=
  ⟨client_setClient_same s c v, fun _ other => client_setClient_other s c _ v other, rfl⟩

/-- A refused doorbell sets `db_bad`, counts, and moves nothing. -/
theorem badDoorbell_counts (s : State) (c : BitVec 10) :
    (badDoorbell s c).clients = s.clients ∧ flagOn (badDoorbell s c) (fDbBad c) = true ∧
      countsOne s (badDoorbell s c) (hifCtr 8) ∧ { badDoorbell s c with regs := s.regs, ctrs := s.ctrs } = s :=
  ⟨rfl, flagOn_setFlag_same s (fDbBad c) (by decide : 4 < 32), fun k => ctr_setFlag s (fDbBad c) k, rfl⟩

/-- A doorbell either moves its position or is refused, as its check says. -/
theorem doorbell_moves {ok : Bool} {v : Client} (live : pageLive (client s c) = true) (present : s.lost.lost = false)
    {i : Instr} {run : Client → State} (runs : exec i s = .next (onPage s c run))
    (does : run (client s c) = if ok then setClient s c v else badDoorbell s c) :
    (ok = true → ∃ u, exec i s = .next u ∧ client u c = v ∧ onlyClient s u c ∧ { u with clients := s.clients } = s) ∧
    (ok = false → ∃ u, exec i s = .next u ∧ u.clients = s.clients ∧ flagOn u (fDbBad c) = true ∧ countsOne s u (hifCtr 8) ∧
      { u with regs := s.regs, ctrs := s.ctrs } = s) := by
  have answers : exec i s = .next (if ok then setClient s c v else badDoorbell s c) := by
    rw [runs, onPage_live live (by rw [does]; cases ok <;> exact present), does]
  cases ok with
  | true => exact ⟨fun _ => ⟨_, answers, setClient_moves s c v⟩, nofun⟩
  | false => exact ⟨nofun, fun _ => ⟨_, answers, badDoorbell_counts s c⟩⟩

end Page

/-- Settles O33: each doorbell moves its position or is refused, as the check of its ring says. -/
theorem doorbells : Obligations.Doorbells := by
  unfold Obligations.Doorbells
  intro s c w live present k takes refuses fits
  obtain ⟨sqMoves, sqBad⟩ := doorbell_moves live present (i := .dbSqTail c w) rfl rfl
  obtain ⟨cqMoves, cqBad⟩ := doorbell_moves live present (i := .dbCqHead c w) rfl rfl
  obtain ⟨h2fMoves, h2fBad⟩ := doorbell_moves live present (i := .dbH2fTail c w) rfl rfl
  obtain ⟨f2hMoves, f2hBad⟩ := doorbell_moves live present (i := .dbF2hHead c w) rfl rfl
  exact ⟨fun fit => sqMoves (decide_eq_true fit), fun unfit => sqBad (decide_eq_false unfit),
    fun fit => cqMoves (decide_eq_true fit), fun unfit => cqBad (decide_eq_false unfit),
    fun fit => h2fMoves (decide_eq_true fit), fun unfit => h2fBad (decide_eq_false unfit),
    fun fit => f2hMoves (decide_eq_true fit), fun unfit => f2hBad (decide_eq_false unfit)⟩

/-! ## What answers to one client leave (R294, R318, R321) -/

section Answered
variable {s t u : State} {c : BitVec 10}

/-- The context of a client without its items, its records and its interrupt. -/
def sansRecords (k : Client) : Client :=
  { k with items := [], cqTail := 0, spill := [], arm := false, unsig := 0, unsigNow := false, unsigAt := 0 }

/-- State `u` with what answers can change taken from `s`. -/
def besideAnswers (s u : State) : State :=
  { u with
    clients := s.clients, ctrs := s.ctrs, act := s.act, emitted := s.emitted, pm := s.pm, rng := s.rng, berths := s.berths }

/-- Items of client `c` may have been answered or withdrawn: records were written, and beside the client's items, its records and its
interrupt only counters of records and items, waiters and the queues of the generators have changed. -/
structure Answered (s u : State) (c : BitVec 10) : Prop where
  frame : besideAnswers s u = s
  spills : spillOnly s u
  others : onlyClient s u c
  context : sansRecords (client u c) = sansRecords (client s c)
  items : ∀ i ∈ (client u c).items, i ∈ (client s c).items
  emitted : ∀ e ∈ s.emitted, e ∈ u.emitted
  spill : ∀ r ∈ (client s c).spill, r ∈ (client u c).spill
  waiters : ∀ b, (berth s b).waiters = [] → (berth u b).waiters = []
  counts : ∀ k, k < 0xA00 → k ∉ [hifCtr 1, hifCtr 2, hifCtr 19, memCtr 3] → ctr u k = ctr s k

namespace Answered

theorem refl (s : State) (c : BitVec 10) : Answered s s c :=
  ⟨rfl, fun _ _ => rfl, fun _ _ => rfl, rfl, fun _ h => h, fun _ h => h, fun _ h => h, fun _ h => h, fun _ _ _ => rfl⟩

theorem trans (first : Answered s t c) (second : Answered t u c) : Answered s u c where
  frame := (congrArg (besideAnswers s) second.frame).trans first.frame
  spills a out := (second.spills a out).trans (first.spills a out)
  others k other := (second.others k other).trans (first.others k other)
  context := second.context.trans first.context
  items i listed := first.items i (second.items i listed)
  emitted e out := second.emitted e (first.emitted e out)
  spill r kept := second.spill r (first.spill r kept)
  waiters b none := second.waiters b (first.waiters b none)
  counts k low other := (second.counts k low other).trans (first.counts k low other)

theorem memories (h : Answered s u c) : keptMemories s u :=
  ⟨(congrArg State.store h.frame :), (congrArg State.ret h.frame :), h.spills⟩
theorem lost (h : Answered s u c) : u.lost = s.lost := (congrArg State.lost h.frame :)

theorem sec (h : Answered s u c) : u.sec = s.sec := (congrArg State.sec h.frame :)
theorem tick (h : Answered s u c) : u.tick = s.tick := (congrArg State.tick h.frame :)
theorem regs (h : Answered s u c) : u.regs = s.regs := (congrArg State.regs h.frame :)

/-- What a record leaves is more than what an answer leaves. -/
theorem frame_of_frameItem (h : frameItem s u) : besideAnswers s u = s :=
  (congrArg (fun v : State => { v with rng := s.rng, berths := s.berths }) h.1 :)

/-- The state of the client's context stays, so its rings stay writable. -/
theorem st (h : Answered s u c) : (client u c).st = (client s c).st := (congrArg Client.st h.context :)

theorem asm (h : Answered s u c) : (client u c).asm = (client s c).asm := (congrArg Client.asm h.context :)
theorem sqHead (h : Answered s u c) : (client u c).sqHead = (client s c).sqHead := (congrArg Client.sqHead h.context :)
theorem outbox (h : Answered s u c) : (client u c).outbox = (client s c).outbox := (congrArg Client.outbox h.context :)
theorem f2hTail (h : Answered s u c) : (client u c).f2hTail = (client s c).f2hTail := (congrArg Client.f2hTail h.context :)
theorem f2hSeq (h : Answered s u c) : (client u c).f2hSeq = (client s c).f2hSeq := (congrArg Client.f2hSeq h.context :)
theorem fepoch (h : Answered s u c) : (client u c).fepoch = (client s c).fepoch := (congrArg Client.fepoch h.context :)

theorem writable (h : Answered s u c) : writable (client u c) = Machine.writable (client s c) := by
  simp only [Machine.writable, h.st]

/-- It is enough to look at the client's entry when the change is one of clients, output, activity and counters. -/
theorem of_entry (v : Client) (frame : { u with clients := s.clients, ctrs := s.ctrs, act := s.act, emitted := s.emitted } = s)
    (entry : u.clients = (setClient s c v).clients) (context : sansRecords v = sansRecords (client s c))
    (items : ∀ i ∈ v.items, i ∈ (client s c).items) (spill : ∀ r ∈ (client s c).spill, r ∈ v.spill)
    (emitted : ∀ e ∈ s.emitted, e ∈ u.emitted)
    (counts : ∀ k, k < 0xA00 → k ∉ [hifCtr 1, hifCtr 2, hifCtr 19, memCtr 3] → ctr u k = ctr s k) : Answered s u c := by
  have each (k : BitVec 10) : client u k = client (setClient s c v) k := by simp only [client, entry]
  have own : client u c = v := (each c).trans (client_setClient_same s c v)
  have berths : u.berths = s.berths := (congrArg State.berths frame :)
  exact ⟨frame_of_frameItem (frameItem_of frame), (frameItem_of frame).2, fun k other => (each k).trans (client_setClient_other s c k v other),
    own ▸ context, own ▸ items, emitted, own ▸ spill, fun b none => (berth_of_berths berths b).symm ▸ none, counts⟩

theorem testIrq (s : State) (c : BitVec 10) : Answered s (testIrq s c) c := by
  simp only [Machine.testIrq]
  split
  · exact of_entry { client s c with arm := false, unsig := 0, unsigNow := false } rfl rfl rfl (fun _ h => h) (fun _ h => h)
      (fun _ => List.mem_cons_of_mem _) fun k _ other => ctr_addCtr_other _ _ _ _ fun e => other (by simp [e])
  · exact refl s c

theorem signalIrq (s : State) (c : BitVec 10) (now : Bool) : Answered s (signalIrq s c now) c := by
  unfold Machine.signalIrq
  extract_lets k
  refine trans ?_ (testIrq _ c)
  exact of_entry _ rfl rfl rfl (fun _ h => h) (fun _ h => h) (fun _ h => h) fun _ _ _ => rfl

theorem putRecord (s : State) (c : BitVec 10) (r : Record) : Answered s (putRecord s c r) c := by
  unfold Machine.putRecord
  extract_lets k r1 s1
  refine trans ?_ (signalIrq _ c _)
  refine of_entry { k with cqTail := k.cqTail + 1 } rfl rfl rfl (fun _ h => h) (fun _ h => h) (fun _ => List.mem_cons_of_mem _)
    fun j _ other => ?_
  exact ctr_bump_other (emit s1 (.record c r1)) _ j fun e => other (by simp [e])

theorem spillRecord (s : State) (c : BitVec 10) (r : Record) : Answered s (spillRecord s c r) c := by
  have frame := spillRecord_frame s c r
  have entry : (Machine.spillRecord s c r).clients = (setClient s c { client s c with spill := (client s c).spill ++ [r] }).clients := by
    simp only [Machine.spillRecord, bump_clients, hubPm_clients, pmPut_clients]
  have each (k : BitVec 10) := congrArg (fun l => tabGet ({} : Client) l k.toNat) entry
  have own : client (Machine.spillRecord s c r) c = { client s c with spill := (client s c).spill ++ [r] } :=
    (each c).trans (client_setClient_same ..)
  have emitted : (Machine.spillRecord s c r).emitted = s.emitted := (congrArg State.emitted (hubPm_frame ..) :)
  refine ⟨frame_of_frameItem frame, frame.2, fun k other => (each k).trans (client_setClient_other s c k _ other), by rw [own]; rfl,
    fun i listed => by rw [own] at listed; exact listed, fun e out => emitted ▸ out,
    fun q kept => by rw [own]; exact List.mem_append_left _ kept, fun b none => by rw [berth_of_frameItem frame b]; exact none,
    fun k low other => ?_⟩
  rw [Machine.spillRecord, ctr_bump_other _ _ _ fun e => other (by simp [e]), ctr_hubPm low]
  rfl

theorem postRecord (s : State) (c : BitVec 10) (r : Record) : Answered s (postRecord s c r) c := by
  simp only [Machine.postRecord]
  split
  · exact refl s c
  · split
    · exact putRecord s c r
    · exact spillRecord s c _

theorem notice (s : State) (c : BitVec 10) (op status : Nat) (tag : BitVec 32) (d : List (BitVec 8)) :
    Answered s (notice s c op status tag d) c := postRecord s c _

theorem completeItem (s : State) (c : BitVec 10) (i : Item) (status : Nat) (d : List (BitVec 8)) :
    Answered s (completeItem s c i status d) c := by
  have left : Answered s (itemLeft s c i) c :=
    of_entry { client s c with items := (client s c).items.filter (fun j => decide (j.seq ≠ i.seq)) } rfl rfl rfl
      (fun _ => List.mem_of_mem_filter) (fun _ h => h) (fun _ h => h)
      fun _ _ other => ctr_addCtr_other _ _ _ _ fun e => other (by simp [e])
  exact left.trans (postRecord _ c _)

theorem withRngBerths (r : Rng) (bs : Tab Berth)
    (waiters : ∀ b, (berth s b).waiters = [] → (berth { s with rng := r, berths := bs } b).waiters = []) :
    Answered s { s with rng := r, berths := bs } c :=
  ⟨rfl, fun _ _ => rfl, fun _ _ => rfl, rfl, fun _ h => h, fun _ h => h, fun _ h => h, waiters, fun _ _ _ => rfl⟩

end Answered

/-! ## Items that are withdrawn (R321–R323) -/

/-- An item that is withdrawn leaves the generators' queues and the waiters of its berth. -/
theorem withdraw_frame (s : State) (c : BitVec 10) (i : Item) : ∃ r bs, withdraw s c i = { s with rng := r, berths := bs } := by
  unfold withdraw
  extract_lets w s1
  split <;> exact ⟨_, _, rfl⟩

/-- No waiter comes to any berth. -/
theorem withdraw_waiters (s : State) (c : BitVec 10) (i : Item) (b : BitVec 12) :
    ∀ w ∈ (berth (withdraw s c i) b).waiters, w ∈ (berth s b).waiters := by
  unfold withdraw
  extract_lets w s1
  split
  · by_cases own : b = i.berth
    · subst own
      rw [berth_modBerth_same]
      exact fun _ => List.mem_of_mem_filter
    · rw [berth_modBerth_other s1 i.berth b _ own]
      exact fun _ h => h
  · exact fun _ h => h

theorem withdraw_unwaited {b : BitVec 12} (none : (berth s b).waiters = []) (c : BitVec 10) (i : Item) :
    (berth (withdraw s c i) b).waiters = [] :=
  List.eq_nil_iff_forall_not_mem.2 fun w listed => List.not_mem_nil (none ▸ withdraw_waiters s c i b w listed)

/-- An item of a berth that nothing waits on is withdrawn and no more: the berth has no other waiter to serve. -/
theorem dropItem_unwaited {i : Item} (none : (berth s i.berth).waiters = []) (c : BitVec 10) : dropItem s c i = withdraw s c i := by
  rw [dropItem, reserve, serveWaiters_none (withdraw_unwaited none c i), ite_self]

theorem Answered.dropItem {i : Item} (none : (berth s i.berth).waiters = []) (c : BitVec 10) : Answered s (dropItem s c i) c := by
  obtain ⟨r, bs, withdrawn⟩ := withdraw_frame s c i
  have kept (b : BitVec 12) := withdraw_unwaited (s := s) (b := b) (c := c) (i := i)
  rw [dropItem_unwaited none, withdrawn] at *
  exact withRngBerths r bs fun b unwaited => withdrawn ▸ kept b unwaited

end Answered

/-! ## DB_IRQ and COAL_TIMEOUT (R327) -/

section Irq
variable {s : State} {c : BitVec 10}

/-- The interrupt is raised when its conditions hold: `arm` is cleared and nothing is left unsignalled. -/
theorem testIrq_raises (due : irqDue s c (client s c) = true) :
    (testIrq s c).emitted = .msix (vecOf s c) :: s.emitted ∧
      client (testIrq s c) c = { client s c with arm := false, unsig := 0, unsigNow := false } ∧
      onlyClient s (testIrq s c) c ∧ countsOne s (testIrq s c) (hifCtr 19) := by
  simp only [testIrq, due, if_true]
  exact ⟨rfl, client_setClient_same s c _, fun k other => client_setClient_other s c k _ other, fun k => ctr_bump s _ k⟩

theorem testIrq_waits (quiet : irqDue s c (client s c) = false) : testIrq s c = s := by simp [testIrq, quiet]

theorem testIrq_setClient_raises {v : Client} (due : irqDue s c v = true) :
    (testIrq (setClient s c v) c).emitted = .msix (vecOf s c) :: s.emitted ∧
      client (testIrq (setClient s c v) c) c = { v with arm := false, unsig := 0, unsigNow := false } ∧
      onlyClient s (testIrq (setClient s c v) c) c ∧ countsOne s (testIrq (setClient s c v) c) (hifCtr 19) := by
  obtain ⟨sent, own, others, count⟩ := testIrq_raises (s := setClient s c v) (c := c) (by rw [client_setClient_same]; exact due)
  rw [client_setClient_same] at own
  exact ⟨sent, own, fun k other => (others k other).trans (client_setClient_other s c k v other), count⟩

theorem testIrq_setClient_waits {v : Client} (quiet : irqDue s c v = false) : testIrq (setClient s c v) c = setClient s c v :=
  testIrq_waits (by rw [client_setClient_same]; exact quiet)

theorem coalExpired_unmet (k : Client) (own : client s c = k) :
    coalExpired s c false = testIrq (setClient s c { k with unsigNow := k.unsigNow || decide (0 < k.unsig) }) c := by subst own; rfl

end Irq

/-! ## The flush of a client (R321) -/

section Flush
variable {s u : State} {c : BitVec 10}

/-- One item of a flush: it is withdrawn and completes with FLUSHED. -/
def flushItem (c : BitVec 10) (s : State) (i : Item) : State := completeItem (dropItem s c i) c i stFlushed []

/-- A record with this item's opcode and tag has left for its client with FLUSHED. -/
def flushedRecord (u : State) (c : BitVec 10) (i : Item) : Prop :=
  ∃ r : Record, r.status = stFlushed ∧ r.op = i.op ∧ r.tag = i.tag ∧ (Emit.record c r ∈ u.emitted ∨ r ∈ (client u c).spill)

theorem flushedRecord.of_answered {i : Item} (record : flushedRecord s c i) (later : Answered s u c) : flushedRecord u c i := by
  obtain ⟨r, status, op, tag, written⟩ := record
  exact ⟨r, status, op, tag, written.imp (later.emitted _) (later.spill r)⟩

theorem flushItem_answers {i : Item} (writes : writable (client s c) = true) (unwaited : (berth s i.berth).waiters = []) :
    Answered s (flushItem c s i) c ∧ (∀ j ∈ (client (flushItem c s i) c).items, j.seq ≠ i.seq) ∧
      flushedRecord (flushItem c s i) c i := by
  have dropped := Answered.dropItem unwaited c
  obtain ⟨items, -, -, r, status, op, tag, -, -, -, -, written⟩ :=
    completed_completeItem (i := i) (by rw [dropped.writable]; exact writes) stFlushed []
  refine ⟨dropped.trans (.completeItem ..), fun j listed => ?_, r, status, op, tag, written⟩
  rw [flushItem, items] at listed
  simpa using (List.mem_filter.1 listed).2

/-- Every item of a flush is gone, with its record, when all have been taken. -/
theorem flushItems_answer (l : List Item) (s : State) (writes : writable (client s c) = true)
    (unwaited : ∀ i ∈ l, (berth s i.berth).waiters = []) :
    Answered s (l.foldl (flushItem c) s) c ∧
      ∀ i ∈ l, (∀ j ∈ (client (l.foldl (flushItem c) s) c).items, j.seq ≠ i.seq) ∧ flushedRecord (l.foldl (flushItem c) s) c i := by
  induction l generalizing s with
  | nil => exact ⟨.refl s c, fun i listed => absurd listed List.not_mem_nil⟩
  | cons i l ih =>
    obtain ⟨first, gone, record⟩ := flushItem_answers writes (unwaited i List.mem_cons_self)
    obtain ⟨rest, all⟩ := ih (flushItem c s i) (by rw [first.writable]; exact writes)
      fun j listed => first.waiters _ (unwaited j (List.mem_cons_of_mem _ listed))
    rw [List.foldl_cons]
    refine ⟨first.trans rest, fun j listed => ?_⟩
    rcases List.mem_cons.1 listed with rfl | later
    · exact ⟨fun k kept => gone k (rest.items k kept), record.of_answered rest⟩
    · exact all j later

/-- The assembly is discarded and counted; the items have not been taken yet (R321). -/
def assemblyDropped (s : State) (c : BitVec 10) : State :=
  let k := client s c
  setClient (if k.asm.isEmpty then s else addCtr (bump s (hifCtr 4)) (hifCtr 5) k.asm.length) c { k with asm := [], asmBad := none }

theorem client_assemblyDropped (s : State) (c k : BitVec 10) :
    client (assemblyDropped s c) k = client (setClient s c { client s c with asm := [], asmBad := none }) k := by
  unfold assemblyDropped
  extract_lets v
  split <;> rfl

theorem assemblyDropped_kept (s : State) (c : BitVec 10) : (assemblyDropped s c).berths = s.berths ∧
    keptMemories s (assemblyDropped s c) ∧ (assemblyDropped s c).lost = s.lost ∧ ctr (assemblyDropped s c) (hifCtr 6) = ctr s (hifCtr 6) := by
  have moved (n : Nat) : ctr (addCtr (bump s (hifCtr 4)) (hifCtr 5) n) (hifCtr 6) = ctr s (hifCtr 6) :=
    (ctr_addCtr_other _ _ _ _ (by decide)).trans (ctr_bump_other s _ _ (by decide))
  unfold assemblyDropped
  extract_lets k
  split
  · exact ⟨rfl, keptMemories_refl, rfl, rfl⟩
  · exact ⟨rfl, keptMemories_refl, rfl, moved _⟩

/-- The items are gone, the epoch has moved on and the flush is counted; its notice has not been written yet. -/
def epochAdvanced (c : BitVec 10) (t : State) : State := bump (modClient t c (fun k => { k with fepoch := k.fepoch + 1 })) (hifCtr 6)

theorem client_epochAdvanced (c : BitVec 10) (t : State) :
    client (epochAdvanced c t) c = { client t c with fepoch := (client t c).fepoch + 1 } := by
  rw [epochAdvanced, client_bump, client_modClient_same]

theorem flushClient_eq (s : State) (c : BitVec 10) : ∃ d, flushClient s c =
    notice (epochAdvanced c (((client s c).items.filter (fun i => !i.begun)).foldl (flushItem c) (assemblyDropped s c))) c 0x85 stOk 0 d :=
  ⟨_, rfl⟩

/-- The whole flush of an ACTIVE client whose waiting items name berths that nothing waits on. -/
theorem flushClient_flushes (active : (client s c).st = .active) (unwaited : noWaiters s c) :
    (client (flushClient s c) c).fepoch = (client s c).fepoch + 1 ∧ (client (flushClient s c) c).asm = [] ∧
      (client (flushClient s c) c).st = .active ∧ (client (flushClient s c) c).items.all (fun i => i.begun) = true ∧
      onlyClient s (flushClient s c) c ∧ ctr (flushClient s c) (hifCtr 6) = ctr s (hifCtr 6) + 1 ∧ keptMemories s (flushClient s c) ∧
      (flushClient s c).lost = s.lost ∧ ∀ i ∈ (client s c).items, i.begun = false → flushedRecord (flushClient s c) c i := by
  obtain ⟨d, flushed⟩ := flushClient_eq s c
  obtain ⟨berths, memories, lost, count⟩ := assemblyDropped_kept s c
  have own := (client_assemblyDropped s c c).trans (client_setClient_same s c _)
  have waiting {i : Item} (listed : i ∈ (client s c).items.filter (fun i => !i.begun)) : i ∈ (client s c).items ∧ i.begun = false := by
    simpa using listed
  obtain ⟨answered, all⟩ := flushItems_answer ((client s c).items.filter (fun i => !i.begun)) (assemblyDropped s c) (c := c)
    (by simp [own, writable, active]) fun i listed => by
      rw [berth_of_berths berths]; exact unwaited i (waiting listed).1 (waiting listed).2
  generalize List.foldl (flushItem c) _ _ = t at flushed answered all
  rw [flushed]
  have told := Answered.notice (epochAdvanced c t) c 0x85 stOk 0 d
  have advanced := client_epochAdvanced c t
  have asm : (client t c).asm = [] := by rw [answered.asm, own]
  have fepoch : (client t c).fepoch = (client s c).fepoch := by rw [answered.fepoch, own]
  have st : (client t c).st = .active := by rw [answered.st, own]; exact active
  refine ⟨by rw [told.fepoch, advanced, fepoch], by rw [told.asm, advanced, asm], by rw [told.st, advanced, st],
    ?_, fun j other => ?_, ?_, ?_, told.lost.trans (answered.lost.trans lost), fun i listed begun => ?_⟩
  · rw [List.all_eq_true]
    intro j listed
    have inT : j ∈ (client t c).items := by simpa only [advanced] using told.items j listed
    by_contra unbegun
    have inGone : j ∈ (client s c).items.filter (fun i => !i.begun) :=
      List.mem_filter.2 ⟨by simpa only [own] using answered.items j inT, by simpa using unbegun⟩
    exact (all j inGone).1 j inT rfl
  · rw [told.others j other, epochAdvanced, client_bump, client_modClient_other t c j _ other, answered.others j other,
      client_assemblyDropped, client_setClient_other s c j _ other]
  · rw [told.counts _ (by decide) (by decide), epochAdvanced, ctr_bump_same]
    exact congrArg (· + 1) ((answered.counts _ (by decide) (by decide)).trans count)
  · exact keptMemories_trans (keptMemories_trans memories answered.memories) told.memories
  · obtain ⟨-, r, status, op, tag, written⟩ := all i (List.mem_filter.2 ⟨listed, by simp [begun]⟩)
    refine flushedRecord.of_answered (s := epochAdvanced c t) ⟨r, status, op, tag, ?_⟩ told
    rw [advanced]
    exact written

end Flush

/-- Settles O34: a dead page only counts, the interrupt is raised when its conditions hold, and a flush answers every item that has not
begun. -/
theorem pagesInterruptsFlush : Obligations.PagesInterruptsFlush := by
  unfold Obligations.PagesInterruptsFlush
  intro s c w k armed
  refine ⟨fun dead i listed => ?_, fun live present => ⟨fun quiet => ?_, fun due => ?_⟩, fun arm unmasked unsignalled => ?_,
    fun active bit unwaited present => ?_⟩
  · have counts {run : Client → State} (runs : exec i s = .next (onPage s c run)) :
        ∃ u, exec i s = .next u ∧ countsOne s u (hifCtr 9) ∧ { u with ctrs := s.ctrs } = s :=
      ⟨bump s (hifCtr 9), by rw [runs, onPage_dead dead], fun j => ctr_bump s _ j, rfl⟩
    simp only [List.mem_cons, List.not_mem_nil, or_false] at listed
    rcases listed with rfl | rfl | rfl | rfl | rfl | rfl <;> exact counts rfl
  · refine ⟨setClient s c armed, congrArg Host.Outcome.next ?_, setClient_moves s c armed⟩
    have waits := testIrq_setClient_waits quiet
    rw [onPage_live live (by rw [waits]; exact present), waits]
  · have answers : exec (.dbIrq c w) s = .next (testIrq (setClient s c armed) c) := by
      refine congrArg Host.Outcome.next (onPage_live live ?_)
      simp only [testIrq]
      split <;> exact present
    exact ⟨_, answers, testIrq_setClient_raises due⟩
  · have due : irqDue s c { k with unsigNow := k.unsigNow || decide (0 < k.unsig) } = true := by
      simp [irqDue, arm, unmasked, unsignalled]
    exact ⟨_, congrArg Host.Outcome.next (coalExpired_unmet k rfl), testIrq_setClient_raises due⟩
  · have live : pageLive (client s c) = true := by simp [pageLive, k, active]
    obtain ⟨fepoch, asm, still, items, others, count, memories, lost, records⟩ := flushClient_flushes active unwaited
    have runs : (if w.getLsbD 0 = true ∧ (client s c).st = .active then flushClient s c else s) = flushClient s c :=
      if_pos ⟨bit, active⟩
    refine ⟨flushClient s c, congrArg Host.Outcome.next ?_, fepoch, asm, still, items, others, count, memories, records⟩
    rw [onPage_live live (by rw [runs, lost]; exact present), runs]

/-! ## The clients beside other changes -/

section Clients
variable (s : State) (k : BitVec 10)

@[simp] theorem client_addCtr (i n : Nat) : client (addCtr s i n) k = client s k := rfl
@[simp] theorem client_emit (e : Emit) : client (emit s e) k = client s k := rfl
@[simp] theorem client_modAct (c : BitVec 10) (f : Activity → Activity) : client (modAct s c f) k = client s k := rfl
@[simp] theorem client_hostBytes (c : BitVec 10) (n : Nat) : client (hostBytes s c n) k = client s k := rfl
@[simp] theorem client_setFlag (f : Flag) : client (setFlag s f) k = client s k := rfl
@[simp] theorem client_setRegField (off hi lo v : Nat) : client (setRegField s off hi lo v) k = client s k := rfl

@[simp] theorem activity_modAct_same (c : BitVec 10) (f : Activity → Activity) : activity (modAct s c f) c = f (activity s c) :=
  tabGet_set_same ..

@[simp] theorem hostBytes_clients (c : BitVec 10) (n : Nat) : (hostBytes s c n).clients = s.clients := rfl
@[simp] theorem hostBytes_store (c : BitVec 10) (n : Nat) : (hostBytes s c n).store = s.store := rfl
@[simp] theorem hostBytes_pm (c : BitVec 10) (n : Nat) : (hostBytes s c n).pm = s.pm := rfl
@[simp] theorem hostBytes_berths (c : BitVec 10) (n : Nat) : (hostBytes s c n).berths = s.berths := rfl
@[simp] theorem hostBytes_tick (c : BitVec 10) (n : Nat) : (hostBytes s c n).tick = s.tick := rfl
@[simp] theorem ctr_hostBytes (c : BitVec 10) (n i : Nat) : ctr (hostBytes s c n) i = ctr s i := rfl

theorem berths_of_frameItem {s u : State} (h : frameItem s u) : u.berths = s.berths := (congrArg State.berths h.1 :)

theorem activity_hostBytes (c : BitVec 10) (n : Nat) :
    (activity (hostBytes s c n) c).hostBytes = (activity s c).hostBytes + n := by rw [hostBytes, activity_modAct_same]

@[simp] theorem activity_bump (n : Nat) (c : BitVec 10) : activity (bump s n) c = activity s c := rfl
@[simp] theorem activity_modClient (c d : BitVec 10) (f : Client → Client) : activity (modClient s c f) d = activity s d := rfl
@[simp] theorem activity_setClient (c d : BitVec 10) (v : Client) : activity (setClient s c v) d = activity s d := rfl

@[simp] theorem ctr_setClient (c : BitVec 10) (v : Client) (i : Nat) : ctr (setClient s c v) i = ctr s i := rfl
@[simp] theorem ctr_modClient (c : BitVec 10) (f : Client → Client) (i : Nat) : ctr (modClient s c f) i = ctr s i := rfl

end Clients

/-! ## DESCRIPTOR_FETCH (R311–R313) -/

section Fetch
variable {s : State} {c : BitVec 10} {d : List (BitVec 8)}

theorem exec_descriptorFetch_one (may : mayFetch s c = true) : exec (.descriptorFetch c [d]) s = .next (takeDescriptor s c d) := by
  show Host.Outcome.next (if mayFetch s c then takeDescriptor s c d else s) = _
  rw [may]
  rfl

/-- A descriptor has been read and counted: the head has moved past it. -/
def descriptorRead (s : State) (c : BitVec 10) : State :=
  bump (hostBytes (modClient s c (fun k => { k with sqHead := k.sqHead + 1 })) c 64) (hifCtr 0)

theorem client_descriptorRead (s : State) (c : BitVec 10) :
    client (descriptorRead s c) c = { client s c with sqHead := (client s c).sqHead + 1 } := by
  simp only [descriptorRead, client_bump, client_hostBytes, client_modClient_same]

theorem onlyClient_descriptorRead (s : State) (c : BitVec 10) : onlyClient s (descriptorRead s c) c :=
  fun k other => by simp only [descriptorRead, client_bump, client_hostBytes, client_modClient_other s c k _ other]

theorem countsOne_descriptorRead (s : State) (c : BitVec 10) : countsOne s (descriptorRead s c) (hifCtr 0) := fun j => by
  rw [descriptorRead, ctr_bump]
  rfl

theorem takeDescriptor_eq (s : State) (c : BitVec 10) (d : List (BitVec 8)) : takeDescriptor s c d =
    let t := descriptorRead s c
    let k := client t c
    if leAt d 3 1 ≠ k.fepoch.toNat then
      if dLast d then postRecord (bump t (hifCtr 3)) c
        { status := stFlushed, op := dOp d, fep := BitVec.ofNat 8 (leAt d 3 1), tag := BitVec.ofNat 32 (dTag d),
          detail := List.replicate 16 0, tick := s.tick }
      else bump t (hifCtr 3)
    else
      let bad := if k.asmBad.isSome then k.asmBad else partFault k.asm d
      if dLast d then finishItem t c (k.asm ++ [d]) bad else setClient t c { k with asm := k.asm ++ [d], asmBad := bad } := rfl

/-- The whole item that one descriptor makes joins the client's items. -/
theorem finishItem_joins {t : State} (listed : 1 ≤ dOp d ∧ dOp d ≤ 0x13) (parts : partsOk [d] = true) (header : headerOk d = true) :
    finishItem t c [d] none = modClient (setClient t c { client t c with asm := [], asmBad := none, itemSeq := (client t c).itemSeq + 1 })
      c (fun k => { k with items := k.items ++ [itemOf t (client t c) [d]] }) := by
  have op : ¬ ((itemOf t (client t c) [d]).op = 0 ∨ 0x13 < (itemOf t (client t c) [d]).op) := by
    have same : (itemOf t (client t c) [d]).op = dOp d := rfl
    omega
  simp only [finishItem, if_neg op, parts, Bool.not_true, Bool.false_eq_true, if_false, List.zipIdx_cons, List.zipIdx_nil,
    List.find?_cons, header, List.find?_nil]

/-- A descriptor of the present epoch that is a whole well-formed item is taken as one. -/
theorem takeDescriptor_joins (epoch : leAt d 3 1 = (client s c).fepoch.toNat) (fresh : (client s c).asm = [])
    (sound : (client s c).asmBad = none) (first : leAt d 2 1 % 16 = 0) (last : dLast d = true) (listed : 1 ≤ dOp d ∧ dOp d ≤ 0x13)
    (parts : partsOk [d] = true) (header : headerOk d = true) :
    let k := client s c
    let u := takeDescriptor s c d
    countsOne s u (hifCtr 0) ∧ onlyClient s u c ∧
      client u c = { k with sqHead := k.sqHead + 1, itemSeq := k.itemSeq + 1, items := k.items ++ [itemOf s k [d]] } ∧
      (activity u c).hostBytes = (activity s c).hostBytes + 64 ∧ { u with clients := s.clients, ctrs := s.ctrs, act := s.act } = s := by
  intro k u
  have own := client_descriptorRead s c
  have whole : partFault [] d = none := by simp [partFault, first]
  have takes : u = finishItem (descriptorRead s c) c [d] none := by
    have same : leAt d 3 1 = (client (descriptorRead s c) c).fepoch.toNat := by rw [own]; exact epoch
    have asm : (client (descriptorRead s c) c).asm = [] := by rw [own]; exact fresh
    have bad : (client (descriptorRead s c) c).asmBad = none := by rw [own]; exact sound
    simp only [u, takeDescriptor_eq, same, ne_eq, not_true_eq_false, if_false, last, if_true, asm, bad, Option.isSome_none,
      Bool.false_eq_true, whole, List.nil_append]
  rw [takes, finishItem_joins listed parts header]
  refine ⟨fun j => ?_, fun j other => ?_, ?_, ?_, ?_⟩
  · rw [ctr_modClient, ctr_setClient, countsOne_descriptorRead s c j]
  · rw [client_modClient_other _ c j _ other, client_setClient_other _ c j _ other, onlyClient_descriptorRead s c j other]
  · rw [client_modClient_same, client_setClient_same, own, ← fresh, ← sound]
    rfl
  · simp only [activity_modClient, activity_setClient, descriptorRead, activity_bump, activity_hostBytes]
  · simp only [modClient, setClient, descriptorRead, bump, addCtr, hostBytes, modAct]

/-- A descriptor of an old epoch is skipped; the last one of its item is answered with FLUSHED. -/
theorem takeDescriptor_flushes (active : (client s c).st = .active) (epoch : leAt d 3 1 ≠ (client s c).fepoch.toNat)
    (last : dLast d = true) :
    let k := client s c
    let u := takeDescriptor s c d
    (client u c).items = k.items ∧ (client u c).sqHead = k.sqHead + 1 ∧ ctr u (hifCtr 3) = ctr s (hifCtr 3) + 1 ∧
      ∃ r : Record, r.status = stFlushed ∧ r.tag = BitVec.ofNat 32 (dTag d) ∧ (Emit.record c r ∈ u.emitted ∨ r ∈ (client u c).spill) := by
  intro k u
  let r : Record := { status := stFlushed, op := dOp d, fep := BitVec.ofNat 8 (leAt d 3 1), tag := BitVec.ofNat 32 (dTag d),
                      detail := List.replicate 16 0, tick := s.tick }
  have own := client_descriptorRead s c
  have takes : u = postRecord (bump (descriptorRead s c) (hifCtr 3)) c r := by
    have old : leAt d 3 1 ≠ (client (descriptorRead s c) c).fepoch.toNat := by rw [own]; exact epoch
    simp only [u, takeDescriptor_eq, old, ne_eq, not_false_eq_true, if_true, last, r]
  have counted : client (bump (descriptorRead s c) (hifCtr 3)) c = client (descriptorRead s c) c := client_bump _ _
  have answered := Answered.postRecord (bump (descriptorRead s c) (hifCtr 3)) c r
  obtain ⟨items, -, -⟩ := keepsItems_postRecord (s := bump (descriptorRead s c) (hifCtr 3)) (c := c) r
  obtain ⟨phase, spilled, written⟩ := recorded_postRecord (s := bump (descriptorRead s c) (hifCtr 3)) (c := c) r
    (by rw [counted, own]; simp [writable, active])
  rw [← takes] at answered items written
  refine ⟨by rw [items, counted, own], ?_, ?_, { r with phase := phase, spilled := spilled }, rfl, rfl, written⟩
  · rw [answered.sqHead, counted, own]
  · rw [answered.counts _ (by decide) (by decide), ctr_bump_same]
    exact congrArg (· + 1) (ctr_bump_other _ _ _ (by decide))

end Fetch

/-! ## SPILL_DRAIN and F2H_DELIVER (R294, R324) -/

section Drain
variable {s : State} {c : BitVec 10}

/-- The interrupt leaves the spill ring and the tail of the host ring. -/
theorem testIrq_places (s : State) (c : BitVec 10) : (client (testIrq s c) c).spill = (client s c).spill ∧
    (client (testIrq s c) c).cqTail = (client s c).cqTail := by
  simp only [testIrq]
  split
  · simp only [client_addCtr, client_emit, client_setClient_same, and_self]
  · exact ⟨rfl, rfl⟩

theorem signalIrq_places (s : State) (c : BitVec 10) (now : Bool) : (client (signalIrq s c now) c).spill = (client s c).spill ∧
    (client (signalIrq s c now) c).cqTail = (client s c).cqTail := by
  obtain ⟨spill, tail⟩ := testIrq_places (setClient s c { client s c with
    unsig := (client s c).unsig + 1, unsigNow := (client s c).unsigNow || now,
    unsigAt := if (client s c).unsig = 0 then s.tick.toNat else (client s c).unsigAt }) c
  rw [client_setClient_same] at spill tail
  exact ⟨spill, tail⟩

/-- What `putRecord` makes of the client's positions: the record stands at the tail of the host ring. -/
theorem putRecord_places (s : State) (c : BitVec 10) (r : Record) :
    (client (putRecord s c r) c).spill = (client s c).spill ∧ (client (putRecord s c r) c).cqTail = (client s c).cqTail + 1 ∧
      Emit.record c { r with phase := phaseAt (cqSize s c) (client s c).cqTail.toNat } ∈ (putRecord s c r).emitted := by
  unfold putRecord
  extract_lets k r1 s1
  have moved : client (hostBytes (bump (emit s1 (.record c r1)) (hifCtr 2)) c 32) c = { k with cqTail := k.cqTail + 1 } := by
    simp only [client_hostBytes, client_bump, client_emit, s1, client_setClient_same]
  obtain ⟨spill, tail⟩ := signalIrq_places (hostBytes (bump (emit s1 (.record c r1)) (hifCtr 2)) c 32) c (r.irq || urgentOp r.op)
  exact ⟨by rw [spill, moved], by rw [tail, moved], testIrq_emitted List.mem_cons_self⟩

end Drain

section Delivered
variable {s : State} {c : BitVec 10}

/-- SPILL_DRAIN moves a single spilled record to the host ring, where it has room. -/
theorem spillDrained_one {r : Record} (held : (client s c).spill = [r]) (writes : writable (client s c) = true)
    (room : cqRoom s c = true) (bound : s.sec.tenancy ≠ .teardown) :
    let k := client s c
    let u := spillDrained s c
    (client u c).spill = [] ∧ (client u c).cqTail = k.cqTail + 1 ∧
      Emit.record c { r with phase := phaseAt (cqSize s c) k.cqTail.toNat } ∈ u.emitted ∧ onlyClient s u c := by
  intro k u
  let t := setClient s c { k with spill := [], spillAt := (k.spillAt + 1) % 2048 }
  let v := hubPm t c false (spillAddr c k.spillAt) 32
  have moved := hubPm_frame t c false (spillAddr c k.spillAt) 32
  have regs : v.regs = s.regs := (congrArg State.regs moved :)
  have sec : v.sec = s.sec := (congrArg State.sec moved :)
  have own : client v c = { k with spill := [], spillAt := (k.spillAt + 1) % 2048 } :=
    (client_hubPm ..).trans (client_setClient_same s c _)
  have size : cqSize v c = cqSize s c := by simp only [cqSize, regField, regWord, regs]
  have answered := Answered.putRecord v c r
  have drains : drainSpill s c k.spill.length = putRecord v c r := by
    show drainSpill s c (client s c).spill.length = _
    simp only [held, List.length_cons, List.length_nil, Nat.zero_add, drainSpill, writes, room, Bool.and_self, if_true]
    rfl
  have tenancy : (putRecord v c r).sec.tenancy ≠ .teardown := by
    rw [answered.sec, sec]; exact bound
  have ends : u = putRecord v c r := by
    simp only [u, spillDrained, show (client s c).spill.length = k.spill.length from rfl, drains, tenancy, false_and, if_false]
  obtain ⟨spill, tail, written⟩ := putRecord_places v c r
  rw [own] at spill tail written
  rw [ends]
  refine ⟨spill, tail, size ▸ written, fun j other => ?_⟩
  rw [answered.others j other, client_hubPm, client_setClient_other s c j _ other]

/-- F2H_DELIVER writes the oldest message of the outbox to the host, where the ring has room (R324). -/
theorem deliverF2h_delivers {m : Message} {rest : List Message} (queued : (client s c).outbox = m :: rest)
    (writes : writable (client s c) = true)
    (room : ((client s c).f2hTail - (client s c).f2hHead).toNat < f2hSize s c) :
    let k := client s c
    let u := deliverF2h s c
    (client u c).outbox = rest ∧ (client u c).f2hTail = k.f2hTail + 1 ∧ (client u c).f2hSeq = k.f2hSeq + 1 ∧
      ctr u (hifCtr 15) = ctr s (hifCtr 15) + 1 ∧ onlyClient s u c ∧
      Emit.f2h c m k.f2hSeq (phaseAt (f2hSize s c) k.f2hTail.toNat) ∈ u.emitted := by
  intro k u
  let t := setClient s c { k with outbox := rest, f2hTail := k.f2hTail + 1, f2hSeq := k.f2hSeq + 1 }
  let e := Emit.f2h c m k.f2hSeq (phaseAt (f2hSize s c) k.f2hTail.toNat)
  let v := hostBytes (bump (emit t e) (hifCtr 15)) c 256
  let w := if m.orphan then bump v (hifCtr 17) else v
  have delivers : u = signalIrq w c false := by
    simp only [u, deliverF2h, queued, writes, room, decide_true, Bool.and_self, if_true]
    rfl
  have answered := Answered.signalIrq w c false
  have clients (j : BitVec 10) : client w j = client t j := by simp only [w]; split <;> rfl
  have own : client w c = { k with outbox := rest, f2hTail := k.f2hTail + 1, f2hSeq := k.f2hSeq + 1 } :=
    (clients c).trans (client_setClient_same s c _)
  have count : ctr w (hifCtr 15) = ctr s (hifCtr 15) + 1 := by
    have first : ctr v (hifCtr 15) = ctr s (hifCtr 15) + 1 := ctr_bump_same (emit t e) _
    simp only [w]
    split
    · rw [ctr_bump_other _ _ _ (by decide), first]
    · exact first
  have sent : e ∈ w.emitted := by
    simp only [w]
    split <;> exact List.mem_cons_self
  rw [delivers]
  refine ⟨by rw [answered.outbox, own], by rw [answered.f2hTail, own], by rw [answered.f2hSeq, own],
    (answered.counts _ (by decide) (by decide)).trans count, fun j other => ?_, answered.emitted e sent⟩
  rw [answered.others j other, clients, client_setClient_other s c j _ other]

end Delivered

/-! ## ITEM_TIMEOUT (R322) -/

section Timeout
variable {s : State} {c : BitVec 10} {b : BitVec 12}

/-- Waiters whose items are gone are passed over: only the berth's list of waiters changes. -/
theorem serveWaiters_gone (gone : ∀ w ∈ (berth s b).waiters, findItem s w.client w.item = none) (direct : Bool) (n : Nat) :
    ∃ bs, serveWaiters s b direct n = { s with berths := bs } := by
  induction n generalizing s with
  | zero => exact ⟨_, rfl⟩
  | succ n ih =>
    simp only [serveWaiters]
    cases listed : (berth s b).waiters with
    | nil => exact ⟨_, rfl⟩
    | cons w rest =>
      have none : findItem (setBerth s b { berth s b with waiters := rest }) w.client w.item = .none :=
        gone w (by rw [listed]; exact List.mem_cons_self)
      simp only [none]
      obtain ⟨bs, served⟩ := ih (s := setBerth s b { berth s b with waiters := rest }) fun v later => by
        rw [berth_setBerth_same] at later
        exact gone v (by rw [listed]; exact List.mem_cons_of_mem _ later)
      exact ⟨bs, served⟩

theorem reserve_gone (gone : ∀ w ∈ (berth s b).waiters, findItem s w.client w.item = none) :
    ∃ bs, reserve s b = { s with berths := bs } := by
  unfold reserve
  split
  · exact ⟨_, rfl⟩
  · exact serveWaiters_gone gone false 9

/-- An item has been withdrawn as timed out, and what it waited for is counted; its record is not written yet. -/
def itemTimedOut (s : State) (c : BitVec 10) (i : Item) : State :=
  let s1 := bump (withdraw s c i) (hifCtr 12)
  if (berth s i.berth).waiters.contains ⟨c, i.seq⟩ then bump s1 (bthCtr 12) else s1

theorem itemTimedOut_frame (s : State) (c : BitVec 10) (i : Item) : (∃ r bs cs, itemTimedOut s c i = { s with rng := r, berths := bs, ctrs := cs }) ∧
    ctr (itemTimedOut s c i) (hifCtr 12) = ctr s (hifCtr 12) + 1 ∧ ctr (itemTimedOut s c i) (hifCtr 1) = ctr s (hifCtr 1) ∧
    ∀ j, berth (itemTimedOut s c i) j = berth (withdraw s c i) j := by
  obtain ⟨r, bs, withdrawn⟩ := withdraw_frame s c i
  have kept (k : Nat) : ctr (withdraw s c i) k = ctr s k := by rw [withdrawn]; rfl
  unfold itemTimedOut
  extract_lets t
  have count : ctr t (hifCtr 12) = ctr s (hifCtr 12) + 1 := by rw [ctr_bump_same, kept]
  have done : ctr t (hifCtr 1) = ctr s (hifCtr 1) := by rw [ctr_bump_other _ _ _ (by decide), kept]
  have frame : t = { s with rng := r, berths := bs, ctrs := t.ctrs } := by simp only [t, withdrawn, bump, addCtr]
  split
  · refine ⟨⟨r, bs, (bump t (bthCtr 12)).ctrs, ?_⟩, by rw [ctr_bump_other _ _ _ (by decide), count],
      by rw [ctr_bump_other _ _ _ (by decide), done], fun j => by rw [berth_bump, berth_bump]⟩
    rw [frame]
    simp only [bump, addCtr]
  · exact ⟨⟨r, bs, t.ctrs, frame⟩, count, done, fun j => by rw [berth_bump]⟩

/-- An item that waits, on whose berth nothing else waits, completes with TIMEOUT when its time has passed. -/
theorem itemExpired_times {ix : Nat} {i : Item} (found : findItem s c ix = some i) (timed : i.tmo ≠ 0) (begun : i.begun = false)
    (held : i.held = true) (writes : writable (client s c) = true) (alone : ∀ w ∈ (berth s i.berth).waiters, w = ⟨c, i.seq⟩) :
    let u := itemExpired s c ix false
    ctr u (hifCtr 12) = ctr s (hifCtr 12) + 1 ∧ keptMemories s u ∧
      completed s u c i stTimeout (if namesBerth i.op then berthDetail i.berth else []) := by
  intro u
  generalize detail : (if namesBerth i.op then berthDetail i.berth else []) = d
  obtain ⟨⟨r, bs, cs, frame⟩, count, done, berths⟩ := itemTimedOut_frame s c i
  let t := completeItem (itemTimedOut s c i) c i stTimeout d
  have answered : Answered (itemTimedOut s c i) t c := .completeItem ..
  have waiters : ∀ w ∈ (berth t i.berth).waiters, findItem t w.client w.item = none := fun w listed => by
    have same : berth t i.berth = berth (itemTimedOut s c i) i.berth := berth_of_frameItem (completeItem_frame ..) _
    rw [same, berths] at listed
    rw [alone w (withdraw_waiters s c i i.berth w listed)]
    exact findItem_completeItem_self i _ _
  obtain ⟨bs', reserved⟩ := reserve_gone waiters
  have expires : u = { t with berths := bs' } := by
    rw [← reserved]
    simp only [u, itemExpired, found, timed, if_false, begun, held, Bool.false_eq_true, false_or, Bool.not_true, detail]
    rfl
  have complete : completed s t c i stTimeout d :=
    completed_after (by rw [frame]) done (by rw [frame]) writes stTimeout d
  clear_value t
  rw [expires]
  refine ⟨?_, ?_, completed_before complete rfl rfl rfl⟩
  · have same : ctr { t with berths := bs' } (hifCtr 12) = ctr t (hifCtr 12) := by simp only [ctr]
    rw [same, answered.counts _ (by decide) (by decide), count]
  · refine keptMemories_trans (t := itemTimedOut s c i) ?_ answered.memories
    rw [frame]
    exact keptMemories_refl

end Timeout

/-! ## HOST_READ_COMPLETION (R265, R305) -/

section HostRead
variable {s u : State} {c : BitVec 10}

theorem Answered.anySt (h : Answered s u c) (k : BitVec 10) : (client u k).st = (client s k).st := by
  by_cases own : k = c
  · subst own; exact h.st
  · rw [h.others k own]

/-- No answer to a waiter moves a client's state. -/
theorem abandonLock_st (s : State) (b : BitVec 12) (k : BitVec 10) : (client (abandonLock s b) k).st = (client s k).st := by
  rw [abandonLock_eq]
  refine List.foldlRecOn (motive := fun t => (client t k).st = (client s k).st) _ _ rfl fun t kept w _ => ?_
  unfold abandonWaiter
  split
  · exact ((Answered.completeItem ..).anySt k).trans kept
  · exact kept

/-- A berth whose lock is abandoned stays so when others are abandoned. -/
theorem abandonLock_stays {b : BitVec 12} (abandoned : (berth s b).st = .abandoned) (d : BitVec 12) :
    (berth (abandonLock s d) b).st = .abandoned := by
  obtain ⟨only, -, own, -, -⟩ := abandonLock_abandons s d
  by_cases same : b = d
  · rw [same, own]; rfl
  · rw [only b same, abandoned]

/-- Every listed berth is ABANDONED when all have been taken, and no client's state has moved. -/
theorem abandonLocks_abandon (l : List (Nat × Berth)) (s : State) :
    let u := l.foldl (fun s e => abandonLock s (BitVec.ofNat 12 e.1)) s
    (∀ k, (client u k).st = (client s k).st) ∧ (∀ b, (berth s b).st = .abandoned → (berth u b).st = .abandoned) ∧
      ∀ e ∈ l, (berth u (BitVec.ofNat 12 e.1)).st = .abandoned := by
  induction l generalizing s with
  | nil => exact ⟨fun _ => rfl, fun _ h => h, fun e listed => absurd listed List.not_mem_nil⟩
  | cons e l ih =>
    obtain ⟨st, stays, all⟩ := ih (abandonLock s (BitVec.ofNat 12 e.1))
    refine ⟨fun k => (st k).trans (abandonLock_st s _ k), fun b abandoned => stays b (abandonLock_stays abandoned _), fun f listed => ?_⟩
    rcases List.mem_cons.1 listed with rfl | later
    · obtain ⟨-, -, own, -, -⟩ := abandonLock_abandons s (BitVec.ofNat 12 f.1)
      exact stays _ (by rw [own]; rfl)
    · exact all f later

/-- A berth that differs from a free entry is listed. -/
theorem berth_listed {b : BitVec 12} (held : (berth s b).st ≠ .free) : (b.toNat, berth s b) ∈ s.berths := by
  cases found : tabFind s.berths b.toNat with
  | none => exact absurd (by simp [berth, tabGet, found]) held
  | some e => simpa [berth, tabGet, found] using mem_of_tabFind found

/-- The client's context is HALTED and the error is counted; its locks have not been abandoned yet. -/
def fetchFailed (s : State) (c : BitVec 10) : State := modClient (bump s (hifCtr 11)) c (fun k => { k with st := .halted })

theorem exec_fetchError (present : s.lost.lost = false) (active : (client s c).st = .active) :
    exec (.hostReadCompletion c none none) s = .next (abandonOwned (fetchFailed s c) c) := by
  have still : (client (bump s (hifCtr 11)) c).st = .active := active
  show Host.Outcome.next (if s.lost.lost then s else readError s c none) = _
  simp only [present, Bool.false_eq_true, if_false, readError, still, if_true, fetchFailed]

theorem abandonOwned_abandons {b : BitVec 12} (locked : (berth s b).st = .locked) (owns : (berth s b).lkOwner = c) :
    (berth (abandonOwned s c) b).st = .abandoned := by
  obtain ⟨-, -, all⟩ := abandonLocks_abandon ((heldBerths s).filter (fun e => decide (e.2.st = .locked ∧ e.2.lkOwner = c))) s
  have listed := berth_listed (s := s) (b := b) (by rw [locked]; decide)
  have chosen : (b.toNat, berth s b) ∈ (heldBerths s).filter (fun e => decide (e.2.st = .locked ∧ e.2.lkOwner = c)) :=
    List.mem_filter.2 ⟨List.mem_filter.2 ⟨listed, by simp [locked]⟩, by simp [locked, owns]⟩
  simpa only [abandonOwned, BitVec.ofNat_toNat, BitVec.setWidth_eq] using all _ chosen

theorem abandonOwned_none (none : ∀ e ∈ s.berths, e.2.st = .locked → e.2.lkOwner ≠ c) : abandonOwned s c = s := by
  have empty : (heldBerths s).filter (fun e => decide (e.2.st = .locked ∧ e.2.lkOwner = c)) = [] :=
    List.filter_eq_nil_iff.2 fun e listed => by simpa using none e (List.mem_of_mem_filter listed)
  rw [abandonOwned, empty, List.foldl_nil]

/-- The bytes read for a WRITE_STATE of a window in the store land there, and the item completes. -/
theorem readData_writes {q : Nat} {i : Item} {bs : List (BitVec 8)} (found : findItem s c q = some i) (begun : i.begun = true)
    (whole : i.aux = 0) (op : i.op = 0x0D) (locked : (berth s i.berth).st = .locked) (owns : (berth s i.berth).lkOwner = c)
    (range : stRange s (berth s i.berth) i = true) (window : stSec i = 2) (inStore : inSwap (berth s i.berth) = false) :
    readData s c q bs = completeItem (hostBytes (storePut s (lcluOf (berth s i.berth).lthread) ((berth s i.berth).winBase + stOff i) bs)
      c bs.length) c i stOk (stDetail i) := by
  have writes : secWrite s c (berth s i.berth) 2 (stOff i) bs =
      some (storePut s (lcluOf (berth s i.berth).lthread) ((berth s i.berth).winBase + stOff i) bs) := by
    simp [secWrite, secAt, inStore]
  simp only [readData, found, begun, whole, op, writeStateData, locked, owns, range, window, writes, Bool.not_true, Bool.false_eq_true,
    ne_eq, not_true_eq_false, or_self, if_false, and_self, if_true]

end HostRead

/-- Settles O35, a clause for each row. -/
theorem ringsAndItems : Obligations.RingsAndItems := by
  unfold Obligations.RingsAndItems
  intro s c k
  refine ⟨fun d may epoch fresh sound first last opFirst opLast parts header => ?_, fun d may epoch last => ?_,
    fun r held writes room bound => ?_, fun m rest queued writes room => ?_, fun i ix found timed => ⟨fun op => ?_, ?_⟩,
    fun present => ⟨fun active => ?_, ?_⟩⟩
  · exact ⟨_, exec_descriptorFetch_one may, takeDescriptor_joins epoch fresh sound first last ⟨opFirst, opLast⟩ parts header⟩
  · have active : (client s c).st = .active := by
      simp only [mayFetch, Bool.and_eq_true, decide_eq_true_eq] at may
      exact may.1.1.1
    obtain ⟨items, head, count, r, status, tag, written⟩ := takeDescriptor_flushes active epoch last
    exact ⟨_, r, exec_descriptorFetch_one may, items, head, count, status, tag, written⟩
  · exact ⟨_, rfl, spillDrained_one held writes room bound⟩
  · exact ⟨_, rfl, deliverF2h_delivers queued writes room⟩
  · have met : itemExpired s c ix true = bump s (hifCtr 13) := by
      simp only [itemExpired, found, timed, if_false, if_true, op]
    exact ⟨_, congrArg Host.Outcome.next met, fun j => ctr_bump s _ j, rfl⟩
  · intro begun held writes alone
    exact ⟨_, rfl, itemExpired_times found timed begun held writes alone⟩
  · have own : client (fetchFailed s c) c = { k with st := .halted } := client_modClient_same (bump s (hifCtr 11)) c _
    obtain ⟨st, -, -⟩ := abandonLocks_abandon ((heldBerths (fetchFailed s c)).filter
      (fun e => decide (e.2.st = .locked ∧ e.2.lkOwner = c))) (fetchFailed s c)
    refine ⟨_, exec_fetchError present active, (st c).trans (by rw [own]), fun b locked owns => ?_, fun none => ?_⟩
    · exact abandonOwned_abandons (s := fetchFailed s c) locked owns
    · rw [abandonOwned_none (s := fetchFailed s c) none]
      exact ⟨own, fun j other => client_modClient_other (bump s (hifCtr 11)) c j _ other, fun j => ctr_bump s _ j⟩
  · intro i q bs found begun whole op e locked owns range window inStore writes
    have runs : exec (.hostReadCompletion c (some q) (some bs)) s = .next (readData s c q bs) := by
      show Host.Outcome.next (if s.lost.lost then s else readData s c q bs) = _
      rw [present]; rfl
    rw [readData_writes found begun whole op locked owns range window inStore] at runs
    have stored (a : Nat) : completed s (completeItem (hostBytes (storePut s (lcluOf e.lthread) a bs) c bs.length) c i stOk (stDetail i))
        c i stOk (stDetail i) :=
      completed_after (by rw [hostBytes_clients, storePut_clients]) (by rw [ctr_hostBytes]; simp only [ctr, storePut_ctrs])
        (by rw [hostBytes_tick, storePut_tick]) writes _ _
    refine ⟨_, runs, stored _, ?_, ?_, ?_⟩
    · rw [(keptMemories_of_frameItem (completeItem_frame ..)).1, hostBytes_store, storePut_store]
    · exact fun a out => ((completeItem_frame ..).2 a out).trans (by rw [hostBytes_pm, storePut_pm])
    · rw [berths_of_frameItem (completeItem_frame ..), hostBytes_berths, storePut_berths]

theorem client_of_clients {s t : State} (clients : t.clients = s.clients) (k : BitVec 10) : client t k = client s k := by
  rw [client, clients, client]

@[simp] theorem flagOn_bump (s : State) (n : Nat) (f : Flag) : flagOn (bump s n) f = flagOn s f := rfl

/-! ## Host writes of a register (R445, R447, R449) -/

section HostWrite
variable {s t : State} {off : Nat} {w : BitVec 32}

/-- The registers that hold debug levels in force: `tap_en`, the trace control and the traces of each cluster (R503). -/
def levelReg (o : Nat) : Prop := o = rngOff + 0x10 ∨ o = dbgOff + 4 ∨ ∃ n, n < 18 ∧ o = cluOff n + 4

/-- The levels in force are read from `levels` and from the registers that hold them. -/
theorem levelsNow_congr (levels : t.sec.levels = s.sec.levels) (words : ∀ o, levelReg o → regWord t o = regWord s o) :
    levelsNow t = levelsNow s := by
  have field {o : Nat} (level : levelReg o) (hi lo : Nat) : decide (regField t o hi lo = 1) = decide (regField s o hi lo = 1) := by
    rw [regField, words o level, regField]
  have tap := field (.inl rfl) 0 0
  have traced (bit : Nat) := field (.inr (.inl rfl)) bit bit
  have on : trcOn t = trcOn s := traced 0
  have data : trcData t = trcData s := traced 1
  have profiled : (upTo 18).any (fun n => cluTrc t n 0 || cluTrc t n 1 || cluTrc t n 2) =
      (upTo 18).any (fun n => cluTrc s n 0 || cluTrc s n 1 || cluTrc s n 2) := by
    rw [Bool.eq_iff_iff, List.any_eq_true, List.any_eq_true]
    refine exists_congr fun n => and_congr_right fun inRange => ?_
    have clu (bit : Nat) : cluTrc t n bit = cluTrc s n bit := field (.inr (.inr ⟨n, List.mem_range.1 inRange, rfl⟩)) bit bit
    rw [clu, clu, clu]
  simp only [levelsNow, tap, on, data, profiled, levels]

theorem hostWord_moved (live : alive s = true) (applied : applyWord s false none off w = .done t) :
    hostWord s off w = levelsMoved s t := by
  simp only [hostWord, hostWordWith, live, applied, Bool.not_true, Bool.false_eq_true, if_false]

/-- A write that leaves the levels in force does what its register does and no more. -/
theorem hostWord_done (live : alive s = true) (applied : applyWord s false none off w = .done t)
    (levels : levelsNow t = levelsNow s) : hostWord s off w = t := by
  rw [hostWord_moved live applied, levelsMoved, if_pos levels]

/-- An ignored write sets its block's `wign` (R449). -/
theorem hostWord_ignored (live : alive s = true) (applied : applyWord s false none off w = .ignored t) :
    hostWord s off w = setFlag t (wignOf off) := by
  simp only [hostWord, hostWordWith, live, applied, Bool.not_true, Bool.false_eq_true, if_false]

theorem regWord_setFlag (s : State) (f : Flag) {o : Nat} (other : o ≠ f.off) : regWord (setFlag s f) o = regWord s o := by
  rw [regWord, setFlag_regs, tabMod, tabGet_set_other _ _ _ _ _ _ other, ← regWord]

@[simp] theorem regWord_putNat_same (s : State) (o v : Nat) : regWord (putNat s o v) o = BitVec.ofNat 32 v := regWord_setRegWord_same ..
@[simp] theorem regWord_putNat_other (s : State) (o v : Nat) {p : Nat} (other : p ≠ o) : regWord (putNat s o v) p = regWord s p :=
  regWord_setRegWord_other s o p _ other

theorem regWord_of_regs (regs : t.regs = s.regs) (o : Nat) : regWord t o = regWord s o := by rw [regWord, regs, regWord]

end HostWrite

/-! ## The control word of a client (R308, R462) -/

section ClientCtl
variable {s : State} {c : BitVec 10}

/-- A register of a client's context lies in the block of the host interface. -/
theorem hifC_place (c : BitVec 10) {o : Nat} (inContext : o < 0x30) : hifC c o / 0x10000 = 3 ∧
    hifC c o % 0x10000 = 0x4000 + (0x30 * c.toNat + o) ∧ (0x30 * c.toNat + o) / 0x30 = c.toNat ∧ (0x30 * c.toNat + o) % 0x30 = o := by
  have range := c.isLt
  simp only [hifC, hifOff]
  omega

/-- No register of the clients' contexts holds a debug level. -/
theorem not_levelReg_hifC {o : Nat} (inContext : o < 0x30) : ¬ levelReg (hifC c o) := by
  have range := c.isLt
  rintro (h | h | ⟨n, below, h⟩) <;> simp only [hifC, hifOff, rngOff, dbgOff, cluOff] at h <;> omega

theorem applyWord_clientCtl (ready : s.clk.ready = true) (w : BitVec 32) :
    applyWord s false none (hifC c 0x28) w = writeClientCtl s c w.toNat := by
  obtain ⟨block, place, index, field⟩ := hifC_place c (o := 0x28) (by decide)
  simp [applyWord, ready, block, place, writeHif, index, field, writeCtx]

/-- Writing bit 16 keeps the low half of the word, which holds the CFG field. -/
theorem withField_en (w : BitVec 32) (v : Nat) (bit : v < 2) : bitsOf (withField w 16 16 v).toNat 16 16 = v ∧
    (withField w 16 16 v).toNat % 2 ^ 16 = w.toNat % 2 ^ 16 := by
  have range := w.isLt
  simp only [withField, putBits, bitsOf, BitVec.toNat_ofNat]
  omega

theorem and_ffff (x : BitVec 32) : (x &&& 0xFFFF#32).toNat = x.toNat % 2 ^ 16 := by
  rw [BitVec.toNat_and, show (0xFFFF#32).toNat = 2 ^ 16 - 1 from rfl, Nat.and_two_pow_sub_one_eq_mod]

/-- The enable bit is no CFG field: its write is never ignored for one (R448). -/
theorem cfgWrite_en (v : Nat) (bit : v < 2) (enabled : Bool) (run : Wrote) :
    cfgWrite s (hifC c 0x28) (withField (regWord s (hifC c 0x28)) 16 16 v).toNat 0xFFFF enabled run = run := by
  have same : regWord s (hifC c 0x28) &&& BitVec.ofNat 32 0xFFFF =
      BitVec.ofNat 32 (withField (regWord s (hifC c 0x28)) 16 16 v).toNat &&& BitVec.ofNat 32 0xFFFF := by
    apply BitVec.eq_of_toNat_eq
    rw [BitVec.ofNat_toNat, BitVec.setWidth_eq]
    exact (and_ffff _).trans ((withField_en _ v bit).2.symm.trans (and_ffff _).symm)
  simp only [cfgWrite, same, ne_eq, not_true_eq_false, decide_false, Bool.and_false, Bool.false_eq_true, if_false]

/-- The control word with `en` written as `v`. -/
def enWord (s : State) (c : BitVec 10) (v : Nat) : Nat := (withField (regWord s (hifC c 0x28)) 16 16 v).toNat

/-- The control word has been stored. -/
def enStored (s : State) (c : BitVec 10) (v : Nat) : State := putNat s (hifC c 0x28) (enWord s c v % 2 ^ 17)

@[simp] theorem enStored_clients (v : Nat) : (enStored s c v).clients = s.clients := by rw [enStored, putNat, setRegWord_clients]
@[simp] theorem client_enStored (v : Nat) (j : BitVec 10) : client (enStored s c v) j = client s j :=
  client_of_clients (enStored_clients v) j
@[simp] theorem enStored_sec (v : Nat) : (enStored s c v).sec = s.sec := by rw [enStored, putNat, setRegWord_sec]
@[simp] theorem enStored_berths (v : Nat) : (enStored s c v).berths = s.berths := by rw [enStored, putNat, setRegWord_berths]
theorem sameMemories_enStored (v : Nat) : sameMemories s (enStored s c v) := by
  rw [enStored, putNat]
  exact ⟨setRegWord_store .., setRegWord_pm .., setRegWord_ret ..⟩

theorem applyWord_en (ready : s.clk.ready = true) {v : Nat} (bit : v < 2) :
    applyWord s false none (hifC c 0x28) (withField (regWord s (hifC c 0x28)) 16 16 v) =
      if v = 1 ∧ s.sec.tenancy ≠ .bound then .ignored (setFlag s (fCfgBad c))
      else .done (if v = 1 then enableClient (enStored s c v) c else resetClient (enStored s c v) c) := by
  have field := (withField_en (regWord s (hifC c 0x28)) v bit).1
  rw [applyWord_clientCtl ready, writeClientCtl, cfgWrite_en v bit]
  simp only [field]
  rfl

theorem regField_enStored : regField (enStored s c 1) (hifC c 0x28) 16 16 = 1 := by
  have field := (withField_en (regWord s (hifC c 0x28)) 1 (by decide)).1
  simp only [enStored, regField, regWord_putNat_same, bitsOf, enWord, BitVec.toNat_ofNat] at field ⊢
  omega

theorem ringBase_enStored {o : Nat} (low : o + 4 < 0x28) (v : Nat) : ringBase (enStored s c v) c o = ringBase s c o := by
  simp only [ringBase, enStored]
  rw [regWord_putNat_other _ _ _ (by simp only [hifC]; omega), regWord_putNat_other _ _ _ (by simp only [hifC]; omega)]

theorem levelsNow_enStored (v : Nat) : levelsNow (enStored s c v) = levelsNow s :=
  levelsNow_congr (by rw [enStored_sec]) fun _ level => regWord_putNat_other _ _ _ fun same => not_levelReg_hifC (by decide) (same ▸ level)

end ClientCtl

/-! ## CLIENT_ENABLE (R259, R308) -/

section Enable
variable {s : State} {c : BitVec 10}

/-- The context of a client that has just been enabled. -/
def enabledClient (k : Client) : Client :=
  { st := .active, fepoch := k.fepoch, cepoch := k.cepoch, itemSeq := k.itemSeq, orph := k.orph, outbox := k.outbox }

theorem ringBases_enStored (v : Nat) : [0, 8, 0x10, 0x18].any (fun o => decide (ringBase (enStored s c v) c o = 0)) =
    [0, 8, 0x10, 0x18].any (fun o => decide (ringBase s c o = 0)) := by
  simp only [List.any_cons, List.any_nil, ringBase_enStored (show 0 + 4 < 0x28 by decide), ringBase_enStored (show 8 + 4 < 0x28 by decide),
    ringBase_enStored (show 0x10 + 4 < 0x28 by decide), ringBase_enStored (show 0x18 + 4 < 0x28 by decide)]

theorem exec_clientEnable_bound (live : alive s = true) (ready : s.clk.ready = true) (bound : s.sec.tenancy = .bound) :
    exec (.clientEnable c) s = .next (levelsMoved s (enableClient (enStored s c 1) c)) := by
  have applied := applyWord_en (s := s) (c := c) ready (v := 1) (by decide)
  rw [if_neg (fun h => h.2 bound), if_pos rfl] at applied
  exact congrArg Host.Outcome.next (hostWord_moved live applied)

/-- A DISABLED client of a BOUND device with every ring base set becomes ACTIVE, its account cleared. -/
theorem enableClient_enables (off : (client s c).st = .disabled) (bound : s.sec.tenancy = .bound)
    (bases : [0, 8, 0x10, 0x18].any (fun o => decide (ringBase s c o = 0)) = false) :
    let u := enableClient s c
    client u c = enabledClient (client s c) ∧ onlyClient s u c ∧ sameMemories s u ∧ u.sec = s.sec ∧ u.regs = s.regs := by
  intro u
  have enables : u = setAcct { setClient s c (enabledClient (client s c)) with act := tabErase s.act c.toNat } c {} := by
    simp only [u, enableClient, off, ne_eq, not_true_eq_false, bound, bases, Bool.false_eq_true, or_self, if_false]
    rfl
  have clients : u.clients = (setClient s c (enabledClient (client s c))).clients := by rw [enables]; rfl
  refine ⟨?_, fun k other => ?_, by rw [enables]; exact ⟨rfl, rfl, rfl⟩, by rw [enables]; rfl, by rw [enables]; rfl⟩
  · rw [client_of_clients clients, client_setClient_same]
  · rw [client_of_clients clients, client_setClient_other s c k _ other]

theorem enableClient_refuses (off : (client s c).st = .disabled)
    (bases : [0, 8, 0x10, 0x18].any (fun o => decide (ringBase s c o = 0)) = true) : enableClient s c = setFlag s (fCfgBad c) := by
  simp only [enableClient, off, ne_eq, not_true_eq_false, bases, or_true, if_true, if_false]

/-- What a change of levels leaves beside the view, the log and the counters. -/
theorem levelsMoved_kept (s t : State) : (levelsMoved s t).clients = t.clients ∧ (levelsMoved s t).regs = t.regs ∧
    (levelsMoved s t).aud = t.aud ∧ (levelsMoved s t).emitted = t.emitted := by
  unfold levelsMoved
  split <;> exact ⟨rfl, rfl, rfl, rfl⟩

theorem sameMemories.trans {s t u : State} (first : sameMemories s t) (second : sameMemories t u) : sameMemories s u :=
  ⟨second.1.trans first.1, second.2.1.trans first.2.1, second.2.2.trans first.2.2⟩

/-- CLIENT_ENABLE with every ring base set. -/
theorem exec_clientEnable_enables (live : alive s = true) (ready : s.clk.ready = true) (off : (client s c).st = .disabled)
    (bound : s.sec.tenancy = .bound) (bases : [0, 8, 0x10, 0x18].any (fun o => decide (ringBase s c o = 0)) = false) :
    ∃ u, exec (.clientEnable c) s = .next u ∧ onlyClient s u c ∧ sameMemories s u ∧ client u c = enabledClient (client s c) ∧
      regField u (hifC c 0x28) 16 16 = 1 := by
  have own := client_enStored (s := s) (c := c) 1
  obtain ⟨enabled, others, memories, sec, regs⟩ := enableClient_enables (s := enStored s c 1) (c := c) (by rw [own]; exact off)
    (by rw [enStored_sec]; exact bound) (by rw [ringBases_enStored]; exact bases)
  have levels : levelsNow (enableClient (enStored s c 1) c) = levelsNow s :=
    (levelsNow_congr (by rw [sec]) fun o _ => regWord_of_regs regs o).trans (levelsNow_enStored 1)
  have runs := exec_clientEnable_bound (c := c) live ready bound
  rw [levelsMoved, if_pos levels] at runs
  refine ⟨_, runs, fun j other => (others j other).trans (client_enStored 1 j), (sameMemories_enStored 1).trans memories,
    by rw [enabled, own], ?_⟩
  rw [regField, regWord_of_regs regs, ← regField, regField_enStored]

/-- CLIENT_ENABLE with a ring base of 0. -/
theorem exec_clientEnable_refuses (live : alive s = true) (ready : s.clk.ready = true) (off : (client s c).st = .disabled)
    (bound : s.sec.tenancy = .bound) (bases : [0, 8, 0x10, 0x18].any (fun o => decide (ringBase s c o = 0)) = true) :
    ∃ u, exec (.clientEnable c) s = .next u ∧ flagOn u (fCfgBad c) = true ∧ u.clients = s.clients := by
  have refuses := enableClient_refuses (s := enStored s c 1) (c := c) (by rw [client_enStored]; exact off)
    (by rw [ringBases_enStored]; exact bases)
  obtain ⟨clients, regs, -, -⟩ := levelsMoved_kept s (enableClient (enStored s c 1) c)
  refine ⟨_, exec_clientEnable_bound live ready bound, ?_, ?_⟩
  · rw [flagOn, regs, refuses, ← flagOn, flagOn_setFlag_same _ (fCfgBad c) (by decide : 3 < 32)]
  · rw [clients, refuses, setFlag_clients, enStored_clients]

/-- CLIENT_ENABLE on a device that is not BOUND. -/
theorem exec_clientEnable_unbound (live : alive s = true) (ready : s.clk.ready = true) (unbound : s.sec.tenancy ≠ .bound) :
    exec (.clientEnable c) s = .next (setFlag (setFlag s (fCfgBad c)) fHifWign) := by
  have applied := applyWord_en (s := s) (c := c) ready (v := 1) (by decide)
  rw [if_pos ⟨rfl, unbound⟩] at applied
  have wign : wignOf (hifC c 0x28) = fHifWign := by simp [wignOf, (hifC_place c (o := 0x28) (by decide)).1]
  exact congrArg Host.Outcome.next (wign ▸ hostWord_ignored live applied)

end Enable

/-! ## CLIENT_RESET (R323) -/

section Reset
variable {s : State} {c : BitVec 10}

/-- The context of a client in reset: its unbegun items, its spilled records and its outbox are gone. -/
def resettingClient (k : Client) : Client :=
  { k with
    st := .resetting, asm := [], asmBad := none, items := k.items.filter (fun i => i.begun), spill := [], outbox := [],
    h2fHead := k.h2fTail, orph := k.orph ++ List.replicate (k.h2fTail - k.h2fHead).toNat k.cepoch, resetBoundary := true }

/-- No waiter has come to any berth. -/
def fewerWaiters (s u : State) : Prop := ∀ b, (berth s b).waiters = [] → (berth u b).waiters = []

/-- Items of berths that nothing waits on are dropped: only the generators' queues and the berths change. -/
theorem dropItems_frame (l : List Item) (s : State) (unwaited : ∀ i ∈ l, (berth s i.berth).waiters = []) :
    (∃ r bs, l.foldl (fun s i => dropItem s c i) s = { s with rng := r, berths := bs }) ∧
      fewerWaiters s (l.foldl (fun s i => dropItem s c i) s) := by
  induction l generalizing s with
  | nil => exact ⟨⟨s.rng, s.berths, rfl⟩, fun _ h => h⟩
  | cons i l ih =>
    obtain ⟨r, bs, withdrawn⟩ := withdraw_frame s c i
    have first : dropItem s c i = withdraw s c i := dropItem_unwaited (unwaited i List.mem_cons_self) c
    have kept (b : BitVec 12) (none : (berth s b).waiters = []) : (berth (withdraw s c i) b).waiters = [] := withdraw_unwaited none c i
    rw [List.foldl_cons, first]
    obtain ⟨⟨r', bs', rest⟩, fewer⟩ := ih (withdraw s c i) fun j later => kept _ (unwaited j (List.mem_cons_of_mem _ later))
    refine ⟨⟨r', bs', ?_⟩, fun b none => fewer b (kept b none)⟩
    rw [rest, withdrawn]

/-- Steps 1 to 3 of the reset of a client none of whose waiting items names a berth that others wait on. -/
theorem resetClient_resets (on : (client s c).st ≠ .disabled) (notYet : (client s c).st ≠ .resetting) (unwaited : noWaiters s c) :
    (∃ r bs cs, resetClient s c = { setClient s c (resettingClient (client s c)) with rng := r, berths := bs, ctrs := cs }) ∧
      fewerWaiters s (resetClient s c) := by
  have resets : resetClient s c = addCtr (((client s c).items.filter (fun i => !i.begun)).foldl (fun s i => dropItem s c i)
      (setClient s c (resettingClient (client s c)))) (hifCtr 16) (client s c).outbox.length := by
    simp only [resetClient, on, notYet, or_self, if_false]
    rfl
  obtain ⟨⟨r, bs, dropped⟩, fewer⟩ := dropItems_frame (c := c) ((client s c).items.filter (fun i => !i.begun))
    (setClient s c (resettingClient (client s c))) fun i listed => by
      obtain ⟨inItems, unbegun⟩ := List.mem_filter.1 listed
      exact unwaited i inItems (by simpa using unbegun)
  rw [resets]
  refine ⟨⟨r, bs, (addCtr s (hifCtr 16) (client s c).outbox.length).ctrs, ?_⟩, fewer⟩
  rw [dropped]
  simp only [addCtr, setClient_ctrs]

/-- The reset of one client changes that client alone, and no memory. -/
theorem resetClient_client (on : (client s c).st ≠ .disabled) (notYet : (client s c).st ≠ .resetting) (unwaited : noWaiters s c) :
    client (resetClient s c) c = resettingClient (client s c) ∧ onlyClient s (resetClient s c) c ∧
      sameMemories s (resetClient s c) ∧ (resetClient s c).sec = s.sec ∧ (resetClient s c).host = s.host ∧
      (resetClient s c).regs = s.regs := by
  obtain ⟨⟨r, bs, cs, resets⟩, -⟩ := resetClient_resets on notYet unwaited
  have clients : (resetClient s c).clients = (setClient s c (resettingClient (client s c))).clients := by rw [resets]
  refine ⟨?_, fun k other => ?_, ?_, by rw [resets]; rfl, by rw [resets]; rfl, by rw [resets]; rfl⟩
  · rw [client_of_clients clients, client_setClient_same]
  · rw [client_of_clients clients, client_setClient_other s c k _ other]
  · rw [resets]
    exact ⟨rfl, rfl, rfl⟩

/-- CLIENT_RESET of an ACTIVE client. -/
theorem exec_clientReset (live : alive s = true) (ready : s.clk.ready = true) (active : (client s c).st = .active)
    (unwaited : noWaiters s c) : ∃ u, exec (.clientReset c) s = .next u ∧ client u c = resettingClient (client s c) ∧
      onlyClient s u c ∧ sameMemories s u := by
  have applied := applyWord_en (s := s) (c := c) ready (v := 0) (by decide)
  rw [if_neg (by simp), if_neg (by decide)] at applied
  have own := client_enStored (s := s) (c := c) 0
  obtain ⟨reset, others, memories, sec, -, regs⟩ := resetClient_client (s := enStored s c 0) (c := c) (by rw [own, active]; decide)
    (by rw [own, active]; decide) (by simpa only [noWaiters, own, berth, enStored_berths] using unwaited)
  have levels : levelsNow (resetClient (enStored s c 0) c) = levelsNow s :=
    (levelsNow_congr (by rw [sec]) fun o _ => regWord_of_regs regs o).trans (levelsNow_enStored 0)
  exact ⟨_, congrArg Host.Outcome.next (hostWord_done live applied levels), by rw [reset, own],
    fun j other => (others j other).trans (client_enStored 0 j), (sameMemories_enStored 0).trans memories⟩

/-- A client that is DISABLED or in reset already takes no reset. -/
theorem resetClient_idle (idle : (client s c).st = .disabled ∨ (client s c).st = .resetting) : resetClient s c = s := by
  simp only [resetClient, idle, if_true]

/-- Clients have been reset or left alone; nothing waits on the berths of their items. -/
structure OnlyResets (s u : State) : Prop where
  memories : sameMemories s u
  sec : u.sec = s.sec
  host : u.host = s.host
  unwaited : ∀ j, noWaiters u j
  st : ∀ j, (client u j).st = (client s j).st ∨ (client u j).st = .resetting

theorem onlyResets_resetClient (unwaited : ∀ j, noWaiters s j) (c : BitVec 10) : OnlyResets s (resetClient s c) ∧
    ((client s c).st ≠ .disabled → (client (resetClient s c) c).st = .resetting) := by
  by_cases idle : (client s c).st = .disabled ∨ (client s c).st = .resetting
  · rw [resetClient_idle idle]
    exact ⟨⟨⟨rfl, rfl, rfl⟩, rfl, rfl, unwaited, fun _ => .inl rfl⟩, fun on => idle.resolve_left on⟩
  · obtain ⟨on, notYet⟩ := not_or.1 idle
    obtain ⟨own, others, memories, sec, host, -⟩ := resetClient_client on notYet (unwaited c)
    obtain ⟨-, fewer⟩ := resetClient_resets on notYet (unwaited c)
    refine ⟨⟨memories, sec, host, fun j i listed begun => fewer _ ?_, fun j => ?_⟩, fun _ => by rw [own]; rfl⟩
    · by_cases same : j = c
      · subst same
        rw [own] at listed
        exact unwaited j i (List.mem_of_mem_filter listed) begun
      · rw [others j same] at listed
        exact unwaited j i listed begun
    · by_cases same : j = c
      · subst same
        exact .inr (by rw [own]; rfl)
      · exact .inl (by rw [others j same])

theorem OnlyResets.trans {t u : State} (first : OnlyResets s t) (second : OnlyResets t u) : OnlyResets s u where
  memories := ⟨second.memories.1.trans first.memories.1, second.memories.2.1.trans first.memories.2.1,
    second.memories.2.2.trans first.memories.2.2⟩
  sec := second.sec.trans first.sec
  host := second.host.trans first.host
  unwaited := second.unwaited
  st j := (second.st j).elim (fun same => (first.st j).imp same.trans same.trans) .inr

/-- Every listed client is reset when all have been taken. -/
theorem resetClients_reset (l : List (Nat × Client)) (s : State) (unwaited : ∀ j, noWaiters s j) :
    let u := l.foldl (fun s e => resetClient s (BitVec.ofNat 10 e.1)) s
    OnlyResets s u ∧ ∀ e ∈ l, (client s (BitVec.ofNat 10 e.1)).st ≠ .disabled → (client u (BitVec.ofNat 10 e.1)).st = .resetting := by
  induction l generalizing s with
  | nil => exact ⟨⟨⟨rfl, rfl, rfl⟩, rfl, rfl, unwaited, fun _ => .inl rfl⟩, fun e listed => absurd listed List.not_mem_nil⟩
  | cons e l ih =>
    obtain ⟨first, own⟩ := onlyResets_resetClient unwaited (BitVec.ofNat 10 e.1)
    obtain ⟨rest, all⟩ := ih (resetClient s (BitVec.ofNat 10 e.1)) first.unwaited
    rw [List.foldl_cons]
    refine ⟨first.trans rest, fun f listed on => ?_⟩
    rcases List.mem_cons.1 listed with rfl | later
    · exact (rest.st _).elim (fun same => same.trans (own on)) id
    · rcases first.st (BitVec.ofNat 10 f.1) with same | resetting
      · exact all f later (by rw [same]; exact on)
      · exact (rest.st _).elim (fun same => same.trans resetting) id

/-- A client that is not as reset left it is listed. -/
theorem client_listed_of_on {j : BitVec 10} (on : (client s j).st ≠ .disabled) : (j.toNat, client s j) ∈ s.clients := by
  cases found : tabFind s.clients j.toNat with
  | none => exact absurd (by simp [client, tabGet, found]) on
  | some k => simpa [client, tabGet, found] using mem_of_tabFind found

end Reset

/-! ## CLIENT_RESET_DONE (R323) -/

/-- Steps 5 and 6 of a reset with no item left: the client is DISABLED and both epochs have moved on. -/
theorem resetDone_ends {s : State} {c : BitVec 10} (resetting : (client s c).st = .resetting) (taken : (client s c).resetBoundary = false)
    (none : (client s c).items = []) : let u := resetDone s c
    onlyClient s u c ∧ flagOn u (fCresetDone c) = true ∧ client u c = { client s c with
      st := .disabled, fepoch := (client s c).fepoch + 1, cepoch := (client s c).cepoch + 1 } ∧
    ctr u (hifCtr 7) = ctr s (hifCtr 7) + 1 ∧ sameMemories s u := by
  intro u
  have ends : u = bump (setFlag (setClient s c { client s c with
      st := .disabled, fepoch := (client s c).fepoch + 1, cepoch := (client s c).cepoch + 1 }) (fCresetDone c)) (hifCtr 7) := by
    simp only [u, resetDone, resetting, taken, none, Bool.not_false, List.isEmpty_nil, and_self, if_true]
  rw [ends]
  refine ⟨fun j other => ?_, ?_, ?_, ?_, ?_⟩
  · rw [client_bump, client_setFlag, client_setClient_other s c j _ other]
  · rw [flagOn_bump, flagOn_setFlag_same _ (fCresetDone c) (by decide : 5 < 32)]
  · rw [client_bump, client_setFlag, client_setClient_same]
  · rw [ctr_bump_same, ctr_setFlag, if_neg (by simp only [hifCtr, fCresetDone, flagCtr]; omega), ctr_setClient]
  · simp only [sameMemories, bump_store, setFlag_store, setClient_store, bump_pm, setFlag_pm, setClient_pm, bump_ret, setFlag_ret,
      setClient_ret, and_self]

/-! ## HOST_LINK_RESET (R304, R393, R394) -/

section LinkReset
variable {s : State}

/-- What a link reset does to the link itself, before the clients are reset. -/
def linkEnded (s : State) : LinkReset → State
  | .functionLevel => s
  | .hot => { s with sec := { s.sec with ide := [] } }
  | .linkDown => { s with sec := { s.sec with ide := [] }, host := { s.host with linkUp := false, rate := 0, width := 0 } }

theorem linkEnded_sec (s : State) (kind : LinkReset) : ∃ ide, (linkEnded s kind).sec = { s.sec with ide := ide } := by
  cases kind <;> exact ⟨_, rfl⟩

/-- With the interface unlocked and no teardown under way, a link reset resets every client. -/
theorem linkReset_eq (unlocked : s.sec.tdi = .unlocked) (untorn : s.sec.tenancy ≠ .teardown) (unwaited : ∀ j, noWaiters s j)
    (kind : LinkReset) : linkReset s kind = (linkEnded s kind).clients.foldl (fun s e => resetClient s (BitVec.ofNat 10 e.1)) (linkEnded s kind) := by
  obtain ⟨ide, sec⟩ := linkEnded_sec s kind
  have still (l : List (Nat × Client)) (t : State) (same : t.sec = (linkEnded s kind).sec) (none : ∀ j, noWaiters t j) :
      l.foldl (fun s e => if s.sec.tenancy = .teardown then resetNow s (BitVec.ofNat 10 e.1) else resetClient s (BitVec.ofNat 10 e.1)) t =
        l.foldl (fun s e => resetClient s (BitVec.ofNat 10 e.1)) t := by
    induction l generalizing t with
    | nil => rfl
    | cons e l ih =>
      have open' : ¬ t.sec.tenancy = .teardown := by rw [same, sec]; exact untorn
      obtain ⟨kept, -⟩ := onlyResets_resetClient none (BitVec.ofNat 10 e.1)
      rw [List.foldl_cons, List.foldl_cons, if_neg open', ih _ (kept.sec.trans same) kept.unwaited]
  have tdi : (linkEnded s kind).sec.tdi = .unlocked := by rw [sec]; exact unlocked
  have noError : tdiError (linkEnded s kind) = linkEnded s kind := by simp [tdiError, tdi]
  have none : ∀ j, noWaiters (linkEnded s kind) j := by cases kind <;> exact unwaited
  have ended : linkReset s kind =
      if (linkEnded s kind).sec.tdisp && decide ((linkEnded s kind).sec.tdi = .locked ∨ (linkEnded s kind).sec.tdi = .run)
      then tdiError (linkEnded s kind)
      else (tdiError (linkEnded s kind)).clients.foldl (fun s e =>
        if s.sec.tenancy = .teardown then resetNow s (BitVec.ofNat 10 e.1) else resetClient s (BitVec.ofNat 10 e.1))
          (tdiError (linkEnded s kind)) := by
    cases kind <;> rfl
  rw [ended, noError, still _ _ rfl none]
  simp [tdi]

end LinkReset

/-- Settles O36. The `wign` beside `cfg_bad` is the model's choice (log 104). An enable or a reset is a host write of the client's control
word; a link reset takes the clients one after the other. -/
theorem clientLife : Obligations.ClientLife := by
  unfold Obligations.ClientLife
  intro s c k
  refine ⟨fun live ready => ⟨fun off bound => ⟨fun bases => ?_, fun bases => ?_⟩, fun notBound => ?_, fun active unwaited => ?_⟩,
    fun resetting taken none => ?_, fun ready unlocked untorn unwaited kind => ?_⟩
  · exact exec_clientEnable_enables live ready off bound bases
  · exact exec_clientEnable_refuses live ready off bound bases
  · refine ⟨_, exec_clientEnable_unbound live ready notBound, ?_, flagOn_setFlag_same _ fHifWign (by decide), rfl⟩
    rw [flagOn_setFlag, flagOn_setFlag_same s (fCfgBad c) (by decide : 3 < 32), Bool.true_or]
  · obtain ⟨u, runs, own, others, memories⟩ := exec_clientReset live ready active unwaited
    refine ⟨u, runs, ?_⟩
    rw [own]
    exact ⟨rfl, rfl, rfl, rfl, rfl, rfl, others, memories⟩
  · exact ⟨_, rfl, resetDone_ends resetting taken none⟩
  · have clients : (linkEnded s kind).clients = s.clients := by cases kind <;> rfl
    obtain ⟨kept, all⟩ := resetClients_reset (linkEnded s kind).clients (linkEnded s kind) (by cases kind <;> exact unwaited)
    have runs : exec (.hostLinkReset kind) s = .next (linkReset s kind) := by
      show Host.Outcome.next (if s.clk.ready then linkReset s kind else s) = _
      rw [ready]
      rfl
    rw [linkReset_eq unlocked untorn unwaited kind] at runs
    refine ⟨_, runs, ?_, fun j on => ?_, fun notFlr => ?_, fun flr => ?_, fun down => ?_⟩
    · obtain ⟨store, pm, ret⟩ := kept.memories
      cases kind <;> exact ⟨store, pm, ret⟩
    · have listed : (j.toNat, client s j) ∈ (linkEnded s kind).clients := by rw [clients]; exact client_listed_of_on on
      have st := all _ listed
      simp only [BitVec.ofNat_toNat, BitVec.setWidth_eq] at st
      exact st (by rw [client, clients]; exact on)
    · rw [kept.sec]
      cases kind with
      | functionLevel => exact absurd rfl notFlr
      | hot => rfl
      | linkDown => rfl
    · rw [kept.sec, flr]
      rfl
    · rw [kept.host, down]
      exact ⟨rfl, rfl, rfl⟩

/-! ## What firmware takes of the mailboxes (R324–R326, R388) -/

theorem ctr_of_ctrs {s t : State} (ctrs : t.ctrs = s.ctrs) (i : Nat) : ctr t i = ctr s i := by rw [ctr, ctrs, ctr]

section Mail
variable {s : State} {c : BitVec 10}

/-- The oldest unread message has left the ring of a client. -/
def mailTaken (s : State) (c : BitVec 10) : State :=
  hostBytes (bump (setClient s c { client s c with h2fHead := (client s c).h2fHead + 1 }) (hifCtr 14)) c 256

theorem client_mailTaken : client (mailTaken s c) c = { client s c with h2fHead := (client s c).h2fHead + 1 } := by
  rw [mailTaken, client_hostBytes, bump, client_addCtr, client_setClient_same]

theorem ctr_mailTaken (i : Nat) : ctr (mailTaken s c) i = ctr (bump s (hifCtr 14)) i := by
  rw [mailTaken, ctr_hostBytes]
  by_cases same : i = hifCtr 14
  · rw [same, ctr_bump_same, ctr_bump_same, ctr_setClient]
  · rw [ctr_bump_other _ _ _ same, ctr_bump_other _ _ _ same, ctr_setClient]

/-- What firmware's reading of a mailbox leaves alone: other clients, the memories, firmware and the host interface. -/
structure MailFrame (s u : State) (c : BitVec 10) : Prop where
  others : onlyClient s u c
  memories : sameMemories s u
  firmware : u.fw = s.fw
  epoch : u.host.fwEpoch = s.host.fwEpoch
  security : u.sec = s.sec

theorem mailTaken_frame : MailFrame s (mailTaken s c) c where
  others j other := by rw [mailTaken, client_hostBytes, bump, client_addCtr, client_setClient_other _ _ _ _ other]
  memories := by simp only [sameMemories, mailTaken, hostBytes, modAct, bump_store, bump_pm, bump_ret, setClient_store, setClient_pm,
    setClient_ret, and_self]
  firmware := by simp only [mailTaken, hostBytes, modAct, bump_fw, setClient_fw]
  epoch := by simp only [mailTaken, hostBytes, modAct, bump_host, setClient_host]
  security := by simp only [mailTaken, hostBytes, modAct, bump_sec, setClient_sec]

/-- Firmware answers a message of its type that is well formed, when the outbox has room. -/
theorem onMail_takes {type : Nat} {m : List (BitVec 8)} {ok : Bool} (run : State → BitVec 32 → Option (BitVec 16) → State)
    (live : pageLive (client s c) = true) (noOrphan : (client s c).orph = []) (unread : (client s c).h2fTail ≠ (client s c).h2fHead)
    (good : mailOk m = true) (fits : ok = true) (kind : mailType m = type) (known : type = 1 ∨ type = 2 ∨ type = 3)
    (room : (client s c).outbox.length + (if type = 3 then 5 else 1) ≤ 64) :
    onMail s c type m ok run = run (mailTaken s c) (BitVec.ofNat 32 (leAt m 4 4)) none := by
  have taken : takeMail s c = some (none, mailTaken s c) := by
    simp only [takeMail, noOrphan, live, unread, mailTaken, ne_eq, not_false_eq_true, decide_true, Bool.and_self, if_true]
  simp only [onMail, kind, known, taken, good, fits, ne_eq, not_true_eq_false, decide_false, decide_true, Bool.and_false,
    Bool.false_or, Bool.and_self, if_true, Nat.not_lt.2 room, Bool.false_eq_true, if_false]

/-- The message of firmware that answers one of a client. -/
def answerMsg (s : State) (reSeq : BitVec 32) (status : Nat) (payload : List (BitVec 8)) : Message :=
  { type := 0x81, reply := true, orphan := false, orphEpoch := 0, sndEpoch := s.host.fwEpoch, reSeq := reSeq, status := status,
    payload := payload }

theorem client_reply (reSeq : BitVec 32) (status : Nat) (payload : List (BitVec 8)) :
    client (reply s c reSeq none status payload) c =
      { client s c with outbox := (client s c).outbox ++ [answerMsg s reSeq status payload] } := client_setClient_same ..

theorem ctr_reply (reSeq : BitVec 32) (status : Nat) (payload : List (BitVec 8)) (i : Nat) :
    ctr (reply s c reSeq none status payload) i = ctr s i := by rw [reply, queueMsg, modClient, ctr_setClient]

theorem reply_frame (reSeq : BitVec 32) (status : Nat) (payload : List (BitVec 8)) :
    MailFrame s (reply s c reSeq none status payload) c where
  others j other := client_setClient_other _ _ _ _ other
  memories := by simp only [sameMemories, reply, queueMsg, modClient_store, modClient_pm, modClient_ret, and_self]
  firmware := by rw [reply, queueMsg, modClient_fw]
  epoch := by rw [reply, queueMsg, modClient_host]
  security := by rw [reply, queueMsg, modClient_sec]

theorem MailFrame.trans {t u : State} (first : MailFrame s t c) (second : MailFrame t u c) : MailFrame s u c where
  others j other := (second.others j other).trans (first.others j other)
  memories := first.memories.trans second.memories
  firmware := second.firmware.trans first.firmware
  epoch := second.epoch.trans first.epoch
  security := second.security.trans first.security

/-- The five fragments of a report join the outbox; nothing else of the client's context and no counter changes (R388). -/
theorem reportReply_fragments (reSeq : BitVec 32) (status : Nat) (bs : List (BitVec 8)) :
    let u := reportReply s c reSeq none status bs
    MailFrame s u c ∧ (client u c).outbox.length = (client s c).outbox.length + 5 ∧
      (client u c).h2fHead = (client s c).h2fHead ∧ ∀ i, ctr u i = ctr s i := by
  have sends (n : Nat) (t : State) (fragment : Nat → List (BitVec 8)) :
      let u := (upTo n).foldl (fun t i => reply t c reSeq none status (fragment i)) t
      MailFrame t u c ∧ (client u c).outbox.length = (client t c).outbox.length + n ∧
        (client u c).h2fHead = (client t c).h2fHead ∧ ∀ i, ctr u i = ctr t i := by
    induction n with
    | zero => exact ⟨⟨fun _ _ => rfl, ⟨rfl, rfl, rfl⟩, rfl, rfl, rfl⟩, rfl, rfl, fun _ => rfl⟩
    | succ n ih =>
      obtain ⟨frame, length, head, counts⟩ := ih
      simp only [upTo, List.range_succ, List.foldl_append, List.foldl_cons, List.foldl_nil] at frame length head counts ⊢
      refine ⟨frame.trans (reply_frame ..), ?_, ?_, fun i => (ctr_reply ..).trans (counts i)⟩
      · rw [client_reply, List.length_append, length, List.length_singleton, Nat.add_assoc]
      · rw [client_reply, head]
  exact sends 5 s _

theorem signReport_frame (nonce : BitVec 256) : MailFrame s (signReport s false nonce).1 c ∧
    client (signReport s false nonce).1 c = client s c := by
  refine ⟨⟨fun j _ => ?_, ⟨?_, ?_, ?_⟩, ?_, ?_, ?_⟩, ?_⟩ <;>
    simp only [signReport, bump, client, addCtr_store, addCtr_pm, addCtr_ret, addCtr_fw, addCtr_host, addCtr_sec,
      addCtr_clients, useFree_clients, useFree_store, useFree_pm, useFree_ret, useFree_fw, useFree_host, useFree_sec]

/-- Holding a report counts it and changes no client and no memory (R389). -/
theorem holdReport_holds (r : HeldReport) : (∀ j, client (holdReport s r) j = client s j) ∧ (holdReport s r).sec.held = s.sec.held ++ [r] ∧
    ctr (holdReport s r) (secCtr 6) = ctr s (secCtr 6) + 1 ∧ sameMemories s (holdReport s r) := by
  refine ⟨fun j => ?_, ?_, ?_, ?_, ?_, ?_⟩
  case refine_3 => rw [holdReport, ctr_bump_same]; exact congrArg (· + 1) (ctr_of_ctrs rfl _)
  all_goals simp only [holdReport, bump_sec, bump_store, bump_pm, bump_ret, bump_clients, client]

/-- The payload of FIRMWARE_INFORMATION is of firmware's images and epoch only. -/
theorem infoPayload_congr {t : State} (firmware : t.fw = s.fw) (epoch : t.host.fwEpoch = s.host.fwEpoch) :
    infoPayload t = infoPayload s := by
  have pending (wd : Bool) : pendingImage t wd = pendingImage s wd := by rw [pendingImage, fwOf, firmware, ← fwOf, pendingImage]
  simp only [infoPayload, pending, firmware, epoch]

theorem windowOpen_congr {t : State} (firmware : t.fw = s.fw) : windowOpen t = windowOpen s := by
  rw [windowOpen, firmware, windowOpen]

end Mail

/-- Settles O37: reading the message moves the head of the ring and one counter (`onMail_takes`, `mailTaken_frame`), and
each answer joins the outbox (`client_reply`, `reportReply_fragments`).  The layout of the
information payload is the model's choice of log 42. -/
theorem mailboxRequests : Obligations.MailboxRequests := by
  unfold Obligations.MailboxRequests
  intro s c m k live noOrphan unread good ready answers
  have takes {type : Nat} (ok : Bool) (run) (fits : ok = true) := onMail_takes (type := type) (ok := ok) run live noOrphan unread good fits
  have answered (i : Instr) (p : List (BitVec 8))
      (runs : exec i s = .next (reply (mailTaken s c) c (BitVec.ofNat 32 (leAt m 4 4)) none stOk p)) : answers i p := by
    have frame := (mailTaken_frame (s := s)).trans (reply_frame (c := c) (BitVec.ofNat 32 (leAt m 4 4)) stOk p)
    refine ⟨_, answerMsg (mailTaken s c) (BitVec.ofNat 32 (leAt m 4 4)) stOk p, runs, ?_, rfl, rfl, rfl, rfl, rfl, rfl, ?_,
      frame.others, fun i => ?_, frame.memories⟩
    · rw [client_reply, client_mailTaken]
    · rw [client_reply, client_mailTaken]
    · rw [ctr_reply, ctr_mailTaken]
      split
      · next same => rw [same, ctr_bump_same]
      · next other => exact ctr_bump_other _ _ _ other
  refine ⟨fun closed room => ?_, fun kind whole room => ?_⟩
  · have serves : hmTakes s = true := by simp [hmTakes, ready, closed]
    refine ⟨fun kind => answered _ _ ?_, fun kind => answered _ _ ?_⟩
    · rw [show exec (.echo c m) s = execEcho c m s from rfl, execEcho, if_pos serves, takes _ _ rfl kind (.inl rfl) room]
    · rw [show exec (.firmwareInformation c m) s = execFirmwareInformation c m s from rfl, execFirmwareInformation, if_pos serves,
        takes _ _ rfl kind (.inr (.inl rfl)) room, infoPayload_congr mailTaken_frame.firmware mailTaken_frame.epoch]
  · have runs : exec (.reportRequest c m) s = _ := (show _ = execReportRequest c m s from rfl)
    rw [execReportRequest, ready, Bool.not_true, if_neg Bool.false_ne_true,
      takes _ _ (decide_eq_true whole) kind (.inr (.inr rfl)) (by rw [if_pos rfl]; exact Nat.add_le_of_le_sub (by decide) room)] at runs
    simp only [windowOpen_congr (mailTaken_frame (s := s) (c := c)).firmware] at runs
    refine ⟨fun shut => ?_, fun opened => ?_⟩
    · rw [shut, if_neg Bool.false_ne_true] at runs
      obtain ⟨signed, same⟩ := signReport_frame (s := mailTaken s c) (c := c) (BitVec.ofNat 256 (leAt m 32 32))
      obtain ⟨sent, length, head, counts⟩ := reportReply_fragments (s := (signReport (mailTaken s c) false (BitVec.ofNat 256 (leAt m 32 32))).1)
        (c := c) (BitVec.ofNat 32 (leAt m 4 4)) stOk (signReport (mailTaken s c) false (BitVec.ofNat 256 (leAt m 32 32))).2
      have frame := (mailTaken_frame.trans signed).trans sent
      refine ⟨_, runs, ?_, ?_, ?_, frame.others, frame.memories⟩
      · rw [length, same, client_mailTaken]
      · rw [counts, signReport, ctr_bump_same, ctr, useFree_ctrs, ← ctr, ctr_mailTaken, ctr_bump_other _ _ _ (by decide)]
      · rw [head, same, client_mailTaken]
    · rw [opened, if_pos rfl] at runs
      let r : HeldReport :=
        { path := 1, who := c.toNat, seq := BitVec.ofNat 32 (leAt m 4 4), orph := none, nonce := BitVec.ofNat 256 (leAt m 32 32) }
      obtain ⟨clients, held, counted, memories⟩ := holdReport_holds (s := mailTaken s c) r
      refine ⟨_, r, runs, ?_, held.trans ?_, rfl, counted.trans ?_, mailTaken_frame.memories.trans memories⟩
      · rw [clients, client_mailTaken]
      · rw [mailTaken_frame.security]
      · rw [ctr_mailTaken, ctr_bump_other _ _ _ (by decide)]

end Sys2Proof.Machine
end

section
/-! Fields of register words, and host writes of them (R445–R449): what a field reads after a write, and what a host write of a
register outside the debug levels leaves alone. -/

namespace Sys2Proof.Machine
open Sys2Proof

/-! ## Folds that visit a unit once -/

/-- In a fold over distinct units, each step of which looks at one unit, what a unit shows at the end is what its own step made of it. -/
theorem foldl_visits {α β γ σ : Type} {step : σ → α → σ} {look : σ → γ} {part : σ → β} {x : α} {p : β} {a b : γ}
    (others : ∀ s y, y ≠ x → look (step s y) = look s) (each : ∀ s y, part (step s y) = part s)
    (here : ∀ s, part s = p → look s = a → look (step s x) = b) {l : List α} (distinct : l.Nodup) (listed : x ∈ l) {s : σ}
    (start : part s = p) (looks : look s = a) : look (l.foldl step s) = b := by
  induction l generalizing s with
  | nil => exact absurd listed List.not_mem_nil
  | cons y l ih =>
    obtain ⟨first, distinct⟩ := List.nodup_cons.1 distinct
    rw [List.foldl_cons]
    by_cases this : y = x
    · subst this
      refine List.foldlRecOn (motive := fun s => look s = b) l step (here s start looks) fun t done z inTail => ?_
      rw [others t z fun same => first (same ▸ inTail), done]
    · exact ih distinct (List.mem_of_ne_of_mem (Ne.symm this) listed) ((each s y).trans start) ((others s y this).trans looks)

/-- A unit that no step visits shows what it showed. -/
theorem foldl_passes {α γ σ : Type} {step : σ → α → σ} {look : σ → γ} {l : List α}
    (others : ∀ s, ∀ y ∈ l, look (step s y) = look s) (s : σ) : look (l.foldl step s) = look s :=
  List.foldlRecOn (motive := fun t => look t = look s) l step rfl fun t kept y listed => (others t y listed).trans kept

/-! ## Fields of a number -/

section Bits
variable {w v hi lo h l : Nat}

/-- A field lies between the bits above it and those below it. -/
theorem putBits_eq (ordered : lo ≤ hi) :
    putBits w hi lo v = 2 ^ (hi + 1) * (w / 2 ^ (hi + 1)) + (v % 2 ^ (hi - lo + 1) * 2 ^ lo + w % 2 ^ lo) := by
  have width : 2 ^ (hi + 1) = 2 ^ lo * 2 ^ (hi - lo + 1) := by rw [← pow_add]; congr 1; omega
  have parts := Nat.mod_add_div (w / 2 ^ lo) (2 ^ (hi - lo + 1))
  have low := Nat.mod_add_div w (2 ^ lo)
  rw [Nat.div_div_eq_div_mul, ← width] at parts
  have whole : w = w % 2 ^ lo + (w / 2 ^ lo % 2 ^ (hi - lo + 1) * 2 ^ lo + 2 ^ (hi + 1) * (w / 2 ^ (hi + 1))) := by
    calc w = w % 2 ^ lo + 2 ^ lo * (w / 2 ^ lo % 2 ^ (hi - lo + 1) + 2 ^ (hi - lo + 1) * (w / 2 ^ (hi + 1))) := by rw [parts, low]
      _ = _ := by rw [width]; ring
  rw [putBits, bitsOf]
  omega

theorem putBits_low_lt (v : Nat) (ordered : lo ≤ hi) : v % 2 ^ (hi - lo + 1) * 2 ^ lo + w % 2 ^ lo < 2 ^ (hi + 1) := by
  have width : 2 ^ (hi + 1) = 2 ^ (hi - lo + 1) * 2 ^ lo := by rw [← pow_add]; congr 1; omega
  have below : w % 2 ^ lo < 2 ^ lo := Nat.mod_lt _ (Nat.two_pow_pos _)
  calc _ < v % 2 ^ (hi - lo + 1) * 2 ^ lo + 2 ^ lo := by omega
    _ = (v % 2 ^ (hi - lo + 1) + 1) * 2 ^ lo := by ring
    _ ≤ 2 ^ (hi - lo + 1) * 2 ^ lo := Nat.mul_le_mul_right _ (Nat.mod_lt _ (Nat.two_pow_pos _))
    _ = _ := width.symm

theorem putBits_lt (ordered : lo ≤ hi) (inWord : hi < 32) (bound : w < 2 ^ 32) : putBits w hi lo v < 2 ^ 32 := by
  have above : w / 2 ^ (hi + 1) < 2 ^ (31 - hi) := by
    rw [Nat.div_lt_iff_lt_mul (Nat.two_pow_pos _), ← pow_add, show 31 - hi + (hi + 1) = 32 by omega]
    exact bound
  have low := putBits_low_lt (w := w) v ordered
  calc putBits w hi lo v = _ := putBits_eq ordered
    _ < 2 ^ (hi + 1) * (w / 2 ^ (hi + 1)) + 2 ^ (hi + 1) := by omega
    _ = 2 ^ (hi + 1) * (w / 2 ^ (hi + 1) + 1) := by ring
    _ ≤ 2 ^ (hi + 1) * 2 ^ (31 - hi) := Nat.mul_le_mul_left _ above
    _ = 2 ^ 32 := by rw [← pow_add]; congr 1; omega

theorem bitsOf_putBits_same (ordered : lo ≤ hi) : bitsOf (putBits w hi lo v) hi lo = v % 2 ^ (hi - lo + 1) := by
  have width : 2 ^ (hi + 1) = 2 ^ lo * 2 ^ (hi - lo + 1) := by rw [← pow_add]; congr 1; omega
  have below : w % 2 ^ lo < 2 ^ lo := Nat.mod_lt _ (Nat.two_pow_pos _)
  rw [bitsOf, putBits_eq ordered, width, show 2 ^ lo * 2 ^ (hi - lo + 1) * (w / (2 ^ lo * 2 ^ (hi - lo + 1))) +
      (v % 2 ^ (hi - lo + 1) * 2 ^ lo + w % 2 ^ lo) =
    w % 2 ^ lo + 2 ^ lo * (v % 2 ^ (hi - lo + 1) + 2 ^ (hi - lo + 1) * (w / (2 ^ lo * 2 ^ (hi - lo + 1)))) by ring,
    Nat.add_mul_div_left _ _ (Nat.two_pow_pos _), Nat.div_eq_of_lt below, Nat.zero_add, Nat.add_mul_mod_self_left, Nat.mod_mod]

/-- A field below the one written, or above it. -/
theorem bitsOf_putBits_other (ordered : lo ≤ hi) (apart : (l ≤ h ∧ h < lo) ∨ hi < l) :
    bitsOf (putBits w hi lo v) h l = bitsOf w h l := by
  rcases apart with ⟨field, below⟩ | above
  · have width : 2 ^ lo = 2 ^ l * 2 ^ (h - l + 1) * 2 ^ (lo - h - 1) := by rw [← pow_add, ← pow_add]; congr 1; omega
    have wide : 2 ^ (hi + 1) = 2 ^ lo * 2 ^ (hi - lo + 1) := by rw [← pow_add]; congr 1; omega
    have same : putBits w hi lo v % 2 ^ lo = w % 2 ^ lo := by
      rw [putBits_eq ordered, wide, show 2 ^ lo * 2 ^ (hi - lo + 1) * (w / (2 ^ lo * 2 ^ (hi - lo + 1))) +
          (v % 2 ^ (hi - lo + 1) * 2 ^ lo + w % 2 ^ lo) =
        w % 2 ^ lo + 2 ^ lo * (v % 2 ^ (hi - lo + 1) + 2 ^ (hi - lo + 1) * (w / (2 ^ lo * 2 ^ (hi - lo + 1)))) by ring,
        Nat.add_mul_mod_self_left, Nat.mod_mod]
    have ofLow (x : Nat) : bitsOf x h l = bitsOf (x % 2 ^ lo) h l := by
      rw [bitsOf, bitsOf, width, mul_assoc, Nat.mod_mul_right_div_self, Nat.mod_mul_right_mod]
    rw [ofLow, same, ← ofLow]
  · have same : putBits w hi lo v / 2 ^ (hi + 1) = w / 2 ^ (hi + 1) := by
      rw [putBits_eq ordered, Nat.mul_add_div (Nat.two_pow_pos _), Nat.div_eq_of_lt (putBits_low_lt v ordered), Nat.add_zero]
    have ofHigh (x : Nat) : x / 2 ^ l = x / 2 ^ (hi + 1) / 2 ^ (l - hi - 1) := by
      rw [Nat.div_div_eq_div_mul, ← pow_add]; congr 2; omega
    rw [bitsOf, bitsOf, ofHigh, same, ← ofHigh]

theorem bitsOf_lt (v : Nat) : bitsOf v h l < 2 ^ (h - l + 1) := Nat.mod_lt _ (Nat.two_pow_pos _)

/-- A bit of a word is a bit of a field that holds it. -/
theorem getLsbD_of_bitsOf (x : BitVec 32) {i : Nat} (above : l ≤ i) (below : i ≤ h) :
    x.getLsbD i = (bitsOf x.toNat h l).testBit (i - l) := by
  rw [bitsOf, Nat.testBit_mod_two_pow, Nat.testBit_div_two_pow, BitVec.getLsbD, show i - l + l = i by omega]
  simp only [Bool.eq_and_self, decide_eq_true_eq]
  omega

/-- Two words with one field agree in its bits. -/
theorem getLsbD_congr {x y : BitVec 32} (field : bitsOf x.toNat h l = bitsOf y.toNat h l) {i : Nat} (inField : l ≤ i ∧ i ≤ h) :
    x.getLsbD i = y.getLsbD i := by
  rw [getLsbD_of_bitsOf x inField.1 inField.2, field, ← getLsbD_of_bitsOf y inField.1 inField.2]

theorem and_congr_of_bits {x y m : BitVec 32} (bits : ∀ i < 32, m.getLsbD i = true → x.getLsbD i = y.getLsbD i) : x &&& m = y &&& m := by
  apply BitVec.eq_of_getLsbD_eq
  intro i inWord
  rw [BitVec.getLsbD_and, BitVec.getLsbD_and]
  cases set : m.getLsbD i
  · rw [Bool.and_false, Bool.and_false]
  · rw [bits i inWord set]

end Bits

/-! ## Fields of a register -/

section Fields
variable {s t : State} {off hi lo h l v : Nat}

theorem regField_of_word (word : regWord t off = regWord s off) : regField t off h l = regField s off h l := by
  rw [regField, word, regField]

theorem regField_of_regs (regs : t.regs = s.regs) : regField t off h l = regField s off h l := regField_of_word (regWord_of_regs regs off)

theorem toNat_withField (w : BitVec 32) (ordered : lo ≤ hi) (inWord : hi < 32) :
    (withField w hi lo v).toNat = putBits w.toNat hi lo v := by
  rw [withField, BitVec.toNat_ofNat, Nat.mod_eq_of_lt (putBits_lt ordered inWord w.isLt)]

theorem bitsOf_withField_same (w : BitVec 32) (ordered : lo ≤ hi) (inWord : hi < 32) :
    bitsOf (withField w hi lo v).toNat hi lo = v % 2 ^ (hi - lo + 1) := by
  rw [toNat_withField w ordered inWord, bitsOf_putBits_same ordered]

theorem bitsOf_withField_other (w : BitVec 32) (ordered : lo ≤ hi) (inWord : hi < 32) (apart : (l ≤ h ∧ h < lo) ∨ hi < l) :
    bitsOf (withField w hi lo v).toNat h l = bitsOf w.toNat h l := by
  rw [toNat_withField w ordered inWord, bitsOf_putBits_other ordered apart]

theorem setRegField_eq : setRegField s off hi lo v = setRegWord s off (withField (regWord s off) hi lo v) := rfl

theorem regField_setRegField_same (ordered : lo ≤ hi) (inWord : hi < 32) :
    regField (setRegField s off hi lo v) off hi lo = v % 2 ^ (hi - lo + 1) := by
  rw [regField, setRegField_eq, regWord_setRegWord_same, bitsOf_withField_same _ ordered inWord]

theorem regField_setRegField_apart (ordered : lo ≤ hi) (inWord : hi < 32) (apart : (l ≤ h ∧ h < lo) ∨ hi < l) :
    regField (setRegField s off hi lo v) off h l = regField s off h l := by
  rw [regField, setRegField_eq, regWord_setRegWord_same, bitsOf_withField_other _ ordered inWord apart, regField]

theorem regWord_setRegField_other {o : Nat} (other : o ≠ off) : regWord (setRegField s off hi lo v) o = regWord s o :=
  regWord_setRegWord_other s off o _ other

/-- A write of an owner's register is applied while the owner is not enabled, or when no field that the enable holds changes. -/
theorem cfgWrite_applied {mask : Nat} {enabled : Bool} (run : Wrote)
    (free : enabled = true → regWord s off &&& BitVec.ofNat 32 mask = BitVec.ofNat 32 v &&& BitVec.ofNat 32 mask) :
    cfgWrite s off v mask enabled run = run := by
  cases enabled
  · simp only [cfgWrite, Bool.false_and, Bool.false_eq_true, if_false]
  · simp only [cfgWrite, free rfl, ne_eq, not_true_eq_false, decide_false, Bool.and_false, Bool.false_eq_true, if_false]

/-- A register word written whole reads its field of what was written. -/
theorem regField_putNat_same (bound : v < 2 ^ 32) : regField (putNat s off v) off h l = bitsOf v h l := by
  rw [regField, regWord_putNat_same, BitVec.toNat_ofNat, Nat.mod_eq_of_lt bound]

theorem regField_putNat_other {o : Nat} (other : o ≠ off) : regField (putNat s off v) o h l = regField s o h l :=
  regField_of_word (regWord_putNat_other s off v other)

end Fields

/-! ## Writes that leave the debug levels alone (R503) -/

section Levels
variable {s t u : State} {off : Nat} {w : BitVec 32}

/-- No register but those of one block changes, and no debug level: a host write of it stores what it says and no more. -/
structure OnlyBlock (s t : State) (blk : Nat) : Prop where
  words : ∀ o, o / 0x10000 ≠ blk → regWord t o = regWord s o
  levels : t.sec.levels = s.sec.levels

theorem levelReg_block {o : Nat} (level : levelReg o) : o / 0x10000 = 6 ∨ o / 0x10000 = 0xB ∨ 0x10 ≤ o / 0x10000 := by
  rcases level with rfl | rfl | ⟨n, _, rfl⟩
  · exact .inl rfl
  · exact .inr (.inl rfl)
  · exact .inr (.inr (by simp only [cluOff]; omega))

theorem OnlyBlock.levelsNow {blk : Nat} (only : OnlyBlock s t blk) (place : blk < 0x10 ∧ blk ≠ 6 ∧ blk ≠ 0xB) :
    levelsNow t = levelsNow s :=
  levelsNow_congr only.levels fun o level => only.words o fun same => by have := levelReg_block level; omega

theorem OnlyBlock.refl (s : State) (blk : Nat) : OnlyBlock s s blk := ⟨fun _ _ => rfl, rfl⟩
theorem OnlyBlock.trans {blk : Nat} (first : OnlyBlock s t blk) (second : OnlyBlock t u blk) : OnlyBlock s u blk :=
  ⟨fun o other => (second.words o other).trans (first.words o other), second.levels.trans first.levels⟩

theorem OnlyBlock.of_regs (blk : Nat) (regs : t.regs = s.regs) (levels : t.sec.levels = s.sec.levels) : OnlyBlock s t blk :=
  ⟨fun o _ => regWord_of_regs regs o, levels⟩
theorem OnlyBlock.setRegWord (off : Nat) (w : BitVec 32) : OnlyBlock s (setRegWord s off w) (off / 0x10000) :=
  ⟨fun o other => regWord_setRegWord_other s off o w fun same => other (same ▸ rfl), by rw [setRegWord_sec]⟩
theorem OnlyBlock.putNat (off v : Nat) : OnlyBlock s (putNat s off v) (off / 0x10000) := .setRegWord ..
theorem OnlyBlock.setRegField (off hi lo v : Nat) : OnlyBlock s (setRegField s off hi lo v) (off / 0x10000) := .setRegWord ..
theorem OnlyBlock.setFlag (f : Flag) : OnlyBlock s (setFlag s f) (f.off / 0x10000) :=
  ⟨fun _ other => regWord_setFlag s f fun same => other (same ▸ rfl), by rw [setFlag_sec]⟩

/-- A host write in a block without debug levels does what its register does. -/
theorem hostWord_block {blk : Nat} (live : alive s = true) (applied : applyWord s false none off w = .done t)
    (only : OnlyBlock s t blk) (place : blk < 0x10 ∧ blk ≠ 6 ∧ blk ≠ 0xB) : hostWord s off w = t :=
  hostWord_done live applied (only.levelsNow place)

end Levels

end Sys2Proof.Machine
end

section
/-! The family of the audio ports (R330–R355): the block's own registers, its PLLs, start, stop and trigger, frames in both
directions, loss and lock, routes. -/

namespace Sys2Proof.Machine
open Sys2Proof

/-! ## Streams -/

section Streams
variable {s t : State} {st : Nat}

@[simp] theorem aud_setAud_same (s : State) (st : Nat) (a : AStream) : aud (setAud s st a) st = a := tabGet_set_same ..
@[simp] theorem aud_setAud_other (s : State) {st j : Nat} (a : AStream) (other : j ≠ st) : aud (setAud s st a) j = aud s j :=
  tabGet_set_other _ _ _ _ _ _ other
@[simp] theorem aud_modAud_same (s : State) (st : Nat) (f : AStream → AStream) : aud (modAud s st f) st = f (aud s st) :=
  aud_setAud_same ..
@[simp] theorem aud_modAud_other (s : State) {st j : Nat} (f : AStream → AStream) (other : j ≠ st) :
    aud (modAud s st f) j = aud s j := aud_setAud_other _ _ other

theorem aud_of_aud (same : t.aud = s.aud) (st : Nat) : aud t st = aud s st := by rw [aud, same, aud]

@[simp] theorem modAud_regs (s : State) (st : Nat) (f : AStream → AStream) : (modAud s st f).regs = s.regs := rfl
@[simp] theorem modAud_ctrs (s : State) (st : Nat) (f : AStream → AStream) : (modAud s st f).ctrs = s.ctrs := rfl
@[simp] theorem modAud_sec (s : State) (st : Nat) (f : AStream → AStream) : (modAud s st f).sec = s.sec := rfl
@[simp] theorem modAud_emitted (s : State) (st : Nat) (f : AStream → AStream) : (modAud s st f).emitted = s.emitted := rfl

end Streams

/-! ## AUD_CTRL (R334, R353) -/

section AudCtrl
variable {s : State} {w : BitVec 32}

theorem applyWord_audCtrl (ready : s.clk.ready = true) : applyWord s false none audOff w = writeAudCtrl s w.toNat := by
  simp [applyWord, ready, audOff, writeAud]

/-- The word that a write of AUD_CTRL stores. -/
def audCtrlWord (v : Nat) : Nat := bitsOf v 0 0 + Nat.max 1 (bitsOf v 7 4) * 2 ^ 4 + bitsOf v 11 8 * 2 ^ 8

theorem audCtrlWord_fields (v : Nat) : audCtrlWord v < 2 ^ 32 ∧ bitsOf (audCtrlWord v) 0 0 = bitsOf v 0 0 ∧
    bitsOf (audCtrlWord v) 7 4 = Nat.max 1 (bitsOf v 7 4) ∧ bitsOf (audCtrlWord v) 11 8 = bitsOf v 11 8 := by
  have enable := bitsOf_lt (h := 0) (l := 0) v
  have lead : Nat.max 1 (bitsOf v 7 4) < 16 := Nat.max_lt.2 ⟨by decide, bitsOf_lt v⟩
  have tail := bitsOf_lt (h := 11) (l := 8) v
  simp only [audCtrlWord]
  generalize Nat.max 1 (bitsOf v 7 4) = lead at *
  generalize bitsOf v 0 0 = enable at *
  generalize bitsOf v 11 8 = tail at *
  simp only [bitsOf]
  omega

/-- The word is stored, and the enable then takes its effect. -/
def audCtrlWritten (s : State) (v : Nat) (on : Bool) : State := setAudEn (putNat s audOff (audCtrlWord v)) on

theorem audCtrlWritten_only (v : Nat) (on : Bool) : OnlyBlock s (audCtrlWritten s v on) 8 := by
  have stored : OnlyBlock s (putNat s audOff (audCtrlWord v)) 8 := .putNat audOff _
  have enabled : OnlyBlock (putNat s audOff (audCtrlWord v)) (setRegField (putNat s audOff (audCtrlWord v)) audOff 0 0 (if on then 1 else 0)) 8 :=
    .setRegField audOff 0 0 _
  cases on
  · exact (stored.trans enabled).trans (.of_regs 8 rfl rfl)
  · exact stored.trans enabled

theorem audCtrlWritten_regs (v : Nat) (on : Bool) : (audCtrlWritten s v on).regs =
    (setRegField (putNat s audOff (audCtrlWord v)) audOff 0 0 (if on then 1 else 0)).regs := by
  cases on <;> rfl

theorem regField_audCtrlWritten (v : Nat) (on : Bool) : regField (audCtrlWritten s v on) audOff 0 0 = (if on then 1 else 0) ∧
    leadBlk (audCtrlWritten s v on) = Nat.max 1 (bitsOf v 7 4) ∧ tailBlk (audCtrlWritten s v on) = bitsOf v 11 8 := by
  obtain ⟨bound, -, lead, tail⟩ := audCtrlWord_fields v
  refine ⟨?_, ?_, ?_⟩
  · rw [regField_of_regs (audCtrlWritten_regs v on), regField_setRegField_same (by decide) (by decide)]
    cases on <;> rfl
  · rw [leadBlk, regField_of_regs (audCtrlWritten_regs v on), regField_setRegField_apart (by decide) (by decide) (by decide),
      regField_putNat_same bound, lead]
  · rw [tailBlk, regField_of_regs (audCtrlWritten_regs v on), regField_setRegField_apart (by decide) (by decide) (by decide),
      regField_putNat_same bound, tail]

theorem audCtrlWritten_aud (v : Nat) : (audCtrlWritten s v true).aud = s.aud ∧
    (audCtrlWritten s v false).aud = { s.aud with lockA := false, lockB := false } := by
  simp only [audCtrlWritten, setAudEn, putNat, if_true, setRegField_aud, setRegWord_aud, Bool.false_eq_true, if_false, and_self]

theorem sameMemories_audCtrlWritten (v : Nat) : sameMemories s (audCtrlWritten s v true) := by
  simp only [sameMemories, audCtrlWritten, setAudEn, putNat, if_true, setRegField_store, setRegField_pm, setRegField_ret,
    setRegWord_store, setRegWord_pm, setRegWord_ret, and_self]

/-- The lead and tail blocks of a word are what the enable holds. -/
theorem audCtrl_held {x y : BitVec 32} (lead : bitsOf x.toNat 7 4 = bitsOf y.toNat 7 4) (tail : bitsOf x.toNat 11 8 = bitsOf y.toNat 11 8) :
    x &&& 0xFF0#32 = y &&& 0xFF0#32 := by
  have mask : ∀ i < 32, (0xFF0#32).getLsbD i = true → (4 ≤ i ∧ i ≤ 7) ∨ (8 ≤ i ∧ i ≤ 11) := by decide
  refine and_congr_of_bits fun i inWord set => ?_
  rcases mask i inWord set with inLead | inTail
  · exact getLsbD_congr lead inLead
  · exact getLsbD_congr tail inTail

theorem writeAudCtrl_eq (v : Nat) : writeAudCtrl s v = cfgWrite s audOff (audCtrlWord v) 0xFF0 (decide (regField s audOff 0 0 = 1))
    (.done (if decide (regField s audOff 0 0 = 1) = decide (bitsOf v 0 0 = 1) then putNat s audOff (audCtrlWord v)
      else audCtrlWritten s v (decide (bitsOf v 0 0 = 1)))) := rfl

/-- A write of `aud_en` with the fields that the enable holds as they are is applied. -/
theorem hostWord_audCtrl (live : alive s = true) (ready : s.clk.ready = true) {on : Bool}
    (was : regField s audOff 0 0 = if on then 0 else 1) (en : bitsOf w.toNat 0 0 = if on then 1 else 0)
    (held : on = false → Nat.max 1 (bitsOf w.toNat 7 4) = leadBlk s ∧ bitsOf w.toNat 11 8 = tailBlk s) :
    hostWord s audOff w = audCtrlWritten s w.toNat on := by
  refine hostWord_block live ?_ (audCtrlWritten_only w.toNat on) (by decide)
  rw [applyWord_audCtrl ready, writeAudCtrl_eq, cfgWrite_applied, was, en]
  · cases on <;> rfl
  · intro enabled
    cases on with
    | true => rw [was] at enabled; exact absurd enabled (by decide)
    | false =>
      obtain ⟨bound, -, lead, tail⟩ := audCtrlWord_fields w.toNat
      obtain ⟨sameLead, sameTail⟩ := held rfl
      refine audCtrl_held ?_ ?_ <;> rw [BitVec.toNat_ofNat, Nat.mod_eq_of_lt bound]
      · exact (lead.trans sameLead).symm
      · exact (tail.trans sameTail).symm

end AudCtrl

/-! ## The control word of a stream (R338, R347, R353) -/

section StreamCtl
variable {s t : State} {st : Nat} {w : BitVec 32}

/-- No register but the control word of a stream has changed. -/
def onlyCtl (s t : State) (st : Nat) : Prop := ∀ o, o ≠ audCtl st → regWord t o = regWord s o

theorem audCfg_ne_audCtl (j st : Nat) : audCfg j ≠ audCtl st := by simp only [audCfg, audCtl]; omega
theorem wsPartner_ne (st : Nat) : wsPartner st ≠ st := by rw [wsPartner]; split <;> omega
theorem audCtl_ne {j st : Nat} (other : j ≠ st) : audCtl j ≠ audCtl st := by simp only [audCfg, audCtl]; omega

theorem onlyCtl.cfg (only : onlyCtl s t st) (j hi lo : Nat) : regField t (audCfg j) hi lo = regField s (audCfg j) hi lo :=
  regField_of_word (only _ (audCfg_ne_audCtl j st))

/-- What the configuration allows is read from the configuration words and the partner's enable, not from the control word. -/
theorem configOk_onlyCtl (only : onlyCtl s t st) (mon : Bool) (src : Nat) : configOk t st mon src = configOk s st mon src := by
  have partner : aEn t (wsPartner st) = aEn s (wsPartner st) := by
    rw [aEn, regField_of_word (only _ (audCtl_ne (wsPartner_ne st))), aEn]
  have clock : clockOk t st = clockOk s st := by
    simp only [clockOk, aClkSrc, aClkRef, aRate, aMaster, only.cfg]
    rfl
  simp only [configOk, partnerOk, clock, partner, aRate, aMaster, aWlen, only.cfg]
  rfl

theorem pllTimed_onlyCtl (only : onlyCtl s t st) (j : Nat) : pllTimed t j = pllTimed s j := by
  simp only [pllTimed, aMaster, only.cfg]

theorem setRegField_onlyCtl (hi lo v : Nat) : onlyCtl s (setRegField s (audCtl st) hi lo v) st := fun _ other =>
  regWord_setRegField_other other

/-- The fields beside `en` and `stop` of a control word without `mon` are stored. -/
def ctlFields (s : State) (st v : Nat) : State :=
  setRegField (setRegField (setRegField (setRegField s (audCtl st) 3 3 0) (audCtl st) 10 4 (bitsOf v 10 4))
    (audCtl st) 2 2 (bitsOf v 2 2)) (audCtl st) 18 11 (clampNat 1 200 (bitsOf v 18 11))

theorem ctlFields_onlyCtl (v : Nat) : onlyCtl s (ctlFields s st v) st := fun o other => by
  simp only [ctlFields, regWord_setRegField_other other]

/-- `en` takes its value and a stream that it enables starts; then `stop` takes its value. -/
def ctlEnabled (s : State) (st v : Nat) : State :=
  setRegField (enableStream (setRegField (ctlFields s st v) (audCtl st) 0 0 1) st (decide (bitsOf v 2 2 = 1))) (audCtl st) 1 1
    (if isTx st then bitsOf v 1 1 else 0)
def ctlStopped (s : State) (st v : Nat) : State :=
  stopStream (setRegField (setRegField (ctlFields s st v) (audCtl st) 0 0 1) (audCtl st) 1 1 (bitsOf v 1 1)) st

theorem ctlEnabled_onlyCtl (v : Nat) : onlyCtl s (ctlEnabled s st v) st := fun o other => by
  rw [ctlEnabled, regWord_setRegField_other other, enableStream, regWord_of_regs (modAud_regs ..), regWord_setRegField_other other,
    ctlFields_onlyCtl v o other]
theorem ctlStopped_onlyCtl (v : Nat) : onlyCtl s (ctlStopped s st v) st := fun o other => by
  rw [ctlStopped, stopStream, regWord_of_regs (modAud_regs ..), regWord_setRegField_other other, regWord_setRegField_other other,
    ctlFields_onlyCtl v o other]

theorem ctlEnabled_sec (v : Nat) : (ctlEnabled s st v).sec = s.sec := by
  simp only [ctlEnabled, ctlFields, enableStream, setRegField_sec, modAud_sec]
theorem ctlStopped_sec (v : Nat) : (ctlStopped s st v).sec = s.sec := by
  simp only [ctlStopped, ctlFields, stopStream, setRegField_sec, modAud_sec]

theorem writeCtl_enable {v : Nat} (mon : bitsOf v 3 3 = 0) (en : bitsOf v 0 0 = 1) (stop : bitsOf v 1 1 = 0) (was : aEn s st = false) :
    writeCtl s st v false = if configOk s st false (bitsOf v 10 4) then some (ctlEnabled s st v) else none := by
  have config := configOk_onlyCtl (ctlFields_onlyCtl (s := s) (st := st) v) false (bitsOf v 10 4)
  simp only [ctlFields] at config
  cases ok : configOk s st false (bitsOf v 10 4) <;> simp [writeCtl, mon, en, stop, was, ctlEnabled, ctlFields, config, ok]

theorem writeCtl_stop {v : Nat} (mon : bitsOf v 3 3 = 0) (en : bitsOf v 0 0 = 1) (stop : bitsOf v 1 1 = 1) (was : aEn s st = true)
    (sends : isTx st = true) : writeCtl s st v false = some (ctlStopped s st v) := by
  simp [writeCtl, mon, en, stop, was, ctlStopped, ctlFields, sends]

/-- The place of a stream's control word in the window. -/
theorem audCtl_place (inRange : st < 112) : audCtl st / 0x10000 = 8 ∧ audCtl st % 0x10000 = 0x104 + 0x20 * st ∧
    (0x104 + 0x20 * st - 0x100) / 0x20 = st ∧ (0x104 + 0x20 * st - 0x100) % 0x20 = 4 := by
  simp only [audCtl, audCfg, audOff]; omega

theorem applyWord_audCtl (ready : s.clk.ready = true) (inRange : st < 112) :
    applyWord s false none (audCtl st) w = writeStream s false st 4 w := by
  obtain ⟨block, place, index, field⟩ := audCtl_place inRange
  have inPage : 0x100 ≤ 0x104 + 0x20 * st ∧ 0x104 + 0x20 * st < 0xF00 := by omega
  have notLow : ¬ (0x104 + 0x20 * st = 0) ∧ ¬ (0x104 + 0x20 * st = 4) ∧ ¬ (0x104 + 0x20 * st = 8) ∧ ¬ (0x104 + 0x20 * st = 0xC) ∧
      ¬ (0x104 + 0x20 * st = 0x10) ∧ ¬ (0x20 ≤ 0x104 + 0x20 * st ∧ 0x104 + 0x20 * st < 0x30) := by omega
  obtain ⟨h0, h4, h8, hC, h10, h20⟩ := notLow
  simp [applyWord, ready, block, place, writeAud, h4, h8, hC, h10, h20, inPage, index, field]

theorem wignOf_audCtl (inRange : st < 112) : wignOf (audCtl st) = fStrWign st := by
  obtain ⟨block, place, index, -⟩ := audCtl_place inRange
  have inPage : 0x100 ≤ 0x104 + 0x20 * st ∧ 0x104 + 0x20 * st < 0xF00 := by omega
  simp only [wignOf, block, place, inPage, index]
  rfl

/-- A control word that some rule ignores sets the stream's `wign` (R449). -/
theorem hostWord_audCtl_ignored (live : alive s = true) (ready : s.clk.ready = true) (inRange : st < 112) (unlocked : s.sec.polLock = false)
    (ignored : writeCtl s st w.toNat false = none) : hostWord s (audCtl st) w = setFlag s (fStrWign st) := by
  rw [hostWord_ignored live (t := s), wignOf_audCtl inRange]
  rw [applyWord_audCtl ready inRange]
  simp [writeStream, lockHolds, unlocked, ignored]

theorem hostWord_audCtl_applied (live : alive s = true) (ready : s.clk.ready = true) (inRange : st < 112) (unlocked : s.sec.polLock = false)
    (applied : writeCtl s st w.toNat false = some t) (only : onlyCtl s t st) (sec : t.sec = s.sec) :
    (hostWord s (audCtl st) w).aud = t.aud ∧ (hostWord s (audCtl st) w).regs = t.regs := by
  have wrote : applyWord s false none (audCtl st) w = .done (if aPullLim t st = aPullLim s st then t else bumpView t) := by
    rw [applyWord_audCtl ready inRange]
    simp [writeStream, lockHolds, unlocked, applied]
  have words (o : Nat) (other : o / 0x10000 ≠ 8) : regWord t o = regWord s o :=
    only o fun same => other (same ▸ (audCtl_place inRange).1)
  split at wrote
  · rw [hostWord_block live wrote ⟨words, by rw [sec]⟩ (by decide)]
    exact ⟨rfl, rfl⟩
  · rw [hostWord_block live wrote ⟨fun o other => (regWord_of_regs (bumpView_regs t) o).trans (words o other),
      show (bumpView t).sec.levels = _ by rw [← sec]; rfl⟩ (by decide), bumpView_aud, bumpView_regs]
    exact ⟨rfl, rfl⟩

theorem ctlEnabled_en (v : Nat) : aEn (ctlEnabled s st v) st = true := by
  rw [aEn, ctlEnabled, regField_setRegField_apart (by decide) (by decide) (by decide), enableStream, regField_of_regs (modAud_regs ..),
    regField_setRegField_same (by decide) (by decide)]
  rfl

/-- The stream that has been enabled: from its first frame, to LEAD or ARMED, to ACQUIRE or, where its PLL times it, LOCKED. -/
theorem ctlEnabled_starts (v : Nat) : (aud (ctlEnabled s st v) st).frame = 0 ∧ (aud (ctlEnabled s st v) st).blk = 0 ∧
    (isTx st = true → (aud (ctlEnabled s st v) st).phase = if bitsOf v 2 2 = 1 then .armed else .lead) ∧
    (isTx st = false → (aud (ctlEnabled s st v) st).lock = if pllTimed s st && pllLocked s (aRate s st) then .locked else .acquire) := by
  have only : onlyCtl s (setRegField (ctlFields s st v) (audCtl st) 0 0 1) st := fun o other =>
    (setRegField_onlyCtl 0 0 1 o other).trans (ctlFields_onlyCtl v o other)
  have timed := pllTimed_onlyCtl only st
  have rate : aRate (setRegField (ctlFields s st v) (audCtl st) 0 0 1) st = aRate s st := only.cfg ..
  have locked : pllLocked (setRegField (ctlFields s st v) (audCtl st) 0 0 1) (aRate s st) = pllLocked s (aRate s st) := by
    simp only [pllLocked, ctlFields, setRegField_aud]
  rw [ctlEnabled, aud_of_aud (setRegField_aud ..), enableStream, aud_modAud_same, timed, rate, locked]
  cases isTx st
  · cases pllTimed s st && pllLocked s (aRate s st) <;> simp
  · simp

/-- A stop takes RUN to FADE, and LEAD and ARMED to TAIL. -/
theorem stopStream_stops (t : State) (st : Nat) : ((aud t st).phase = .run → (aud (stopStream t st) st).phase = .fade) ∧
    ((aud t st).phase = .lead ∨ (aud t st).phase = .armed → (aud (stopStream t st) st).phase = .tail) := by
  rw [stopStream, aud_modAud_same]
  refine ⟨fun run => by rw [run], fun before => ?_⟩
  rcases before with lead | armed
  · rw [lead]
  · rw [armed]

theorem ctlStopped_stops (v : Nat) : regField (ctlStopped s st v) (audCtl st) 1 1 = bitsOf v 1 1 ∧
    ((aud s st).phase = .run → (aud (ctlStopped s st v) st).phase = .fade) ∧
    ((aud s st).phase = .lead ∨ (aud s st).phase = .armed → (aud (ctlStopped s st v) st).phase = .tail) := by
  have kept : aud (setRegField (setRegField (ctlFields s st v) (audCtl st) 0 0 1) (audCtl st) 1 1 (bitsOf v 1 1)) st = aud s st :=
    aud_of_aud (by simp only [ctlFields, setRegField_aud]) st
  have stops := stopStream_stops (setRegField (setRegField (ctlFields s st v) (audCtl st) 0 0 1) (audCtl st) 1 1 (bitsOf v 1 1)) st
  rw [kept] at stops
  refine ⟨?_, stops⟩
  rw [ctlStopped, stopStream, regField_of_regs (modAud_regs ..), regField_setRegField_same (by decide) (by decide)]
  exact Nat.mod_eq_of_lt (bitsOf_lt (h := 1) (l := 1) v)

end StreamCtl

/-! ## The trigger (R338, R348) -/

section Trigger
variable {s : State}

/-- The stream after the trigger. -/
def triggered (a : AStream) : AStream :=
  { a with phase := if a.phase = .armed then .lead else a.phase, frame := 0, blk := 0, inPhase := 0, waitTrig := false }

theorem trigger_armed (armed : armedStreams s ≠ []) :
    trigger s = (armedStreams s).foldl (fun s st => modAud s st triggered) (bump s (audDevCtr 2)) := by
  rw [trigger]
  exact if_neg fun empty => armed (List.isEmpty_iff.1 empty)

theorem trigger_unarmed (unarmed : armedStreams s = []) : trigger s = setFlag s fStartIgn := by
  rw [trigger, unarmed]
  rfl

/-- The trigger starts each armed stream of the mask and counts once. -/
theorem trigger_starts (armed : armedStreams s ≠ []) : countsOne s (trigger s) (audDevCtr 2) ∧ (trigger s).regs = s.regs ∧
    (trigger s).sec = s.sec ∧ ∀ st ∈ armedStreams s, aud (trigger s) st = triggered (aud s st) := by
  rw [trigger_armed armed]
  have part {β : Type} {part : State → β} (each : ∀ t st, part (modAud t st triggered) = part t) :=
    foldl_keeps each (armedStreams s) (bump s (audDevCtr 2))
  refine ⟨fun i => ?_, part fun t st => modAud_regs t st _, part fun t st => modAud_sec t st _, fun st listed => ?_⟩
  · rw [ctr_of_ctrs (part fun t st => modAud_ctrs t st _), ctr_bump]
  · refine foldl_visits (look := (aud · st)) (part := fun _ => ()) (p := ()) (a := aud s st) (fun t y other => ?_) (fun _ _ => rfl)
      (fun t _ same => ?_) (List.Nodup.filter _ (List.nodup_range)) listed rfl rfl
    · exact aud_modAud_other t triggered other.symm
    · rw [aud_modAud_same, same]

/-- Writing the trigger register changes no register of the start mask. -/
theorem armedStreams_putNat (v : Nat) : armedStreams (putNat s (audOff + 8) v) = armedStreams s := by
  have mask (st : Nat) : regWord (putNat s (audOff + 8) v) (audOff + 0x20 + 4 * (st / 32)) = regWord s (audOff + 0x20 + 4 * (st / 32)) :=
    regWord_putNat_other _ _ _ (by omega)
  simp only [armedStreams, mask]
  rfl

/-- GO: the source stays and the trigger fires. -/
theorem hostWord_go (live : alive s = true) (ready : s.clk.ready = true) (w : BitVec 32) : ∃ v,
    hostWord s (audOff + 8) (withField w 0 0 1) = trigger (putNat s (audOff + 8) v) := by
  have go : bitsOf (withField w 0 0 1).toNat 0 0 = 1 := bitsOf_withField_same w (by decide) (by decide)
  refine ⟨bitsOf (withField w 0 0 1).toNat 1 1 * 2, hostWord_block (blk := 8) live ?_ ?_ (by decide)⟩
  · simp [applyWord, ready, audOff, writeAud, writeStart, go]
  · refine OnlyBlock.trans (.putNat (audOff + 8) (bitsOf (withField w 0 0 1).toNat 1 1 * 2)) ?_
    generalize putNat s (audOff + 8) (bitsOf (withField w 0 0 1).toNat 1 1 * 2) = t
    by_cases armed : armedStreams t = []
    · rw [trigger_unarmed armed]
      exact .setFlag fStartIgn
    · obtain ⟨-, regs, sec, -⟩ := trigger_starts armed
      exact .of_regs _ regs (by rw [sec])

end Trigger

/-! ## The PLLs (R334, R349) -/

section Pll
variable {s : State} {b : Bool} {st : Nat}

/-- The PLL of a family is locked. -/
def lockOf (s : State) (b : Bool) : Bool := if b then s.aud.lockB else s.aud.lockA
def setLock (s : State) (b on : Bool) : State := { s with aud := if b then { s.aud with lockB := on } else { s.aud with lockA := on } }

theorem lockOf_setLock (on : Bool) : lockOf (setLock s b on) b = on := by cases b <;> rfl
theorem aud_setLock (on : Bool) : aud (setLock s b on) st = aud s st := by cases b <;> rfl

/-- A receiver that the PLL times. -/
def timedBy (s : State) (b : Bool) (st : Nat) : Bool := pllTimed s st && decide (onPllB (aRate s st) = b)

/-- What the lock of a PLL makes of one receiver, and what its loss makes of one. -/
def lockStep (b : Bool) (s : State) (st : Nat) : State :=
  if timedBy s b st && decide ((aud s st).lock = .acquire ∨ (aud s st).lock = .freewheel) then
    let s2 := setAud s st { aud s st with lock := .locked, rateMeas := aRate s st }
    if (aud s st).lock = .freewheel then bump s2 (audCtr st 8) else s2
  else s
def unlockStep (b : Bool) (s : State) (st : Nat) : State := if timedBy s b st then declareLoss s st else s

theorem pllLock_eq (unlocked : lockOf s b = false) (on : regField s audOff 0 0 = 1) :
    pllLock s b = (upTo 112).foldl (lockStep b) (setLock s b true) := by
  have acts : ¬ ((if b then s.aud.lockB else s.aud.lockA) = true ∨ regField s audOff 0 0 = 0) := by
    rw [← lockOf, unlocked, on]; decide
  rw [pllLock, if_neg acts]
  cases b <;> rfl

theorem pllUnlock_eq (locked : lockOf s b = true) :
    pllUnlock s b = (upTo 112).foldl (unlockStep b) (setIrqFlag (setLock s b false) fPllUnlock) := by
  have acts : ¬ ((!(if b then s.aud.lockB else s.aud.lockA)) = true) := by rw [← lockOf, locked]; decide
  rw [pllUnlock, if_neg acts]
  cases b <;> rfl

/-- A part of the state that streams' contexts and counters leave alone. -/
theorem lockStep_keeps {β : Type} {part : State → β} (streams : ∀ s st a, part (setAud s st a) = part s)
    (counters : ∀ s i, part (bump s i) = part s) (b : Bool) (s : State) (st : Nat) : part (lockStep b s st) = part s := by
  rw [lockStep]
  split
  · dsimp only
    split
    · rw [counters, streams]
    · exact streams ..
  · rfl

theorem aud_lockStep_other {j : Nat} (other : st ≠ j) : aud (lockStep b s j) st = aud s st := by
  rw [lockStep]
  split
  · dsimp only
    split
    · exact (aud_of_aud (bump_aud ..) st).trans (aud_setAud_other _ _ other)
    · exact aud_setAud_other _ _ other
  · rfl

theorem aud_lockStep_acquire (timed : timedBy s b st = true) (acquires : (aud s st).lock = .acquire) :
    (aud (lockStep b s st) st).lock = .locked := by
  simp [lockStep, timed, acquires]

theorem timedBy_of_cfg {t : State} (cfg : regWord t (audCfg st) = regWord s (audCfg st)) : timedBy t b st = timedBy s b st := by
  simp only [timedBy, pllTimed, aMaster, aRate, regField_of_word cfg]
  rfl

theorem declareLoss_eq (locked : (aud s st).lock = .locked) : declareLoss s st =
    setFlag (setFlag (modAud s st (fun a => { a with lock := .freewheel, good := 0, bad := 0, off := 0, zSeen := false })) (fLoss st)) fLossEv :=
  if_pos locked

theorem declareLoss_idle (notLocked : (aud s st).lock ≠ .locked) : declareLoss s st = s := if_neg notLocked

theorem aud_setFlag (s : State) (f : Flag) (st : Nat) : aud (setFlag s f) st = aud s st := aud_of_aud (setFlag_aud ..) st

theorem aud_declareLoss_other {j : Nat} (other : st ≠ j) : aud (declareLoss s j) st = aud s st := by
  by_cases locked : (aud s j).lock = .locked
  · rw [declareLoss_eq locked, aud_setFlag, aud_setFlag, aud_modAud_other _ _ other]
  · rw [declareLoss_idle locked]

theorem aud_declareLoss_locked (locked : (aud s st).lock = .locked) : (aud (declareLoss s st) st).lock = .freewheel := by
  rw [declareLoss_eq locked, aud_setFlag, aud_setFlag, aud_modAud_same]

/-- The words that losses may write: the streams' status words and the block's. -/
theorem declareLoss_cfg (s : State) (j i : Nat) : regWord (declareLoss s j) (audCfg i) = regWord s (audCfg i) := by
  by_cases locked : (aud s j).lock = .locked
  · rw [declareLoss_eq locked, regWord_setFlag _ _ (by simp only [fLossEv, audCfg]; omega),
      regWord_setFlag _ _ (by simp only [fLoss, audStat, audCfg]; omega), regWord_of_regs (modAud_regs ..)]
  · rw [declareLoss_idle locked]

theorem flagOn_declareLoss {f : Flag} (on : flagOn s f = true) (j : Nat) : flagOn (declareLoss s j) f = true := by
  by_cases locked : (aud s j).lock = .locked
  · rw [declareLoss_eq locked]
    exact flagOn_setFlag_kept _ _ (flagOn_setFlag_kept _ _ on)
  · rwa [declareLoss_idle locked]

theorem declareLoss_emitted (s : State) (j : Nat) : (declareLoss s j).emitted = s.emitted := by
  by_cases locked : (aud s j).lock = .locked
  · rw [declareLoss_eq locked, setFlag_emitted, setFlag_emitted, modAud_emitted]
  · rw [declareLoss_idle locked]

theorem lockOf_declareLoss (s : State) (j : Nat) : lockOf (declareLoss s j) b = lockOf s b := by
  by_cases locked : (aud s j).lock = .locked
  · rw [declareLoss_eq locked, lockOf, setFlag_aud, setFlag_aud]
    rfl
  · rw [declareLoss_idle locked]

/-- A PLL that locks makes the acquiring receivers that it times LOCKED. -/
theorem pllLock_locks (unlocked : lockOf s b = false) (on : regField s audOff 0 0 = 1) : lockOf (pllLock s b) b = true ∧
    sameMemories s (pllLock s b) ∧ ∀ st, st < 112 → timedBy s b st = true → (aud s st).lock = .acquire →
      (aud (pllLock s b) st).lock = .locked := by
  rw [pllLock_eq unlocked on]
  have kept {β : Type} {part : State → β} (streams : ∀ s st a, part (setAud s st a) = part s)
      (counters : ∀ s i, part (bump s i) = part s) :
      part ((upTo 112).foldl (lockStep b) (setLock s b true)) = part (setLock s b true) :=
    foldl_keeps (lockStep_keeps streams counters b) (upTo 112) _
  refine ⟨?_, ⟨?_, ?_, ?_⟩, fun st inRange timed acquires => ?_⟩
  · rw [kept (part := (lockOf · b)) (fun _ _ _ => by cases b <;> rfl) (fun _ _ => by rw [lockOf, bump_aud, ← lockOf]), lockOf_setLock]
  · rw [kept (part := State.store) (fun _ _ _ => rfl) bump_store, setLock]
  · rw [kept (part := State.pm) (fun _ _ _ => rfl) bump_pm, setLock]
  · rw [kept (part := State.ret) (fun _ _ _ => rfl) bump_ret, setLock]
  · refine foldl_visits (look := fun t => (aud t st).lock) (part := State.regs) (p := s.regs) (a := .acquire)
      (fun t j other => by rw [aud_lockStep_other other.symm]) (lockStep_keeps (fun _ _ _ => rfl) bump_regs b)
      (fun t regs looks => aud_lockStep_acquire ?_ looks) List.nodup_range (List.mem_range.2 inRange) rfl ?_
    · rw [timedBy_of_cfg (regWord_of_regs regs _), timed]
    · rw [aud_setLock, acquires]

/-- A part of the state that losses leave alone is left alone by the loss of a PLL. -/
theorem unlockStep_keeps {β : Type} {part : State → β} (losses : ∀ s j, part (declareLoss s j) = part s) (s : State) (j : Nat) :
    part (unlockStep b s j) = part s := by
  rw [unlockStep]
  split
  · exact losses s j
  · rfl

/-- A PLL that unlocks sets its flag, sends entry 0 and takes the LOCKED receivers that it times to FREEWHEEL. -/
theorem pllUnlock_unlocks (locked : lockOf s b = true) : lockOf (pllUnlock s b) b = false ∧ flagOn (pllUnlock s b) fPllUnlock = true ∧
    Emit.msix 0 ∈ (pllUnlock s b).emitted ∧ ∀ st, st < 112 → timedBy s b st = true → (aud s st).lock = .locked →
      (aud (pllUnlock s b) st).lock = .freewheel := by
  rw [pllUnlock_eq locked]
  have kept {β : Type} {part : State → β} (losses : ∀ s j, part (declareLoss s j) = part s) :=
    foldl_keeps (unlockStep_keeps (b := b) losses) (upTo 112) (setIrqFlag (setLock s b false) fPllUnlock)
  refine ⟨?_, ?_, ?_, fun st inRange timed isLocked => ?_⟩
  · rw [kept (part := (lockOf · b)) fun t j => lockOf_declareLoss t j, lockOf, setIrqFlag_aud, ← lockOf, lockOf_setLock]
  · refine List.foldlRecOn (motive := fun t => flagOn t fPllUnlock = true) _ _ (flagOn_setFlag_same _ _ (by decide)) fun t on j _ => ?_
    rw [unlockStep]
    split
    · exact flagOn_declareLoss on j
    · exact on
  · rw [kept declareLoss_emitted, setIrqFlag, msix0, addCtr_emitted, emit_emitted]
    exact List.mem_cons_self
  · refine foldl_visits (look := fun t => (aud t st).lock) (part := fun t => regWord t (audCfg st)) (p := regWord s (audCfg st)) (a := .locked)
      (fun t j other => ?_) (unlockStep_keeps (part := fun t => regWord t (audCfg st)) fun t j => declareLoss_cfg t j st) (fun t cfg looks => ?_) List.nodup_range
      (List.mem_range.2 inRange) ?_ ?_
    · rw [unlockStep]
      split
      · rw [aud_declareLoss_other other.symm]
      · rfl
    · rw [unlockStep, timedBy_of_cfg cfg, timed, if_pos rfl, aud_declareLoss_locked looks]
    · rw [setIrqFlag, regWord_of_regs (msix0_regs _), regWord_setFlag _ _ (by simp only [fPllUnlock, audCfg]; omega)]
      rfl
    · rw [aud_of_aud (setIrqFlag_aud ..), aud_setLock, isLocked]

end Pll

/-- Settles O38: a write of `aud_en` (`hostWord_audCtrl`), of a stream's control word (`writeCtl_enable`, `writeCtl_stop`), the trigger
(`trigger_starts`) and the PLLs (`pllLock_locks`, `pllUnlock_unlocks`).  That clearing `aud_en` clears both locks is the model's
choice of log 54, and that the lead is taken to the nearest end that of log 108. -/
theorem audioControl : Obligations.AudioControl := by
  unfold Obligations.AudioControl
  intro s w
  refine ⟨fun live ready => ⟨?_, ?_, ?_, ?_, ?_⟩, ?_, ?_, ?_, ?_⟩
  · intro off on
    obtain ⟨enabled, lead, tail⟩ := regField_audCtrlWritten (s := s) w.toNat true
    refine ⟨_, congrArg Host.Outcome.next (hostWord_audCtrl (on := true) live ready off on fun other => absurd other (by decide)), enabled, lead, tail,
      (audCtrlWritten_aud w.toNat).1, sameMemories_audCtrlWritten w.toNat⟩
  · intro on off lead tail
    refine ⟨_, congrArg Host.Outcome.next (hostWord_audCtrl (on := false) live ready on off fun _ => ⟨lead, tail⟩), (audCtrlWritten_aud w.toNat).2,
      (regField_audCtrlWritten (s := s) w.toNat false).1⟩
  · intro st inRange unlocked mon
    have place : streamExists st = true := decide_eq_true inRange
    have runsEnable : exec (.streamEnable st w) s = .next (hostWord s (audCtl st) w) := by
      rw [show exec (.streamEnable st w) s = execStreamEnable st w s from rfl, execStreamEnable, place]; rfl
    refine ⟨fun was en stop => ⟨fun ok => ?_, fun bad => ?_⟩, fun was sends en => ?_⟩
    · have applied := writeCtl_enable mon en stop was
      rw [ok, if_pos rfl] at applied
      obtain ⟨streams, regs⟩ := hostWord_audCtl_applied live ready inRange unlocked applied (ctlEnabled_onlyCtl _) (ctlEnabled_sec _)
      refine ⟨_, runsEnable, ?_, ?_⟩
      · rw [aEn, regField_of_regs regs, ← aEn, ctlEnabled_en]
      · rw [aud_of_aud streams]
        exact ctlEnabled_starts w.toNat
    · have ignored := writeCtl_enable mon en stop was
      rw [bad, if_neg Bool.false_ne_true] at ignored
      rw [hostWord_audCtl_ignored live ready inRange unlocked ignored] at runsEnable
      refine ⟨_, runsEnable, setFlag_aud .., flagOn_setFlag_same _ _ (show 10 < 32 by decide), ?_⟩
      rw [aEn, regField_of_word (regWord_setFlag _ _ (by simp only [fStrWign, audCtl, audStat]; omega)), ← aEn, was]
    · have kept {h l : Nat} (apart : (l ≤ h ∧ h < 1) ∨ 1 < l) : bitsOf (withField w 1 1 1).toNat h l = bitsOf w.toNat h l :=
        bitsOf_withField_other w (by decide) (by decide) apart
      have stop : bitsOf (withField w 1 1 1).toNat 1 1 = 1 := bitsOf_withField_same w (by decide) (by decide)
      have applied := writeCtl_stop ((kept (by decide)).trans mon) ((kept (by decide)).trans en) stop was sends
      obtain ⟨streams, regs⟩ := hostWord_audCtl_applied live ready inRange unlocked applied (ctlStopped_onlyCtl _) (ctlStopped_sec _)
      have runs : exec (.streamStop st w) s = .next (hostWord s (audCtl st) (withField w 1 1 1)) := by
        rw [show exec (.streamStop st w) s = execStreamStop st w s from rfl, execStreamStop, place]; rfl
      obtain ⟨set, phases⟩ := ctlStopped_stops (s := s) (st := st) (withField w 1 1 1).toNat
      refine ⟨_, runs, ?_, ?_⟩
      · rw [regField_of_regs regs, set, stop]
      · rwa [aud_of_aud streams]
  · intro armed
    obtain ⟨v, go⟩ := hostWord_go live ready w
    rw [← armedStreams_putNat v] at armed
    obtain ⟨counts, -, -, starts⟩ := trigger_starts armed
    refine ⟨_, congrArg Host.Outcome.next go, (counts (audDevCtr 2)).trans (if_pos rfl), fun st listed => ?_⟩
    rw [starts st (by rwa [armedStreams_putNat])]
    exact ⟨rfl, rfl, fun isArmed => if_pos isArmed⟩
  · intro unarmed
    obtain ⟨v, go⟩ := hostWord_go live ready w
    rw [trigger_unarmed (by rwa [armedStreams_putNat])] at go
    exact ⟨_, congrArg Host.Outcome.next go, setFlag_aud .., flagOn_setFlag_same _ _ (by decide)⟩
  · intro source armed
    obtain ⟨counts, -, -, starts⟩ := trigger_starts armed
    refine ⟨_, congrArg Host.Outcome.next (if_pos source), counts, fun st listed isArmed => ?_⟩
    rw [starts st listed]
    exact if_pos isArmed
  · intro source
    exact congrArg Host.Outcome.next (if_neg (by rw [source]; decide))
  · intro b unlocked on
    obtain ⟨lock, memories, locks⟩ := pllLock_locks unlocked on
    exact ⟨_, rfl, lock, memories, fun st inRange timed rate => locks st inRange (by simp [timedBy, timed, rate])⟩
  · intro b locked
    obtain ⟨lock, flag, sent, loses⟩ := pllUnlock_unlocks locked
    exact ⟨_, rfl, lock, flag, sent, fun st inRange timed rate => loses st inRange (by simp [timedBy, timed, rate])⟩

/-! ## The last frame of a block with underruns (R344, R294) -/

/-- Transmitter 48 in RUN is at the last frame of its block, with a value queued for each slot.  Berth 0, which feeds slot 0, ran under
the policy earlier in the block; its client already has a spilled record, so the notice of the underrun spills too. -/
def underrunToTell : State where
  aud := { lockA := true,
           str := [(48, { phase := .run, blk := 191, s0 := { bound := some 0, q := [0] }, s1 := { q := [0] } })] }
  berths := [(0, { underruns := 1 })]
  clients := [(0, { st := .active, spill := [{}] })]

/-- The notice's record goes to the spill ring in package memory. -/
theorem txFrame_spills : (txFrame underrunToTell 48).pm ≠ underrunToTell.pm := by decide

/-- Refutes O39: at the last frame of a block the berths with underruns are told (R344), and a notice whose client's completion ring
has no room goes to the spill ring (R294), which lies in package memory; so a frame sent in RUN within a block, from queues that
hold both values, need not leave package memory as it was. -/
theorem not_audioFrames : ¬ Obligations.AudioFrames := by
  unfold Obligations.AudioFrames
  intro frames
  obtain ⟨transmits, -⟩ := frames underrunToTell 48
  obtain ⟨-, inRun, -⟩ := transmits (by decide)
  obtain ⟨u, sends, -, -, -, -, -, ⟨-, pm, -⟩, -⟩ := inRun 0 [] 0 [] (by decide) (by decide) (by decide) (by decide) (by decide)
    (by decide) (by decide)
  have runs : exec (.txFrame 48) underrunToTell = .next (txFrame underrunToTell 48) := rfl
  rw [runs, Host.Outcome.next.injEq] at sends
  exact txFrame_spills (sends ▸ pm)

end Sys2Proof.Machine
end

section
/-! The family of the chain ports (R356–R374): ports, lanes, frames and routes. -/

namespace Sys2Proof.Machine
open Sys2Proof

/-! ## What a berth's draining leaves of the registers, the chain and the output (R245) -/

/-- Registers and the chain are the same, and nothing sent is taken back. -/
structure DrainFrame (s u : State) : Prop where
  regs : u.regs = s.regs
  chn : u.chn = s.chn
  emitted : ∀ e ∈ s.emitted, e ∈ u.emitted

namespace DrainFrame
variable {s t u : State}

theorem refl (s : State) : DrainFrame s s := ⟨rfl, rfl, fun _ h => h⟩
theorem trans (first : DrainFrame s t) (second : DrainFrame t u) : DrainFrame s u :=
  ⟨second.regs.trans first.regs, second.chn.trans first.chn, fun e out => second.emitted e (first.emitted e out)⟩
theorem foldl {β : Type} {f : State → β → State} (each : ∀ s b, DrainFrame s (f s b)) (l : List β) (s : State) :
    DrainFrame s (l.foldl f s) :=
  List.foldlRecOn (motive := DrainFrame s) l f (refl s) fun t kept b _ => kept.trans (each t b)
theorem of_answered {c : BitVec 10} (h : Answered s u c) : DrainFrame s u := ⟨h.regs, (congrArg State.chn h.frame :), h.emitted⟩

variable (s) (b : BitVec 12)

theorem berthNotice (op status : Nat) (d : List (BitVec 8)) : DrainFrame s (berthNotice s b op status d) := .of_answered (.notice ..)
theorem modBerth (f : Berth → Berth) : DrainFrame s (modBerth s b f) := ⟨rfl, rfl, fun _ h => h⟩

theorem closeBlock (vals : List Nat) (last : Bool) (step : Nat) : DrainFrame s (closeBlock s b vals last step) := by
  unfold Machine.closeBlock
  extract_lets e n bytes addr s1 s2
  have written : DrainFrame s s2 := ⟨rfl, rfl, fun _ => List.mem_cons_of_mem _⟩
  exact written.trans (berthNotice s2 b _ _ _)

theorem closePartial : DrainFrame s (closePartial s b) := by
  unfold Machine.closePartial
  extract_lets e
  split
  · exact refl s
  · exact (closeBlock s b _ _ _).trans (modBerth _ b _)

theorem endNotice (cause : EndCause) : DrainFrame s (endNotice s b cause) := by
  unfold Machine.endNotice
  extract_lets e exc pc
  split
  · exact refl s
  · exact refl s
  · exact berthNotice s b _ _ _

theorem countPark (was now : BState) : DrainFrame s (countPark s was now) := by
  obtain ⟨n, parks⟩ := countPark_ctrs s was now
  rw [parks]
  exact ⟨rfl, rfl, fun _ h => h⟩

theorem completeAll (p : Item → Bool) (status : Nat) (d : Item → List (BitVec 8)) : DrainFrame s (completeAll s p status d) :=
  foldl (fun s _ => foldl (fun s _ => .of_answered (.completeItem s _ _ _ _)) _ s) _ s

theorem drainBerth (cause : EndCause) : DrainFrame s (drainBerth s b cause) := by
  unfold Machine.drainBerth startDrain
  extract_lets s1 s2 drain s3
  have noted : DrainFrame s s2 := (closePartial s b).trans (endNotice s1 b cause)
  have drained : DrainFrame s s3 := (noted.trans (countPark s2 _ _)).trans (modBerth _ b drain)
  exact drained.trans (completeAll s3 _ _ _)

end DrainFrame

/-! ## What the faults of routes leave (R370) -/

/-- Ports and lanes are the same, and no register but the flags of CHN, of which none is cleared. -/
structure FaultFrame (s u : State) : Prop where
  ports : u.chn.ports = s.chn.ports
  lanes : u.chn.lanes = s.chn.lanes
  words : ∀ o, o ≠ chnOff + 8 → regWord u o = regWord s o
  flags : ∀ f, flagOn s f = true → flagOn u f = true

namespace FaultFrame
variable {s t u : State}

theorem refl (s : State) : FaultFrame s s := ⟨rfl, rfl, fun _ _ => rfl, fun _ h => h⟩
theorem trans (first : FaultFrame s t) (second : FaultFrame t u) : FaultFrame s u where
  ports := second.ports.trans first.ports
  lanes := second.lanes.trans first.lanes
  words o other := (second.words o other).trans (first.words o other)
  flags f on := second.flags f (first.flags f on)
theorem of_regs (regs : u.regs = s.regs) (ports : u.chn.ports = s.chn.ports) (lanes : u.chn.lanes = s.chn.lanes) : FaultFrame s u :=
  ⟨ports, lanes, fun o _ => regWord_of_regs regs o, fun f on => by rwa [flagOn, regs, ← flagOn]⟩

theorem setFlag (s : State) {f : Flag} (place : f.off = chnOff + 8) : FaultFrame s (setFlag s f) where
  ports := by rw [setFlag_chn]
  lanes := by rw [setFlag_chn]
  words o other := regWord_setFlag s f (place ▸ other)
  flags _ on := flagOn_setFlag_kept _ f on

theorem faultRoute (s : State) (rt cause : Nat) : FaultFrame s (faultRoute s rt cause) := by
  unfold Machine.faultRoute
  extract_lets r s1 e
  have marked : FaultFrame s (setRoute s rt { r with st := 2, cause := cause }) := of_regs rfl rfl rfl
  have flagged : FaultFrame (setRoute s rt { r with st := 2, cause := cause }) s1 :=
    (setFlag _ (f := fRouteFlt) rfl).trans (of_regs (by simp only [s1, bump_regs, setIrqFlag, msix0_regs])
      (by simp only [s1, bump_chn, setIrqFlag, msix0_chn]) (by simp only [s1, bump_chn, setIrqFlag, msix0_chn]))
  have drained := DrainFrame.drainBerth s1 r.berth .outOfService
  split
  · exact refl s
  · split
    · exact marked.trans flagged
    · exact (marked.trans flagged).trans (of_regs drained.regs (by rw [drained.chn]) (by rw [drained.chn]))

theorem faultRoutes (s : State) (p : Route → Bool) (cause : Nat) : FaultFrame s (faultRoutes s p cause) :=
  List.foldlRecOn (motive := FaultFrame s) _ _ (refl s) fun t kept e _ => by
    split
    · exact kept.trans (faultRoute t e.1 cause)
    · exact kept

end FaultFrame

/-! ## Ports (R356–R358) -/

section Ports
variable {s t : State} {k j : Nat}

@[simp] theorem portOf_setPort_same (s : State) (k : Nat) (p : Port) : portOf (setPort s k p) k = p := tabGet_set_same ..
@[simp] theorem portOf_setPort_other (s : State) (p : Port) (other : j ≠ k) : portOf (setPort s k p) j = portOf s j :=
  tabGet_set_other _ _ _ _ _ _ other
theorem portOf_of_ports (ports : t.chn.ports = s.chn.ports) (k : Nat) : portOf t k = portOf s k := by rw [portOf, ports, portOf]

theorem portOf_bump (s : State) (n k : Nat) : portOf (bump s n) k = portOf s k := portOf_of_ports (by rw [bump_chn]) k

theorem portOf_setFlag (s : State) (f : Flag) (k : Nat) : portOf (setFlag s f) k = portOf s k := portOf_of_ports (by rw [setFlag_chn]) k

theorem chnEn_of_words (words : ∀ o, o ≠ chnOff + 8 → regWord t o = regWord s o) : chnEn t = chnEn s := by
  rw [chnEn, regField_of_word (words chnOff (by decide)), chnEn]
theorem portEn_of_words (words : ∀ o, o ≠ chnOff + 8 → regWord t o = regWord s o) (k : Nat) : portEn t k = portEn s k := by
  rw [portEn, regField_of_word (words (chnPortCfg k) (by simp only [chnPortCfg]; omega)), portEn]

theorem startNegotiation_on (on : (chnEn s && portEn s k) = true) :
    startNegotiation s k = bump (setPort s k { portOf s k with link := 1 }) (portCtr k 7) := if_pos on
theorem startNegotiation_off (off : (chnEn s && portEn s k) = false) : startNegotiation s k = s := if_neg (by rw [off]; decide)

/-- A port that is DOWN negotiates again when the chain and the port are enabled. -/
theorem startNegotiation_again (down : (portOf s k).link = 0) :
    portOf (startNegotiation s k) k = { portOf s k with link := if chnEn s && portEn s k then 1 else 0 } := by
  cases enabled : chnEn s && portEn s k
  · rw [startNegotiation_off enabled, if_neg (by decide), ← down]
  · rw [startNegotiation_on enabled, portOf_bump, portOf_setPort_same, if_pos rfl]

theorem flagOn_startNegotiation (s : State) (k : Nat) (f : Flag) : flagOn (startNegotiation s k) f = flagOn s f := by
  cases enabled : chnEn s && portEn s k
  · rw [startNegotiation_off enabled]
  · rw [startNegotiation_on enabled, flagOn_bump]
    rfl

theorem sameMemories_startNegotiation (s : State) (k : Nat) : sameMemories s (startNegotiation s k) := by
  cases enabled : chnEn s && portEn s k
  · rw [startNegotiation_off enabled]
    exact ⟨rfl, rfl, rfl⟩
  · rw [startNegotiation_on enabled]
    exact ⟨bump_store .., bump_pm .., bump_ret ..⟩

/-- A port is cleared, its flag set, and what was in transit counted as dropped. -/
def portCleared (s : State) (k : Nat) : State :=
  addCtr (bump (setFlag (setPort s k { link := 0 }) fLinkEv) (portCtr k 6)) (chnDevCtr 0)
    ((portOf s k).transit.length + (portOf s k).spill.length)

theorem portLost_up (up : (portOf s k).link = 2) : portLost s k 0 =
    faultRoutes (portCleared s k) (fun r => !r.recv && decide (fwdOf s r.peerId.toNat = k)) 1 := by
  simp only [portLost, up, ne_eq, not_true_eq_false, if_false, portCleared]

/-- A port that was UP is as one that has never come up; its flag is set, and only routes fault. -/
theorem portLost_down (up : (portOf s k).link = 2) :
    portOf (portLost s k 0) k = { link := 0 } ∧ flagOn (portLost s k 0) fLinkEv = true ∧
      ∀ o, o ≠ chnOff + 8 → regWord (portLost s k 0) o = regWord s o := by
  have faults := FaultFrame.faultRoutes (portCleared s k) (fun r => !r.recv && decide (fwdOf s r.peerId.toNat = k)) 1
  have regs : (portCleared s k).regs = (setFlag (setPort s k { link := 0 }) fLinkEv).regs := by
    simp only [portCleared, addCtr_regs, bump_regs]
  have chn : (portCleared s k).chn = (setPort s k { link := 0 }).chn := by simp only [portCleared, addCtr_chn, bump_chn, setFlag_chn]
  rw [portLost_up up]
  refine ⟨?_, faults.flags _ ?_, fun o other => (faults.words o other).trans ?_⟩
  · rw [portOf_of_ports faults.ports, portOf_of_ports (congrArg Chain.ports chn), portOf_setPort_same]
  · rw [flagOn, regs, ← flagOn]
    exact flagOn_setFlag_same _ fLinkEv (by decide)
  · rw [regWord_of_regs regs, regWord_setFlag _ _ other]
    rfl

/-- An UP port that goes down negotiates again, with nothing in transit (R357, R358). -/
theorem linkDown_again (up : (portOf s k).link = 2) (exists_ : k < 4) : ∃ u, exec (.linkDown k) s = .next u ∧
    (portOf u k).link = (if chnEn s && portEn s k then 1 else 0) ∧ (portOf u k).transit = [] ∧ flagOn u fLinkEv = true := by
  have regs : (addCtr s (portCtr k 4) 8).regs = s.regs := addCtr_regs ..
  have same : portOf (addCtr s (portCtr k 4) 8) k = portOf s k := portOf_of_ports (by rw [addCtr_chn]) k
  obtain ⟨down, flag, words⟩ := portLost_down (s := addCtr s (portCtr k 4) 8) (same ▸ up)
  have again := startNegotiation_again (s := portLost (addCtr s (portCtr k 4) 8) k 0) (k := k) (by rw [down])
  have kept (o : Nat) (other : o ≠ chnOff + 8) := (words o other).trans (regWord_of_regs regs o)
  rw [down, chnEn_of_words kept, portEn_of_words kept] at again
  have runs : exec (.linkDown k) s = .next (startNegotiation (portLost (addCtr s (portCtr k 4) 8) k 0) k) := by
    rw [show exec (.linkDown k) s = execLinkDown k s from rfl, execLinkDown, if_pos up, portExists, decide_eq_true exists_]
    rfl
  exact ⟨_, runs, by rw [again], by rw [again], (flagOn_startNegotiation ..).trans flag⟩

end Ports

/-! ## Lanes (R359, R98) -/

section Lanes
variable {s : State} {k lane j : Nat} {v : UnitState}

/-- A lane's change is the change of its entry, recorded. -/
theorem setLane_frame (s : State) (k j : Nat) (v : UnitState) : ∃ rt cs view, setLane s k j v =
    { s with chn := { s.chn with lanes := tabSet .spare s.chn.lanes (9 * k + j) v }, ret := rt, ctrs := cs,
             sec := { s.sec with mview := view } } := by
  obtain ⟨rt, cs, view, changed⟩ := unitChanged_frame { s with chn := { s.chn with lanes := tabSet .spare s.chn.lanes (9 * k + j) v } }
    (unitLane k j) (chnLane s k j) v
  exact ⟨rt, cs, view, changed⟩

theorem setLane_chn : (setLane s k j v).chn = { s.chn with lanes := tabSet .spare s.chn.lanes (9 * k + j) v } := by
  obtain ⟨rt, cs, view, set⟩ := setLane_frame s k j v
  rw [set]

@[simp] theorem chnLane_setLane_same : chnLane (setLane s k j v) k j = v := by
  rw [chnLane, setLane_chn]
  exact tabGet_set_same ..
@[simp] theorem chnLane_setLane_other (other : lane ≠ j) : chnLane (setLane s k j v) k lane = chnLane s k lane := by
  rw [chnLane, setLane_chn]
  exact tabGet_set_other _ _ _ _ _ _ (by omega)

theorem ctr_unitChanged {i : Nat} (log : i ≠ obsCtr 7) (quarantines : i ≠ calCtr 10) (s : State) (unit : Nat) (was now : UnitState) :
    ctr (unitChanged s unit was now) i = ctr s i := by
  have logged (code arg : Nat) : ctr (bumpView (logEvent s code unit arg)) i = ctr s i := by
    rw [ctr_of_ctrs (bumpView_ctrs _), logEvent, ctr_bump_other _ _ _ log]
    exact ctr_of_ctrs rfl i
  unfold unitChanged
  split
  · rfl
  · extract_lets s1
    split
    · rw [ctr_bump_other _ _ _ quarantines]
      exact (ctr_of_ctrs rfl i).trans (logged ..)
    · exact logged ..

theorem ctr_setLane {i : Nat} (log : i ≠ obsCtr 7) (quarantines : i ≠ calCtr 10) : ctr (setLane s k j v) i = ctr s i :=
  (ctr_unitChanged log quarantines ..).trans (ctr_of_ctrs rfl i)

/-- The spare lane that takes the place of another one is the lowest that is enabled. -/
def spareLane (s : State) (k : Nat) : Option Nat :=
  (upTo 9).find? (fun j => decide (chnLane s k j = .spare ∧ laneEn s k / 2 ^ j % 2 = 1))

/-- The lane that leaves service is no spare before or after it. -/
theorem spareLane_of_find (serves : chnLane s k lane = .active) (spare : (upTo 9).find? (fun j =>
      decide (chnLane (setLane s k lane .outOfService) k j = .spare ∧ laneEn s k / 2 ^ j % 2 = 1)) = some j) :
    spareLane s k = some j := by
  have same (i : Nat) : chnLane (setLane s k lane .outOfService) k i = .spare ↔ chnLane s k i = .spare := by
    by_cases this : i = lane
    · rw [this, chnLane_setLane_same, serves]
      decide
    · rw [chnLane_setLane_other this]
  simpa only [same, spareLane] using spare

/-- The ACTIVE lane of an UP port goes OUT_OF_SERVICE and the spare takes its place. -/
theorem switchLane_switches (up : (portOf s k).link = 2) (serves : chnLane s k lane = .active) (spare : spareLane s k = some j) :
    chnLane (switchLane s k lane) k lane = .outOfService ∧ chnLane (switchLane s k lane) k j = .active ∧
      ctr (switchLane s k lane) (portCtr k 5) = ctr s (portCtr k 5) + 1 ∧ (switchLane s k lane).chn.ports = s.chn.ports := by
  have isSpare : chnLane s k j = .spare := by
    rw [spareLane] at spare
    exact (of_decide_eq_true (List.find?_some spare :)).1
  have apart : j ≠ lane := by rintro rfl; rw [serves] at isSpare; cases isSpare
  have switches : switchLane s k lane =
      bump (setLane (setLane (setLane s k j .active) k lane .draining) k lane .outOfService) (portCtr k 5) := by
    rw [spareLane] at spare
    simp only [switchLane, up, serves, spare, ne_eq, not_true_eq_false, or_self, if_false]
  have log : portCtr k 5 ≠ obsCtr 7 := by simp only [portCtr, obsCtr]; omega
  have quarantines : portCtr k 5 ≠ calCtr 10 := by simp only [portCtr, calCtr]; omega
  have lanes (i : Nat) (t : State) : chnLane (bump t (portCtr k 5)) k i = chnLane t k i := by rw [chnLane, bump_chn, chnLane]
  rw [switches, lanes, lanes]
  refine ⟨chnLane_setLane_same, ?_, ?_, ?_⟩
  · rw [chnLane_setLane_other apart, chnLane_setLane_other apart, chnLane_setLane_same]
  · rw [ctr_bump_same, ctr_setLane log quarantines, ctr_setLane log quarantines, ctr_setLane log quarantines]
  · rw [bump_chn, setLane_chn, setLane_chn, setLane_chn]

end Lanes

/-! ## The configuration word of a port (R357, R373) -/

section PortCfg
variable {s : State} {k : Nat} {w : BitVec 32}

theorem portCfgWord_fields (v : Nat) : portCfgWord v < 2 ^ 32 ∧ bitsOf (portCfgWord v) 0 0 = bitsOf v 0 0 := by
  have enable := bitsOf_lt (h := 0) (l := 0) v
  have rate : Nat.min 2 (bitsOf v 2 1) ≤ 2 := Nat.min_le_left _ _
  have lanes := bitsOf_lt (h := 11) (l := 3) v
  have id : clampNat 6 15 (bitsOf v 15 12) ≤ 15 := by simp only [clampNat]; split <;> [decide; (split <;> omega)]
  simp only [portCfgWord]
  generalize clampNat 6 15 (bitsOf v 15 12) = id at *
  generalize bitsOf v 0 0 = enable at *
  generalize Nat.min 2 (bitsOf v 2 1) = rate at *
  generalize bitsOf v 11 3 = lanes at *
  simp only [bitsOf]
  omega

/-- The configuration word has been stored. -/
def portStored (s : State) (k : Nat) (w : BitVec 32) : State := putNat s (chnPortCfg k) (portCfgWord w.toNat)

theorem applyWord_portEnable (ready : s.clk.ready = true) (inRange : k < 4) (unlocked : s.sec.polLock = false)
    (was : portEn s k = false) (en : bitsOf w.toNat 0 0 = 1) :
    applyWord s false none (chnPortCfg k) w = .done (bumpView (startNegotiation (portStored s k w) k)) := by
  have block : chnPortCfg k / 0x10000 = 9 ∧ chnPortCfg k % 0x10000 = 0x100 + 16 * k := by simp only [chnPortCfg, chnOff]; omega
  obtain ⟨block, place⟩ := block
  have page : 0x100 + 16 * k < 0x140 ∧ (0x100 + 16 * k) % 16 = 0 ∧ 0x100 + 16 * k ≠ 4 ∧ 0x100 + 16 * k ≠ 8 ∧
      0x100 + 16 * k ≠ 12 := by omega
  obtain ⟨high, first, n4, n8, n12⟩ := page
  simp [applyWord, ready, block, place, writeChn, high, first, n4, n8, n12, writePortCfg, cfgWrite, policyWrite, lockHolds,
    unlocked, was, en, portStored]

theorem portStored_enabled (chain : chnEn s = true) (en : bitsOf w.toNat 0 0 = 1) :
    (chnEn (portStored s k w) && portEn (portStored s k w) k) = true := by
  obtain ⟨bound, enable⟩ := portCfgWord_fields w.toNat
  have kept : chnEn (portStored s k w) = true := by
    rw [chnEn, portStored, regField_putNat_other (by simp only [chnPortCfg]; omega), ← chnEn, chain]
  rw [kept, portEn, portStored, regField_putNat_same bound, enable, en]
  rfl

theorem hostWord_portEnable (live : alive s = true) (ready : s.clk.ready = true) (inRange : k < 4) (unlocked : s.sec.polLock = false)
    (was : portEn s k = false) (chain : chnEn s = true) (en : bitsOf w.toNat 0 0 = 1) :
    hostWord s (chnPortCfg k) w = bumpView (bump (setPort (portStored s k w) k { portOf s k with link := 1 }) (portCtr k 7)) := by
  have negotiates := startNegotiation_on (portStored_enabled (k := k) chain en)
  have applied := applyWord_portEnable ready inRange unlocked was en
  rw [negotiates] at applied
  refine hostWord_block (blk := 9) live applied ?_ (by decide)
  have block : chnPortCfg k / 0x10000 = 9 := by simp only [chnPortCfg, chnOff]; omega
  exact (block ▸ OnlyBlock.putNat (chnPortCfg k) (portCfgWord w.toNat)).trans (.of_regs 9 (by rw [bumpView_regs, bump_regs]; rfl)
    (by simp only [bumpView, bump_sec, setPort, portStored]))

end PortCfg

/-- Settles O40: a port's start and end of negotiation (`startNegotiation_again`), its lanes (`switchLane_switches`) and its loss
(`linkDown_again`).  That the link is in TRAIN at once after LINK_DOWN is the model's choice of log 56. -/
theorem chainPorts : Obligations.ChainPorts := by
  unfold Obligations.ChainPorts
  intro s k inRange p again
  have here : portExists k = true := decide_eq_true inRange
  have negotiation (r : Negotiated) : exec (.negotiationDone k r) s = .next (negotiated s k r) := by
    rw [show exec (.negotiationDone k r) s = execNegotiationDone k r s from rfl, execNegotiationDone, here]; rfl
  have retry : exec (.negotiationRetry k) s = .next (if (portOf s k).link = 0 then startNegotiation s k else s) := by
    rw [show exec (.negotiationRetry k) s = execNegotiationRetry k s from rfl, execNegotiationRetry, here]; rfl
  refine ⟨?_, fun r train => ⟨?_, ?_, ?_⟩, ?_, ?_, ?_, fun up => linkDown_again up inRange⟩
  · intro w live ready unlocked was chain en
    have runs : exec (.portEnable k w) s = .next (hostWord s (chnPortCfg k) w) := by
      rw [show exec (.portEnable k w) s = execPortEnable k w s from rfl, execPortEnable, here]; rfl
    rw [hostWord_portEnable live ready inRange unlocked was chain en] at runs
    have port (i : Nat) : portOf (bumpView (bump (setPort (portStored s k w) k { portOf s k with link := 1 }) (portCtr k 7))) i =
        portOf (setPort (portStored s k w) k { portOf s k with link := 1 }) i := portOf_of_ports (by rw [bumpView_chn, bump_chn]) i
    refine ⟨_, runs, ?_, ?_, fun j other => ?_, ?_, ?_⟩
    · rw [portEn, regField_of_regs (s := portStored s k w) (by rw [bumpView_regs, bump_regs]; rfl), ← portEn]
      exact (Bool.and_eq_true_iff.1 (portStored_enabled chain en)).2
    · rw [port, portOf_setPort_same]
    · rw [port, portOf_setPort_other _ _ other]
      rfl
    · rw [ctr_of_ctrs (bumpView_ctrs _), ctr_bump_same]
      exact congrArg (· + 1) (ctr_of_ctrs rfl _)
    · exact ⟨rfl, rfl, rfl⟩
  · intro duplicate
    refine ⟨_, negotiation r, ?_⟩
    have held : negotiated s k r = setFlag (setPort s k { p with link := 3, partner := r.partner, pport := r.pport }) fDupId := by
      simp only [negotiated, train, p, duplicate, ne_eq, not_true_eq_false, false_and, if_false, if_true]
    rw [held]
    refine ⟨?_, flagOn_setFlag_same _ _ (by decide), ?_⟩
    · rw [portOf_setFlag, portOf_setPort_same]
    · rw [setFlag_chn]
      rfl
  · intro rate x4 other found
    refine ⟨_, negotiation r, ?_⟩
    have up : negotiated s k r = setFlag (setPort (settleLanes s k r (some (rate, x4))) k
        { p with link := 2, rate := rate, x4 := x4, partner := r.partner, pport := r.pport }) fLinkEv := by
      simp only [negotiated, train, p, other, found, ne_eq, not_true_eq_false, false_and, if_false]
    rw [up]
    exact ⟨flagOn_setFlag_same _ _ (by decide), by rw [portOf_setFlag, portOf_setPort_same]⟩
  · intro other none_
    refine ⟨_, negotiation r, ?_⟩
    have down : negotiated s k r = setPort (settleLanes s k r none) k { p with link := 0 } := by
      simp only [negotiated, train, p, other, none_, ne_eq, not_true_eq_false, false_and, if_false]
    rw [down, portOf_setPort_same]
  · intro down
    rw [if_pos down] at retry
    exact ⟨_, retry, startNegotiation_again down, sameMemories_startNegotiation s k⟩
  · intro notDown
    rw [retry, if_neg notDown]
  · intro lane j lane9 up serves spare i listed
    have isSpare : spareLane s k = some j := spareLane_of_find serves spare
    simp only [List.mem_cons, List.not_mem_nil, or_false] at listed
    rcases listed with rfl | rfl
    · have runs : exec (.laneFail k lane) s = .next (switchLane s k lane) := by
        rw [show exec (.laneFail k lane) s = execLaneFail k lane s from rfl, execLaneFail, here, decide_eq_true lane9]; rfl
      exact ⟨_, runs, switchLane_switches up serves isSpare⟩
    · have runs : exec (.controlFrame k lane) s = .next (switchLane (bump s (portCtr k 1)) k lane) := by
        rw [show exec (.controlFrame k lane) s = execControlFrame k lane s from rfl, execControlFrame, here, decide_eq_true lane9, if_pos up]
        rfl
      have chn : (bump s (portCtr k 1)).chn = s.chn := bump_chn ..
      have lanes (x : Nat) : chnLane (bump s (portCtr k 1)) k x = chnLane s k x := by rw [chnLane, chn, chnLane]
      have same : spareLane (bump s (portCtr k 1)) k = spareLane s k := by
        simp only [spareLane, lanes, laneEn, regField_of_regs (bump_regs s (portCtr k 1))]
        rfl
      obtain ⟨out, serving, counted, ports⟩ := switchLane_switches (s := bump s (portCtr k 1)) (lane := lane) (j := j)
        ((congrArg Port.link (portOf_bump ..)).trans up) ((lanes lane).trans serves) (same.trans isSpare)
      refine ⟨_, runs, out, serving, counted.trans ?_, ports.trans (by rw [chn])⟩
      rw [ctr_bump_other _ _ _ (by simp only [portCtr]; omega)]

/-! ## Frames that arrive (R361–R364, R369) -/

section Frames
variable {s t : State} {k : Nat} {f : List (BitVec 8)}

/-- A frame that has crossed a link counts on its port. -/
def frameCounted (s : State) (k : Nat) (f : List (BitVec 8)) : State := addCtr (bump s (portCtr k 1)) (portCtr k 3) f.length

/-- A DATA or CREDIT frame of a length that R363 allows. -/
def formed (f : List (BitVec 8)) : Prop := (hdr f 3 0 = 1 ∨ hdr f 3 0 = 2) ∧ hdr f 156 144 ≤ 4096 ∧ f.length = 48 + hdr f 156 144

theorem frameArrives_unformed (up : (portOf s k).link = 2) (noControl : hdr f 3 0 ≠ 3) (bad : ¬ formed f) :
    frameArrives s k f = bump (frameCounted s k f) (chnDevCtr 2) := by
  have dropped : (hdr f 3 0 ≠ 1 ∧ hdr f 3 0 ≠ 2) ∨ 4096 < hdr f 156 144 ∨ f.length ≠ 48 + hdr f 156 144 := by
    simp only [formed] at bad
    omega
  simp only [frameArrives, up, ne_eq, not_true_eq_false, if_false, noControl]
  exact if_pos dropped

theorem frameArrives_formed (up : (portOf s k).link = 2) (whole : formed f) : frameArrives s k f =
    if hdr f 20 8 = devId s ∨ fwdOf s (hdr f 20 8) = 4 then localFrame (frameCounted s k f) f
    else if hdr f 52 40 = 0 then bump (frameCounted s k f) (chnDevCtr 1)
    else if 4 ≤ fwdOf s (hdr f 20 8) ∨ fwdOf s (hdr f 20 8) = k ∨ (portOf s (fwdOf s (hdr f 20 8))).link ≠ 2
      then bump (frameCounted s k f) (chnDevCtr 0)
    else queueTransit (frameCounted s k f) (fwdOf s (hdr f 20 8)) (setHops f (hdr f 52 40 - 1)) := by
  have kept : ¬ ((hdr f 3 0 ≠ 1 ∧ hdr f 3 0 ≠ 2) ∨ 4096 < hdr f 156 144 ∨ f.length ≠ 48 + hdr f 156 144) := by
    simp only [formed] at whole
    omega
  have noControl : hdr f 3 0 ≠ 3 := by
    simp only [formed] at whole
    omega
  simp only [frameArrives, up, ne_eq, not_true_eq_false, if_false, noControl]
  exact if_neg kept

/-- The count of a frame, and of its drop, change nothing but counters. -/
theorem bump_frameCounted (s : State) (k n : Nat) (f : List (BitVec 8)) : { bump (frameCounted s k f) n with ctrs := s.ctrs } = s := by
  simp only [bump, frameCounted, addCtr]

theorem ctr_frameCounted {i : Nat} (apart : i ≠ portCtr k 1 ∧ i ≠ portCtr k 3) : ctr (frameCounted s k f) i = ctr s i := by
  rw [frameCounted, ctr_addCtr_other _ _ _ _ apart.2, ctr_bump_other _ _ _ apart.1]

theorem ctr_frameCounted_port : ctr (frameCounted s k f) (portCtr k 1) = ctr s (portCtr k 1) + 1 := by
  rw [frameCounted, ctr_addCtr_other _ _ _ _ (by simp only [portCtr]; omega), ctr_bump_same]

theorem frameCounted_chn : (frameCounted s k f).chn = s.chn := by rw [frameCounted, addCtr_chn, bump_chn]
theorem frameCounted_sec : (frameCounted s k f).sec = s.sec := by rw [frameCounted, addCtr_sec, bump_sec]
theorem frameCounted_store : (frameCounted s k f).store = s.store := by rw [frameCounted, addCtr_store, bump_store]
theorem frameCounted_pm : (frameCounted s k f).pm = s.pm := by rw [frameCounted, addCtr_pm, bump_pm]
theorem frameCounted_ret : (frameCounted s k f).ret = s.ret := by rw [frameCounted, addCtr_ret, bump_ret]
theorem frameCounted_berths : (frameCounted s k f).berths = s.berths := by rw [frameCounted, addCtr_berths, bump_berths]
theorem frameCounted_mods : (frameCounted s k f).mods = s.mods := by rw [frameCounted, addCtr_mods, bump_mods]

theorem sameMemories_frameCounted : sameMemories s (frameCounted s k f) := ⟨frameCounted_store, frameCounted_pm, frameCounted_ret⟩
theorem ctr_setPort (s : State) (k : Nat) (p : Port) (i : Nat) : ctr (setPort s k p) i = ctr s i := rfl
theorem sameMemories_setPort (s : State) (k : Nat) (p : Port) : sameMemories s (setPort s k p) := ⟨rfl, rfl, rfl⟩

theorem length_setHops (h : Nat) (whole : formed f) : (setHops f h).length = f.length := by
  have long : 48 ≤ f.length := by rw [whole.2.2]; exact Nat.le_add_right ..
  rw [setHops, List.length_append, length_natLe, List.length_drop]
  omega

/-- A transit frame that finds room waits in its port's buffer (R365). -/
theorem queueTransit_waits {p : Nat} (noSpill : (portOf t p).spill = []) (room : framesLen (portOf t p).transit + f.length ≤ 262144) :
    queueTransit t p f = setPort t p { portOf t p with transit := (portOf t p).transit ++ [f] } := by
  simp only [queueTransit, noSpill, List.isEmpty_nil, room, and_self, if_true]

theorem hubPm_chn (s : State) (c : BitVec 10) (wr : Bool) (a n : Nat) : (hubPm s c wr a n).chn = s.chn :=
  (congrArg State.chn (hubPm_frame s c wr a n) :)

/-- The bytes of a DATA frame are in the input range of its route's berth. -/
def dataLanded (t : State) (rt q : Nat) (payload : List (BitVec 8)) : State :=
  let b := (routeAt t rt).berth
  let e := berth t b
  let m := berthModel t e
  let a := frameAddr e m e.framesIn
  chainBytes (setBerth (hubPm (pmPut (stepSeq t q) a (payload.take m.frameBytes)) e.client true a m.frameBytes) b
    { e with framesIn := e.framesIn + 1 }) e.client payload.length

/-- DATA of a live key for an UP receive route, in sequence, lands in the berth's input range. -/
theorem localData_lands {key : TKey} {payload : List (BitVec 8)} (live : jobKey t (hdr f 79 64) (hdr f 63 56) = some key)
    (up : (routeAt t (hdr f 91 80)).st = 1) (receives : (routeAt t (hdr f 91 80)).recv = true)
    (peer : (routeAt t (hdr f 91 80)).peerId.toNat = hdr f 36 24) (job : (routeAt t (hdr f 91 80)).job.toNat = hdr f 79 64)
    (opens : openFrame key f = some payload)
    (inOrder : hdr f 143 96 = seqOf t (seqKey (hdr f 91 80) 1 (hdr f 79 64) (hdr f 63 56))) :
    localData t f = dataLanded t (hdr f 91 80) (seqKey (hdr f 91 80) 1 (hdr f 79 64) (hdr f 63 56)) payload := by
  simp only [localData, live, up, receives, peer, job, opens, inOrder, ne_eq, not_true_eq_false, Bool.not_true, Bool.false_eq_true,
    or_self, if_false, dataLanded]

/-- Credits have come back to a route, to at most its own. -/
def creditsAdded (t : State) (rt q n : Nat) : State :=
  setRoute (stepSeq t q) rt { routeAt t rt with avail := Nat.min (routeAt t rt).credits ((routeAt t rt).avail + n) }

/-- CREDIT of a live key for an UP send route, in sequence, adds its credits, to at most the route's own. -/
theorem localCredit_adds {key : TKey} {payload : List (BitVec 8)} (live : jobKey t (hdr f 79 64) (hdr f 63 56) = some key)
    (up : (routeAt t (hdr f 91 80)).st = 1) (sends : (routeAt t (hdr f 91 80)).recv = false)
    (peer : (routeAt t (hdr f 91 80)).peerId.toNat = hdr f 36 24) (job : (routeAt t (hdr f 91 80)).job.toNat = hdr f 79 64)
    (opens : openFrame key f = some payload)
    (inOrder : hdr f 143 96 = seqOf t (seqKey (hdr f 91 80) 1 (hdr f 79 64) (hdr f 63 56))) :
    localCredit t f = creditsAdded t (hdr f 91 80) (seqKey (hdr f 91 80) 1 (hdr f 79 64) (hdr f 63 56)) (hdr f 175 160) := by
  simp [localCredit, live, up, sends, peer, job, opens, inOrder, creditsAdded]

@[simp] theorem routeAt_setRoute_same (s : State) (rt : Nat) (r : Route) : routeAt (setRoute s rt r) rt = r := tabGet_set_same ..
theorem routeAt_of_routes (routes : t.chn.routes = s.chn.routes) (rt : Nat) : routeAt t rt = routeAt s rt := by
  rw [routeAt, routes, routeAt]

/-- What a frame that lands leaves: the berth's count, its bytes and the sequence. -/
theorem dataLanded_frame (t : State) (rt q : Nat) (payload : List (BitVec 8)) {b : BitVec 12} {e : Berth} {m : ModelDecl}
    (isBerth : (routeAt t rt).berth = b) (isEntry : berth t b = e) (isModel : berthModel t e = m) :
    let u := dataLanded t rt q payload
    berth u b = { e with framesIn := e.framesIn + 1 } ∧ onlyBerth t u b ∧
      u.pm = memPutBytes t.pm (frameAddr e m e.framesIn) (payload.take m.frameBytes) ∧ u.store = t.store ∧ seqOf u q = seqOf t q + 1 := by
  have berths : (dataLanded t rt q payload).berths = (setBerth t b { e with framesIn := e.framesIn + 1 }).berths := by
    simp only [dataLanded, isBerth, isEntry, chainBytes, modAct_berths, setBerth_berths, hubPm_berths]
    rfl
  refine ⟨?_, fun j other => ?_, ?_, ?_, ?_⟩
  · rw [berth_of_berths berths, berth_setBerth_same]
  · rw [berth_of_berths berths, berth_setBerth_other _ _ _ _ other]
  · simp only [dataLanded, isBerth, isEntry, isModel, chainBytes, modAct_pm, setBerth_pm, hubPm_pm]
    rfl
  · simp only [dataLanded, chainBytes, modAct_store, setBerth_store, hubPm_store]
    rfl
  · have chn : (dataLanded t rt q payload).chn = (stepSeq t q).chn := by
      simp only [dataLanded, chainBytes, modAct_chn, setBerth_chn, hubPm_chn]
      rfl
    rw [seqOf, chn]
    exact tabGet_set_same 0 t.chn.seqs q (seqOf t q + 1)

theorem creditsAdded_adds (t : State) (rt q n : Nat) : sameMemories t (creditsAdded t rt q n) ∧ routeAt (creditsAdded t rt q n) rt =
    { routeAt t rt with avail := Nat.min (routeAt t rt).credits ((routeAt t rt).avail + n) } :=
  ⟨⟨rfl, rfl, rfl⟩, routeAt_setRoute_same ..⟩

end Frames

/-! ## CHN_RT_CMD (R367, R370, R373) -/

section RouteCmd
variable {s t : State} {w : BitVec 32}

theorem applyWord_routeCmd (ready : s.clk.ready = true) : applyWord s false none (chnOff + 0x414) w =
    if routeBusy s then .ignored s else .done (routeCmd s w.toNat) := by
  simp [applyWord, ready, chnOff, writeChn]

/-- While a disable waits for its boundary the command is ignored, with `wign` (R370, R453). -/
theorem hostWord_routeCmd_busy (live : alive s = true) (ready : s.clk.ready = true) (busy : routeBusy s = true) :
    hostWord s (chnOff + 0x414) w = setFlag s fChnWign := by
  have ignored := applyWord_routeCmd (w := w) ready
  rw [busy, if_pos rfl] at ignored
  rw [hostWord_ignored live ignored]
  rfl

/-- The command word has been stored. -/
def cmdStored (s : State) (v : Nat) : State := putNat s (chnOff + 0x414) (v % 4)

theorem cmdStored_word (v : Nat) {o : Nat} (other : o ≠ chnOff + 0x414) : regWord (cmdStored s v) o = regWord s o :=
  regWord_putNat_other _ _ _ other
theorem cmdStored_field (v : Nat) {o : Nat} (other : o ≠ chnOff + 0x414) (h l : Nat) : regField (cmdStored s v) o h l = regField s o h l :=
  regField_of_word (cmdStored_word v other)

theorem rtSel_cmdStored (v : Nat) : rtSel (cmdStored s v) = rtSel s := cmdStored_field v (by decide) _ _
theorem routeAt_cmdStored (v rt : Nat) : routeAt (cmdStored s v) rt = routeAt s rt := routeAt_of_routes rfl rt

theorem chnRtData_ne (i : Nat) (inRange : i < 4) : chnRtData i ≠ chnOff + 0x414 := by simp only [chnRtData]; omega

theorem routeOfData_cmdStored (v : Nat) : routeOfData (cmdStored s v) = routeOfData s := by
  have data (i : Nat) (inRange : i < 4) (h l : Nat) := cmdStored_field (s := s) v (chnRtData_ne i inRange) h l
  simp only [routeOfData, data 0 (by decide), data 1 (by decide), data 2 (by decide), data 3 (by decide)]

/-- What R367 asks of an entry is read from berths, keys, routes and the audio routes. -/
theorem routeAccepted_cmdStored (v rt : Nat) (r : Route) : routeAccepted (cmdStored s v) rt r = routeAccepted s rt r := by
  have route (i h l : Nat) (inRange : i < 112) :
      regField (cmdStored s v) (audRoute (i / 2) (i % 2)) h l = regField s (audRoute (i / 2) (i % 2)) h l :=
    cmdStored_field v (by simp only [audRoute, audOff, chnOff]; omega) h l
  have routes : (upTo 112).all (fun i => !(decide (regField (cmdStored s v) (audRoute (i / 2) (i % 2)) 15 15 = 1)
      && decide (regField (cmdStored s v) (audRoute (i / 2) (i % 2)) 11 0 = r.berth.toNat))) =
      (upTo 112).all (fun i => !(decide (regField s (audRoute (i / 2) (i % 2)) 15 15 = 1)
        && decide (regField s (audRoute (i / 2) (i % 2)) 11 0 = r.berth.toNat))) := by
    rw [Bool.eq_iff_iff, List.all_eq_true, List.all_eq_true]
    refine forall₂_congr fun i listed => ?_
    rw [route i _ _ (List.mem_range.1 listed), route i _ _ (List.mem_range.1 listed)]
  simp only [routeAccepted, routes]
  rfl

/-- A command that finds none under way runs, where it leaves the levels alone. -/
theorem hostWord_routeCmd (live : alive s = true) (ready : s.clk.ready = true) (idle : routeBusy s = false)
    (only : OnlyBlock s (routeCmd s w.toNat) 9) : hostWord s (chnOff + 0x414) w = routeCmd s w.toNat := by
  refine hostWord_block live ?_ only (by decide)
  rw [applyWord_routeCmd ready, idle, if_neg Bool.false_ne_true]

theorem setRoute_onlyBlock (t : State) (rt : Nat) (r : Route) : OnlyBlock t (setRoute t rt r) 9 := .of_regs 9 rfl rfl
theorem cmdStored_onlyBlock (v : Nat) : OnlyBlock s (cmdStored s v) 9 := .putNat (chnOff + 0x414) (v % 4)

theorem enableRoute_accepts (off : (routeAt s (rtSel s)).st = 0) (accepted : routeAccepted s (rtSel s) (routeOfData s) = true) (v : Nat) :
    enableRoute (cmdStored s v) = setRoute (cmdStored s v) (rtSel s) { routeOfData s with
      st := 1, avail := if (routeOfData s).recv then 0 else (routeOfData s).credits,
      credited := (berth s (routeOfData s).berth).framesFreed } := by
  have runs : ¬ ((routeAt s (rtSel s)).st ≠ 0 ∨ (!routeAccepted s (rtSel s) (routeOfData s)) = true) := by
    rw [off, accepted]; decide
  simp only [enableRoute, rtSel_cmdStored, routeOfData_cmdStored, routeAccepted_cmdStored, routeAt_cmdStored]
  exact if_neg runs

theorem enableRoute_refuses (bad : (routeAt s (rtSel s)).st ≠ 0 ∨ routeAccepted s (rtSel s) (routeOfData s) = false) (v : Nat) :
    enableRoute (cmdStored s v) = setFlag (cmdStored s v) fRtBad := by
  have refuses : (routeAt s (rtSel s)).st ≠ 0 ∨ (!routeAccepted s (rtSel s) (routeOfData s)) = true := by
    rwa [Bool.not_eq_true']
  simp only [enableRoute, rtSel_cmdStored, routeOfData_cmdStored, routeAccepted_cmdStored, routeAt_cmdStored]
  exact if_pos refuses

theorem disableRoute_receive (up : (routeAt s (rtSel s)).st = 1) (receives : (routeAt s (rtSel s)).recv = true) (v : Nat) :
    disableRoute (cmdStored s v) = setRoute (cmdStored s v) (rtSel s) { routeAt s (rtSel s) with st := 0, cause := 0 } := by
  simp [disableRoute, rtSel_cmdStored, routeAt_cmdStored, up, receives]

theorem disableRoute_send (up : (routeAt s (rtSel s)).st = 1) (sends : (routeAt s (rtSel s)).recv = false) (v : Nat) :
    disableRoute (cmdStored s v) = setRoute (cmdStored s v) (rtSel s) { routeAt s (rtSel s) with offDue := true } := by
  simp [disableRoute, rtSel_cmdStored, routeAt_cmdStored, up, sends]

/-- The words of an entry as the data registers show them. -/
def routeWord (r : Route) (i : Nat) : Nat :=
  match i with
  | 0 => r.berth.toNat + (if r.recv then 2 ^ 12 else 0) + r.job.toNat * 2 ^ 16
  | 1 => r.peerId.toNat + r.peerRt.toNat * 2 ^ 16
  | 2 => r.area + r.credits * 2 ^ 25
  | _ => r.len + r.hopLim.toNat * 2 ^ 13

theorem readRoute_eq : readRoute t = putNat (putNat (putNat (putNat t (chnRtData 0) (routeWord (routeAt t (rtSel t)) 0))
    (chnRtData 1) (routeWord (routeAt t (rtSel t)) 1)) (chnRtData 2) (routeWord (routeAt t (rtSel t)) 2))
    (chnRtData 3) (routeWord (routeAt t (rtSel t)) 3) := rfl

theorem readRoute_reads : regWord (readRoute t) (chnRtData 1) = BitVec.ofNat 32 (routeWord (routeAt t (rtSel t)) 1) ∧
    regWord (readRoute t) (chnRtData 3) = BitVec.ofNat 32 (routeWord (routeAt t (rtSel t)) 3) := by
  rw [readRoute_eq]
  exact ⟨by rw [regWord_putNat_other _ _ _ (by decide), regWord_putNat_other _ _ _ (by decide), regWord_putNat_same],
    regWord_putNat_same ..⟩

theorem readRoute_onlyBlock : OnlyBlock t (readRoute t) 9 := by
  have put (t : State) (i v : Nat) (inRange : i < 4) : OnlyBlock t (putNat t (chnRtData i) v) 9 := by
    have place : chnRtData i / 0x10000 = 9 := by simp only [chnRtData, chnOff]; omega
    exact place ▸ .putNat (chnRtData i) v
  rw [readRoute_eq]
  exact (((put _ 0 _ (by decide)).trans (put _ 1 _ (by decide))).trans (put _ 2 _ (by decide))).trans (put _ 3 _ (by decide))

theorem readRoute_frame : (readRoute t).chn = t.chn ∧ sameMemories t (readRoute t) := by
  have put (t : State) (o v : Nat) : (putNat t o v).chn = t.chn ∧ sameMemories t (putNat t o v) := ⟨rfl, rfl, rfl, rfl⟩
  rw [readRoute_eq]
  generalize routeWord (routeAt t (rtSel t)) = word
  obtain ⟨chn0, memories0⟩ := put t (chnRtData 0) (word 0)
  obtain ⟨chn1, memories1⟩ := put (putNat t (chnRtData 0) (word 0)) (chnRtData 1) (word 1)
  obtain ⟨chn2, memories2⟩ := put (putNat (putNat t (chnRtData 0) (word 0)) (chnRtData 1) (word 1)) (chnRtData 2) (word 2)
  obtain ⟨chn3, memories3⟩ := put (putNat (putNat (putNat t (chnRtData 0) (word 0)) (chnRtData 1) (word 1)) (chnRtData 2) (word 2))
    (chnRtData 3) (word 3)
  exact ⟨chn3.trans (chn2.trans (chn1.trans chn0)), ((memories0.trans memories1).trans memories2).trans memories3⟩

end RouteCmd

/-! ## ROUTE_TIMEOUT (R370) -/

section Timeout
variable {s : State} {rt : Nat} {cause : Nat}

/-- The entry of a route shows its fault, and the fault is told. -/
def faultMarked (s : State) (rt cause : Nat) : State :=
  bump (setIrqFlag (setRoute s rt { routeAt s rt with st := 2, cause := cause }) fRouteFlt) (chnDevCtr 7)

theorem faultMarked_marks : routeAt (faultMarked s rt cause) rt = { routeAt s rt with st := 2, cause := cause } ∧
    flagOn (faultMarked s rt cause) fRouteFlt = true ∧ Emit.msix 0 ∈ (faultMarked s rt cause).emitted := by
  have chn : (faultMarked s rt cause).chn = (setRoute s rt { routeAt s rt with st := 2, cause := cause }).chn := by
    simp only [faultMarked, bump_chn, setIrqFlag, msix0_chn, setFlag_chn]
  refine ⟨?_, ?_, ?_⟩
  · exact (routeAt_of_routes (congrArg Chain.routes chn) rt).trans (routeAt_setRoute_same ..)
  · rw [faultMarked, flagOn_bump, flagOn, setIrqFlag, msix0_regs, ← flagOn]
    exact flagOn_setFlag_same _ _ (by decide)
  · rw [faultMarked, bump_emitted, setIrqFlag, msix0, addCtr_emitted, emit_emitted]
    exact List.mem_cons_self

theorem faultRoute_up (up : (routeAt s rt).st = 1) : faultRoute s rt cause =
    (let e := berth (faultMarked s rt cause) (routeAt s rt).berth
     if e.st = .free ∨ e.st = .draining then faultMarked s rt cause
     else drainBerth (faultMarked s rt cause) (routeAt s rt).berth .outOfService) := if_neg (not_not.2 up)

/-- A route that is UP faults: its entry, its flag, entry 0; its berth leaves as for loss of a unit. -/
theorem faultRoute_faults (up : (routeAt s rt).st = 1) : routeAt (faultRoute s rt cause) rt = { routeAt s rt with st := 2, cause := cause } ∧
    flagOn (faultRoute s rt cause) fRouteFlt = true ∧ Emit.msix 0 ∈ (faultRoute s rt cause).emitted := by
  obtain ⟨route, flag, sent⟩ := faultMarked_marks (s := s) (rt := rt) (cause := cause)
  rw [faultRoute_up up]
  dsimp only
  split
  · exact ⟨route, flag, sent⟩
  · have drained := DrainFrame.drainBerth (faultMarked s rt cause) (routeAt s rt).berth .outOfService
    exact ⟨(routeAt_of_routes (by rw [drained.chn]) rt).trans route, by rwa [flagOn, drained.regs, ← flagOn], drained.emitted _ sent⟩

end Timeout

/-- Settles O41: a frame that arrives on an UP port is dropped, queued or taken (`frameArrives_unformed`, `frameArrives_formed`,
`localData_lands`, `localCredit_adds`); a route command runs or is ignored (`hostWord_routeCmd`); a route times out
(`faultRoute_faults`).  That a frame of the wrong length counts as one of a reserved type is the model's choice of log 186. -/
theorem chainFramesAndRoutes : Obligations.ChainFramesAndRoutes := by
  unfold Obligations.ChainFramesAndRoutes
  intro s k f inRange rt r job q p isFormed mine
  have here : portExists k = true := decide_eq_true inRange
  have data : exec (.dataFrame k f) s = .next (frameArrives s k f) := by
    rw [show exec (.dataFrame k f) s = execDataFrame k f s from rfl, execDataFrame, here]; rfl
  have credit : exec (.creditFrame k f) s = .next (frameArrives s k f) := by
    rw [show exec (.creditFrame k f) s = execCreditFrame k f s from rfl, execCreditFrame, here]; rfl
  have chn := frameCounted_chn (s := s) (k := k) (f := f)
  have key_ (j e : Nat) : jobKey (frameCounted s k f) j e = jobKey s j e := by rw [jobKey, jobKeys, frameCounted_sec, ← jobKeys, ← jobKey]
  have route : routeAt (frameCounted s k f) rt = r := routeAt_of_routes (by rw [chn]) rt
  have seq : seqOf (frameCounted s k f) q = seqOf s q := by rw [seqOf, chn, seqOf]
  refine ⟨fun up => ⟨fun bad noControl => ?_, fun whole other noHops => ?_, fun whole other hops inTable apart next noSpill room => ?_,
    fun key payload whole isMine isData live isUp receives peer ofJob opens inOrder => ?_,
    fun key payload whole isMine isCredit live isUp sends peer ofJob opens inOrder => ?_⟩,
    fun live ready idle => ⟨?_, ?_, ?_, ?_, ?_⟩, fun live ready busy i listed => ?_, fun rt' isUp sends none_ timed => ⟨?_, ?_⟩⟩
  · rw [data, frameArrives_unformed up noControl bad]
    refine ⟨_, rfl, ?_, bump_frameCounted ..⟩
    rw [ctr_bump_same, ctr_frameCounted (by simp only [chnDevCtr, portCtr]; omega)]
  · rw [data, frameArrives_formed up whole, if_neg other, if_pos noHops]
    refine ⟨_, rfl, ?_, bump_frameCounted ..⟩
    rw [ctr_bump_same, ctr_frameCounted (by simp only [chnDevCtr, portCtr]; omega)]
  · have port : portOf (frameCounted s k f) p = portOf s p := portOf_of_ports (by rw [chn]) p
    have onward : ¬ (4 ≤ p ∨ p = k ∨ (portOf s p).link ≠ 2) := by
      rintro (out | back | down)
      · exact absurd inTable (Nat.not_lt.2 out)
      · exact apart back
      · exact down next
    have waits := queueTransit_waits (t := frameCounted s k f) (p := p) (f := setHops f (hdr f 52 40 - 1)) (port ▸ noSpill)
      (by rw [port, length_setHops _ whole]; exact room)
    rw [data, frameArrives_formed up whole, if_neg other, if_neg hops, if_neg onward, waits, port]
    exact ⟨_, rfl, portOf_setPort_same .., (ctr_setPort ..).trans ctr_frameCounted_port,
      sameMemories_frameCounted.trans (sameMemories_setPort ..)⟩
  · have lands := localData_lands (t := frameCounted s k f) ((key_ ..).trans live) (route ▸ isUp) (route ▸ receives) (route ▸ peer)
      (route ▸ ofJob) opens (seq ▸ inOrder)
    have entry : berth (frameCounted s k f) r.berth = berth s r.berth := berth_of_berths frameCounted_berths _
    have model : berthModel (frameCounted s k f) (berth s r.berth) = berthModel s (berth s r.berth) := by
      rw [berthModel, module, frameCounted_mods, ← module, ← berthModel]
    have notCredit : hdr f 3 0 ≠ 2 := by rw [isData]; decide
    obtain ⟨own, others, pm, store, stepped⟩ := dataLanded_frame (frameCounted s k f) rt q payload (congrArg Route.berth route) entry model
    rw [data, frameArrives_formed up whole, if_pos isMine, localFrame, if_neg notCredit, lands]
    refine ⟨_, rfl, own, fun j other => ?_, pm.trans ?_, store.trans frameCounted_store, stepped.trans ?_⟩
    · rw [others j other, berth_of_berths frameCounted_berths]
    · rw [frameCounted_pm]
    · rw [seq]
  · have adds := localCredit_adds (t := frameCounted s k f) ((key_ ..).trans live) (route ▸ isUp) (route ▸ sends) (route ▸ peer)
      (route ▸ ofJob) opens (seq ▸ inOrder)
    obtain ⟨memories, entry⟩ := creditsAdded_adds (frameCounted s k f) rt q (hdr f 175 160)
    rw [credit, frameArrives_formed up whole, if_pos isMine, localFrame, if_pos isCredit, adds]
    exact ⟨_, rfl, sameMemories_frameCounted.trans memories, entry.trans (by rw [route])⟩
  · intro off accepted
    have runs := enableRoute_accepts off accepted 1
    have only : OnlyBlock s (routeCmd s 1) 9 := by
      rw [show routeCmd s 1 = enableRoute (cmdStored s 1) from rfl, runs]
      exact (cmdStored_onlyBlock 1).trans (setRoute_onlyBlock _ _ _)
    refine ⟨_, congrArg Host.Outcome.next (hostWord_routeCmd (w := 1) live ready idle only), ?_⟩
    rw [show routeCmd s (1 : BitVec 32).toNat = enableRoute (cmdStored s 1) from rfl, runs, routeAt_setRoute_same]
  · intro bad
    have runs := enableRoute_refuses bad 1
    have only : OnlyBlock s (routeCmd s 1) 9 := by
      rw [show routeCmd s 1 = enableRoute (cmdStored s 1) from rfl, runs]
      exact (cmdStored_onlyBlock 1).trans (.setFlag fRtBad)
    refine ⟨_, congrArg Host.Outcome.next (hostWord_routeCmd (w := 1) live ready idle only), ?_⟩
    rw [show routeCmd s (1 : BitVec 32).toNat = enableRoute (cmdStored s 1) from rfl, runs]
    exact ⟨flagOn_setFlag_same _ _ (by decide), by rw [setFlag_chn]; rfl⟩
  · intro isUp receives
    have runs := disableRoute_receive isUp receives 2
    have only : OnlyBlock s (routeCmd s 2) 9 := by
      rw [show routeCmd s 2 = disableRoute (cmdStored s 2) from rfl, runs]
      exact (cmdStored_onlyBlock 2).trans (setRoute_onlyBlock _ _ _)
    refine ⟨_, congrArg Host.Outcome.next (hostWord_routeCmd (w := 2) live ready idle only), ?_⟩
    rw [show routeCmd s (2 : BitVec 32).toNat = disableRoute (cmdStored s 2) from rfl, runs, routeAt_setRoute_same]
  · intro isUp sends
    have runs := disableRoute_send isUp sends 2
    have only : OnlyBlock s (routeCmd s 2) 9 := by
      rw [show routeCmd s 2 = disableRoute (cmdStored s 2) from rfl, runs]
      exact (cmdStored_onlyBlock 2).trans (setRoute_onlyBlock _ _ _)
    refine ⟨_, congrArg Host.Outcome.next (hostWord_routeCmd (w := 2) live ready idle only), ?_⟩
    rw [show routeCmd s (2 : BitVec 32).toNat = disableRoute (cmdStored s 2) from rfl, runs, routeAt_setRoute_same]
  · have runs := hostWord_routeCmd (w := 3) live ready idle ((cmdStored_onlyBlock 3).trans readRoute_onlyBlock)
    obtain ⟨peer, length⟩ := readRoute_reads (t := cmdStored s 3)
    obtain ⟨sameChn, memories⟩ := readRoute_frame (t := cmdStored s 3)
    rw [rtSel_cmdStored, routeAt_cmdStored] at peer length
    exact ⟨_, congrArg Host.Outcome.next runs, sameChn, memories, peer, length⟩
  · have ignored (w : BitVec 32) := hostWord_routeCmd_busy (w := w) live ready busy
    have flagged : flagOn (setFlag s fChnWign) fChnWign = true ∧ (setFlag s fChnWign).chn = s.chn ∧ sameMemories s (setFlag s fChnWign) :=
      ⟨flagOn_setFlag_same _ _ (by decide), setFlag_chn .., setFlag_store .., setFlag_pm .., setFlag_ret ..⟩
    simp only [List.mem_cons, List.not_mem_nil, or_false] at listed
    rcases listed with rfl | rfl | rfl
    all_goals exact ⟨_, congrArg Host.Outcome.next (ignored _), flagged⟩
  · have runs : routeExpired s rt' true = bump s (chnDevCtr 8) := by simp [routeExpired, isUp, sends, none_, timed]
    exact ⟨_, congrArg Host.Outcome.next runs, fun i => ctr_bump .., rfl⟩
  · have runs : routeExpired s rt' false = faultRoute s rt'.toNat 2 := by simp [routeExpired, isUp, sends, none_, timed]
    exact ⟨_, congrArg Host.Outcome.next runs, faultRoute_faults isUp⟩

end Sys2Proof.Machine
end

section
/-! The family of security, tenancy and management (R376–R409): the SPDM responder, sessions, keys, teardown and Cewieb. -/

namespace Sys2Proof.Machine
open Sys2Proof

/-! ## The SPDM responder (R381) -/

section Spdm
variable {s : State}

/-- The warden answers: it runs, and no window of its own is open. -/
def answers (s : State) : Prop := s.clk.ready = true ∧ s.fw.wd.phase ≠ .window

theorem onSpdm_answers (up : answers s) (run : State → State) : onSpdm s run = run s := by
  simp only [onSpdm, up.1, up.2, Bool.not_true, Bool.false_eq_true, if_false]

theorem onStage_answers (up : answers s) {n : Nat} (reached : n ≤ s.sec.spdm) (run : State → State) : onStage s n run = run s := by
  rw [onStage, onSpdm_answers up, if_pos reached]

theorem onSpdm_boot (boot : s.clk.ready = false) (run : State → State) : onSpdm s run = s := by
  simp only [onSpdm, boot, Bool.not_false, if_true]

/-- A report that is held is no part of what a report says. -/
theorem reportBytes_held (held : List HeldReport) (flag : Bool) (nonce : BitVec 256) :
    reportBytes { s with sec := { s.sec with held := held } } flag nonce = reportBytes s flag nonce := rfl

@[simp] theorem answer_emitted (s : State) (a : SpdmAnswer) : (answer s a).emitted = .spdm a :: s.emitted := rfl
@[simp] theorem answer_ctrs (s : State) (a : SpdmAnswer) : (answer s a).ctrs = s.ctrs := rfl
@[simp] theorem answer_sec (s : State) (a : SpdmAnswer) : (answer s a).sec = s.sec := rfl

theorem ctr_signReport (s : State) (held : Bool) (nonce : BitVec 256) (i : Nat) :
    ctr (signReport s held nonce).1 i = if i = secCtr 5 then ctr s i + 1 else ctr s i := by
  rw [signReport, ctr_bump, ctr_of_ctrs (useFree_ctrs s)]

theorem signReport_emitted (s : State) (held : Bool) (nonce : BitVec 256) : (signReport s held nonce).1.emitted = s.emitted := by
  rw [signReport, bump_emitted, useFree_emitted]
theorem signReport_sec (s : State) (held : Bool) (nonce : BitVec 256) : (signReport s held nonce).1.sec = s.sec := by
  rw [signReport, bump_sec, useFree_sec]

/-- Index 0xFD asks for the report: it is held while a window is open, else it is signed and answered. -/
theorem measure_report {ix : BitVec 8} (index : ix.toNat = 0xFD) (nonce : BitVec 256) : measure s ix nonce =
    if windowOpen s then answer (holdReport s { path := 0, who := 0xFD, nonce := nonce }) .notReady
    else answer (signReport s false nonce).1 (.measurements ix nonce (reportBytes s false nonce)) := by
  simp only [measure, index, signReport]
  rw [if_neg (by decide : ¬ 253 = 0), if_neg (by decide : ¬ 253 ≤ 6), if_pos (Or.inl trivial), if_neg (by decide : ¬ 253 = 255),
    List.nil_append]

theorem measure_digest {ix : BitVec 8} (first : 1 ≤ ix.toNat) (last : ix.toNat ≤ 6) (nonce : BitVec 256) :
    measure s ix nonce = answer (useFree s) (.measurements ix nonce (measurement s ix.toNat)) := by
  have some_ : ix.toNat ≠ 0 := by omega
  simp only [measure, some_, last, if_false, if_true]

/-- A report has left those held. -/
def reportTaken (s : State) (r : HeldReport) : State := { s with sec := { s.sec with held := s.sec.held.erase r } }

/-- RESPOND_IF_READY answers the oldest held report of the connection, which leaves those held. -/
theorem respondReady_report {r : HeldReport} (held : s.sec.held.find? (fun r => decide (r.path = 0)) = some r)
    (shut : windowOpen s = false) (whole : r.who = 0xFD) : respondReady s =
      answer (signReport (reportTaken s r) true r.nonce).1 (.measurements 0xFD r.nonce (reportBytes s true r.nonce)) := by
  have notAll : ¬ r.who = 0xFF := by rw [whole]; decide
  have index : BitVec.ofNat 8 r.who = 0xFD := by rw [whole]; rfl
  have bytes : (signReport (reportTaken s r) true r.nonce).2 = reportBytes s true r.nonce := reportBytes_held ..
  rw [respondReady, held]
  change (if windowOpen s = true then _ else answer (signReport (reportTaken s r) true r.nonce).1 (.measurements (BitVec.ofNat 8 r.who) r.nonce
    ((if r.who = 0xFF then ((signReport (reportTaken s r) true r.nonce).2.drop 136).take 288 else []) ++
      (signReport (reportTaken s r) true r.nonce).2))) = _
  rw [shut, if_neg Bool.false_ne_true, if_neg notAll, List.nil_append, index, bytes]

/-- The lowest free session opens. -/
theorem keyExchange_opens {k : Nat} (free : (upTo 4).find? (fun k => (sessionOf s k).isNone) = some k) :
    keyExchange s = answer (bump (setSessions s (tabPut s.sec.sessions k {})) (secCtr 3)) (.session k) := by
  simp only [keyExchange, free]

theorem finishSession_finishes {sn : Nat} {x : Session} (isOpen : sessionOf s sn = some x) (unfinished : x.finished = false)
    (pub : Option (BitVec 384)) : finishSession s sn pub =
      answer (setSessions s (tabPut s.sec.sessions sn { finished := true, mutualAuth := pub.isSome, pub := pub.getD 0 })) .ok := by
  simp only [finishSession, isOpen, unfinished, Bool.false_eq_true, if_false]

theorem sessionOf_put {t : State} {k : Nat} {x : Session} (sessions : t.sec.sessions = tabPut s.sec.sessions k x) :
    sessionOf t k = some x ∧ ∀ j, j ≠ k → sessionOf t j = sessionOf s j := by
  refine ⟨?_, fun j other => ?_⟩
  · rw [sessionOf, sessions, tabFind_put_same]
  · rw [sessionOf, sessions, tabFind_put_other _ _ _ _ other, sessionOf]

end Spdm

/-- Settles O42: each request that has come so far is answered (`onStage_answers`), a report is signed or held (`measure_report`,
`respondReady_report`), and sessions open and complete (`keyExchange_opens`, `finishSession_finishes`).  That
index 0 answers 7 and that the session counts at KEY_EXCHANGE are the model's choices of logs 90 and 91. -/
theorem spdmConnection : Obligations.SpdmConnection := by
  unfold Obligations.SpdmConnection
  intro s nonce sn up tells staged
  refine ⟨fun ready => ?_, fun ready reached => ?_, fun ready reached => ?_, fun ready reached => ⟨?_, ?_, ?_, ?_, ?_, ?_, ?_, ?_, ?_⟩,
    fun boot => ⟨?_, ?_⟩, fun ready window => ?_⟩
  · exact congrArg Host.Outcome.next (onSpdm_answers ready _)
  · exact congrArg Host.Outcome.next (onStage_answers ready reached _)
  · exact congrArg Host.Outcome.next (onStage_answers ready reached _)
  · exact congrArg Host.Outcome.next (onStage_answers ready reached _)
  · exact congrArg Host.Outcome.next (onStage_answers ready reached _)
  · exact congrArg Host.Outcome.next (onStage_answers ready reached _)
  · intro ix first last
    exact congrArg Host.Outcome.next ((onStage_answers ready reached _).trans (measure_digest first last nonce))
  · intro shut
    have signs := measure_report (s := s) (ix := 0xFD) rfl nonce
    rw [shut, if_neg Bool.false_ne_true] at signs
    refine ⟨_, congrArg Host.Outcome.next ((onStage_answers ready reached _).trans signs), fun i => ?_, ?_⟩
    · rw [ctr_of_ctrs (answer_ctrs ..), ctr_signReport]
    · rw [answer_emitted, signReport_emitted]
  · intro opened
    have holds := measure_report (s := s) (ix := 0xFD) rfl nonce
    rw [opened, if_pos rfl] at holds
    refine ⟨_, congrArg Host.Outcome.next ((onStage_answers ready reached _).trans holds), fun i => ?_, ?_, ?_⟩
    · rw [ctr_of_ctrs (answer_ctrs ..), holdReport, ctr_bump]
      rfl
    · rw [answer_sec, holdReport, bump_sec]
    · rw [answer_emitted, holdReport, bump_emitted]
  · intro r held shut whole
    refine ⟨_, congrArg Host.Outcome.next ((onStage_answers ready reached _).trans (respondReady_report held shut whole)), ?_, fun i => ?_, ?_⟩
    · rw [answer_sec, signReport_sec, reportTaken]
    · rw [ctr_of_ctrs (answer_ctrs ..), ctr_signReport]
      rfl
    · rw [answer_emitted, signReport_emitted, reportTaken]
  · intro k free
    obtain ⟨opens, others⟩ := sessionOf_put (s := s) (t := answer (bump (setSessions s (tabPut s.sec.sessions k {})) (secCtr 3)) (.session k))
      (k := k) (x := {}) (by rw [answer_sec, bump_sec, setSessions])
    refine ⟨_, congrArg Host.Outcome.next ((onStage_answers ready reached _).trans (keyExchange_opens free)), opens, fun i => ?_, ?_, others⟩
    · rw [ctr_of_ctrs (answer_ctrs ..), ctr_bump]
      rfl
    · rw [answer_emitted, bump_emitted, setSessions]
  · intro x pub isOpen unfinished
    obtain ⟨finishes, others⟩ := sessionOf_put (s := s) (k := sn) (x := { finished := true, mutualAuth := pub.isSome, pub := pub.getD 0 })
      (t := answer (setSessions s (tabPut s.sec.sessions sn { finished := true, mutualAuth := pub.isSome, pub := pub.getD 0 })) .ok)
      (by rw [answer_sec, setSessions])
    refine ⟨_, congrArg Host.Outcome.next ((onStage_answers ready reached _).trans (finishSession_finishes isOpen unfinished pub)), ?_, ?_,
      finishes, others, ?_⟩
    · rw [live, finishes]
    · rw [answer_emitted, setSessions]
    · rw [answer_ctrs, setSessions]
  · exact congrArg Host.Outcome.next (onSpdm_boot boot _)
  · exact congrArg Host.Outcome.next (onSpdm_boot boot _)
  · have waits : onSpdm s (fun s => answer (setSpdm s 1) .version) = answer s .notReady := by
      simp only [onSpdm, ready, window, Bool.not_true, Bool.false_eq_true, if_false, if_true]
    exact congrArg Host.Outcome.next waits

end Sys2Proof.Machine
end

section
/-! The family of the register window (R445–R466): what a host write of a word leaves alone, the masked register of a cluster,
the guard, the parity check and the reads with an effect. -/

namespace Sys2Proof.Machine
open Sys2Proof

/-! ## The state after reset -/

/-- Settles O56: each value is read off the reset state. -/
theorem resetValues : Obligations.ResetValues := by
  unfold Obligations.ResetValues
  decide

/-! ## The masked register of a cluster (R452) -/

section Masked
variable {s t : State} {n o : Nat} {w : BitVec 32}

/-- Moved levels are recorded in the view, the log and its counter, and nowhere else. -/
theorem levelsMoved_frame (s t : State) :
    { levelsMoved s t with sec := t.sec, ret := t.ret, ctrs := t.ctrs } = t := by
  rw [levelsMoved]
  split <;> rfl

theorem cluOff_block (n : Nat) (inBlock : o < 0x10000) : (cluOff n + o) / 0x10000 = n + 0x10 ∧ (cluOff n + o) % 0x10000 = o := by
  simp only [cluOff]
  omega

theorem applyWord_clu (ready : s.clk.ready = true) (unit : n < 18) (inBlock : o < 0x10000) :
    applyWord s false none (cluOff n + o) w = writeClu s n o w := by
  simp only [applyWord, cluOff_block n inBlock, ready, Bool.not_true, Bool.false_and, Bool.false_eq_true, if_false]
  rw [if_pos ⟨by omega, by omega⟩, Nat.add_sub_cancel]

theorem readWord_clu (ready : s.clk.ready = true) (unit : n < 18) (inBlock : o < 0x10000) :
    readWord s (cluOff n + o) = BitVec.ofNat 32 (readClu s n o (regWord s (cluOff n + o)).toNat) := by
  simp only [readWord, cluOff_block n inBlock, ready, Bool.not_true, Bool.false_and, Bool.false_eq_true, if_false]
  rw [if_pos ⟨by omega, by omega⟩, Nat.add_sub_cancel]

/-- The control register of a cluster in use reads as it stands. -/
theorem readWord_cluCtl (ready : s.clk.ready = true) (unit : n < 18) (used : cluState s n ≠ .outOfService) :
    readWord s (cluOff n + 4) = regWord s (cluOff n + 4) := by
  rw [readWord_clu ready unit (by decide)]
  simp [readClu, used]

theorem writeClu_ctl (used : cluState s n ≠ .outOfService) :
    writeClu s n 4 w = .done (setRegWord s (cluOff n + 4) (maskedWord (regWord s (cluOff n + 4)) w)) := by
  simp only [writeClu, used, if_false]
  rfl

theorem getLsbD_seven (i : Nat) : (7#32).getLsbD i = decide (i < 3) := by
  rcases Nat.lt_or_ge i 32 with inWord | beyond
  · have every : ∀ i : Fin 32, (7#32).getLsbD i = decide (i.val < 3) := by decide
    exact every ⟨i, inWord⟩
  · rw [BitVec.getLsbD_of_ge _ _ beyond, decide_eq_false (by omega)]

/-- A masked bit takes the written one where its mask bit is 1. -/
theorem maskedWord_field (old : BitVec 32) {i : Nat} (inField : i < 3) :
    (maskedWord old w).getLsbD i = if w.getLsbD (16 + i) then w.getLsbD i else old.getLsbD i := by
  have inWord : i < 32 := by omega
  simp only [maskedWord, BitVec.ofNat_eq_ofNat, BitVec.getLsbD_or, BitVec.getLsbD_and, BitVec.getLsbD_not, BitVec.getLsbD_ushiftRight, getLsbD_seven, inField, inWord,
    decide_true, Bool.and_true, Bool.true_and]
  cases w.getLsbD (16 + i) <;> simp

theorem maskedWord_above {old : BitVec 32} (small : old.toNat < 8) {i : Nat} (above : 3 ≤ i) : (maskedWord old w).getLsbD i = false := by
  have clear : old.getLsbD i = false := by
    rw [BitVec.getLsbD, Nat.testBit_lt_two_pow (small.trans_le (Nat.pow_le_pow_right (by decide) above : 2 ^ 3 ≤ 2 ^ i))]
  simp [maskedWord, getLsbD_seven, clear, show ¬ i < 3 by omega]

end Masked

/-- Settles O60: the control register of a cluster is the one written, and the levels it moves are recorded in the log and the view
alone. -/
theorem maskedWrites : Obligations.MaskedWrites := by
  unfold Obligations.MaskedWrites
  intro s n w unit live ready used small
  have applied := (applyWord_clu (w := w) ready unit (by decide : 4 < 0x10000)).trans (writeClu_ctl used)
  generalize written : setRegWord s (cluOff n + 4) (maskedWord (regWord s (cluOff n + 4)) w) = t at applied
  have frame := levelsMoved_frame s t
  have regs (o : Nat) : regWord (levelsMoved s t) o = regWord t o := regWord_of_regs (congrArg State.regs frame :) o
  have clk : (levelsMoved s t).clk = s.clk := (congrArg State.clk frame).trans (by rw [← written, setRegWord_clk])
  have map : (levelsMoved s t).map = s.map := (congrArg State.map frame).trans (by rw [← written, setRegWord_map])
  have ctl : readWord (levelsMoved s t) (cluOff n + 4) = maskedWord (regWord s (cluOff n + 4)) w := by
    rw [readWord_cluCtl (by rw [clk, ready]) unit (by rw [cluState, map]; exact used), regs, ← written, regWord_setRegWord_same]
  have aligned : (cluOff n + 4) % 4 = 0 := by simp only [cluOff]; omega
  have narrow : (w.setWidth 64).setWidth 32 = w := by simp
  refine ⟨levelsMoved s t, congrArg Host.Outcome.next ?_, fun i inField => ?_, fun i high => ?_, fun o other => ?_, ?_, ?_⟩
  · rw [registerWrite, if_neg (by simp), hostWrite, if_pos ⟨rfl, aligned⟩, narrow, hostWord_moved live applied]
  · rw [ctl, readWord_cluCtl ready unit used, maskedWord_field _ inField]
  · rw [ctl, maskedWord_above small (by omega)]
  · rw [regs, ← written, regWord_setRegWord_other _ _ _ _ other]
  · exact (congrArg State.store frame).trans (by rw [← written, setRegWord_store])
  · exact (congrArg State.pm frame).trans (by rw [← written, setRegWord_pm])

/-! ## Plain words, the guard and writes that no register takes (R445, R446, R451) -/

section Words
variable {s t : State} {o : Nat} {w : BitVec 32}

/-- The registers of GLB take writes in every state (R460). -/
theorem applyWord_glb (inBlock : o < 0x10000) : applyWord s false none (glbOff + o) w = writeGlb s o w := by
  have place : (glbOff + o) / 0x10000 = 0 ∧ (glbOff + o) % 0x10000 = o := by
    simp only [glbOff]
    omega
  simp only [applyWord, place, decide_true, Bool.true_or, Bool.not_true, Bool.and_false, Bool.false_eq_true, if_false]

theorem hostWord_scratch (live : alive s = true) (scratch : o = 0x30 ∨ (0x40 ≤ o ∧ o < 0x80)) :
    hostWord s (glbOff + o) w = setRegWord s (glbOff + o) w := by
  have applied : applyWord s false none (glbOff + o) w = .done (setRegWord s (glbOff + o) w) := by
    rw [applyWord_glb (by omega), writeGlb, if_neg (by omega), if_neg (by omega), if_pos scratch]
  have block : (glbOff + o) / 0x10000 = 0 := by
    simp only [glbOff]
    omega
  exact hostWord_block live applied (block ▸ OnlyBlock.setRegWord ..) (by decide)

theorem hostWord_unlock (live : alive s = true) : hostWord s (glbOff + 8) w = unlockWrite s w :=
  hostWord_block (blk := 0) live (applyWord_glb (by decide)) (.of_regs 0 rfl rfl) (by decide)

theorem hostWord_unmapped (live : alive s = true) {off : Nat} (applied : applyWord s false none off w = .unmapped) :
    hostWord s off w = setFlag s fUnmapWr := by
  simp only [hostWord, hostWordWith, live, applied, Bool.not_true, Bool.false_eq_true, if_false]

theorem hostWrite_word {off : Nat} (w : BitVec 64) (aligned : off % 4 = 0) : hostWrite s off w 4 = hostWord s off (w.setWidth 32) :=
  if_pos ⟨rfl, aligned⟩

theorem hostWrite_narrow (live : alive s = true) (off : Nat) (w : BitVec 64) : hostWrite s off w 2 = setFlag s fNarrowWr := by
  simp only [hostWrite, live, if_true]
  rfl

/-- In RUN a request without the T bit only counts (R395). -/
theorem registerWrite_unmarked (live : alive s = true) (run : s.sec.tdi = .run) (off : Nat) (w : BitVec 64) (n : Nat) :
    registerWrite s off w n false = bump s (secCtr 10) := by
  rw [registerWrite, if_pos ⟨run, rfl⟩, if_pos live]

theorem registerWrite_taken {tbit : Bool} (taken : s.sec.tdi = .run ∧ tbit = false → False) (off : Nat) (w : BitVec 64) (n : Nat) :
    registerWrite s off w n tbit = hostWrite s off w n :=
  if_neg fun refused => taken ⟨refused.1, by simpa using refused.2⟩

theorem countsOne_bump (s : State) (i : Nat) : countsOne s (bump s i) i := ctr_bump s i
theorem countsOne_setFlag (s : State) (f : Flag) : countsOne s (setFlag s f) f.ctr := ctr_setFlag s f

end Words

/-! ## The parity check (R450) -/

section Parity
variable {s : State} {off : Nat}

/-- A mismatch is recorded in its register, its flag and the log. -/
def parityNoted (s : State) (off : Nat) : State :=
  logEvent (setIrqFlag (putNat s (glbOff + 0xC) (off % 2 ^ 26 + 2 ^ 31)) fCfgPar) 9 0xFFFF off

@[simp] theorem logEvent_regs (s : State) (code unit arg : Nat) : (logEvent s code unit arg).regs = s.regs := rfl
@[simp] theorem logEvent_lost (s : State) (code unit arg : Nat) : (logEvent s code unit arg).lost = s.lost := rfl

theorem parityNoted_regs (s : State) (off : Nat) :
    (parityNoted s off).regs = (setFlag (putNat s (glbOff + 0xC) (off % 2 ^ 26 + 2 ^ 31)) fCfgPar).regs := by
  rw [parityNoted, logEvent_regs, setIrqFlag, msix0_regs]
theorem parityNoted_lost (s : State) (off : Nat) : (parityNoted s off).lost = s.lost := by
  rw [parityNoted, logEvent_lost, setIrqFlag, msix0_lost, setFlag_lost, putNat, setRegWord_lost]

theorem parityNoted_flag (s : State) (off : Nat) : flagOn (parityNoted s off) fCfgPar = true := by
  rw [flagOn, parityNoted_regs, ← flagOn, flagOn_setFlag_same _ _ (by decide)]

theorem parityNoted_word (inRange : off < 2 ^ 26) : regWord (parityNoted s off) (glbOff + 0xC) = BitVec.ofNat 32 (off + 2 ^ 31) := by
  rw [regWord_of_regs (parityNoted_regs s off), regWord_setFlag _ _ (by decide), regWord_putNat_same, Nat.mod_eq_of_lt inRange]

theorem parityChecked_first (live : alive s = true) (none : s.dbg.parTick = none) :
    parityChecked s (some off) =
      { parityNoted s off with dbg := { (parityNoted s off).dbg with parTick := some s.tick.toNat } } := by
  unfold parityChecked parityNoted
  simp only [live, none, Bool.not_true, Bool.false_eq_true, if_false]

theorem parityChecked_again (live : alive s = true) {t : Nat} (first : s.dbg.parTick = some t) (soon : s.tick.toNat < t + 100000000) :
    parityChecked s (some off) = loseDevice (parityNoted s off) 7 0xFFFF off := by
  unfold parityChecked parityNoted
  simp only [live, first, Bool.not_true, Bool.false_eq_true, if_false]
  exact if_pos soon

end Parity

/-! ## Reads and writes with an effect (R432, R463, R465) -/

section Effects
variable {s : State} {w : BitVec 32}

theorem hostWord_snap (live : alive s = true) (ready : s.clk.ready = true) : hostWord s (telOff + 4) 1 = takeSnap s := by
  have applied : applyWord s false none (telOff + 4) 1 = .done (takeSnap s) := by
    simp only [applyWord, ready, Bool.not_true, Bool.false_and, Bool.false_eq_true, if_false]
    rfl
  exact hostWord_block (blk := 0xA) live applied (.of_regs 0xA rfl rfl) (by decide)

theorem hostWord_capture (live : alive s = true) (ready : s.clk.ready = true) : hostWord s (bthOff + 0x40) w = captureBerth s w := by
  have applied : applyWord s false none (bthOff + 0x40) w = .done (captureBerth s w) := by
    simp only [applyWord, ready, Bool.not_true, Bool.false_and, Bool.false_eq_true, if_false]
    rfl
  have stored : OnlyBlock s (putNat s (bthOff + 0x40) (BitVec.ofNat 12 w.toNat).toNat) 4 := .putNat ..
  have only : OnlyBlock s (captureBerth s w) 4 := stored.trans (.of_regs 4 rfl rfl)
  exact hostWord_block live applied only (by decide)

theorem readCdataHi_live (live : alive s = true) (ready : s.clk.ready = true) :
    readCdataHi s = if regField s (telOff + 0x20) 17 17 = 1 then
      setRegField (emit s (.readData (telOff + 0x28) (readWord s (telOff + 0x28)))) (telOff + 0x20) 15 0 (regField s (telOff + 0x20) 15 0 + 1)
    else emit s (.readData (telOff + 0x28) (readWord s (telOff + 0x28))) := by
  simp only [readCdataHi, live, ready, Bool.not_true, Bool.false_eq_true, if_false, true_and]

/-- Neither register of the retained SRAM holds a debug level. -/
theorem levelsNow_fetchRet : levelsNow (fetchRet s w) = levelsNow s := by
  refine levelsNow_congr (congrArg (·.levels) (useFree_sec _)) fun o level => ?_
  have apart : o ≠ dbgOff + 8 ∧ o ≠ dbgOff + 0xC := by
    rcases level with rfl | rfl | ⟨n, _, rfl⟩
    · decide
    · decide
    · simp only [cluOff, dbgOff]
      omega
  rw [fetchRet, regWord_of_regs (useFree_regs _), regWord_setRegWord_other _ _ _ _ apart.2, regWord_putNat_other _ _ _ apart.1]

theorem hostWord_retAddr (live : alive s = true) (ready : s.clk.ready = true) : hostWord s (dbgOff + 8) w = fetchRet s w := by
  have applied : applyWord s false none (dbgOff + 8) w = .done (fetchRet s w) := by
    simp only [applyWord, ready, Bool.not_true, Bool.false_and, Bool.false_eq_true, if_false]
    rfl
  exact hostWord_done live applied levelsNow_fetchRet

theorem regWord_fetchRet (w : BitVec 32) : regWord (fetchRet s w) (dbgOff + 8) = BitVec.ofNat 32 (w.toNat % 2 ^ 14) ∧
    regWord (fetchRet s w) (dbgOff + 0xC) = retWord s (w.toNat % 2 ^ 14) := by
  constructor
  · rw [fetchRet, regWord_of_regs (useFree_regs _), regWord_setRegWord_other _ _ _ _ (by decide), regWord_putNat_same]
  · rw [fetchRet, regWord_of_regs (useFree_regs _), regWord_setRegWord_same]

/-- Below the boot record the retained SRAM reads as it stands. -/
theorem retWord_low {ix : Nat} (low : ix < 0x400) : retWord s ix = BitVec.ofNat 32 (memLe s.ret (4 * ix) 4) := by
  simp only [retWord]
  rw [if_neg (by omega)]

end Effects

/-- Settles O53: each write and read by the rule of its register, and the log that a parity mismatch leaves. -/
theorem windowZero : Obligations.WindowZero := by
  unfold Obligations.WindowZero
  intro s live
  refine ⟨fun w => congrArg Host.Outcome.next (hostWord_unlock live), fun opened => ⟨?_, bump s (obsCtr 1), ?_, countsOne_bump s _, rfl⟩,
    fun closed met => ?_, fun k w bound => ?_, fun w tbit taken => ⟨?_, ?_, ?_, ?_⟩, fun run off w n => ?_, rfl, fun off inRange => ⟨fun first => ?_,
      fun t first soon notLost => ?_⟩, fun ready => ⟨congrArg Host.Outcome.next (hostWord_snap live ready), ?_, fun w => ?_, fun w low => ?_⟩⟩
  · exact congrArg Host.Outcome.next (by simp only [guardExpired, opened, Bool.not_true, Bool.false_eq_true, if_false])
  · exact congrArg Host.Outcome.next (by simp only [guardExpired, opened, Bool.not_true, Bool.false_eq_true, if_false, if_true])
  · exact congrArg Host.Outcome.next (by simp only [guardExpired, closed, Bool.not_false, if_true])
  · refine ⟨setRegWord s (glbOff + 0x40 + 4 * k) w, ?_, regWord_setRegWord_same .., fun o other => regWord_setRegWord_other _ _ _ _ other, rfl⟩
    rw [show exec (.backupWrite k w) s = onUnit (decide (k < 16)) (hostWord s (glbOff + 0x40 + 4 * k) w) from rfl, decide_eq_true bound,
      Nat.add_assoc, hostWord_scratch live (by omega)]
    rfl
  · refine ⟨setRegWord s (glbOff + 0x30) (w.setWidth 32), congrArg Host.Outcome.next ?_, regWord_setRegWord_same ..,
      fun o other => regWord_setRegWord_other _ _ _ _ other, rfl⟩
    rw [registerWrite_taken taken, hostWrite_word w (by decide), hostWord_scratch live (.inl rfl)]
  · refine ⟨setRegWord (setRegWord s (glbOff + 0x40) (w.setWidth 32)) (glbOff + 0x44) ((w >>> 32).setWidth 32), congrArg Host.Outcome.next ?_, ?_,
      regWord_setRegWord_same .., rfl⟩
    · rw [registerWrite_taken taken, hostWrite, if_neg (by decide), if_pos (by decide), hostWord_scratch live (.inr (by decide)),
        show glbOff + 0x40 + 4 = glbOff + 0x44 from rfl, hostWord_scratch (s := setRegWord s _ _) live (.inr (by decide))]
    · rw [regWord_setRegWord_other _ _ _ _ (by decide), regWord_setRegWord_same]
  · refine ⟨setFlag s fNarrowWr, congrArg Host.Outcome.next ?_, flagOn_setFlag_same _ _ (by decide), regWord_setFlag _ _ (by decide),
      countsOne_setFlag s fNarrowWr⟩
    rw [registerWrite_taken taken, hostWrite_narrow live]
  · refine ⟨setFlag s fUnmapWr, congrArg Host.Outcome.next ?_, flagOn_setFlag_same _ _ (by decide), countsOne_setFlag s fUnmapWr⟩
    rw [registerWrite_taken taken, hostWrite_word w (by decide), hostWord_unmapped live (applyWord_glb (by decide))]
  · exact ⟨bump s (secCtr 10), congrArg Host.Outcome.next (registerWrite_unmarked live run off w n), countsOne_bump s _, rfl⟩
  · have checked := parityChecked_first (off := off) live first
    have flag := parityNoted_flag s off
    have lost := parityNoted_lost s off
    have word := parityNoted_word (s := s) inRange
    generalize parityNoted s off = noted at checked flag lost word
    exact ⟨_, congrArg Host.Outcome.next checked, flag, lost, word, rfl⟩
  · refine ⟨_, congrArg Host.Outcome.next (parityChecked_again live first soon), ?_⟩
    rw [loseDevice_lost (by rw [parityNoted_lost, notLost])]
    exact ⟨rfl, rfl, rfl⟩
  · refine ⟨readCdataHi s, rfl, ?_⟩
    rw [readCdataHi_live live ready]
    split
    · exact ⟨rfl, regField_setRegField_same (by decide) (by decide)⟩
    · exact ⟨rfl, rfl⟩
  · have number : BitVec.ofNat 12 w.toNat = w.setWidth 12 := BitVec.eq_of_toNat_eq (by simp)
    refine ⟨captureBerth s w, congrArg Host.Outcome.next (hostWord_capture live ready), ?_⟩
    rw [captureBerth, number]
    exact ⟨rfl, rfl, rfl, rfl⟩
  · obtain ⟨address, word⟩ := regWord_fetchRet (s := s) w
    exact ⟨fetchRet s w, congrArg Host.Outcome.next (hostWord_retAddr live ready), address, word.trans (retWord_low low), rfl, rfl, rfl⟩

end Sys2Proof.Machine
end

section
/-! The family of clocks (R411–R425): gears, roots and the reference, and what stays of the clocks when the device is lost. -/

namespace Sys2Proof.Machine
open Sys2Proof

/-! ## Gears (R417, R418) -/

section Gears
variable {s : State} {d : Nat}

theorem gearLoaded_setGear (s : State) (d g : Nat) : gearLoaded (setGear s d g) d = g := tabGet_set_same ..
theorem gearLoaded_setGear_other (s : State) (d g : Nat) {q : Nat} (other : q ≠ d) : gearLoaded (setGear s d g) q = gearLoaded s q :=
  tabGet_set_other _ _ _ _ _ _ other
theorem gearLoaded_bump (s : State) (i q : Nat) : gearLoaded (bump s i) q = gearLoaded s q := rfl

theorem exec_gearChange (die : d < 2) : exec (.gearChange d) s = .next (gearChange s d) := by
  rw [show exec (.gearChange d) s = onUnit (decide (d < 2)) (gearChange s d) from rfl, decide_eq_true die]
  rfl

theorem gearChange_same (same : gearInForce s d = gearLoaded s d) : gearChange s d = s := by
  simp only [gearChange, same, decide_true, Bool.or_true, if_true]

theorem gearChange_slower (live : alive s = true) (slower : gearLoaded s d < gearInForce s d) :
    gearChange s d = bump (setGear s d (gearInForce s d)) (clkCtr 0) := by
  simp only [gearChange, live, Nat.ne_of_gt slower, slower, decide_false, Bool.not_true, Bool.or_self, Bool.false_eq_true, if_false, if_true]

theorem gearChange_faster (live : alive s = true) (faster : gearInForce s d < gearLoaded s d) :
    gearChange s d = if mayClimb s d then bump (climb s d) (clkCtr 0) else s := by
  simp only [gearChange, live, Nat.ne_of_lt faster, Nat.lt_asymm faster, decide_false, Bool.not_true, Bool.or_self, Bool.false_eq_true,
    if_false]

end Gears

/-! ## Roots (R412, R423–R425) -/

section Roots
variable {s : State} {r q : Nat}

theorem rootLocked_setRoot (s : State) (r : Nat) (on : Bool) : rootLocked (setRoot s r on) r = on := tabGet_set_same ..
theorem rootLocked_setRoot_other (s : State) (r : Nat) (on : Bool) (other : q ≠ r) : rootLocked (setRoot s r on) q = rootLocked s q :=
  tabGet_set_other _ _ _ _ _ _ other

theorem exec_rootUnlock (root : r < 3) : exec (.rootUnlock r) s = .next (rootUnlocked s r) := by
  rw [show exec (.rootUnlock r) s = onUnit (decide (r < 3)) (rootUnlocked s r) from rfl, decide_eq_true root]
  rfl
theorem exec_rootLockConfirmed (root : r < 3) : exec (.rootLockConfirmed r) s = .next (rootConfirmed s r) := by
  rw [show exec (.rootLockConfirmed r) s = onUnit (decide (r < 3)) (rootConfirmed s r) from rfl, decide_eq_true root]
  rfl
theorem exec_rootLockTimeout (root : r < 3) (met : Bool) : exec (.rootLockTimeout r met) s = .next (rootExpired s r met) := by
  rw [show exec (.rootLockTimeout r met) s = onUnit (decide (r < 3)) (rootExpired s r met) from rfl, decide_eq_true root]
  rfl

/-- A root out of lock: its attempts start again, the loss counts (R444), and a die goes on at gear 5. -/
def rootOut (s : State) (r : Nat) : State :=
  let out := bump { setRoot s r false with clk := { (setRoot s r false).clk with attempts := tabSet 0 (setRoot s r false).clk.attempts r 0 } }
    (clkCtr 1)
  if r < 2 then setGear out r 5 else out

theorem rootOut_frame (s : State) (r : Nat) : { rootOut s r with clk := s.clk, ctrs := s.ctrs } = s := by
  simp only [rootOut]
  split <;> rfl

theorem rootOut_locked (s : State) (r : Nat) : rootLocked (rootOut s r) r = false := by
  simp only [rootOut]
  split <;> exact rootLocked_setRoot s r false

theorem rootOut_gear (die : r < 2) : gearLoaded (rootOut s r) r = 5 := by
  simp only [rootOut, die, if_true]
  exact gearLoaded_setGear ..

theorem rootOut_counts (s : State) (r : Nat) : countsOne s (rootOut s r) (clkCtr 1) := fun k => by
  have counted : ctr (rootOut s r) k = ctr (bump (setRoot s r false) (clkCtr 1)) k := by
    simp only [rootOut]
    split <;> rfl
  exact counted.trans (ctr_bump (setRoot s r false) _ _)

theorem rootUnlocked_eq (live : alive s = true) (locked : rootLocked s r = true) :
    rootUnlocked s r = if (upTo 3).any (fun q => decide (q ≠ r) && !rootLocked s q)
      then loseDevice (rootOut s r) 10 0xFFFF (rootsOut (rootOut s r)) else rootOut s r := by
  simp only [rootUnlocked, live, locked, Bool.not_true, Bool.or_self, Bool.false_eq_true, if_false, rootOut]

theorem rootUnlocked_alone (live : alive s = true) (locked : rootLocked s r = true)
    (others : ∀ q, q < 3 → q ≠ r → rootLocked s q = true) : rootUnlocked s r = rootOut s r := by
  have none : ¬ (upTo 3).any (fun q => decide (q ≠ r) && !rootLocked s q) = true := by
    rw [Bool.not_eq_true, List.any_eq_false]
    intro q listed
    by_cases same : q = r
    · simp [same]
    · simp [others q (List.mem_range.1 listed) same]
  rw [rootUnlocked_eq live locked, if_neg none]

theorem rootUnlocked_second (live : alive s = true) (locked : rootLocked s r = true) (root : q < 3) (other : q ≠ r)
    (out : rootLocked s q = false) : rootUnlocked s r = loseDevice (rootOut s r) 10 0xFFFF (rootsOut (rootOut s r)) := by
  have some : (upTo 3).any (fun q => decide (q ≠ r) && !rootLocked s q) = true :=
    List.any_eq_true.2 ⟨q, List.mem_range.2 root, by simp [other, out]⟩
  rw [rootUnlocked_eq live locked, if_pos some]

/-- A root in lock again: its attempts are over. -/
def lockAgain (s : State) (r : Nat) : State :=
  { s with clk := { s.clk with lock := tabSet false s.clk.lock r true, attempts := tabSet 0 s.clk.attempts r 0 } }

theorem rootLocked_lockAgain (s : State) (r : Nat) : rootLocked (lockAgain s r) r = true := by rw [rootLocked, lockAgain, tabGet_set_same]
theorem attempts_lockAgain (s : State) (r : Nat) : tabGet 0 (lockAgain s r).clk.attempts r = 0 := by rw [lockAgain, tabGet_set_same]

/-- A failed attempt to lock (R424). -/
def attemptFailed (s : State) (r : Nat) : State :=
  { s with clk := { s.clk with attempts := tabSet 0 s.clk.attempts r (tabGet 0 s.clk.attempts r + 1) } }

theorem attempts_attemptFailed (s : State) (r : Nat) :
    tabGet 0 (attemptFailed s r).clk.attempts r = tabGet 0 s.clk.attempts r + 1 := by rw [attemptFailed, tabGet_set_same]

/-- A root that stays down. -/
def markDown (s : State) (r : Nat) : State := { s with clk := { s.clk with rootDown := tabSet false s.clk.rootDown r true } }

theorem rootDown_markDown (s : State) (r : Nat) : tabGet false (markDown s r).clk.rootDown r = true := by rw [markDown, tabGet_set_same]

theorem rootExpired_eq (live : alive s = true) (out : rootLocked s r = false) (up : tabGet false s.clk.rootDown r = false) (met : Bool) :
    rootExpired s r met = if met then bump s (obsCtr 9)
      else if tabGet 0 s.clk.attempts r + 1 < 3 then attemptFailed s r else setIrqFlag (markDown (attemptFailed s r) r) fRootFail := by
  simp only [rootExpired, live, out, up, Bool.not_true, Bool.or_self, Bool.false_eq_true, if_false, attemptFailed, markDown]

end Roots

/-! ## The reference (R414) -/

section Reference
variable {s : State}

theorem SameClock.faultRoutes (p : Route → Bool) (cause : Nat) : SameClock s (faultRoutes s p cause) :=
  SameClock.foldl (β := Nat × Route)
    (f := fun s e => if e.2.st = 1 && p e.2 then Machine.faultRoute s e.1 cause else s)
    (fun s e => by
      split
      · exact .faultRoute s e.1 cause
      · exact .refl s) _ s

theorem SameClock.portLost (k link : Nat) : SameClock s (portLost s k link) := by
  simp only [Machine.portLost]
  split
  · exact .setPort s k _
  · exact (((SameClock.setPort s k _).trans (.setFlag _ _)).trans ((SameClock.bump _ _).trans (.addCtr _ _ _))).trans (.faultRoutes _ _)

theorem SameClock.stopPorts : SameClock s (stopPorts s) := .foldl (fun _ k => .portLost k 0) _ s

theorem SameClock.setPhase (wd : Bool) (p : FwPhase) : SameClock s (setPhase s wd p) := by
  simp only [Machine.setPhase, modFw]
  split
  · exact .refl s
  · split <;> exact ⟨rfl, rfl, rfl⟩

theorem SameClock.dropPending (wd : Bool) : SameClock s (dropPending s wd) := by
  simp only [Machine.dropPending, modFw]
  split <;> split <;> exact ⟨rfl, rfl, rfl⟩

theorem SameClock.abortWindow (wd : Bool) : SameClock s (abortWindow s wd) :=
  .branch (((SameClock.dropPending wd).trans (.setPhase wd _)).trans (.bump _ _)) (.refl s)

/-- The tenancy of a device that is lost: a bound one is in step 5 of its teardown (R141). -/
def lossTenancy (s : State) : State :=
  if s.sec.tenancy = .bound then
    bumpView { s with sec := { s.sec with tenancy := .teardown, tdStart := s.tick, tdStep := 5, tdDue := false } } else s

theorem SameClock.lossTenancy (s : State) : SameClock s (lossTenancy s) := .branch ⟨rfl, rfl, rfl⟩ (.refl s)

/-- A loss that no unit caused leaves the clocks as they are. -/
theorem loseDevice_clk (s : State) (cls detail : Nat) : (loseDevice s cls 0xFFFF detail).clk = s.clk := by
  unfold loseDevice
  split
  · rfl
  extract_lets s1 s2 s3 s4 sec s5 s6
  have unit : s1 = s := by simp [s1, unitOut]
  have stopped : SameClock s1 s2 := ⟨rfl, rfl, rfl⟩
  have told : SameClock s2 s3 := (SameClock.logEvent ..).trans (.completeAll ..)
  have torn : SameClock s4 s5 := .lossTenancy s4
  have aborted : SameClock s5 s6 := (SameClock.abortWindow false).trans (.abortWindow true)
  have kept : SameClock s1 s6 := (stopped.trans told).trans ((SameClock.stopPorts.trans torn).trans aborted)
  clear_value s6 s5 sec s4 s3 s2 s1
  rw [msix0_clk, ← unit, ← kept.clk]

theorem refFound_locks (live : alive s = true) (boot : s.clk.ready = false) {r : Nat} (root : r < 3) :
    rootLocked (refFound s) r = !tabGet false s.clk.rootDown r := by
  simp only [refFound, live, boot, Bool.not_false, Bool.and_self, if_true]
  exact foldl_visits (look := (rootLocked · r)) (part := (·.clk.rootDown)) (p := s.clk.rootDown)
    (step := fun (s : State) q => setRoot s q (!tabGet false s.clk.rootDown q)) (a := rootLocked s r)
    (fun t q other => rootLocked_setRoot_other t q _ (Ne.symm other)) (fun _ _ => rfl)
    (fun t down _ => (rootLocked_setRoot t r _).trans (by rw [down])) List.nodup_range (List.mem_range.2 root) rfl rfl

theorem refFound_valid (live : alive s = true) (boot : s.clk.ready = false) : (refFound s).clk.refValid = true := by
  simp only [refFound, live, boot, Bool.not_false, Bool.and_self, if_true]
  exact foldl_passes (look := (·.clk.refValid)) (step := fun (s : State) q => setRoot s q (!tabGet false s.clk.rootDown q))
    (fun _ _ _ => rfl) _

end Reference

/-- Settles O51, by the case of each event; that a relock is counted at the loss and that gear 5 is not counted apart is log 116, and the
1 µs by tick is log 193. -/
theorem clockRoots : Obligations.ClockRoots := by
  unfold Obligations.ClockRoots
  intro s live
  refine ⟨fun d die => ?_, fun r root => ⟨fun locked others => ?_, fun q locked rootQ other out notLost => ?_, fun out => ?_,
    fun valid up => ?_, fun out up => ?_⟩, fun ready notLost => ?_, fun boot => ⟨?_, refFound s, rfl, refFound_valid live boot,
      fun r root => refFound_locks live boot root⟩⟩
  · rw [exec_gearChange die]
    refine ⟨fun slower => ?_, fun faster may => ?_, fun faster mayNot => ?_, fun same => congrArg Host.Outcome.next (gearChange_same same)⟩
    · refine ⟨_, congrArg Host.Outcome.next (gearChange_slower live slower), ?_, fun k => ctr_bump (setGear s d _) _ k, fun q other => ?_⟩
      · rw [gearLoaded_bump, gearLoaded_setGear]
      · rw [gearLoaded_bump, gearLoaded_setGear_other _ _ _ other]
    · refine ⟨bump (climb s d) (clkCtr 0), congrArg Host.Outcome.next ?_, gearLoaded_setGear s d _, fun k => ctr_bump (climb s d) _ k⟩
      rw [gearChange_faster live faster, if_pos may]
    · exact congrArg Host.Outcome.next (by rw [gearChange_faster live faster, if_neg (by simp [mayNot])])
  · rw [exec_rootUnlock root, rootUnlocked_alone live locked others]
    exact ⟨_, rfl, rootOut_locked s r, rootOut_gear, rootOut_counts s r, rootOut_frame s r⟩
  · rw [exec_rootUnlock root, rootUnlocked_second live locked rootQ other out]
    refine ⟨_, rfl, ?_⟩
    have kept : (rootOut s r).lost = s.lost := (congrArg State.lost (rootOut_frame s r) :)
    rw [loseDevice_lost (s := rootOut s r) (by rw [kept, notLost])]
    exact ⟨rfl, rfl⟩
  · rw [exec_rootUnlock root]
    exact congrArg Host.Outcome.next (by simp only [rootUnlocked, out, Bool.not_false, Bool.or_true, if_true])
  · rw [exec_rootLockConfirmed root]
    refine ⟨lockAgain s r, congrArg Host.Outcome.next ?_, rootLocked_lockAgain s r, attempts_lockAgain s r, rfl⟩
    simp only [rootConfirmed, live, valid, up, Bool.not_true, Bool.or_self, Bool.false_eq_true, if_false, lockAgain]
  · rw [exec_rootLockTimeout root, exec_rootLockTimeout root, rootExpired_eq live out up, rootExpired_eq live out up, if_pos rfl,
      if_neg Bool.false_ne_true]
    refine ⟨⟨_, rfl, countsOne_bump s _, rfl⟩, fun again => ?_, fun third => ?_⟩
    · rw [if_pos again]
      exact ⟨_, rfl, attempts_attemptFailed s r, rfl⟩
    · rw [if_neg (by omega)]
      have down := rootDown_markDown (attemptFailed s r) r
      refine ⟨_, rfl, ?_, ?_, ?_⟩
      · rw [setIrqFlag, msix0_clk, setFlag_clk, down]
      · rw [setIrqFlag, flagOn, msix0_regs, ← flagOn, flagOn_setFlag_same _ _ (by decide)]
      · rw [setIrqFlag, msix0, ctr_addCtr_other _ _ _ _ (by decide), ctr_of_ctrs (emit_ctrs _ _), ctr_setFlag, if_pos (by rfl)]
        rfl
  · have runs : exec .refclkLoss s = .next (loseDevice { s with clk := { s.clk with refValid := false } } 8 0xFFFF 0) :=
      congrArg Host.Outcome.next (by simp only [refLost, ready, if_true])
    refine ⟨_, runs, by rw [loseDevice_clk], ?_⟩
    rw [loseDevice_lost (s := { s with clk := { s.clk with refValid := false } }) notLost]
    exact ⟨rfl, rfl⟩
  · exact congrArg Host.Outcome.next (by simp only [refLost, boot, Bool.false_eq_true, if_false])

end Sys2Proof.Machine
end

section
/-! The family of firmware images (R434–R443): the phases of an update, staging, commit windows, persistence and fuses. -/

namespace Sys2Proof.Machine
open Sys2Proof

/-! ## The two kinds of firmware and their phases (R438) -/

section Kinds
variable {s t u : State} {wd : Bool} {p : FwPhase} {f : FwKind → FwKind}

theorem fwOf_of_fw (same : t.fw = s.fw) (wd : Bool) : fwOf t wd = fwOf s wd := by rw [fwOf, same, fwOf]

theorem fwOf_modFw (s : State) (wd : Bool) (f : FwKind → FwKind) : fwOf (modFw s wd f) wd = f (fwOf s wd) := by cases wd <;> rfl
theorem fwOf_modFw_other (s : State) (wd : Bool) (f : FwKind → FwKind) : fwOf (modFw s wd f) (!wd) = fwOf s (!wd) := by cases wd <;> rfl

/-- A phase change is one of the kind's record; the event log takes it too. -/
theorem setPhase_fw (s : State) (wd : Bool) (p : FwPhase) : (setPhase s wd p).fw = (modFw s wd (fun k => { k with phase := p })).fw := by
  rw [setPhase]
  split
  next same => cases wd <;> (simp only [modFw, fwOf] at same ⊢; rw [← same]; rfl)
  next => rfl

theorem fwOf_setPhase (s : State) (wd : Bool) (p : FwPhase) : fwOf (setPhase s wd p) wd = { fwOf s wd with phase := p } := by
  rw [fwOf_of_fw (setPhase_fw s wd p), fwOf_modFw]
theorem fwOf_setPhase_other (s : State) (wd : Bool) (p : FwPhase) : fwOf (setPhase s wd p) (!wd) = fwOf s (!wd) := by
  rw [fwOf_of_fw (setPhase_fw s wd p), fwOf_modFw_other]

/-- Firmware, the event log and its counter, and free values are all that changes. -/
structure FwFrame (s t : State) : Prop where
  rest : { t with fw := s.fw, ret := s.ret, ctrs := s.ctrs, free := s.free } = s

namespace FwFrame

theorem refl (s : State) : FwFrame s s := ⟨rfl⟩
theorem trans (first : FwFrame s t) (second : FwFrame t u) : FwFrame s u :=
  ⟨(congrArg (fun v : State => { v with fw := s.fw, ret := s.ret, ctrs := s.ctrs, free := s.free }) second.rest).trans first.rest⟩

theorem regs (h : FwFrame s t) : t.regs = s.regs := (congrArg State.regs h.rest :)
theorem sec (h : FwFrame s t) : t.sec = s.sec := (congrArg State.sec h.rest :)
theorem host (h : FwFrame s t) : t.host = s.host := (congrArg State.host h.rest :)
theorem clk (h : FwFrame s t) : t.clk = s.clk := (congrArg State.clk h.rest :)
theorem store (h : FwFrame s t) : t.store = s.store := (congrArg State.store h.rest :)
theorem pm (h : FwFrame s t) : t.pm = s.pm := (congrArg State.pm h.rest :)
theorem emitted (h : FwFrame s t) : t.emitted = s.emitted := (congrArg State.emitted h.rest :)
theorem strap (h : FwFrame s t) : fromFlash t = fromFlash s := by
  rw [fromFlash, strapBoot, regField_of_regs h.regs, ← strapBoot, ← fromFlash]

theorem modFw (s : State) (wd : Bool) (f : FwKind → FwKind) : FwFrame s (modFw s wd f) := by cases wd <;> exact ⟨rfl⟩
theorem bump (s : State) (i : Nat) : FwFrame s (bump s i) := ⟨rfl⟩
theorem setImgErr (s : State) (e : Nat) : FwFrame s (setImgErr s e) := ⟨rfl⟩
theorem modSlot (s : State) (i : Nat) (g : FlashSlot → FlashSlot) : FwFrame s (modSlot s i g) := ⟨rfl⟩
theorem logEvent (s : State) (code unit arg : Nat) : FwFrame s (logEvent s code unit arg) := ⟨rfl⟩

theorem setPhase (s : State) (wd : Bool) (p : FwPhase) : FwFrame s (setPhase s wd p) := by
  rw [Machine.setPhase]
  split
  · exact refl s
  · exact (modFw s wd _).trans (logEvent _ _ _ _)

theorem dropPending (s : State) (wd : Bool) : FwFrame s (dropPending s wd) := by
  rw [Machine.dropPending]
  split
  · exact (modSlot s _ _).trans (modFw _ wd _)
  · exact modFw s wd _

theorem imgRefused (s : State) (causes : List Nat) (other : Bool) : FwFrame s (imgRefused s causes other) := by
  unfold Machine.imgRefused
  split <;> exact ⟨rfl⟩

theorem stageEnd (s : State) (wd : Bool) : FwFrame s (stageEnd s wd) := ((modFw s wd _).trans (setPhase _ wd _)).trans (bump _ _)

end FwFrame

theorem ctr_modFw (s : State) (wd : Bool) (f : FwKind → FwKind) (i : Nat) : ctr (modFw s wd f) i = ctr s i := by cases wd <;> rfl

/-- An event counts as written to the log (R496). -/
theorem ctr_logEvent (s : State) (code unit arg i : Nat) :
    ctr (logEvent s code unit arg) i = if i = obsCtr 7 then ctr s i + 1 else ctr s i := by
  rw [logEvent, ctr_bump]
  rfl

theorem ctr_setPhase (s : State) (wd : Bool) (p : FwPhase) {i : Nat} (other : i ≠ obsCtr 7) : ctr (setPhase s wd p) i = ctr s i := by
  rw [setPhase]
  split
  · rfl
  · rw [ctr_logEvent, if_neg other, ctr_modFw]

theorem setImgErr_fw (s : State) (e : Nat) : (setImgErr s e).fw = { s.fw with imgErr := e } := rfl

/-- A stage that ends has no image, is over and counts (R438). -/
theorem fwOf_stageEnd (s : State) (wd : Bool) :
    fwOf (stageEnd s wd) wd = { fwOf s wd with pending := none, len := 0, chunks := [], phase := .idle } := by
  rw [stageEnd, fwOf_of_fw (bump_fw _ _), fwOf_setPhase, fwOf_modFw]

theorem stageEnd_fw_imgErr (s : State) (wd : Bool) : (stageEnd s wd).fw.imgErr = s.fw.imgErr := by
  rw [stageEnd, bump_fw, setPhase_fw]
  cases wd <;> rfl

theorem ctr_stageEnd (s : State) (wd : Bool) : ctr (stageEnd s wd) (clkCtr 4) = ctr s (clkCtr 4) + 1 := by
  rw [stageEnd, ctr_bump_same, ctr_setPhase _ _ _ (by decide), ctr_modFw]

theorem fwOf_modSlot (s : State) (i : Nat) (g : FlashSlot → FlashSlot) (wd : Bool) : fwOf (modSlot s i g) wd = fwOf s wd := rfl

theorem fwOf_dropPending (s : State) (wd : Bool) : fwOf (dropPending s wd) wd =
    { fwOf s wd with pending := none, len := 0, chunks := [], flashed := false, coreLoaded := false } := by
  rw [dropPending, fwOf_modFw]
  split
  · rw [fwOf_modSlot]
  · rfl

theorem fwOf_dropPending_other (s : State) (wd : Bool) : fwOf (dropPending s wd) (!wd) = fwOf s (!wd) := by
  rw [dropPending, fwOf_modFw_other]
  split
  · rw [fwOf_modSlot]
  · rfl

/-- Requests name a kind by its code (R434). -/
theorem onKind_code (s : State) (wd : Bool) (run : Bool → State) : onKind s (fwCode wd) run = run wd := by cases wd <;> rfl

theorem flashSlot_modSlot (s : State) (i : Nat) (g : FlashSlot → FlashSlot) : flashSlot (modSlot s i g) i = g (flashSlot s i) :=
  tabGet_set_same ..
theorem flashSlot_modSlot_other (s : State) {i j : Nat} (g : FlashSlot → FlashSlot) (other : j ≠ i) :
    flashSlot (modSlot s i g) j = flashSlot s j := tabGet_set_other _ _ _ _ _ _ other
theorem flashSlot_of_slots (slots : t.fw.slots = s.fw.slots) (i : Nat) : flashSlot t i = flashSlot s i := by rw [flashSlot, slots, flashSlot]
theorem modFw_slots (s : State) (wd : Bool) (f : FwKind → FwKind) : (modFw s wd f).fw.slots = s.fw.slots := by cases wd <;> rfl
theorem setPhase_slots (s : State) (wd : Bool) (p : FwPhase) : (setPhase s wd p).fw.slots = s.fw.slots := by rw [setPhase_fw, modFw_slots]

end Kinds

/-! ## CLK_IMG_CMD (R437–R439, R461) -/

section Command
variable {s t : State} {w : BitVec 32} {wd : Bool} {files : Option (FwFile × FwFile)}

/-- The register of the image commands holds the kind alone. -/
def kindStored (s : State) (w : BitVec 32) : State := putNat s (clkOff + 0x14) (bitsOf w.toNat 5 4 * 2 ^ 4)

theorem regField_kindStored {off : Nat} (other : off ≠ clkOff + 0x14) (h l : Nat) : regField (kindStored s w) off h l = regField s off h l :=
  regField_putNat_other other
theorem kindStored_fw (s : State) (w : BitVec 32) : (kindStored s w).fw = s.fw := setRegWord_fw ..
theorem kindStored_clk (s : State) (w : BitVec 32) : (kindStored s w).clk = s.clk := setRegWord_clk ..
theorem kindStored_lost (s : State) (w : BitVec 32) : (kindStored s w).lost = s.lost := setRegWord_lost ..
theorem fwOf_kindStored (wd : Bool) : fwOf (kindStored s w) wd = fwOf s wd := fwOf_of_fw (kindStored_fw s w) wd
theorem fromFlash_kindStored : fromFlash (kindStored s w) = fromFlash s := by
  rw [fromFlash, strapBoot, regField_kindStored (by decide), ← strapBoot, ← fromFlash]

theorem kind_withField (cmd : Nat) : bitsOf (withField w 2 0 cmd).toNat 5 4 = bitsOf w.toNat 5 4 :=
  bitsOf_withField_other w (by decide) (by decide) (.inr (by decide))

/-- What a command comes to: its number chooses among the four. -/
def imgCommand (s : State) (w : BitVec 32) (files : Option (FwFile × FwFile)) : Nat → State
  | 1 => if bitsOf w.toNat 5 4 = 3 then bootLoad (kindStored s w) files else setImgErr (kindStored s w) 3
  | 2 => hostStage (kindStored s w) (bitsOf w.toNat 5 4) (regWord s (clkOff + 0x10)).toNat
  | 3 => onKind (kindStored s w) (bitsOf w.toNat 5 4) (fun wd => (commitKind (kindStored s w) wd).2)
  | _ => onKind (kindStored s w) (bitsOf w.toNat 5 4) (fun wd => (cancelKind (kindStored s w) wd).2)

theorem applyWord_imgCmd {cmd : Nat} (known : cmd = 1 ∨ cmd = 2 ∨ cmd = 3 ∨ cmd = 4) :
    applyWord s false files (clkOff + 0x14) (withField w 2 0 cmd) = .done (imgCommand s w files cmd) := by
  have place : (clkOff + 0x14) / 0x10000 = 1 ∧ (clkOff + 0x14) % 0x10000 = 0x14 := by decide
  have taken : applyWord s false files (clkOff + 0x14) (withField w 2 0 cmd) = writeImgCmd s (withField w 2 0 cmd).toNat files := by
    simp only [applyWord, place]
    rw [if_neg (by simp)]
    rfl
  have number : bitsOf (withField w 2 0 cmd).toNat 2 0 = cmd := by
    rw [bitsOf_withField_same w (by decide) (by decide), Nat.mod_eq_of_lt (by omega)]
  rw [taken, writeImgCmd, kind_withField, number, ← kindStored]
  rcases known with rfl | rfl | rfl | rfl <;> rfl

/-- An image command changes firmware state and its own register: no debug level moves. -/
theorem imgCmdWord_eq (live : alive s = true) {cmd : Nat} (known : cmd = 1 ∨ cmd = 2 ∨ cmd = 3 ∨ cmd = 4)
    (frame : FwFrame (kindStored s w) (imgCommand s w files cmd)) : imgCmdWord s w cmd files = imgCommand s w files cmd := by
  have only : OnlyBlock s (imgCommand s w files cmd) 1 :=
    (OnlyBlock.putNat (s := s) (clkOff + 0x14) _).trans (.of_regs 1 frame.regs (by rw [frame.sec]))
  simp only [imgCmdWord, hostWordWith, live, applyWord_imgCmd known, Bool.not_true, Bool.false_eq_true, if_false, levelsMoved,
    only.levelsNow (by decide), if_true]

theorem FwFrame.onKind {kind : Nat} {run : Bool → State} (each : ∀ wd, FwFrame s (run wd)) : FwFrame s (onKind s kind run) := by
  rw [Machine.onKind]
  split
  · exact each false
  · split
    · exact each true
    · exact .setImgErr s 3

theorem FwFrame.hostStage (kind len : Nat) : FwFrame s (hostStage s kind len) := by
  rw [Machine.hostStage]
  split
  · exact .setImgErr s 3
  · split
    · exact .setImgErr s 6
    · exact (FwFrame.modFw s _ _).trans (.setPhase _ _ _)

theorem FwFrame.commitKind (wd : Bool) : FwFrame s (commitKind s wd).2 := by
  rw [Machine.commitKind]
  split
  · exact .setImgErr s 6
  · split
    · exact .setPhase s wd _
    · exact .imgRefused s _ _

theorem FwFrame.cancelKind (wd : Bool) : FwFrame s (cancelKind s wd).2 := by
  rw [Machine.cancelKind]
  split
  · exact (FwFrame.imgRefused s _ _).trans (.stageEnd _ wd)
  · exact (FwFrame.dropPending s wd).trans (.setPhase _ wd _)
  · exact .setImgErr s 6

theorem FwFrame.supply (wd : Bool) (f : FwFile) : FwFrame s (supply s wd f) := by
  rw [Machine.supply]
  split
  · exact ⟨rfl⟩
  · exact (FwFrame.imgRefused s _ _).trans ⟨rfl⟩

theorem FwFrame.bootLoad : FwFrame s (bootLoad s files) := by
  unfold Machine.bootLoad
  split
  · exact .setImgErr s 6
  · split
    · exact .setImgErr s 5
    · split
      · exact (FwFrame.supply true _).trans (.supply false _)
      · exact .supply true _

/-- Every image command changes firmware alone, beside its register. -/
theorem FwFrame.imgCommand (cmd : Nat) : FwFrame (kindStored s w) (imgCommand s w files cmd) := by
  rw [Machine.imgCommand.eq_def]
  split
  · split
    · exact .bootLoad
    · exact .setImgErr _ 3
  · exact .hostStage _ _
  · exact .onKind .commitKind
  · exact .onKind .cancelKind

theorem exec_imgBootLoad (live : alive s = true) (w : BitVec 32) (files : Option (FwFile × FwFile)) :
    exec (.imgBootLoad w files) s = .next (imgCommand s w files 1) :=
  congrArg Host.Outcome.next (imgCmdWord_eq live (.inl rfl) (.imgCommand 1))
theorem exec_imgStage (live : alive s = true) (w : BitVec 32) : exec (.imgStage w) s = .next (imgCommand s w none 2) :=
  congrArg Host.Outcome.next (imgCmdWord_eq live (.inr (.inl rfl)) (.imgCommand 2))
theorem exec_imgCommit (live : alive s = true) (w : BitVec 32) : exec (.imgCommit w) s = .next (imgCommand s w none 3) :=
  congrArg Host.Outcome.next (imgCmdWord_eq live (.inr (.inr (.inl rfl))) (.imgCommand 3))
theorem exec_imgCancel (live : alive s = true) (w : BitVec 32) : exec (.imgCancel w) s = .next (imgCommand s w none 4) :=
  congrArg Host.Outcome.next (imgCmdWord_eq live (.inr (.inr (.inr rfl))) (.imgCommand 4))

end Command

/-! ## Requests (R437–R439) -/

section Requests
variable {s t : State} {w : BitVec 32} {wd : Bool}

theorem spareCore_of_fw (fw : t.fw = s.fw) : spareCore t = spareCore s := by
  have cores : coreState t = coreState s := funext fun k => by rw [coreState, fw, coreState]
  unfold spareCore
  rw [cores]
theorem commitCauses_kindStored (s : State) (w : BitVec 32) (wd : Bool) : commitCauses (kindStored s w) wd = commitCauses s wd := by
  simp only [commitCauses, fwOf_kindStored, fromFlash_kindStored, spareCore_of_fw (kindStored_fw s w), kindStored_fw]
theorem commitOther_kindStored (s : State) (w : BitVec 32) (wd : Bool) : commitOther (kindStored s w) wd = commitOther s wd := by
  simp only [commitOther, fwOf_kindStored, fromFlash_kindStored, kindStored_fw, kindStored_lost]

theorem commitKind_opens (staged : (fwOf s wd).phase = .staged) (causes : commitCauses s wd = []) (other : commitOther s wd = false) :
    commitKind s wd = (true, setPhase s wd .window) := by
  simp only [commitKind, staged, causes, other, ne_eq, not_true_eq_false, if_false, List.isEmpty_nil, Bool.not_false, Bool.and_self, if_true]

theorem commitKind_unstaged (unstaged : (fwOf s wd).phase ≠ .staged) : commitKind s wd = (false, setImgErr s 6) := if_pos unstaged

theorem cancelKind_staged (staged : (fwOf s wd).phase = .staged) : cancelKind s wd = (true, setPhase (dropPending s wd) wd .idle) := by
  simp only [cancelKind, staged]

theorem cancelKind_idle (idle : (fwOf s wd).phase = .idle) : cancelKind s wd = (false, setImgErr s 6) := by
  simp only [cancelKind, idle]

/-- A stage that begins has the length asked for and nothing pending (R439). -/
theorem fwOf_stageBegin (s : State) (wd : Bool) (len : Nat) (cw : Bool) : fwOf (stageBegin s wd len cw) wd =
    { fwOf s wd with pending := none, len := len, chunks := [], byCewieb := cw, flashed := false, coreLoaded := false, phase := .staging } := by
  rw [stageBegin, fwOf_setPhase, fwOf_modFw]
theorem fwOf_stageBegin_other (s : State) (wd : Bool) (len : Nat) (cw : Bool) : fwOf (stageBegin s wd len cw) (!wd) = fwOf s (!wd) := by
  rw [stageBegin, fwOf_setPhase_other, fwOf_modFw_other]

theorem hostStage_idle (idle : (fwOf s wd).phase = .idle) (ready : s.clk.ready = true) (len : Nat) :
    hostStage s (fwCode wd) len = stageBegin s wd len false := by
  cases wd <;> simp [hostStage, fwCode, idle, ready]

theorem imageValid_of_floors (hm : t.fw.floorHm = s.fw.floorHm) (warden : t.fw.floorWd = s.fw.floorWd) (wd : Bool) (f : FwFile) :
    imageValid t wd f = imageValid s wd f := by
  have floors : floorOf t = floorOf s := funext fun wd => by cases wd <;> simp only [floorOf, hm, warden]
  unfold imageValid imageCauses
  rw [floors]

theorem waitsHost_kindStored (s : State) (w : BitVec 32) : waitsHost (kindStored s w) = waitsHost s := by
  have strap : strapBoot (kindStored s w) = strapBoot s := regField_kindStored (by decide) 8 7
  have mode : testBypass (kindStored s w) = testBypass s := by rw [testBypass, strapClk, regField_kindStored (by decide), ← strapClk, ← testBypass]
  simp only [waitsHost, alive, strap, mode, kindStored_clk, kindStored_fw]

/-- A valid image is at the boot ROM (R437). -/
theorem supply_valid {f : FwFile} (valid : imageValid s wd f = true) : supply s wd f =
    { s with fw := if wd then { s.fw with bootWd := some (fileImage f) } else { s.fw with bootHm := some (fileImage f) } } := if_pos valid

theorem bootLoad_bundle {a b : FwFile} (waits : waitsHost s = true) (warden : imageValid s true a = true) (hm : imageValid s false b = true) :
    (bootLoad s (some (a, b))).fw = { s.fw with bootWd := some (fileImage a), bootHm := some (fileImage b) } := by
  have supplied : (supply s true a).fw = { s.fw with bootWd := some (fileImage a) } := by rw [supply_valid warden, if_pos rfl]
  have second : imageValid (supply s true a) false b = true :=
    (imageValid_of_floors (by rw [supplied]) (by rw [supplied]) false b).trans hm
  simp only [bootLoad, waits, Bool.not_true, Bool.false_eq_true, if_false, warden, if_true]
  rw [supply_valid second, supply_valid warden]
  rfl

theorem bootLoad_error (waits : waitsHost s = true) : bootLoad s none = setImgErr s 5 := by
  simp only [bootLoad, waits, Bool.not_true, Bool.false_eq_true, if_false]
theorem bootLoad_unasked (none : waitsHost s = false) (files : Option (FwFile × FwFile)) : bootLoad s files = setImgErr s 6 :=
  if_pos (by rw [none]; rfl)

end Requests

/-! ## The end of a stage, and of its flash write (R436, R438) -/

section Staging
variable {s : State} {wd : Bool} {f : FwFile}

theorem stageDone_some (live : alive s = true) (staging : (fwOf s wd).phase = .staging) (full : stageFull (fwOf s wd) = true) (f : FwFile) :
    stageDone s wd (some f) =
      if !imageValid s wd (stagedFile (fwOf s wd) f) then stageEnd (invalidImage s wd (stagedFile (fwOf s wd) f)) wd
      else if (stagedFile (fwOf s wd) f).body.length + 256 ≠ (fwOf s wd).len then stageEnd (setImgErr s 4) wd
      else setPhase (modFw (clearSpare s wd) wd (fun k => { k with
        pending := some (fileImage (stagedFile (fwOf s wd) f)), coreLoaded := !wd && (spareCore s).isSome })) wd .staged := by
  simp only [stageDone, staging, full, live, ne_eq, not_true_eq_false, Bool.not_true, Bool.false_eq_true, or_self, if_false]

theorem stageDone_error (live : alive s = true) (staging : (fwOf s wd).phase = .staging) (full : stageFull (fwOf s wd) = true) :
    stageDone s wd none = stageEnd (setImgErr s 5) wd := by
  simp only [stageDone, staging, full, live, ne_eq, not_true_eq_false, Bool.not_true, Bool.false_eq_true, or_self, if_false]

/-- An image with one listed fault sets the fault's code (R422). -/
theorem invalidImage_one {e : Nat} (formed : formOk f = true) (one : imageCauses s wd f = [e]) : invalidImage s wd f = setImgErr s e := by
  rw [invalidImage, one, formed]
  rfl

theorem imageValid_fault {e : Nat} (one : imageCauses s wd f = [e]) : imageValid s wd f = false := by
  rw [imageValid, one]
  exact Bool.and_false _

theorem flashDone_staged {im : FwImage} (live : alive s = true) (staged : (fwOf s wd).phase = .staged) (pending : (fwOf s wd).pending = some im)
    (flash : fromFlash s = true) (waits : (fwOf s wd).flashed = false) (ok : Bool) : flashDone s wd ok =
      if ok then modFw (modSlot s (spareSlot s wd) (fun _ => { image := some im, staged := true })) wd (fun k => { k with flashed := true })
      else setImgErr s 8 := by
  simp only [flashDone, live, staged, pending, flash, waits, Bool.not_true, Bool.or_self, Bool.false_eq_true, if_false]

end Staging

/-- Settles O48, a command at a time. -/
theorem firmwareStages : Obligations.FirmwareStages := by
  unfold Obligations.FirmwareStages
  intro s wd live
  refine ⟨fun w kind => ⟨fun idle ready => ?_, fun staged causes other => ?_, fun staged => ?_, fun idle i listed => ?_⟩,
    fun w a b => ⟨fun bundle waits => ⟨fun warden hm => ?_, ?_⟩, fun bundle none => ?_, fun single => ?_⟩,
    fun staging full f => ⟨fun valid whole => ?_, fun e formed one => ?_, ?_⟩, fun im staged pending flash waits => ⟨?_, ?_⟩⟩
  · refine ⟨_, exec_imgStage live w, ?_⟩
    rw [imgCommand, kind, hostStage_idle (by rw [fwOf_kindStored]; exact idle) (by rw [kindStored_clk]; exact ready), fwOf_stageBegin,
      fwOf_stageBegin_other, fwOf_kindStored]
    exact ⟨rfl, rfl, rfl, rfl, rfl⟩
  · refine ⟨_, exec_imgCommit live w, ?_⟩
    rw [imgCommand, kind, onKind_code, commitKind_opens (by rw [fwOf_kindStored]; exact staged) (by rw [commitCauses_kindStored]; exact causes)
      (by rw [commitOther_kindStored]; exact other), fwOf_setPhase, fwOf_kindStored]
    exact ⟨rfl, rfl⟩
  · refine ⟨_, exec_imgCancel live w, ?_⟩
    rw [imgCommand, kind, onKind_code, cancelKind_staged (by rw [fwOf_kindStored]; exact staged), fwOf_setPhase, fwOf_dropPending, fwOf_kindStored]
    · exact ⟨rfl, rfl, rfl⟩
    all_goals decide
  · have still : (fwOf (kindStored s w) wd).phase = .idle := by rw [fwOf_kindStored]; exact idle
    have refused : (setImgErr (kindStored s w) 6).fw = { s.fw with imgErr := 6 } := by rw [setImgErr_fw, kindStored_fw]
    rcases List.mem_pair.1 listed with rfl | rfl
    · refine ⟨_, exec_imgCommit live w, ?_⟩
      rw [imgCommand, kind, onKind_code, commitKind_unstaged (by rw [still]; decide), refused]
    · refine ⟨_, exec_imgCancel live w, ?_⟩
      rw [imgCommand, kind, onKind_code, cancelKind_idle still, refused]
      all_goals decide
  · refine ⟨_, exec_imgBootLoad live w _, ?_⟩
    rw [imgCommand, if_pos bundle, bootLoad_bundle (by rw [waitsHost_kindStored, waits])
      ((imageValid_of_floors (by rw [kindStored_fw]) (by rw [kindStored_fw]) true a).trans warden)
      ((imageValid_of_floors (by rw [kindStored_fw]) (by rw [kindStored_fw]) false b).trans hm)]
    exact ⟨rfl, rfl⟩
  · refine ⟨_, exec_imgBootLoad live w none, ?_⟩
    rw [imgCommand, if_pos bundle, bootLoad_error (by rw [waitsHost_kindStored, waits]), setImgErr_fw, kindStored_fw]
  · refine ⟨_, exec_imgBootLoad live w _, ?_⟩
    rw [imgCommand, if_pos bundle, bootLoad_unasked (by rw [waitsHost_kindStored, none]), setImgErr_fw, kindStored_fw]
  · refine ⟨_, exec_imgBootLoad live w none, ?_⟩
    rw [imgCommand, if_neg single, setImgErr_fw, kindStored_fw]
  · refine ⟨_, congrArg Host.Outcome.next (stageDone_some live staging full f), ?_⟩
    rw [if_neg (by rw [valid]; decide), if_neg (not_not.2 whole), fwOf_setPhase, fwOf_modFw]
    exact ⟨rfl, rfl⟩
  · refine ⟨_, congrArg Host.Outcome.next (stageDone_some live staging full f), ?_⟩
    rw [if_pos (by rw [imageValid_fault one]; rfl), invalidImage_one formed one, fwOf_stageEnd, stageEnd_fw_imgErr, ctr_stageEnd]
    exact ⟨rfl, rfl, rfl, rfl⟩
  · refine ⟨_, congrArg Host.Outcome.next (stageDone_error live staging full), ?_⟩
    rw [fwOf_stageEnd, stageEnd_fw_imgErr, ctr_stageEnd]
    exact ⟨rfl, rfl, rfl⟩
  · refine ⟨_, congrArg Host.Outcome.next (flashDone_staged live staged pending flash waits true), ?_⟩
    rw [if_pos rfl, flashSlot_of_slots (modFw_slots _ wd _), flashSlot_modSlot, fwOf_modFw]
    exact ⟨rfl, rfl⟩
  · exact congrArg Host.Outcome.next (flashDone_staged live staged pending flash waits false)

/-! ## The mailboxes and the duties at a switch of harbourmaster (R325, R440, R443) -/

section Switch
variable {s t u : State} {wd : Bool}

/-- Mailboxes have been reset: records, notices and free values beside, and no counter of windows. -/
structure MailReset (s u : State) : Prop where
  rest : { besideAnswers s u with free := s.free } = s
  count : ctr u (clkCtr 5) = ctr s (clkCtr 5)

namespace MailReset

theorem refl (s : State) : MailReset s s := ⟨rfl, rfl⟩
theorem trans (first : MailReset s t) (second : MailReset t u) : MailReset s u :=
  ⟨(congrArg (fun v => { besideAnswers s v with free := s.free }) second.rest).trans first.rest, second.count.trans first.count⟩

theorem fw (h : MailReset s u) : u.fw = s.fw := (congrArg State.fw h.rest :)
theorem host (h : MailReset s u) : u.host = s.host := (congrArg State.host h.rest :)
theorem regs (h : MailReset s u) : u.regs = s.regs := (congrArg State.regs h.rest :)
theorem sec (h : MailReset s u) : u.sec = s.sec := (congrArg State.sec h.rest :)

theorem useFree (s : State) : MailReset s (useFree s) := ⟨rfl, rfl⟩
theorem setClient (s : State) (c : BitVec 10) (k : Client) : MailReset s (setClient s c k) := ⟨rfl, rfl⟩
theorem counted (s : State) (n : Nat) : MailReset s (addCtr s (hifCtr 16) n) := ⟨rfl, ctr_addCtr_other _ _ _ _ (by decide)⟩
theorem notice (s : State) (c : BitVec 10) (op status : Nat) (d : List (BitVec 8)) : MailReset s (notice s c op status 0 d) :=
  have answered := Answered.notice s c op status 0 d
  ⟨congrArg (fun v : State => { v with free := s.free }) answered.frame, answered.counts _ (by decide) (by decide)⟩

theorem resetMail (s : State) (c : BitVec 10) : MailReset s (resetMail s c) := by
  unfold Machine.resetMail
  extract_lets k unread n s1 s2
  have discarded : MailReset s s2 := (setClient s c _).trans (counted s1 n)
  split
  · exact discarded
  · split
    · exact (discarded.trans (useFree s2)).trans (notice _ c _ _ _)
    · exact discarded.trans (notice s2 c _ _ _)

end MailReset

/-- `fw_epoch` counts a switch (R325). -/
def epochMoved (s : State) : State := { s with host := { s.host with fwEpoch := s.host.fwEpoch + 1 } }

theorem resetAllMail_eq (s : State) : ∃ t, MailReset s t ∧ resetAllMail s = epochMoved t :=
  ⟨_, List.foldlRecOn (motive := MailReset s) s.clients _ (.refl s) fun t kept _ _ => kept.trans (.resetMail t _), rfl⟩

/-- What a switch keeps when it moves the duties of the cores. -/
structure DutiesMoved (s u : State) : Prop where
  kinds : ∀ wd, fwOf u wd = fwOf s wd
  host : u.host = s.host
  regs : u.regs = s.regs
  held : u.sec.held = s.sec.held
  cwHeld : u.sec.cwHeld = s.sec.cwHeld
  tdDue : u.sec.tdDue = s.sec.tdDue
  count : ctr u (clkCtr 5) = ctr s (clkCtr 5)

theorem DutiesMoved.refl (s : State) : DutiesMoved s s := ⟨fun _ => rfl, rfl, rfl, rfl, rfl, rfl, rfl⟩

theorem ctr_setCore (s : State) (k : Nat) (v : UnitState) {i : Nat} (log : i ≠ obsCtr 7) (quarantines : i ≠ calCtr 10) :
    ctr (setCore s k v) i = ctr s i := (ctr_unitChanged log quarantines ..).trans (ctr_of_ctrs rfl i)

theorem DutiesMoved.setCore (s : State) (k : Nat) (v : UnitState) : DutiesMoved s (setCore s k v) := by
  have count := ctr_setCore s k v (i := clkCtr 5) (by decide) (by decide)
  obtain ⟨rt, cs, view, set⟩ := setCore_frame s k v
  rw [set] at count ⊢
  exact ⟨fun wd => by cases wd <;> rfl, rfl, rfl, rfl, rfl, rfl, count⟩

theorem DutiesMoved.trans (first : DutiesMoved s t) (second : DutiesMoved t u) : DutiesMoved s u :=
  ⟨fun wd => (second.kinds wd).trans (first.kinds wd), second.host.trans first.host, second.regs.trans first.regs,
    second.held.trans first.held, second.cwHeld.trans first.cwHeld, second.tdDue.trans first.tdDue, second.count.trans first.count⟩

theorem DutiesMoved.moveDuties (s : State) : DutiesMoved s (moveDuties s) := by
  unfold Machine.moveDuties
  split
  · exact (DutiesMoved.setCore s _ _).trans (.setCore _ _ _)
  · exact .refl s

/-- The SPARE core serves, and the highest ACTIVE one is SPARE (R443). -/
theorem coreState_moveDuties {j k : Nat} (spare : spareCore s = some j)
    (highest : (upTo 5).reverse.find? (fun k => decide (coreState s k = .active)) = some k) :
    coreState (moveDuties s) j = .active ∧ coreState (moveDuties s) k = .spare := by
  have spareState : coreState s j = .spare := by simpa using List.find?_some spare
  have activeState : coreState s k = .active := by simpa using List.find?_some highest
  have apart : j ≠ k := fun same => by
    rw [same, activeState] at spareState
    cases spareState
  simp only [moveDuties, spare, highest]
  rw [coreState_setCore_other _ _ apart, coreState_setCore_same, coreState_setCore_same]
  exact ⟨rfl, rfl⟩

/-- A switch completes: the pending image runs, and with flash it is to persist (R438). -/
theorem fwOf_switched (s : State) (wd : Bool) : fwOf (switched s wd) wd =
    { fwOf s wd with
      running := (fwOf s wd).pending.getD (fwOf s wd).running, pending := none, len := 0, chunks := [], flashed := false,
      coreLoaded := false, phase := if fromFlash s then .persist else .idle } := by
  unfold switched
  extract_lets s1 s2
  have begun : FwFrame s s2 := ((FwFrame.setPhase s wd _).trans (.bump _ _)).trans (.modFw s1 wd _)
  have kind : fwOf s2 wd = { fwOf s wd with
      running := (fwOf s wd).pending.getD (fwOf s wd).running, pending := none, len := 0, chunks := [], flashed := false,
      coreLoaded := false, phase := .persist } := by
    rw [fwOf_modFw, fwOf_of_fw (bump_fw _ _), fwOf_setPhase]
  rw [begun.strap]
  split
  · exact kind
  · rw [fwOf_setPhase, kind]

theorem fwOf_switched_other (s : State) (wd : Bool) : fwOf (switched s wd) (!wd) = fwOf s (!wd) := by
  unfold switched
  extract_lets s1 s2
  have kind : fwOf s2 (!wd) = fwOf s (!wd) := by rw [fwOf_modFw_other, fwOf_of_fw (bump_fw _ _), fwOf_setPhase_other]
  split
  · exact kind
  · rw [fwOf_setPhase_other, kind]

theorem FwFrame.switched (s : State) (wd : Bool) : FwFrame s (switched s wd) := by
  unfold Machine.switched
  extract_lets s1 s2
  have begun : FwFrame s s2 := ((FwFrame.setPhase s wd _).trans (.bump _ _)).trans (.modFw s1 wd _)
  split
  · exact begun
  · exact begun.trans (.setPhase s2 wd _)

theorem ctr_switched (s : State) (wd : Bool) : ctr (switched s wd) (clkCtr 5) = ctr s (clkCtr 5) + 1 := by
  unfold switched
  extract_lets s1 s2
  have count : ctr s2 (clkCtr 5) = ctr s (clkCtr 5) + 1 := by
    rw [ctr_modFw, ctr_bump_same, ctr_setPhase _ _ _ (by decide)]
  split
  · exact count
  · rw [ctr_setPhase _ _ _ (by decide), count]

theorem switched_cores (s : State) (wd : Bool) (k : Nat) : coreState (switched s wd) k = coreState s k := by
  have phased (s : State) (p : FwPhase) : coreState (setPhase s wd p) k = coreState s k := by
    rw [coreState, setPhase_fw, ← coreState, coreState_modFw]
  unfold switched
  extract_lets s1 s2
  have cores : coreState s2 k = coreState s k := (coreState_modFw s1 wd _ k).trans (phased s .persist)
  split
  · exact cores
  · rw [phased, cores]

/-- A window that aborts: the kind drops its pending image, is idle, and the abort counts (R438). -/
theorem abortWindow_open (opened : (fwOf s wd).phase = .window) :
    abortWindow s wd = bump (setPhase (dropPending s wd) wd .idle) (clkCtr 6) := if_pos opened

theorem fwOf_abortWindow (opened : (fwOf s wd).phase = .window) : fwOf (abortWindow s wd) wd =
    { fwOf s wd with pending := none, len := 0, chunks := [], flashed := false, coreLoaded := false, phase := .idle } := by
  rw [abortWindow_open opened, fwOf_of_fw (bump_fw _ _), fwOf_setPhase, fwOf_dropPending]

theorem fwOf_abortWindow_other (opened : (fwOf s wd).phase = .window) : fwOf (abortWindow s wd) (!wd) = fwOf s (!wd) := by
  rw [abortWindow_open opened, fwOf_of_fw (bump_fw _ _), fwOf_setPhase_other, fwOf_dropPending_other]

theorem FwFrame.abortWindow (s : State) (wd : Bool) : FwFrame s (abortWindow s wd) := by
  rw [Machine.abortWindow]
  split
  · exact ((FwFrame.dropPending s wd).trans (.setPhase _ wd _)).trans (.bump _ _)
  · exact .refl s

theorem ctr_dropPending (s : State) (wd : Bool) (i : Nat) : ctr (dropPending s wd) i = ctr s i := by
  rw [dropPending, ctr_modFw]
  split <;> rfl

theorem ctr_abortWindow (opened : (fwOf s wd).phase = .window) : ctr (abortWindow s wd) (clkCtr 6) = ctr s (clkCtr 6) + 1 := by
  rw [abortWindow_open opened, ctr_bump_same, ctr_setPhase _ _ _ (by decide), ctr_dropPending]

end Switch

/-! ## The ends of the windows (R438–R441) -/

section Windows
variable {s : State}

/-- With nothing held over it a window that closes leaves what its kind did. -/
theorem closeWindow_frame {t : State} (same : t.sec.held = s.sec.held ∧ t.sec.cwHeld = s.sec.cwHeld ∧ t.sec.tdDue = s.sec.tdDue)
    (nothing : s.sec.held = [] ∧ s.sec.cwHeld = [] ∧ s.sec.tdDue = false) : closeWindow t = t :=
  closeWindow_of_nothing (same.1.trans nothing.1) (same.2.1.trans nothing.2.1) (same.2.2.trans nothing.2.2)

theorem FwFrame.held {t : State} (h : FwFrame s t) :
    t.sec.held = s.sec.held ∧ t.sec.cwHeld = s.sec.cwHeld ∧ t.sec.tdDue = s.sec.tdDue := by rw [h.sec]; exact ⟨rfl, rfl, rfl⟩

theorem hmClosed_eq (live : alive s = true) (opened : s.fw.hm.phase = .window) (ok : Bool) : hmClosed s ok =
    if ok then closeWindow (switched (resetAllMail (moveDuties s)) false) else closeWindow (abortWindow s false) := by
  simp only [hmClosed, live, opened, ne_eq, not_true_eq_false, Bool.not_true, Bool.false_eq_true, or_self, if_false]

theorem wdClosed_eq (live : alive s = true) (opened : s.fw.wd.phase = .window) (ok : Bool) : wdClosed s ok =
    if ok then closeWindow (switched s true) else closeWindow (abortWindow s true) := by
  simp only [wdClosed, live, opened, ne_eq, not_true_eq_false, Bool.not_true, Bool.false_eq_true, or_self, if_false]

/-- The state at a switch of harbourmaster, its duties moved and its mailboxes reset. -/
theorem switch_prepared (s : State) : ∃ t, resetAllMail (moveDuties s) = t ∧ (∀ wd, fwOf t wd = fwOf s wd) ∧ t.fw = (moveDuties s).fw ∧
    t.host.fwEpoch = s.host.fwEpoch + 1 ∧ t.regs = s.regs ∧ ctr t (clkCtr 5) = ctr s (clkCtr 5) ∧
    (t.sec.held = s.sec.held ∧ t.sec.cwHeld = s.sec.cwHeld ∧ t.sec.tdDue = s.sec.tdDue) := by
  have duties := DutiesMoved.moveDuties s
  obtain ⟨t, mail, reset⟩ := resetAllMail_eq (moveDuties s)
  refine ⟨epochMoved t, reset, fun wd => (fwOf_of_fw mail.fw wd).trans (duties.kinds wd), mail.fw, ?_, mail.regs.trans duties.regs,
    mail.count.trans duties.count, ?_⟩
  · rw [epochMoved, mail.host, duties.host]
  · rw [epochMoved, mail.sec]
    exact ⟨duties.held, duties.cwHeld, duties.tdDue⟩

theorem hmClosed_switch (live : alive s = true) (opened : s.fw.hm.phase = .window)
    (nothing : s.sec.held = [] ∧ s.sec.cwHeld = [] ∧ s.sec.tdDue = false) :
    hmClosed s true = switched (resetAllMail (moveDuties s)) false := by
  obtain ⟨t, prepared, _, _, _, _, _, held⟩ := switch_prepared s
  have kept := (FwFrame.switched t false).held
  rw [hmClosed_eq live opened, if_pos rfl, prepared]
  exact closeWindow_frame ⟨kept.1.trans held.1, kept.2.1.trans held.2.1, kept.2.2.trans held.2.2⟩ nothing

theorem hmClosed_abort (live : alive s = true) (opened : s.fw.hm.phase = .window)
    (nothing : s.sec.held = [] ∧ s.sec.cwHeld = [] ∧ s.sec.tdDue = false) : hmClosed s false = abortWindow s false := by
  rw [hmClosed_eq live opened, if_neg Bool.false_ne_true]
  exact closeWindow_frame (FwFrame.abortWindow s false).held nothing

theorem wdClosed_switch (live : alive s = true) (opened : s.fw.wd.phase = .window)
    (nothing : s.sec.held = [] ∧ s.sec.cwHeld = [] ∧ s.sec.tdDue = false) : wdClosed s true = switched s true := by
  rw [wdClosed_eq live opened, if_pos rfl]
  exact closeWindow_frame (FwFrame.switched s true).held nothing

theorem wdClosed_abort (live : alive s = true) (opened : s.fw.wd.phase = .window)
    (nothing : s.sec.held = [] ∧ s.sec.cwHeld = [] ∧ s.sec.tdDue = false) : wdClosed s false = abortWindow s true := by
  rw [wdClosed_eq live opened, if_neg Bool.false_ne_true]
  exact closeWindow_frame (FwFrame.abortWindow s true).held nothing

end Windows

/-! ## Persistence and fuses (R98, R401, R430, R438, R442) -/

section Fuses
variable {s : State} {wd : Bool}

theorem spareSlot_ne_bootSlot (s : State) (wd : Bool) : spareSlot s wd ≠ bootSlot s wd := by
  simp only [spareSlot, bootSlot, slotNo]
  cases (fwOf s wd).slotB <;> simp

/-- The two slots of a kind after PERSIST: the new one is ACTIVE, the old one RETIRED. -/
def slotsPersisted (s : State) (wd : Bool) : State :=
  modSlot (modSlot s (spareSlot s wd) (fun x => { x with active := true })) (bootSlot s wd) (fun x => { x with retired := true })

theorem persisted_eq (live : alive s = true) (persists : (fwOf s wd).phase = .persist) :
    persisted s wd = setPhase (modFw (slotsPersisted s wd) wd (fun k => { k with slotB := !k.slotB })) wd .idle := by
  simp only [persisted, live, persists, ne_eq, not_true_eq_false, Bool.not_true, Bool.false_eq_true, or_self, if_false, slotsPersisted]

theorem fwOf_persisted (live : alive s = true) (persists : (fwOf s wd).phase = .persist) :
    fwOf (persisted s wd) wd = { fwOf s wd with slotB := !(fwOf s wd).slotB, phase := .idle } := by
  rw [persisted_eq live persists, fwOf_setPhase, fwOf_modFw, slotsPersisted, fwOf_modSlot, fwOf_modSlot]

theorem flashSlot_persisted (live : alive s = true) (persists : (fwOf s wd).phase = .persist) (i : Nat) :
    flashSlot (persisted s wd) i = flashSlot (slotsPersisted s wd) i := by
  rw [persisted_eq live persists]
  exact flashSlot_of_slots ((setPhase_slots _ wd _).trans (modFw_slots _ wd _)) i

theorem floorOf_floorTakes (s : State) (wd : Bool) (v : BitVec 16) :
    floorOf (fuseTakes s (.floor wd v)) wd = (if (floorOf s wd).toNat ≤ v.toNat then v else floorOf s wd) ∧
      floorOf (fuseTakes s (.floor wd v)) (!wd) = floorOf s (!wd) := by
  cases wd <;> exact ⟨rfl, rfl⟩

/-- What holds once a fuse record is written. -/
def fuseHolds (s u : State) : FuseJob → Prop
  | .retireCluster n => tabGet false u.map.cluFuse n = true ∧ MapChange.cluster n .retired ∈ u.map.due
  | .retireTile n t => tabGet false u.map.tileFuse (tileKey n t) = true ∧ MapChange.tile n t .retired ∈ u.map.due
  | .retireCore k => tabGet false u.fw.coreFuse k = true ∧ coreState u k = .retired
  | .retireLane p l => tabGet false u.fw.laneFuse (9 * p + l) = true ∧ chnLane u p l = .retired
  | .floor wd v => (floorOf s wd).toNat ≤ (floorOf u wd).toNat ∧
      ((floorOf s wd).toNat ≤ v.toNat → floorOf u wd = v) ∧ floorOf u (!wd) = floorOf s (!wd) ∧ countsOne s u (clkCtr 7)
  | .anchor h => u.sec.anchor = some h

theorem mapDue_cluFuse (s : State) (c : MapChange) : (mapDue s c).map.cluFuse = s.map.cluFuse := by
  unfold mapDue
  split <;> rfl
theorem mapDue_tileFuse (s : State) (c : MapChange) : (mapDue s c).map.tileFuse = s.map.tileFuse := by
  unfold mapDue
  split <;> rfl
theorem mapDue_fw (s : State) (c : MapChange) : (mapDue s c).fw = s.fw := (congrArg State.fw (mapDue_frame s c) :)

/-- A written record holds, and the queue of records stays as it was. -/
theorem fuseTakes_holds (s : State) (j : FuseJob) : fuseHolds s (fuseTakes s j) j ∧ (fuseTakes s j).fw.fuseQ = s.fw.fuseQ := by
  cases j with
  | retireCluster n =>
    refine ⟨⟨?_, mem_mapDue _ _⟩, by rw [fuseTakes, mapDue_fw]⟩
    rw [fuseTakes, mapDue_cluFuse]
    exact tabGet_set_same false s.map.cluFuse n true
  | retireTile n t =>
    refine ⟨⟨?_, mem_mapDue _ _⟩, by rw [fuseTakes, mapDue_fw]⟩
    rw [fuseTakes, mapDue_tileFuse]
    exact tabGet_set_same false s.map.tileFuse (tileKey n t) true
  | retireCore k =>
    have fused : tabGet false (tabSet false s.fw.coreFuse k true) k = true := tabGet_set_same ..
    have retired := coreState_setCore_same { s with fw := { s.fw with coreFuse := tabSet false s.fw.coreFuse k true } } k .retired
    obtain ⟨rt, cs, v, set⟩ := setCore_frame { s with fw := { s.fw with coreFuse := tabSet false s.fw.coreFuse k true } } k .retired
    refine ⟨⟨?_, retired⟩, ?_⟩
    · rw [fuseTakes, set]
      exact fused
    · rw [fuseTakes, set]
  | retireLane p l =>
    have fused : tabGet false (tabSet false s.fw.laneFuse (9 * p + l) true) (9 * p + l) = true := tabGet_set_same ..
    obtain ⟨rt, cs, v, set⟩ := setLane_frame { s with fw := { s.fw with laneFuse := tabSet false s.fw.laneFuse (9 * p + l) true } } p l .retired
    refine ⟨⟨?_, chnLane_setLane_same⟩, ?_⟩
    · rw [fuseTakes, set]
      exact fused
    · rw [fuseTakes, set]
  | floor wd v =>
    obtain ⟨taken, other⟩ := floorOf_floorTakes s wd v
    refine ⟨⟨?_, fun above => by rw [taken, if_pos above], other, fun k => ctr_bump _ _ _⟩, by cases wd <;> rfl⟩
    rw [taken]
    split <;> omega
  | anchor h => exact ⟨rfl, rfl⟩

theorem fuseDone_first {j : FuseJob} {rest : List FuseJob} (first : s.fw.fuseQ = j :: rest) : fuseDone s =
    if s.clk.rstWaits then assertReset (fuseTakes { s with fw := { s.fw with fuseQ := rest } } j) true
    else fuseTakes { s with fw := { s.fw with fuseQ := rest } } j := by
  simp only [fuseDone, first]

end Fuses

/-- Settles O49: the ends of windows with nothing held over them, a persistence, and each kind of fuse record. -/
theorem windowsAndFuses : Obligations.WindowsAndFuses := by
  unfold Obligations.WindowsAndFuses
  intro s live
  refine ⟨fun reports operations teardown => ⟨fun opened => ⟨?_, ?_⟩, fun opened => ⟨?_, ?_⟩⟩, fun wd persists => ?_,
    fun j rest first => ⟨fun free => ?_, fun waits => ?_⟩⟩
  · obtain ⟨t, prepared, kinds, fw, epoch, regs, count, _⟩ := switch_prepared s
    have kind := fwOf_switched t false
    have strap : fromFlash t = fromFlash s := by rw [fromFlash, strapBoot, regField_of_regs regs, ← strapBoot, ← fromFlash]
    rw [kinds, strap] at kind
    refine ⟨_, congrArg Host.Outcome.next ((hmClosed_switch live opened ⟨reports, operations, teardown⟩).trans (by rw [prepared])),
      congrArg FwKind.running kind, congrArg FwKind.pending kind, congrArg FwKind.phase kind, ?_, ?_, fun j k spare highest => ?_⟩
    · rw [(FwFrame.switched t false).host, epoch]
    · rw [ctr_switched, count]
    · obtain ⟨serves, spared⟩ := coreState_moveDuties spare highest
      rw [switched_cores, switched_cores, coreState, coreState, fw]
      exact ⟨serves, spared⟩
  · have kind := fwOf_abortWindow (wd := false) opened
    have frame := FwFrame.abortWindow s false
    exact ⟨_, congrArg Host.Outcome.next (hmClosed_abort live opened ⟨reports, operations, teardown⟩), (congrArg FwKind.running kind :),
      congrArg FwKind.pending kind, congrArg FwKind.phase kind, frame.host, ctr_abortWindow (wd := false) opened, frame.store, frame.pm, rfl⟩
  · have kind := fwOf_switched s true
    have frame := FwFrame.switched s true
    exact ⟨_, congrArg Host.Outcome.next (wdClosed_switch live opened ⟨reports, operations, teardown⟩), (congrArg FwKind.running kind :),
      congrArg FwKind.pending kind, congrArg FwKind.phase kind, frame.host, fwOf_switched_other s true, ctr_switched s true⟩
  · have kind := fwOf_abortWindow (wd := true) opened
    exact ⟨_, congrArg Host.Outcome.next (wdClosed_abort live opened ⟨reports, operations, teardown⟩), (congrArg FwKind.running kind :),
      congrArg FwKind.pending kind, congrArg FwKind.phase kind, fwOf_abortWindow_other (wd := true) opened, ctr_abortWindow (wd := true) opened⟩
  · have kind := fwOf_persisted live persists
    have apart := spareSlot_ne_bootSlot s wd
    refine ⟨persisted s wd, rfl, congrArg FwKind.phase kind, ?_, ?_, ?_⟩
    · rw [flashSlot_persisted live persists, slotsPersisted, flashSlot_modSlot_other _ _ apart, flashSlot_modSlot]
    · rw [flashSlot_persisted live persists, slotsPersisted, flashSlot_modSlot]
    · rw [bootSlot, kind, spareSlot]
  · obtain ⟨holds, queue⟩ := fuseTakes_holds { s with fw := { s.fw with fuseQ := rest } } j
    refine ⟨_, congrArg Host.Outcome.next ((fuseDone_first first).trans (if_neg (by rw [free]; decide))), queue, ?_⟩
    cases j <;> exact holds
  · exact ⟨_, congrArg Host.Outcome.next ((fuseDone_first first).trans (if_pos waits)), rfl, rfl⟩

end Sys2Proof.Machine
end

section
/-! The family of resets and boot (R427–R437, R476), with what a scrub leaves (R398). -/

namespace Sys2Proof.Machine
open Sys2Proof

/-! ## The scrub (R398) -/

section Scrub
variable {s : State}

/-- A scrub before its work is counted: what is the tenant's is gone. -/
def wiped (s : State) (keep : Bool) : State :=
  { s with
    tiles := s.tiles.map (fun e => (e.1, scrubTile e.2))
    threads := [], queues := [], streams := [], store := []
    pm := s.pm.filter (fun c => reserveAt c.1 || (keep && inHeldSlot s c.1))
    berths := [], mods := [], pre := if keep then s.pre else {}, acct := [], act := []
    clients := if keep then s.clients else s.clients.map (fun e => (e.1, scrubClient e.2))
    regs := s.regs.filter (fun e => !scrubReg e.1 || (keep && inHifCtx e.1))
    sched := { s.sched with pol := s.sched.pol.filter (fun e => !scrubReg e.1), proposals := [] }
    chn := { s.chn with routes := [], seqs := [], ports := s.chn.ports.map (fun e => (e.1, scrubPort e.2)) }
    aud := { s.aud with str := s.aud.str.map (fun e => (e.1, { e.2 with s0 := { e.2.s0 with bound := none }, s1 := { e.2.s1 with bound := none } })) } }

/-- Work of a scrub counts in these counters only (R491). -/
def scrubCounts (i : Nat) : Prop := i = obsCtr 2 ∨ i = obsCtr 3 ∨ i = obsCtr 4 ∨ i = bthCtr 3 ∨ 0xA00 ≤ i

theorem foldl_addCtr (l : List Nat) (at_ n : Nat → Nat) (s : State) : ∃ cs, l.foldl (fun s k => addCtr s (at_ k) (n k)) s = { s with ctrs := cs } ∧
    ∀ i, (∀ k, i ≠ at_ k) → tabGet 0 cs i = ctr s i := by
  induction l generalizing s with
  | nil => exact ⟨s.ctrs, rfl, fun _ _ => rfl⟩
  | cons k l ih =>
    obtain ⟨cs, folded, kept⟩ := ih (addCtr s (at_ k) (n k))
    exact ⟨cs, folded, fun i other => (kept i other).trans (ctr_addCtr_other _ _ _ _ (other k))⟩

theorem sysWork_eq (s : State) (ns bytes : Nat) : ∃ cs r, sysWork s ns bytes = { s with ctrs := cs, sched := { s.sched with sysRem := r } } ∧
    ∀ i, i ≠ obsCtr 2 → i ≠ obsCtr 3 → i ≠ obsCtr 4 → tabGet 0 cs i = ctr s i :=
  ⟨_, _, rfl, fun i two three four => by
    rw [← ctr, ctr_addCtr_other _ _ _ _ four, ctr_addCtr_other _ _ _ _ three, ctr_addCtr_other _ _ _ _ two]⟩

/-- What a scrub writes into stack `k`, in bytes; the entry 8 is its tile time. -/
def scrubWork (s : State) (k : Nat) : Nat := bitsOf (Config.freeWord (s.free + k)).toNat 40 0

theorem scrub_counted (s : State) (keep : Bool) : scrub s keep = clearGens (audioScrub (addCtr
    (sysWork ((upTo 8).foldl (fun t st => addCtr t (stackCtr st 1) (scrubWork s st)) { wiped s keep with free := s.free + 9 })
      (scrubWork s 8) (sumNat ((upTo 8).map (scrubWork s)))) (bthCtr 3) (heldBerths s).length)) := rfl

/-- A scrub wipes, counts its work and zeroes the generators and the audio buffers. -/
theorem scrub_eq (s : State) (keep : Bool) : ∃ cs r, scrub s keep = clearGens (audioScrub { wiped s keep with
      free := s.free + 9, ctrs := cs, sched := { (wiped s keep).sched with sysRem := r } }) ∧
    ∀ i, ¬ scrubCounts i → tabGet 0 cs i = ctr s i := by
  obtain ⟨cs, written, stacked⟩ := foldl_addCtr (upTo 8) (fun st => stackCtr st 1) (scrubWork s) { wiped s keep with free := s.free + 9 }
  obtain ⟨ds, r, worked, system⟩ := sysWork_eq { wiped s keep with free := s.free + 9, ctrs := cs } (scrubWork s 8)
    (sumNat ((upTo 8).map (scrubWork s)))
  refine ⟨tabMod 0 ds (bthCtr 3) (fun n => n + BitVec.ofNat 48 (heldBerths s).length), r, ?_, fun i uncounted => ?_⟩
  · rw [scrub_counted, written, worked]
    rfl
  · simp only [scrubCounts, not_or] at uncounted
    obtain ⟨two, three, four, berths, stack⟩ := uncounted
    rw [tabMod, tabGet_set_other _ _ _ _ _ _ berths, system i two three four]
    exact stacked i fun k same => stack (by rw [same, stackCtr]; omega)

end Scrub

/-! ## The resets (R427–R430) -/

section Resets
variable {s : State}

/-- A table reads what it did at a key that a filter on the keys keeps. -/
theorem tabGet_filter_kept {α : Type} (d : α) (t : Tab α) (p : Nat → Bool) {k : Nat} (kept : p k = true) :
    tabGet d (t.filter (fun e => p e.1)) k = tabGet d t k := by
  have found : tabFind (t.filter (fun e => p e.1)) k = tabFind t k := by
    induction t with
    | nil => rfl
    | cons e t ih =>
      by_cases own : e.1 = k
      · rw [List.filter_cons_of_pos (p := fun e : Nat × α => p e.1) (by rw [own, kept]), tabFind, tabFind, if_pos own, if_pos own]
      · cases here : p e.1 with
        | false => rw [List.filter_cons_of_neg (by rw [here]; exact Bool.false_ne_true), ih, tabFind, if_neg own]
        | true => rw [List.filter_cons_of_pos (p := fun e : Nat × α => p e.1) here, tabFind, tabFind, if_neg own, if_neg own, ih]
  rw [tabGet, found, tabGet]

theorem regWord_resetAll_backup (s : State) {k : Nat} (backup : k < 16) :
    regWord (resetAll s false) (glbOff + 0x40 + 4 * k) = regWord s (glbOff + 0x40 + 4 * k) :=
  tabGet_filter_kept _ _ isBackup (decide_eq_true ⟨by omega, by omega⟩)

theorem regWord_resetAll_other (s : State) {o : Nat} (other : isBackup o = false) : regWord (resetAll s false) o = BitVec.ofNat 32 (resetWord o) :=
  tabGet_filter_dropped _ _ isBackup other

/-- The device as a RESET_N that no pulse delays leaves it: reset, RESET_N low. -/
def resetLow (s : State) : State := { s with clk := { s.clk with rstLow := true } }

theorem resetAsserted_idle (out : s.clk.inReset = false) (powered : s.clk.porHeld = false) (idle : s.fw.fuseQ = []) :
    ∃ delayed n, resetAsserted s = { assertReset (resetLow s) delayed with free := n } := by
  have held : (s.clk.inReset || s.clk.porHeld) = false := by rw [out, powered]; rfl
  have none : s.fw.fuseQ.isEmpty = true := by rw [idle]; rfl
  simp only [resetAsserted, held, none, Bool.false_eq_true, if_false, if_true]
  split
  · exact ⟨(Config.freeWord s.free).getLsbD 0, s.free + 1, rfl⟩
  · exact ⟨false, s.free, rfl⟩

theorem resetAsserted_pulse (out : s.clk.inReset = false) (powered : s.clk.porHeld = false) (pulse : s.fw.fuseQ ≠ []) : resetAsserted s =
    { s with clk := { s.clk with rstLow := true, rstWaits := true }, fw := { s.fw with fuseQ := s.fw.fuseQ.take 1 } } := by
  have pending : s.fw.fuseQ.isEmpty = false := by simpa using pulse
  have held : (s.clk.inReset || s.clk.porHeld) = false := by rw [out, powered]; rfl
  simp only [resetAsserted, held, pending, Bool.false_eq_true, if_false]

/-- A flag below a field leaves the field. -/
theorem regField_setFlag_above {f : Flag} {hi lo : Nat} (zero : resetWord f.off = 0) (below : f.bit < lo) : regField (setFlag s f) f.off hi lo = regField s f.off hi lo := by
  have word : regWord (setFlag s f) f.off = regWord s f.off ||| BitVec.ofNat 32 (2 ^ f.bit) := by
    rw [regWord, regWord, zero, setFlag_regs, tabMod]
    exact tabGet_set_same ..
  rw [regField, word, regField, bitsOf, bitsOf, BitVec.toNat_or, BitVec.toNat_ofNat]
  congr 1
  apply Nat.eq_of_testBit_eq
  intro i
  have apart : f.bit ≠ i + lo := by omega
  rw [Nat.testBit_div_two_pow, Nat.testBit_div_two_pow, Nat.testBit_or, Nat.testBit_mod_two_pow, Nat.testBit_two_pow,
    decide_eq_false apart, Bool.and_false, Bool.or_false]

/-- The straps as a release samples them (R429). -/
def strapWord (s : State) (boot clk : BitVec 2) : Nat := putBits (putBits (regWord s (clkOff + 4)).toNat 8 7 boot.toNat) 10 9 clk.toNat

/-- The clocks run with the sampled straps. -/
def strapped (s : State) (boot clk : BitVec 2) : State := putNat { s with clk := { s.clk with inReset := false } } (clkOff + 4) (strapWord s boot clk)

theorem releaseReset_eq (s : State) (boot clk : BitVec 2) :
    releaseReset s boot clk = if boot = 3 ∨ clk = 3 then setFlag (strapped s boot clk) fStrapBad else strapped s boot clk := rfl

theorem strapWord_lt (s : State) (boot clk : BitVec 2) : strapWord s boot clk < 2 ^ 32 :=
  putBits_lt (by decide) (by decide) (putBits_lt (by decide) (by decide) (regWord s (clkOff + 4)).isLt)

theorem straps_strapped (s : State) (boot clk : BitVec 2) :
    strapBoot (strapped s boot clk) = boot.toNat ∧ strapClk (strapped s boot clk) = clk.toNat := by
  constructor
  · rw [strapBoot, strapped, regField_putNat_same (strapWord_lt s boot clk), strapWord, bitsOf_putBits_other (by decide) (.inl (by decide)),
      bitsOf_putBits_same (by decide), Nat.mod_eq_of_lt boot.isLt]
  · rw [strapClk, strapped, regField_putNat_same (strapWord_lt s boot clk), strapWord, bitsOf_putBits_same (by decide),
      Nat.mod_eq_of_lt clk.isLt]

/-- A release: out of reset with the sampled straps, a reserved value of which sets `strap_bad`. -/
theorem releaseReset_releases (s : State) (boot clk : BitVec 2) :
    (releaseReset s boot clk).clk = { s.clk with inReset := false } ∧ strapBoot (releaseReset s boot clk) = boot.toNat ∧
      strapClk (releaseReset s boot clk) = clk.toNat ∧ (boot = 3 ∨ clk = 3 → flagOn (releaseReset s boot clk) fStrapBad = true) ∧
      sameMemories s (releaseReset s boot clk) := by
  obtain ⟨source, mode⟩ := straps_strapped s boot clk
  rw [releaseReset_eq]
  split
  next bad =>
    have field (hi lo : Nat) (above : 5 < lo) : regField (setFlag (strapped s boot clk) fStrapBad) (clkOff + 4) hi lo =
        regField (strapped s boot clk) (clkOff + 4) hi lo := regField_setFlag_above (f := fStrapBad) rfl above
    exact ⟨rfl, (field 8 7 (by decide)).trans source, (field 10 9 (by decide)).trans mode, fun _ => flagOn_setFlag_same _ _ (by decide),
      rfl, rfl, rfl⟩
  next good => exact ⟨rfl, source, mode, fun bad => absurd bad good, rfl, rfl, rfl⟩

end Resets

/-! ## Boot (R95, R208, R433, R436, R437) -/

section Boot
variable {s t u : State} {r : BootResult}

/-- What the placing of units leaves: the images that run, the host's view, and the empty berths and stores. -/
structure BootKeeps (s u : State) : Prop where
  hm : u.fw.hm = s.fw.hm
  wd : u.fw.wd = s.fw.wd
  boots : u.fw.boots = s.fw.boots
  host : u.host = s.host
  berths : u.berths = s.berths
  store : u.store = s.store

namespace BootKeeps

theorem refl (s : State) : BootKeeps s s := ⟨rfl, rfl, rfl, rfl, rfl, rfl⟩
theorem trans (first : BootKeeps s t) (second : BootKeeps t u) : BootKeeps s u :=
  ⟨second.hm.trans first.hm, second.wd.trans first.wd, second.boots.trans first.boots, second.host.trans first.host,
    second.berths.trans first.berths, second.store.trans first.store⟩
theorem foldl {β : Type} {f : State → β → State} (each : ∀ s b, BootKeeps s (f s b)) (l : List β) (s : State) : BootKeeps s (l.foldl f s) :=
  List.foldlRecOn (motive := BootKeeps s) l f (refl s) fun t kept b _ => kept.trans (each t b)

theorem bump (s : State) (i : Nat) : BootKeeps s (bump s i) := ⟨rfl, rfl, rfl, rfl, rfl, rfl⟩
theorem setCluState (s : State) (n : Nat) (v : UnitState) : BootKeeps s (setCluState s n v) := ⟨rfl, rfl, rfl, rfl, rfl, rfl⟩
theorem setTileState (s : State) (n t : Nat) (v : UnitState) : BootKeeps s (setTileState s n t v) := ⟨rfl, rfl, rfl, rfl, rfl, rfl⟩
theorem setMap (s : State) (m : RepairMap) : BootKeeps s { s with map := m } := ⟨rfl, rfl, rfl, rfl, rfl, rfl⟩
theorem setCores (s : State) (c : Tab UnitState) : BootKeeps s { s with fw := { s.fw with cores := c } } := ⟨rfl, rfl, rfl, rfl, rfl, rfl⟩
theorem setGen (s : State) (g : Nat) (d : Drbg) : BootKeeps s (setGen s g d) := ⟨rfl, rfl, rfl, rfl, rfl, rfl⟩
theorem setTested (s : State) (k : Nat) (v : Tile) (i n : Nat) : BootKeeps s (addCtr (setTile s k v) i n) := ⟨rfl, rfl, rfl, rfl, rfl, rfl⟩

theorem bootFailed (s : State) (unit : Nat) (j : FuseJob) : BootKeeps s (bootFailed s unit j) := by
  unfold Machine.bootFailed
  extract_lets a s1
  have counted : BootKeeps s s1 := ⟨rfl, rfl, rfl, rfl, rfl, rfl⟩
  split
  · exact counted.trans ⟨rfl, rfl, rfl, rfl, rfl, rfl⟩
  · exact counted

theorem placeTile (s : State) (n t : Nat) : BootKeeps s (placeTile s r n t) := by
  unfold Machine.placeTile
  split
  next k passes =>
    extract_lets m s1
    have tested : BootKeeps s s1 := setTested s _ k _ _
    split
    · exact (tested.trans (setMap s1 _)).trans (setTileState _ n t _)
    · exact tested.trans (setTileState s1 n t _)
  next =>
    split
    · exact setTileState s n t _
    · exact (setTileState s n t _).trans (bootFailed _ _ _)

theorem placeClu (s : State) (n : Nat) : BootKeeps s (placeClu s r n) := by
  unfold Machine.placeClu
  extract_lets s1 base m
  have tiles : BootKeeps s s1 := foldl (fun s t => placeTile s n t) _ s
  split
  · split
    · exact (tiles.trans (setMap s1 _)).trans (setCluState _ n _)
    · exact tiles.trans (setCluState s1 n _)
  · split
    · exact tiles.trans (setCluState s1 n _)
    · exact (tiles.trans (setCluState s1 n _)).trans (bootFailed _ _ _)

theorem placeCore (s : State) (k : Nat) : BootKeeps s (placeCore s r k) := by
  unfold Machine.placeCore
  extract_lets put m
  split
  · exact setCores s _
  · split
    · exact (setCores s _).trans (bootFailed _ _ _)
    · split <;> exact setCores s _

theorem placeGen (s : State) (g : Nat) : BootKeeps s (placeGen s r g) := by
  unfold Machine.placeGen
  split
  · split
    · exact (setGen s g { state := 3 }).trans ⟨rfl, rfl, rfl, rfl, rfl, rfl⟩
    · exact setGen s g _
  · exact (setGen s g _).trans (bump _ _)

end BootKeeps

/-- The roots that are not down lock, the images run, and the host's link is up. -/
def bootStarted (s : State) (r : BootResult) (hm wd : Bool × FwImage) : State :=
  { (upTo 3).foldl (fun s q => setRoot s q (!tabGet false s.clk.rootDown q)) s with
    fw := { s.fw with hm := { running := hm.2, slotB := hm.1 }, wd := { running := wd.2, slotB := wd.1 },
                      waitBundle := false, bootHm := none, bootWd := none, boots := s.fw.boots + 1 }
    host := { s.host with linkUp := true, rate := r.rate, width := r.width }
    mem := { s.mem with trained := r.trained, pcSpared := r.spared.foldl (fun m e => tabSet 0 m e.1 e.2) [] } }

/-- Every unit is placed. -/
def unitsPlaced (s : State) (r : BootResult) : State :=
  (upTo 19).foldl (fun s g => placeGen s r g) ((upTo 18).foldl (fun s n => placeClu s r n) ((upTo 5).foldl (fun s k => placeCore s r k) s))

theorem BootKeeps.unitsPlaced (s : State) : BootKeeps s (unitsPlaced s r) :=
  ((foldl (fun s k => .placeCore s k) _ s).trans (foldl (fun s n => .placeClu s n) _ _)).trans (foldl (fun s g => .placeGen s g) _ _)

/-- The dividers of both dies hold the gears in force. -/
def gearsLoaded (s : State) : State := setGear (setGear s 0 (gearInForce s 0)) 1 (gearInForce s 1)
/-- The first calibration epoch starts. -/
def epochBegun (s : State) : State := { s with cal := { s.cal with epoch := 1, epochTick := s.tick } }
/-- The device is ready. -/
def madeReady (s : State) (slew : BitVec 2) : State := { s with clk := { s.clk with ready := true, slewMgt := slew } }

/-- The end of boot: gears, the calibration epoch, and the events that tell of both (R433). -/
def serviceBegun (s : State) (slew : BitVec 2) (arg : Nat) : State :=
  msix0 (logEvent (madeReady (logEvent (bump (epochBegun (gearsLoaded s)) (calCtr 1)) 3 0xFFFF 1) slew) 1 0xFFFF arg)

theorem BootKeeps.logEvent (s : State) (code unit arg : Nat) : BootKeeps s (logEvent s code unit arg) := ⟨rfl, rfl, rfl, rfl, rfl, rfl⟩
theorem BootKeeps.msix0 (s : State) : BootKeeps s (msix0 s) := ⟨rfl, rfl, rfl, rfl, rfl, rfl⟩
theorem BootKeeps.gearsLoaded (s : State) : BootKeeps s (gearsLoaded s) := ⟨rfl, rfl, rfl, rfl, rfl, rfl⟩
theorem BootKeeps.epochBegun (s : State) : BootKeeps s (epochBegun s) := ⟨rfl, rfl, rfl, rfl, rfl, rfl⟩
theorem BootKeeps.madeReady (s : State) (slew : BitVec 2) : BootKeeps s (madeReady s slew) := ⟨rfl, rfl, rfl, rfl, rfl, rfl⟩

@[simp] theorem logEvent_clk (s : State) (code unit arg : Nat) : (logEvent s code unit arg).clk = s.clk := rfl
@[simp] theorem logEvent_cal (s : State) (code unit arg : Nat) : (logEvent s code unit arg).cal = s.cal := rfl
theorem madeReady_ready (s : State) (slew : BitVec 2) : (madeReady s slew).clk.ready = true := rfl
theorem madeReady_cal (s : State) (slew : BitVec 2) : (madeReady s slew).cal = s.cal := rfl
theorem epochBegun_epoch (s : State) : (epochBegun s).cal.epoch = 1 := rfl

theorem serviceBegun_begins (s : State) (slew : BitVec 2) (arg : Nat) :
    (serviceBegun s slew arg).clk.ready = true ∧ (serviceBegun s slew arg).cal.epoch = 1 ∧ BootKeeps s (serviceBegun s slew arg) := by
  refine ⟨?_, ?_, ?_⟩
  · rw [serviceBegun, msix0_clk, logEvent_clk, madeReady_ready]
  · rw [serviceBegun, msix0_cal, logEvent_cal, madeReady_cal, logEvent_cal, bump_cal, epochBegun_epoch]
  · exact (((BootKeeps.gearsLoaded s).trans (.epochBegun _)).trans (.bump _ _)).trans
      (((BootKeeps.logEvent _ _ _ _).trans (.madeReady _ slew)).trans ((BootKeeps.logEvent _ _ _ _).trans (.msix0 _)))

theorem bootDone_eq (s : State) (r : BootResult) (hm wd : Bool × FwImage) : ∃ slew arg,
    bootDone s r hm wd = serviceBegun (useFree (unitsPlaced (scrub (bootStarted s r hm wd) false) r)) slew arg := ⟨_, _, rfl⟩

theorem scrub_started (s : State) (r : BootResult) (hm wd : Bool × FwImage) :
    (scrub (bootStarted s r hm wd) false).fw = (bootStarted s r hm wd).fw ∧ (scrub (bootStarted s r hm wd) false).host = (bootStarted s r hm wd).host ∧
      (scrub (bootStarted s r hm wd) false).berths = [] ∧ (scrub (bootStarted s r hm wd) false).store = [] := by
  obtain ⟨cs, rem, scrubbed, _⟩ := scrub_eq (bootStarted s r hm wd) false
  rw [scrubbed]
  exact ⟨rfl, rfl, rfl, rfl⟩

theorem bootDone_serves (s : State) (r : BootResult) (hm wd : Bool × FwImage) :
    (bootDone s r hm wd).clk.ready = true ∧ (bootDone s r hm wd).fw.hm = { running := hm.2, slotB := hm.1 } ∧
      (bootDone s r hm wd).fw.wd = { running := wd.2, slotB := wd.1 } ∧ (bootDone s r hm wd).cal.epoch = 1 ∧
      (bootDone s r hm wd).host.linkUp = true ∧ (bootDone s r hm wd).fw.boots = s.fw.boots + 1 ∧ (bootDone s r hm wd).berths = [] ∧
      (bootDone s r hm wd).store = [] := by
  obtain ⟨slew, arg, done⟩ := bootDone_eq s r hm wd
  obtain ⟨fw, host, berths, store⟩ := scrub_started s r hm wd
  have placed := BootKeeps.unitsPlaced (r := r) (scrub (bootStarted s r hm wd) false)
  obtain ⟨ready, epoch, served⟩ := serviceBegun_begins (useFree (unitsPlaced (scrub (bootStarted s r hm wd) false) r)) slew arg
  have kept := placed.trans (BootKeeps.trans (t := useFree (unitsPlaced (scrub (bootStarted s r hm wd) false) r)) ⟨rfl, rfl, rfl, rfl, rfl, rfl⟩ served)
  rw [← done] at ready epoch kept
  refine ⟨ready, kept.hm.trans ?_, kept.wd.trans ?_, epoch, ?_, kept.boots.trans ?_, kept.berths.trans berths, kept.store.trans store⟩
  · rw [fw, bootStarted]
  · rw [fw, bootStarted]
  · rw [kept.host, host, bootStarted]
  · rw [fw, bootStarted]

section Complete
variable (live : alive s = true) (boot : s.clk.ready = false) (normal : testBypass s = false) (valid : s.clk.refValid = true)
  (noise : s.rng.nt = .ok)
include live boot normal valid noise

theorem bootComplete_runs {h w : Bool × FwImage} (hm : bootImage s false = some h) (wd : bootImage s true = some w) :
    bootComplete s r = bootDone s r h w := by
  simp only [bootComplete, live, boot, normal, valid, noise, hm, wd, Bool.not_true, Bool.or_self, ne_eq, not_true_eq_false, decide_false,
    Bool.false_eq_true, if_false]

/-- With no image of harbourmaster in flash boot waits for a boot bundle (R436). -/
theorem bootComplete_waits (none : bootImage s false = none) (flash : bootsFlash s = true) :
    bootComplete s r = { imgRefused s [] true with fw := { (imgRefused s [] true).fw with waitBundle := true } } := by
  simp only [bootComplete, live, boot, normal, valid, noise, none, flash, Bool.not_true, Bool.or_self, ne_eq, not_true_eq_false, decide_false,
    Bool.false_eq_true, if_false, if_true]

end Complete

end Boot

/-- Settles O50; that a boot is counted at its completion is log 139, and that a queued fuse record delays the reset is log 124. -/
theorem resetAndBoot : Obligations.ResetAndBoot := by
  unfold Obligations.ResetAndBoot
  intro s
  refine ⟨fun out powered => ⟨fun idle => ?_, fun pulse => ?_⟩, fun boot clk => ⟨fun inReset powered free => ?_, fun held => ⟨fun high => ?_, fun low => ?_⟩⟩,
    ⟨aoLow s, rfl, rfl, rfl, rfl, rfl, rfl, rfl, rfl, rfl, rfl⟩, fun rail bound notAo live ready => ?_, fun r live boot normal valid noise => ⟨fun h w hm wd => ?_, fun none flash => ?_⟩⟩
  · obtain ⟨delayed, n, asserted⟩ := resetAsserted_idle out powered idle
    have word (o : Nat) : regWord { assertReset (resetLow s) delayed with free := n } o = regWord (resetAll (resetLow s) false) o := rfl
    refine ⟨_, congrArg Host.Outcome.next asserted, rfl, rfl, rfl, rfl, rfl, rfl, rfl, rfl, rfl, rfl, rfl, rfl, rfl, ?_, fun k backup => ?_⟩
    · rw [word, regWord_resetAll_other _ (by decide)]
      rfl
    · rw [word, regWord_resetAll_backup _ backup]
      rfl
  · exact ⟨_, congrArg Host.Outcome.next (resetAsserted_pulse out powered pulse), out, rfl, rfl, rfl⟩
  · obtain ⟨clocks, source, mode, bad, memories⟩ := releaseReset_releases { s with clk := { s.clk with rstLow := false } } boot clk
    have runs : resetReleased s boot clk = releaseReset { s with clk := { s.clk with rstLow := false } } boot clk := by
      simp only [resetReleased, inReset, powered, free, Bool.not_false, Bool.and_self, if_true]
    exact ⟨_, congrArg Host.Outcome.next runs, ⟨by rw [clocks], source, mode, bad, memories⟩, by rw [clocks]⟩
  · obtain ⟨clocks, source, mode, bad, memories⟩ := releaseReset_releases { s with clk := { s.clk with porHeld := false } } boot clk
    have runs : porReleased s boot clk = releaseReset { s with clk := { s.clk with porHeld := false } } boot clk := by
      simp only [porReleased, held, high, Bool.not_true, Bool.false_eq_true, if_false]
    exact ⟨_, congrArg Host.Outcome.next runs, ⟨by rw [clocks], source, mode, bad, memories⟩, by rw [clocks]⟩
  · exact congrArg Host.Outcome.next (by simp only [porReleased, held, low, Bool.not_true, Bool.false_eq_true, if_false, if_true])
  · have runs (met : Bool) : exec (.railFault rail met) s = .next (if met then bump s (obsCtr 9) else loseDevice s 9 0xFFFF rail) := by
      refine (onUnit_of (decide_eq_true bound) (railFault s rail met)).trans (congrArg Host.Outcome.next ?_)
      simp only [railFault, live, ready, notAo, decide_false, Bool.not_true, Bool.or_self, Bool.false_eq_true, if_false]
    refine ⟨fun notLost => ⟨_, runs false, ?_⟩, _, runs true, countsOne_bump s _, rfl⟩
    rw [if_neg Bool.false_ne_true, loseDevice_lost notLost]
    exact ⟨rfl, rfl, rfl⟩
  · obtain ⟨ready, hmKind, wdKind, epoch, link, boots, berths, store⟩ := bootDone_serves s r h w
    exact ⟨bootDone s r h w, congrArg Host.Outcome.next (bootComplete_runs live boot normal valid noise hm wd), ready, by rw [hmKind],
      by rw [wdKind], by rw [hmKind], by rw [wdKind], epoch, link, boots, berths, store⟩
  · exact ⟨{ imgRefused s [] true with fw := { (imgRefused s [] true).fw with waitBundle := true } },
      congrArg Host.Outcome.next (bootComplete_waits live boot normal valid noise none flash), boot, rfl, rfl⟩

end Sys2Proof.Machine
end

section
/-! What work on the engines, the berths and the items does not reach: security, the guard, the host link, the clocks and the
thermal loops.  The family of teardown and that of temperature rest on it. -/

namespace Sys2Proof.Machine
open Sys2Proof

/-- Security, the guard, the host link, clocks, temperature and the stop of the I/O stay, gears among them, and no run-ahead stream comes up where there
was none. -/
structure Outside (s u : State) : Prop where
  sec : u.sec = s.sec
  guard : u.guardOpen = s.guardOpen
  host : u.host = s.host
  thm : u.thm = s.thm
  clk : u.clk = s.clk
  io : u.dbg.ioStopped = s.dbg.ioStopped
  gears : regWord u clkOff = regWord s clkOff
  streams : s.streams = [] → u.streams = []

namespace Outside
variable {s t u : State}

theorem refl (s : State) : Outside s s := ⟨rfl, rfl, rfl, rfl, rfl, rfl, rfl, fun h => h⟩

theorem trans (first : Outside s t) (second : Outside t u) : Outside s u :=
  ⟨second.sec.trans first.sec, second.guard.trans first.guard, second.host.trans first.host, second.thm.trans first.thm,
    second.clk.trans first.clk, second.io.trans first.io, second.gears.trans first.gears, fun none => second.streams (first.streams none)⟩

theorem foldl {β : Type} {f : State → β → State} (each : ∀ s b, Outside s (f s b)) (l : List β) (s : State) : Outside s (l.foldl f s) :=
  List.foldlRecOn (motive := Outside s) l f (refl s) fun t kept b _ => kept.trans (each t b)

theorem branch {p : Prop} [Decidable p] (yes : Outside s t) (no : Outside s u) : Outside s (if p then t else u) := by
  split
  · exact yes
  · exact no

/-- A change that leaves the registers as they are. -/
theorem of_regs (sec : u.sec = s.sec) (guard : u.guardOpen = s.guardOpen) (host : u.host = s.host) (thm : u.thm = s.thm)
    (clk : u.clk = s.clk) (io : u.dbg.ioStopped = s.dbg.ioStopped) (regs : u.regs = s.regs) (streams : u.streams = s.streams) : Outside s u :=
  ⟨sec, guard, host, thm, clk, io, regWord_of_regs regs clkOff, fun none => streams.trans none⟩

end Outside

/-- Work of an engine, which counts in no thermal counter either. -/
structure EngineWork (s u : State) : Prop extends Outside s u where
  counts : ∀ k, k < 2 → ctr u (thmCtr k) = ctr s (thmCtr k)

namespace EngineWork
variable {s t u : State}

theorem refl (s : State) : EngineWork s s := ⟨.refl s, fun _ _ => rfl⟩
theorem trans (first : EngineWork s t) (second : EngineWork t u) : EngineWork s u :=
  ⟨first.toOutside.trans second.toOutside, fun k low => (second.counts k low).trans (first.counts k low)⟩
theorem foldl {β : Type} {f : State → β → State} (each : ∀ s b, EngineWork s (f s b)) (l : List β) (s : State) : EngineWork s (l.foldl f s) :=
  List.foldlRecOn (motive := EngineWork s) l f (refl s) fun t kept b _ => kept.trans (each t b)
theorem foldl_fst {α β : Type} {f : State × α → β → State × α} (each : ∀ a b, EngineWork a.1 (f a b).1) (l : List β) (a : State × α) :
    EngineWork a.1 (l.foldl f a).1 :=
  List.foldlRecOn (motive := fun b => EngineWork a.1 b.1) l f (refl a.1) fun t kept b _ => kept.trans (each t b)
theorem branch {p : Prop} [Decidable p] (yes : EngineWork s t) (no : EngineWork s u) : EngineWork s (if p then t else u) := by
  split
  · exact yes
  · exact no

section
variable (s : State)

/-! ### Single writes -/

theorem addCtr {i : Nat} (n : Nat) (apart : i ≠ thmCtr 0 ∧ i ≠ thmCtr 1) : EngineWork s (addCtr s i n) :=
  ⟨.of_regs rfl rfl rfl rfl rfl rfl rfl rfl, fun k low => ctr_addCtr_other _ _ _ _ (by
    simp only [thmCtr] at apart ⊢
    omega)⟩
theorem addClu (n k x : Nat) : EngineWork s (Machine.addCtr s (cluCtr n k) x) := addCtr s x (by simp only [cluCtr, thmCtr]; omega)
theorem addTile (n t k x : Nat) : EngineWork s (Machine.addCtr s (tileCtr n t k) x) := addCtr s x (by simp only [tileCtr, thmCtr]; omega)
theorem useFree : EngineWork s (useFree s) := ⟨.of_regs rfl rfl rfl rfl rfl rfl rfl rfl, fun _ _ => rfl⟩
theorem modAct (c : BitVec 10) (f : Activity → Activity) : EngineWork s (modAct s c f) := ⟨.of_regs rfl rfl rfl rfl rfl rfl rfl rfl, fun _ _ => rfl⟩
theorem setTile (k : Nat) (v : Tile) : EngineWork s (setTile s k v) := ⟨.of_regs rfl rfl rfl rfl rfl rfl rfl rfl, fun _ _ => rfl⟩
theorem pmPut (a : Nat) (bs : List (BitVec 8)) : EngineWork s (pmPut s a bs) := ⟨.of_regs rfl rfl rfl rfl rfl rfl rfl rfl, fun _ _ => rfl⟩
theorem storePut (l a : Nat) (bs : List (BitVec 8)) : EngineWork s (storePut s l a bs) := ⟨.of_regs rfl rfl rfl rfl rfl rfl rfl rfl, fun _ _ => rfl⟩
theorem setQueue (l eng : Nat) (q : List Cmd) : EngineWork s (setQueue s l eng q) := ⟨.of_regs rfl rfl rfl rfl rfl rfl rfl rfl, fun _ _ => rfl⟩

theorem countPm (wr : Bool) (a n : Nat) : EngineWork s (countPm s wr a n) := by
  unfold Machine.countPm
  split
  · exact refl s
  · exact foldl (fun s _ => addCtr s _ (by simp only [stackCtr, thmCtr]; omega)) _ s

theorem movePm (n : Nat) (c : BitVec 10) (wr : Bool) (a len : Nat) : EngineWork s (movePm s n c wr a len) := by
  unfold Machine.movePm
  extract_lets s1 own s2
  have bridged : EngineWork s1 s2 := branch (refl s1) (addCtr s1 _ (by
    simp only [memCtr, thmCtr]
    split <;> omega))
  exact ((countPm s wr a len).trans bridged).trans (modAct s2 c _)

theorem storeMoved (c : BitVec 10) (n : Nat) : EngineWork s (storeMoved s c n) := modAct s c _

/-! ### The progress of a CONV (R224) -/

theorem countConverted (n t convs : Nat) (r : Converted) : EngineWork s (countConverted s n t convs r) :=
  ((((addTile s n t _ _).trans (addTile _ n t _ _)).trans (addTile _ n t _ _)).trans (addClu _ n _ _)).trans (addClu _ n _ _)

section
variable (k : CvRun)

theorem cvProduct (l : Nat) (e : Nat × Nat) (codes : List Nat) (eps : Nat) (za : Int) :
    EngineWork k.st (cvProduct k l e codes eps za).1.st := by
  unfold Machine.cvProduct
  extract_lets s n tn t lr bs product a row t1 r s1 s2
  have converted : EngineWork s s1 := ((setTile s _ t1).trans (countConverted _ n tn _ r)).trans (useFree _)
  exact (converted.trans (addTile s1 n tn 0 1)).trans (addClu _ n _ 1)

theorem cvAdd (n : Nat) (a b : List Int) : EngineWork k.st (cvAdd k n a b).1.st := addClu k.st n _ _

theorem cvBlocks (l : Nat) (es : List (Nat × Nat)) (codes : List Nat) (eps : Nat) (za : Int) (bs : List Nat) (acc : Option (List Int)) :
    EngineWork k.st (cvBlocks k l es codes eps za bs acc).1.st := by
  induction bs generalizing k acc with
  | nil => exact refl k.st
  | cons b bs ih =>
    have product : EngineWork k.st (blockProduct k l es codes eps za b).1.st := cvProduct k l _ _ eps za
    cases acc with
    | none => rw [cvBlocks_cons_none]; exact product.trans (ih _ _)
    | some a => rw [cvBlocks_cons_some]; exact (product.trans (cvAdd _ _ a _)).trans (ih _ _)

theorem winoA (n i : Nat) (a b c e : List Int) : EngineWork k.st (winoA k n i a b c e).1.st := by
  unfold Machine.winoA
  extract_lets neg p q
  split
  · exact (cvAdd k n a b).trans (cvAdd p.1 n p.2 c)
  · exact (cvAdd k n b (neg c)).trans (cvAdd q.1 n q.2 (neg e))

theorem winoProducts (l : Nat) (es : List (Nat × Nat)) (vecs : List (List Nat)) (eps : Nat) (js : List Nat) :
    EngineWork k.st (winoProducts k l es vecs eps js).1.st := by
  induction js generalizing k with
  | nil => exact refl k.st
  | cons j js ih => rw [Machine.winoProducts]; exact (cvProduct k l _ _ eps 0).trans (ih _)

theorem cvEach {g : CvRun → Nat → CvRun × List Int} (each : ∀ k j, EngineWork k.st (g k j).1.st) (js : List Nat) :
    EngineWork k.st (cvEach g k js).1.st := by
  induction js generalizing k with
  | nil => exact refl k.st
  | cons j js ih => exact (each k j).trans (ih _)

theorem winoTile (l : Nat) (d : CD) (rd : Nat → Nat → Nat → Nat) (sgn int8 : Bool) (eps ot of : Nat) :
    EngineWork k.st (winoTile k l d rd sgn int8 eps ot of).1.st := by
  unfold Machine.winoTile
  extract_lets n bits x v vs clips k0 p sums rows u
  have transformed : EngineWork k.st k0.st := (addClu k.st n _ 1).trans (addClu _ n _ clips)
  have products : EngineWork k0.st p.1.st := winoProducts k0 l d.entries _ eps (upTo 16)
  have summed : EngineWork p.1.st rows.1.st := cvEach p.1 (fun k _ => winoA k n _ _ _ _ _) (upTo 8)
  exact ((transformed.trans products).trans summed).trans (cvEach rows.1 (fun k _ => winoA k n _ _ _ _ _) (upTo 4))

end

theorem pmElem (pa bits j v : Nat) : EngineWork s (pmElem s pa bits j v) := by
  unfold Machine.pmElem
  extract_lets b
  exact branch (pmPut s _ _) (pmPut s _ _)

variable (c : Cmd) (d : CD)

theorem cvSpill (pa : Nat) (outs : Tab (List Nat)) (ts : List Nat) : EngineWork s (cvSpill s d pa outs ts).1 := by
  refine foldl_fst (fun a t => ?_) ts (s, 0)
  split
  · exact (pmPut a.1 _ _).trans (pmPut _ _ _)
  · exact foldl (fun s _ => pmElem s _ _ _ _) _ a.1

theorem cvFetch (bits j : Nat) : EngineWork s (cvFetch s c d bits j).1 := by
  unfold Machine.cvFetch
  extract_lets n pa coded bytes s1
  split
  · exact refl s
  · have moved : EngineWork s s1 := (movePm s n c.client false pa bytes).trans (addClu _ n _ _)
    exact branch (moved.trans (addClu s1 n _ coded)) moved

theorem cvCompute (u : Nat) : EngineWork s (cvCompute s c d u).1.st := by
  unfold Machine.cvCompute
  extract_lets l t lr bits w za pa rd k r
  split
  · exact winoTile k l d rd _ _ _ _ _
  · exact cvBlocks k l _ _ _ _ _ _

theorem cvStorePos (p : Nat) (vs : List Nat) : EngineWork s (cvStorePos s c d p vs) := ⟨.of_regs rfl rfl rfl rfl rfl rfl rfl rfl, fun _ _ => rfl⟩

theorem cvPut (delta : Nat) (a : State × Cmd) (e : Nat × List Int) : EngineWork a.1 (cvPut d delta a e).1 := by
  unfold Machine.cvPut
  extract_lets r
  have counted : EngineWork a.1 r.1 := addClu a.1 _ _ _
  split
  · exact counted
  · exact counted.trans (cvStorePos r.1 _ _ _ _)

theorem cvEndStripe : EngineWork s (cvEndStripe s c d).1 := by
  unfold Machine.cvEndStripe
  extract_lets n pa t0 ts sp s1
  split
  · exact refl s
  · have moved : EngineWork s s1 := (cvSpill s d pa c.cv.outs ts).trans (movePm sp.1 n c.client true pa sp.2)
    exact branch ((moved.trans (addClu s1 n _ _)).trans (addClu _ n _ _)) moved

theorem cvUnit (a : State × Cmd) : EngineWork a.1 (cvUnit a).1 := by
  unfold Machine.cvUnit
  extract_lets s d u lr delta fetch fetched b r done cv c1 e
  have ready : EngineWork a.1 b.1 := by
    unfold b
    split
    · exact cvFetch s _ d _ _
    · exact refl a.1
  have computed : EngineWork b.1 r.1.st := cvCompute b.1 b.2 d u
  have put : EngineWork r.1.st e.1 := foldl_fst (fun a x => cvPut d delta a x) _ (r.1.st, c1)
  have worked := (ready.trans computed).trans put
  split
  · exact worked.trans (cvEndStripe e.1 e.2 d)
  · exact worked

theorem cvSteps (a : State × Cmd) (n : Nat) : EngineWork a.1 (cvSteps a n).1 := by
  induction n generalizing a with
  | zero => exact refl a.1
  | succ n ih => exact (cvUnit a).trans (ih _)

theorem advanceConv (l : Nat) : EngineWork s (advanceConv s l) := by
  unfold Machine.advanceConv
  split
  · exact refl s
  · next c q _ => exact ((cvSteps (s, c) _).trans (setQueue _ _ _ _)).trans (useFree _)

theorem advanceConvs : EngineWork s (advanceConvs s) := foldl (fun s l => advanceConv s l) _ s

theorem endConv (l : Nat) : EngineWork s (endConv s l) := by
  unfold Machine.endConv
  extract_lets s1
  have advanced : EngineWork s s1 := advanceConv s l
  split
  · exact advanced
  · next c q _ => exact (advanced.trans (cvSteps (s1, c) _)).trans (addClu _ _ _ 1)

/-! ### The halt of a gather (R131, R299) -/

theorem landBlock (l : Nat) (cl : BitVec 10) (d : SD) (ring : VH) (pa pi k : Nat) : EngineWork s (landBlock s l cl d ring pa pi k) := by
  unfold Machine.landBlock
  extract_lets n ib ix slot s1 a
  have indexed : EngineWork s s1 := branch (refl s) (movePm s n cl false _ ib)
  split
  · exact (indexed.trans (storePut s1 l slot _)).trans (addClu _ n _ 1)
  · exact ((indexed.trans (storePut s1 l slot _)).trans (movePm _ n cl false a _)).trans (storeMoved _ cl _)

theorem haltGather (l : Nat) : EngineWork s (haltGather s l) := by
  unfold Machine.haltGather
  split
  · exact refl s
  · split
    · exact refl s
    · extract_lets r
      have landed : EngineWork s r.1 := foldl (fun s _ => landBlock s _ _ _ _ _ _ _) _ s
      exact (landed.trans (setQueue r.1 l 5 _)).trans (useFree _)

end

end EngineWork

namespace Outside
variable {s t u : State}

/-! ## Records, items and berths (R245, R263–R266, R294, R320) -/

theorem of_frameItem (h : frameItem s u) : Outside s u :=
  have kept := h.1
  .of_regs (congrArg State.sec kept :) (congrArg State.guardOpen kept :) (congrArg State.host kept :) (congrArg State.thm kept :)
    (congrArg State.clk kept :) (congrArg (·.dbg.ioStopped) kept :) (congrArg State.regs kept :) (congrArg State.streams kept :)

theorem of_berthFrame (h : BerthFrame s u) : Outside s u :=
  have kept := h.frame.1
  .of_regs (congrArg State.sec kept :) (congrArg State.guardOpen kept :) (congrArg State.host kept :) (congrArg State.thm kept :)
    (congrArg State.clk kept :) (congrArg (·.dbg.ioStopped) kept :) (congrArg State.regs kept :) (congrArg State.streams kept :)

section
variable (s : State)

theorem addCtr (i n : Nat) : Outside s (addCtr s i n) := .of_regs rfl rfl rfl rfl rfl rfl rfl rfl
theorem bump (i : Nat) : Outside s (bump s i) := .of_regs rfl rfl rfl rfl rfl rfl rfl rfl
theorem emit (e : Emit) : Outside s (emit s e) := .of_regs rfl rfl rfl rfl rfl rfl rfl rfl
theorem modAct (c : BitVec 10) (f : Activity → Activity) : Outside s (modAct s c f) := .of_regs rfl rfl rfl rfl rfl rfl rfl rfl
theorem setThread (lt : BitVec 12) (h : Thread) : Outside s (setThread s lt h) := .of_regs rfl rfl rfl rfl rfl rfl rfl rfl
theorem setBerth (b : BitVec 12) (v : Berth) : Outside s (setBerth s b v) := .of_regs rfl rfl rfl rfl rfl rfl rfl rfl
theorem modBerth (b : BitVec 12) (f : Berth → Berth) : Outside s (modBerth s b f) := .of_regs rfl rfl rfl rfl rfl rfl rfl rfl
theorem setClient (c : BitVec 10) (k : Client) : Outside s (setClient s c k) := .of_regs rfl rfl rfl rfl rfl rfl rfl rfl
theorem modClient (c : BitVec 10) (f : Client → Client) : Outside s (modClient s c f) := .of_regs rfl rfl rfl rfl rfl rfl rfl rfl
theorem setGen (g : Nat) (d : Drbg) : Outside s (setGen s g d) := .of_regs rfl rfl rfl rfl rfl rfl rfl rfl
theorem setSched (v : Sched) : Outside s { s with sched := v } := .of_regs rfl rfl rfl rfl rfl rfl rfl rfl
theorem setBerths (v : Tab Berth) : Outside s { s with berths := v } := .of_regs rfl rfl rfl rfl rfl rfl rfl rfl
theorem setPort (k : Nat) (p : Port) : Outside s (setPort s k p) := .of_regs rfl rfl rfl rfl rfl rfl rfl rfl
theorem setRoute (rt : Nat) (r : Route) : Outside s (setRoute s rt r) := .of_regs rfl rfl rfl rfl rfl rfl rfl rfl
theorem modAud (st : Nat) (f : AStream → AStream) : Outside s (modAud s st f) := .of_regs rfl rfl rfl rfl rfl rfl rfl rfl
theorem msix0 : Outside s (msix0 s) := .of_regs rfl rfl rfl rfl rfl rfl rfl rfl
theorem genUnwait (w : Option Waiter) : Outside s (genUnwait s w) := .of_regs rfl rfl rfl rfl rfl rfl rfl rfl
theorem stopCluster (l : Nat) : Outside s (stopCluster s l) := .of_regs rfl rfl rfl rfl rfl rfl rfl rfl

theorem setFlag (f : Flag) (apart : clkOff ≠ f.off) : Outside s (setFlag s f) :=
  ⟨rfl, rfl, rfl, rfl, rfl, rfl, regWord_setFlag s f apart, fun none => none⟩
theorem setRegField (off hi lo v : Nat) (apart : clkOff ≠ off) : Outside s (setRegField s off hi lo v) :=
  ⟨rfl, rfl, rfl, rfl, rfl, rfl, regWord_setRegField_other apart, fun none => none⟩

theorem pmPut (a : Nat) (bs : List (BitVec 8)) : Outside s (pmPut s a bs) := .of_regs rfl rfl rfl rfl rfl rfl rfl rfl
theorem hubPm (c : BitVec 10) (wr : Bool) (a n : Nat) : Outside s (hubPm s c wr a n) :=
  (EngineWork.countPm s wr a n).toOutside.trans (modAct _ c _)
theorem hostBytes (c : BitVec 10) (n : Nat) : Outside s (hostBytes s c n) := modAct s c _

theorem completeItem (c : BitVec 10) (i : Item) (status : Nat) (d : List (BitVec 8)) : Outside s (completeItem s c i status d) :=
  of_frameItem (completeItem_frame ..)
theorem completeAll (p : Item → Bool) (status : Nat) (d : Item → List (BitVec 8)) : Outside s (completeAll s p status d) :=
  of_frameItem (completeAll_frame ..)
theorem notice (c : BitVec 10) (op status : Nat) (tag : BitVec 32) (d : List (BitVec 8)) : Outside s (notice s c op status tag d) :=
  of_frameItem (notice_frame ..)
theorem countPark (was now : BState) : Outside s (countPark s was now) := of_berthFrame (.countPark s was now)
theorem modItem (c : BitVec 10) (seq : Nat) (f : Item → Item) : Outside s (modItem s c seq f) := modClient s c _
theorem holdItem (c : BitVec 10) (i : Item) : Outside s (holdItem s c i) := modItem s c _ _
theorem beginItem (c : BitVec 10) (i : Item) : Outside s (beginItem s c i) := modItem s c _ _
theorem badItem (c : BitVec 10) (i : Item) (part reason : Nat) : Outside s (badItem s c i part reason) := completeItem s c i _ _

theorem startDrain (b : BitVec 12) (cause : EndCause) (status : Nat) (d : List (BitVec 8)) : Outside s (startDrain s b cause status d) := by
  unfold Machine.startDrain
  extract_lets s1 s2 drain s3
  have noted : Outside s s2 := (of_berthFrame (.closePartial s b)).trans (of_berthFrame (.endNotice s1 b cause))
  have drained : Outside s s3 := (noted.trans (countPark s2 _ _)).trans (modBerth _ b drain)
  exact drained.trans (completeAll s3 _ _ _)

/-! ## The operations on a berth (R263) -/

variable (c : BitVec 10) (i : Item)

theorem genRequest (g : Nat) : Outside s (genRequest s g).1 := by
  unfold Machine.genRequest
  extract_lets d s1 e r
  have seeded : Outside s s1 := by
    refine branch ?_ (refl s)
    have taken : Outside s (takeBlock s) := .of_regs rfl rfl rfl rfl rfl rfl rfl rfl
    exact taken.trans ((branch (bump _ _) (refl _)).trans (setGen _ g _))
  split
  · exact refl s
  · split
    · exact setGen s g _
    · exact seeded.trans (setGen s1 g _)

theorem grantLock (b : BitVec 12) : Outside s (grantLock s b c i) := by
  unfold Machine.grantLock
  extract_lets e fromAb adopt lease e1 s1 heir s2
  have locked : Outside s s1 := (setBerth s b e1).trans (bump _ _)
  have adopted : Outside s1 s2 := branch (setThread s1 _ _) (refl s1)
  exact (locked.trans adopted).trans (completeItem s2 c i _ _)

theorem acquire (b : BitVec 12) : Outside s (acquire s b c i) := by
  unfold Machine.acquire
  extract_lets e
  exact branch ((setBerth s b _).trans (holdItem _ c i)) ((countPark s _ _).trans (grantLock _ c i b))

theorem onBerth (free : List BState) (owner : Bool) {run : State → Berth → State} (ran : ∀ s e, Outside s (run s e)) :
    Outside s (onBerth s c i free owner run) := by
  unfold Machine.onBerth
  extract_lets e
  split
  · exact ran s e
  · exact (setBerth s i.berth _).trans (holdItem _ c i)
  · exact holdItem s c i
  · exact completeItem s c i _ _

theorem landFrames (bs : List (BitVec 8)) : Outside s (landFrames s c i bs) := by
  unfold Machine.landFrames
  extract_lets e m n s1 s2
  have landed : Outside s s1 := foldl (fun s _ => (pmPut s _ _).trans (hubPm _ _ _ _ _)) _ s
  exact (landed.trans (setBerth s1 i.berth _)).trans (modItem s2 c _ _)

theorem landDue (b : BitVec 12) (n : Nat) : Outside s (landDue s b n) := by
  induction n generalizing s with
  | zero => exact refl s
  | succ n ih =>
    unfold Machine.landDue
    split
    · exact (landFrames s _ _ _).trans (ih _)
    · exact refl s

theorem runFrame (e : Berth) : Outside s (runFrame c s i e) := by
  unfold Machine.runFrame
  extract_lets m d n bad s1 s2
  have refused (reason : Nat) : Outside s (bad reason) := branch (refl s) (badItem s c i 0 reason)
  have begun : Outside s s2 := (setBerth s i.berth _).trans (modItem s1 c _ _)
  have dataIn : Outside s2 (frameData s2 c i (inlineBytes i (n * m.frameBytes))) := (modItem s2 c _ _).trans (landDue _ _ _)
  exact branch (refused 1) (branch (refused 5) (branch (refused 2) (branch (refused 3)
    (branch (holdItem s c i) (branch (begun.trans dataIn) begun)))))

theorem runOutRet : Outside s (runOutRet c s i) := by
  unfold Machine.runOutRet
  extract_lets e n
  exact branch (badItem s c i 0 5) (branch (badItem s c i 0 1) (branch (badItem s c i 0 2)
    ((setBerth s i.berth _).trans (completeItem _ c i _ _))))

theorem runSetLimit (e : Berth) : Outside s (runSetLimit c s i e) := by
  unfold Machine.runSetLimit
  extract_lets v
  exact branch (badItem s c i 0 1) (branch (badItem s c i 0 2) ((setBerth s i.berth _).trans (completeItem _ c i _ _)))

theorem runLeave (e : Berth) : Outside s (runLeave c s i e) := by
  unfold Machine.runLeave
  extract_lets s1
  have begun : Outside s s1 := (setBerth s i.berth _).trans (beginItem _ c i)
  exact branch (badItem s c i 0 1) (branch (begun.trans (of_berthFrame (.leaveAtOnce s1 _))) begun)

theorem runPark (e : Berth) : Outside s (runPark c s i e) := by
  unfold Machine.runPark
  exact branch (badItem s c i 0 1) (branch (holdItem s c i) (branch
    (branch (holdItem s c i) (branch (beginItem s c i) (completeItem s c i _ _))) ((setBerth s i.berth _).trans (beginItem _ c i))))

theorem runUnpark (e : Berth) : Outside s (runUnpark c s i e) := by
  unfold Machine.runUnpark
  exact branch (badItem s c i 0 1) (branch (holdItem s c i) (branch
    (branch (holdItem s c i) (branch (completeItem s c i _ _) ((setBerth s i.berth _).trans (beginItem _ c i))))
    (branch (holdItem s c i) (completeItem s c i _ _))))

theorem runMigrate (e : Berth) : Outside s (runMigrate c s i e) := by
  unfold Machine.runMigrate
  extract_lets v own ls mine sched s1
  have dropped : Outside s s1 := setSched s _
  refine branch (badItem s c i 0 1) (branch (holdItem s c i) (branch (dropped.trans (badItem s1 c i 0 5)) (dropped.trans ?_)))
  split
  · exact (setBerth s1 i.berth _).trans (beginItem _ c i)
  · exact completeItem s1 c i _ _
  · exact completeItem s1 c i _ _

theorem runReadState (e : Berth) : Outside s (runReadState c s i e) := by
  unfold Machine.runReadState
  extract_lets bs s0 s1
  have read : Outside s s0 := by
    unfold s0
    split
    · exact hubPm s c false _ _
    · exact refl s
  exact branch (badItem s c i 0 1) (branch (badItem s c i 0 2) (branch (holdItem s c i)
    (((read.trans (emit s0 _)).trans (hostBytes _ c _)).trans (completeItem s1 c i _ _))))

theorem runWriteState (e : Berth) : Outside s (runWriteState c s i e) := by
  unfold Machine.runWriteState
  exact branch (badItem s c i 0 1) (branch (badItem s c i 0 2) (branch (holdItem s c i) (beginItem s c i)))

theorem runExport (e : Berth) : Outside s (runExport c s i e) := by
  unfold Machine.runExport
  extract_lets d n
  refine branch (badItem s c i 0 1) (branch (badItem s c i 0 2) (branch (badItem s c i 0 5) (branch (holdItem s c i)
    (branch (completeItem s c i _ _) ?_))))
  split
  · exact completeItem s c i _ _
  · have asked := genRequest s hubGen
    split
    next s1 w request =>
      rw [request] at asked
      exact (((asked.trans (hubPm s1 c false _ _)).trans (emit _ _)).trans ((hostBytes _ c _).trans (bump _ _))).trans (completeItem _ c i _ _)
    next s1 request =>
      rw [request] at asked
      exact (asked.trans (setGen s1 _ _)).trans (holdItem _ c i)
    next s1 request =>
      rw [request] at asked
      exact asked.trans (completeItem s1 c i _ _)

theorem runBerthOp : Outside s (runBerthOp c s i) := by
  unfold Machine.runBerthOp
  split
  · exact onBerth s c i _ _ fun s e => runFrame s c i e
  · exact runOutRet s c i
  · exact onBerth s c i _ _ fun s e => runLeave s c i e
  · exact onBerth s c i _ _ fun s e => runPark s c i e
  · exact onBerth s c i _ _ fun s e => runUnpark s c i e
  · exact onBerth s c i _ _ fun s e => runMigrate s c i e
  · exact onBerth s c i _ _ fun s e => runReadState s c i e
  · exact onBerth s c i _ _ fun s e => runWriteState s c i e
  · exact onBerth s c i _ _ fun s e => runSetLimit s c i e
  · exact onBerth s c i _ _ fun s e => runExport s c i e
  · exact refl s

theorem serveWaiters (b : BitVec 12) (direct : Bool) (n : Nat) : Outside s (serveWaiters s b direct n) := by
  induction n generalizing s with
  | zero => exact refl s
  | succ n ih =>
    unfold Machine.serveWaiters
    extract_lets e
    split
    · exact refl s
    · next w rest _ =>
      extract_lets s1
      have served : Outside s s1 := setBerth s b _
      split
      · exact served.trans (ih s1)
      · next i _ =>
        exact branch (branch (served.trans (grantLock s1 _ i b)) (served.trans (acquire s1 _ i b)))
          ((served.trans (runBerthOp s1 _ i)).trans (ih _))

theorem dropItem : Outside s (dropItem s c i) := by
  unfold Machine.dropItem Machine.withdraw
  extract_lets w s1
  have withdrawn : Outside s s1 := genUnwait s _
  have served (t : State) : Outside t (reserve t i.berth) := branch (refl t) (serveWaiters t i.berth false 9)
  exact (branch (withdrawn.trans (modBerth s1 i.berth _)) withdrawn).trans (served _)

theorem resetClient : Outside s (resetClient s c) := by
  unfold Machine.resetClient
  extract_lets k gone unread k1 s1 s2
  have dropped : Outside s s2 := (setClient s c k1).trans (foldl (fun s i => dropItem s c i) gone s1)
  exact branch (refl s) (dropped.trans (addCtr s2 _ _))

theorem resetNow : Outside s (resetNow s c) := (resetClient s c).trans (modClient _ c _)

/-! ## The chain ports (R359, R369) -/

theorem faultRoute (rt cause : Nat) : Outside s (faultRoute s rt cause) := by
  unfold Machine.faultRoute
  extract_lets r s1 e
  have faulted : Outside s s1 := (((setRoute s rt _).trans (setFlag _ fRouteFlt (by decide))).trans (msix0 _)).trans (bump _ _)
  exact branch (refl s) (branch faulted (faulted.trans (of_berthFrame (.drainBerth s1 _ _))))

theorem faultRoutes (p : Route → Bool) (cause : Nat) : Outside s (faultRoutes s p cause) :=
  foldl (β := Nat × Route) (f := fun s e => if e.2.st = 1 && p e.2 then Machine.faultRoute s e.1 cause else s)
    (fun s e => branch (faultRoute s e.1 cause) (refl s)) _ s

theorem portLost (k link : Nat) : Outside s (portLost s k link) := by
  unfold Machine.portLost
  extract_lets p s1 s2
  have lost : Outside s s2 := ((setPort s k _).trans (setFlag _ fLinkEv (by decide))).trans ((bump s1 _).trans (addCtr _ _ _))
  exact branch (setPort s k _) (lost.trans (faultRoutes s2 _ _))

theorem stopPorts : Outside s (stopPorts s) := foldl (fun s k => portLost s k 0) _ s

end

end Outside

/-! ## The start of a teardown (R376, R396) -/

section Teardown
variable {s u : State}

/-- The tenancy is in TEARDOWN from now on, in step 1. -/
def tearing (s : State) : State :=
  bumpView { s with sec := { s.sec with tenancy := .teardown, tdStart := s.tick, tdStep := 1, tdDue := false } }

theorem Outside.abortEngines (s : State) : Outside s (abortEngines s) := by
  unfold Machine.abortEngines
  extract_lets s1
  have halted : Outside s s1 :=
    .foldl (fun s l => ((EngineWork.endConv s l).trans (EngineWork.haltGather _ l)).toOutside) _ s
  clear_value s1
  exact halted.trans ⟨rfl, rfl, rfl, rfl, rfl, rfl, regWord_of_regs rfl _, fun _ => rfl⟩

theorem Outside.audioTeardown (s : State) : Outside s (audioTeardown s) := by
  unfold Machine.audioTeardown
  extract_lets s1
  have stopped : Outside s s1 := .foldl (fun s st => .branch (.modAud s st _) (.refl s)) _ s
  exact stopped.trans (.foldl (fun s i => .setRegField s _ 15 15 0 (by simp only [audRoute, audOff, clkOff]; omega)) _ s1)

theorem Outside.endBerths (s : State) : Outside s (endBerths s) := by
  unfold Machine.endBerths
  extract_lets s1
  exact (setBerths s _).trans (.foldl (fun s b => .startDrain s b _ _ _) _ s1)

theorem Outside.endClients (s : State) : Outside s (endClients s) := by
  unfold Machine.endClients
  extract_lets s1 s2
  have told : Outside s s2 := (completeAll s _ _ _).trans (.foldl (fun s e => .notice s _ _ _ _ _) _ s1)
  exact told.trans (.foldl (fun s e => .branch (.resetNow s _) (.refl s)) _ s2)

/-- Steps 1–3 of a teardown, whose end only the routes and what waits for tenants follow. -/
def torn (s : State) : State :=
  endClients (endBerths (audioTeardown (abortEngines ((upTo 16).foldl stopCluster (tearing s)))))

theorem beginTeardown_eq (s : State) : beginTeardown s = endWaits (endRoutes (torn s)) := rfl

theorem torn_outside (s : State) : Outside (tearing s) (torn s) ∧ (torn s).streams = [] := by
  have stopped : Outside (tearing s) ((upTo 16).foldl stopCluster (tearing s)) := .foldl (fun s l => .stopCluster s l) _ _
  have later := ((Outside.audioTeardown (abortEngines ((upTo 16).foldl stopCluster (tearing s)))).trans (.endBerths _)).trans (.endClients _)
  exact ⟨(stopped.trans (.abortEngines _)).trans later, later.streams rfl⟩

/-- A teardown has started: what it is about, and what it leaves. -/
structure Tears (s u : State) : Prop where
  tenancy : u.sec.tenancy = .teardown
  start : u.sec.tdStart = s.tick
  streams : u.streams = []
  guard : u.guardOpen = s.guardOpen
  host : u.host = s.host
  io : u.dbg.ioStopped = s.dbg.ioStopped

/-- The last steps change routes, keys and what waits for tenants. -/
theorem Tears.endWaits (tears : Tears s u) : Tears s (endWaits (endRoutes u)) :=
  ⟨tears.tenancy, tears.start, tears.streams, tears.guard, tears.host, tears.io⟩

theorem tears_torn (s : State) : Tears s (torn s) := by
  obtain ⟨kept, none⟩ := torn_outside s
  have begun : (tearing s).sec.tenancy = .teardown ∧ (tearing s).sec.tdStart = s.tick := ⟨rfl, rfl⟩
  exact ⟨(congrArg Sec.tenancy kept.sec).trans begun.1, (congrArg Sec.tdStart kept.sec).trans begun.2, none, kept.guard, kept.host, kept.io⟩

theorem beginTeardown_tears (s : State) : Tears s (beginTeardown s) := by
  rw [beginTeardown_eq]
  exact (tears_torn s).endWaits

theorem teardown_tears (bound : s.sec.tenancy = .bound) : Tears s (teardown s) := by
  rw [teardown, if_pos bound]
  exact beginTeardown_tears s

/-- A teardown cause leaves the host's view and the I/O as they are. -/
theorem teardown_host (s : State) : (teardown s).host = s.host ∧ (teardown s).dbg.ioStopped = s.dbg.ioStopped := by
  rw [teardown]
  split
  · exact ⟨(beginTeardown_tears s).host, (beginTeardown_tears s).io⟩
  · exact ⟨rfl, rfl⟩

theorem teardownAsked_now (open_ : windowOpen s = false) : teardownAsked s = teardown s := by
  rw [teardownAsked, if_neg (by rw [open_]; simp)]

theorem teardownAsked_held (bound : s.sec.tenancy = .bound) (open_ : windowOpen s = true) :
    teardownAsked s = { s with sec := { s.sec with tdDue := true } } := if_pos ⟨bound, open_⟩

end Teardown

/-! ## The loss of the device leaves the thermal state (R141) -/

theorem FwFrame.thm {s t : State} (h : FwFrame s t) : t.thm = s.thm := (congrArg State.thm h.rest :)

theorem lossTenancy_thm (s : State) : (lossTenancy s).thm = s.thm := by
  rw [lossTenancy]
  split <;> rfl

theorem loseDevice_thm (s : State) (cls detail : Nat) : (loseDevice s cls 0xFFFF detail).thm = s.thm := by
  unfold loseDevice
  split
  · rfl
  extract_lets s1 s2 s3 s4 sec s5 s6
  have unit : s1 = s := by simp [s1, unitOut]
  have stopped : s2.thm = s1.thm := rfl
  have told : Outside s2 s3 := Outside.trans (t := logEvent s2 0xC 0xFFFF cls) (.of_regs rfl rfl rfl rfl rfl rfl rfl rfl) (.completeAll _ _ _ _)
  have ports : Outside s3 s4 := .stopPorts s3
  have tenancy : s5.thm = s4.thm := lossTenancy_thm s4
  have aborted : s6.thm = s5.thm := ((FwFrame.abortWindow s5 false).trans (.abortWindow _ true)).thm
  clear_value s6 s5 sec s4 s3 s2 s1
  rw [msix0_thm, aborted, tenancy, ports.thm, told.thm, stopped, unit]

end Sys2Proof.Machine
end

section
/-! The family of temperature and supply (R106–R108, R473, R479, R480): samples, dwells, and the voltage loops. -/

namespace Sys2Proof.Machine
open Sys2Proof

/-! ## The thermal state of a die (R479) -/

section Die
variable {s t u : State} {d : Nat}

theorem dieTherm_setDie (s : State) (d : Nat) (v : DieTherm) : dieTherm (setDie s d v) d = v := tabGet_set_same ..

/-- A die's thermal state changes, and the log takes it. -/
theorem dieTherm_thState (s : State) (d : Nat) (st : ThState) : dieTherm (thState s d st) d = { dieTherm s d with st := st } := by
  rw [thState]
  split
  next same => rw [← same]
  next => exact dieTherm_setDie s d _

theorem ctr_thState (s : State) (d : Nat) (st : ThState) {i : Nat} (other : i ≠ obsCtr 7) : ctr (thState s d st) i = ctr s i := by
  rw [thState]
  split
  · rfl
  · rw [ctr_logEvent, if_neg other]
    rfl

theorem dieTherm_of_thm (same : t.thm = s.thm) (d : Nat) : dieTherm t d = dieTherm s d := by rw [dieTherm, same, dieTherm]

theorem dieTherm_thGear (s : State) (d g : Nat) : dieTherm (thGear s d g) d = { dieTherm s d with gt := g } := by
  unfold thGear
  extract_lets v s1
  split
  · rw [dieTherm_of_thm (setFlag_thm s1 _), dieTherm_setDie]
  · exact dieTherm_setDie s d _

theorem ctr_thGear (s : State) (d g : Nat) {i : Nat} (other : i ≠ calCtr 16) : ctr (thGear s d g) i = ctr s i := by
  unfold thGear
  extract_lets v s1
  split
  · rw [ctr_setFlag, if_neg (show i ≠ fThermOvr.ctr from other)]
    rfl
  · rfl

/-- Sensors are read: the thermal state of die `d` and its gears stay, and the counters of the transitions. -/
structure SensorsRead (s u : State) (d : Nat) : Prop where
  st : (dieTherm u d).st = (dieTherm s d).st
  gt : (dieTherm u d).gt = (dieTherm s d).gt
  clk : u.clk = s.clk
  gears : regWord u clkOff = regWord s clkOff
  counts : ∀ k, k < 2 → ctr u (thmCtr k) = ctr s (thmCtr k)

namespace SensorsRead

theorem refl (s : State) (d : Nat) : SensorsRead s s d := ⟨rfl, rfl, rfl, rfl, fun _ _ => rfl⟩
theorem trans (first : SensorsRead s t d) (second : SensorsRead t u d) : SensorsRead s u d :=
  ⟨second.st.trans first.st, second.gt.trans first.gt, second.clk.trans first.clk, second.gears.trans first.gears,
    fun k low => (second.counts k low).trans (first.counts k low)⟩

theorem of_engineWork (h : EngineWork s u) (d : Nat) : SensorsRead s u d :=
  ⟨by rw [dieTherm_of_thm h.thm], by rw [dieTherm_of_thm h.thm], h.clk, h.gears, h.counts⟩

theorem gearInForce (h : SensorsRead s u d) : gearInForce u d = gearInForce s d := by
  have thermal : (tabGet {} u.thm.dies d).gt = (tabGet {} s.thm.dies d).gt := h.gt
  rw [Machine.gearInForce, gearCeil, regField_of_word h.gears, ← gearCeil, rootLocked, h.clk, ← rootLocked, thermal, Machine.gearInForce]

theorem own (s : State) (d : Nat) (v : Int) : SensorsRead s (setDie s d { dieTherm s d with own := v }) d :=
  ⟨by rw [dieTherm_setDie], by rw [dieTherm_setDie], rfl, rfl, fun _ _ => rfl⟩

theorem hub (s : State) (d : Nat) (v : Int) : SensorsRead s { s with thm := { s.thm with hub := v } } d :=
  ⟨rfl, rfl, rfl, rfl, fun _ _ => rfl⟩

theorem alarm (s : State) (d ix : Nat) (v : Int) : SensorsRead s (alarm s ix v) d := by
  unfold Machine.alarm
  extract_lets level arm
  have armed (t : State) (off : Bool) : SensorsRead t (arm t off) d := ⟨rfl, rfl, rfl, rfl, fun _ _ => rfl⟩
  have raised : SensorsRead s (setIrqFlag s fTAlarm) d := by
    refine ⟨rfl, rfl, rfl, ?_, fun k low => ?_⟩
    · rw [setIrqFlag, regWord_of_regs (msix0_regs _), regWord_setFlag s _ (by decide)]
    · have apart : thmCtr k ≠ hifCtr 19 ∧ thmCtr k ≠ fTAlarm.ctr := by
        simp only [thmCtr, hifCtr, fTAlarm, flagCtr]
        omega
      rw [setIrqFlag, msix0, ctr_addCtr_other _ _ _ _ apart.1, ctr_of_ctrs (emit_ctrs _ _), ctr_setFlag, if_neg apart.2]
  split
  · split
    · exact refl s d
    · exact raised.trans (armed _ _)
  · split
    · exact armed s _
    · exact refl s d

theorem readSensors (s : State) (d : Nat) (m : ThermSample) : SensorsRead s (readSensors s d m) d := by
  unfold Machine.readSensors
  extract_lets s1 v s2
  have tiles : EngineWork s s1 := by
    have failed : EngineWork s (addCtr s (thmCtr 2) m.fails) := .addCtr s _ (by decide)
    refine failed.trans (EngineWork.foldl (fun t e => ?_) m.tiles _)
    exact .branch (.setTile t _ _) (.refl t)
  have read := of_engineWork tiles d
  clear_value s1
  have own : SensorsRead s1 s2 d := by
    unfold s2
    split
    · exact (SensorsRead.own s1 d _).trans (alarm _ d _ _)
    · exact refl s1 d
  replace read := read.trans own
  clear_value s2
  split
  · exact read.trans ((hub s2 d _).trans (alarm _ d _ _))
  · exact read

end SensorsRead

/-- The latest temperature of a die. -/
def tempTaken (s : State) (d : Nat) (t : Int) : State := setDie s d { dieTherm s d with temp := t }

@[simp] theorem dieTherm_tempTaken (s : State) (d : Nat) (t : Int) : dieTherm (tempTaken s d t) d = { dieTherm s d with temp := t } :=
  dieTherm_setDie s d _

section Samples
variable {T : Int}

theorem thermStep_cool (state : (dieTherm s d).st = .normal) (cool : T < 800) : thermStep s d T = tempTaken s d T := by
  simp only [thermStep, state, if_neg (show ¬960 ≤ T by omega), if_neg (show ¬880 ≤ T by omega), if_neg (show ¬800 ≤ T by omega), tempTaken]

theorem thermStep_warm (state : (dieTherm s d).st = .normal) (warm : 800 ≤ T) (below : T < 880) :
    thermStep s d T = bump (thGear (thState (tempTaken s d T) d .throttle) d (Nat.min 5 (gearInForce s d + 1))) (thmCtr 0) := by
  simp only [thermStep, state, if_neg (show ¬960 ≤ T by omega), if_neg (show ¬880 ≤ T by omega), if_pos warm, tempTaken]

theorem thermStep_hot (state : (dieTherm s d).st = .normal ∨ (dieTherm s d).st = .throttle) (hot : 880 ≤ T) (below : T < 960) :
    thermStep s d T = bump (thGear (thState (tempTaken s d T) d .trip) d 5) (thmCtr 1) := by
  rcases state with state | state <;>
    simp only [thermStep, state, if_neg (show ¬960 ≤ T by omega), if_pos hot, tempTaken]

theorem thermStep_critical (limit : 960 ≤ T) : thermStep s d T = critical (tempTaken s d T) d := if_pos limit

/-- A transition that counts in its own counter leaves the die in its new state at its new gear. -/
theorem bump_thGear_thState (s : State) (d g : Nat) (st : ThState) {k : Nat} (low : k < 2) :
    let u := bump (thGear (thState s d st) d g) (thmCtr k)
    dieTherm u d = { dieTherm s d with st := st, gt := g } ∧ ctr u (thmCtr k) = ctr s (thmCtr k) + 1 := by
  have apart : thmCtr k ≠ calCtr 16 ∧ thmCtr k ≠ obsCtr 7 := by
    simp only [thmCtr, calCtr, obsCtr]
    omega
  refine ⟨?_, ?_⟩
  · rw [dieTherm_of_thm (bump_thm _ _), dieTherm_thGear, dieTherm_thState]
  · rw [ctr_bump_same, ctr_thGear _ _ _ apart.1, ctr_thState _ _ _ apart.2]

end Samples

/-! ## CRITICAL (R480) -/

theorem loseDevice_loses (s : State) (cls unit detail : Nat) : (loseDevice s cls unit detail).lost.lost = true := by
  cases now : s.lost.lost
  case true => rw [loseDevice_of_lost now, now]
  case false => rw [loseDevice_lost now]

/-- A die is CRITICAL: the device is lost, the pin is out, the clocks stand and the keys are gone. -/
def deadOf (d : Nat) (u : State) : Prop :=
  u.thm.tripPin = true ∧ u.clk.stopped = true ∧ u.sec.keys = [] ∧ u.lost.lost = true ∧ (dieTherm u d).st = .critical

theorem critical_dead (s : State) (d : Nat) : deadOf d (critical s d) := by
  unfold critical
  extract_lets s1 th s2
  have thermal : s2.thm = { s1.thm with tripPin := true } := loseDevice_thm _ _ _
  have lost : s2.lost.lost = true := loseDevice_loses _ _ _ _
  have state : (dieTherm s1 d).st = .critical := by rw [dieTherm_thState]
  clear_value s2 th s1
  have dies : s2.thm.dies = s1.thm.dies := by rw [thermal]
  refine ⟨congrArg Thermal.tripPin thermal, rfl, rfl, lost, ?_⟩
  show (tabGet {} s2.thm.dies d).st = .critical
  rw [dies]
  exact state

/-! ## A sample, taken whole -/

theorem sensorSample_steps {m : ThermSample} {T : Int} (living : alive s = true) (sample : sampleT m = some T) :
    sensorSample s d m = thermStep (readSensors (advanceConvs s) d m) d T := by
  simp only [sensorSample, living, Bool.not_true, Bool.false_eq_true, if_false, sample]

theorem sensorsRead_sampled (s : State) (d : Nat) (m : ThermSample) : SensorsRead s (readSensors (advanceConvs s) d m) d :=
  (SensorsRead.of_engineWork (.advanceConvs s) d).trans (.readSensors _ d m)

end Die

/-! ## Dwells (R479) -/

section Dwell
variable {s : State} {d : Nat}

theorem dwell_heat (living : alive s = true) (state : (dieTherm s d).st = .throttle) (hot : 800 ≤ (dieTherm s d).temp)
    (below : (dieTherm s d).gt < 5) : dwell s d true = thGear s d ((dieTherm s d).gt + 1) := by
  simp only [dwell, living, state, Bool.not_true, Bool.false_eq_true, if_false, if_pos (And.intro hot below)]

theorem dwell_cool (living : alive s = true) (state : (dieTherm s d).st = .throttle) (cool : (dieTherm s d).temp < 776) :
    dwell s d false = if (dieTherm s d).gt ≤ 1 then thState (thGear s d ((dieTherm s d).gt - 1)) d .normal
      else thGear s d ((dieTherm s d).gt - 1) := by
  simp only [dwell, living, state, Bool.not_true, Bool.false_eq_true, if_false, if_neg (show ¬776 ≤ (dieTherm s d).temp by omega)]

theorem dwell_trip (living : alive s = true) (state : (dieTherm s d).st = .trip) (cool : (dieTherm s d).temp < 800) :
    dwell s d false = thState s d .throttle := by
  simp only [dwell, living, state, Bool.not_true, Bool.false_eq_true, if_false, if_pos cool]

theorem dieTherm_dwell_cool (living : alive s = true) (state : (dieTherm s d).st = .throttle) (cool : (dieTherm s d).temp < 776) :
    dieTherm (dwell s d false) d =
      { dieTherm s d with gt := (dieTherm s d).gt - 1, st := if (dieTherm s d).gt ≤ 1 then .normal else .throttle } := by
  rw [dwell_cool living state cool]
  by_cases last : (dieTherm s d).gt ≤ 1
  · rw [if_pos last, if_pos last, dieTherm_thState, dieTherm_thGear]
  · rw [if_neg last, if_neg last, dieTherm_thGear, ← state]

end Dwell

/-! ## The voltage loops (R106–R108, R473) -/

section Loops
variable {s t : State} {d : Nat}

theorem setPinned_thm (s : State) (d : Nat) (on : Bool) :
    (setPinned s d on).thm = { s.thm with pinned := tabSet false s.thm.pinned d on } := by
  unfold setPinned
  extract_lets was th s1
  split
  · exact setFlag_thm s1 _
  · rfl

theorem setPinned_emitted (s : State) (d : Nat) (on : Bool) : (setPinned s d on).emitted = s.emitted := by
  unfold setPinned
  extract_lets was th s1
  split
  · exact setFlag_emitted s1 _
  · rfl

theorem ctr_setPinned (s : State) (d : Nat) (on : Bool) {i : Nat} (other : i ≠ calCtr 11) : ctr (setPinned s d on) i = ctr s i := by
  unfold setPinned
  extract_lets was th s1
  split
  · rw [ctr_setFlag, if_neg (show i ≠ fPinAvs.ctr from other)]
    rfl
  · rfl

theorem setOverriding_thm (s : State) (d : Nat) (on : Bool) :
    (setOverriding s d on).thm = { s.thm with overriding := tabSet false s.thm.overriding d on } := by
  unfold setOverriding
  extract_lets was th s1
  split
  · exact setFlag_thm s1 _
  · rfl

theorem setOverriding_emitted (s : State) (d : Nat) (on : Bool) : (setOverriding s d on).emitted = s.emitted := by
  unfold setOverriding
  extract_lets was th s1
  split
  · exact setFlag_emitted s1 _
  · rfl

theorem pinned_setPinned (s : State) (d : Nat) (on : Bool) : tabGet false (setPinned s d on).thm.pinned d = on := by
  rw [setPinned_thm]
  exact tabGet_set_same ..

/-- The guard gear, the override and the pin that a sample of the margin monitor leaves. -/
def loopJudged (s : State) (d gear : Nat) (above pin : Bool) : State :=
  setPinned (setOverriding { s with clk := { s.clk with guardGear := tabSet 0 s.clk.guardGear d gear } } d above) d pin

theorem loopJudged_thm (s : State) (d gear : Nat) (above pin : Bool) : (loopJudged s d gear above pin).thm =
    { s.thm with overriding := tabSet false s.thm.overriding d above, pinned := tabSet false s.thm.pinned d pin } := by
  rw [loopJudged, setPinned_thm, setOverriding_thm]

theorem loopJudged_emitted (s : State) (d gear : Nat) (above pin : Bool) : (loopJudged s d gear above pin).emitted = s.emitted := by
  rw [loopJudged, setPinned_emitted, setOverriding_emitted]

/-- The target of a need: within the bounds, the floor below them, up to 850 mV above them. -/
def avsTarget (s : State) (need : Nat) : Nat := if avsMax s < need then Nat.min need 850 else Nat.max (avsMin s) need

/-- A loop whose command has not failed follows its monitor, whatever gear its guard takes. -/
theorem marginSample_follows (living : alive s = true) (ready : s.clk.ready = true) (sound : avsFails s d = false) (need : Nat) :
    ∃ gear, marginSample s d need = writeAvs (loopJudged s d gear (decide (avsMax s < need) || decide (gearCeil s d < gear))
      (decide (avsMax s < need) || decide (need < avsMin s))) d (avsTarget s need) := by
  unfold marginSample
  rw [living, ready, if_neg (by decide)]
  extract_lets hi target g short g1 clk s1 s2 s3
  have judged : s3 = loopJudged s d g1 (decide (hi < need) || decide (gearCeil s d < g1)) (decide (hi < need) || decide (need < avsMin s)) := by
    simp only [s3, s2, s1, clk, loopJudged, sound, Bool.or_false]
  have asked : target = avsTarget s need := rfl
  clear_value s3
  rw [sound, if_neg (by decide), judged, asked]
  exact ⟨g1, rfl⟩

theorem avsWanted_writeAvs (s : State) (d mv : Nat) : avsWanted (writeAvs s d mv) d = mv := by
  rw [writeAvs]
  split
  next same => exact same
  next => exact tabGet_set_same ..

theorem writeAvs_emitted (s : State) (d mv : Nat) :
    (writeAvs s d mv).emitted = if avsWanted s d = mv then s.emitted else .avs d mv :: s.emitted := by
  rw [writeAvs]
  split
  · rfl
  · rfl

theorem writeAvs_thm (s : State) (d mv : Nat) : ∃ want, (writeAvs s d mv).thm = { s.thm with avsWant := want } := by
  rw [writeAvs]
  split
  · exact ⟨s.thm.avsWant, rfl⟩
  · exact ⟨_, rfl⟩

/-- What a sample of the margin monitor asks for, and what it leaves of the loop. -/
theorem marginSample_asks (living : alive s = true) (ready : s.clk.ready = true) (sound : avsFails s d = false) (need : Nat) :
    let u := marginSample s d need
    avsWanted u d = avsTarget s need ∧ tabGet false u.thm.pinned d = (decide (avsMax s < need) || decide (need < avsMin s)) ∧
      avsAcked u d = avsAcked s d ∧
      u.emitted = (if avsWanted s d = avsTarget s need then s.emitted else .avs d (avsTarget s need) :: s.emitted) ∧
      (avsMax s < need → tabGet false u.thm.overriding d = true) := by
  obtain ⟨gear, follows⟩ := marginSample_follows living ready sound need
  generalize guard : (decide (avsMax s < need) || decide (gearCeil s d < gear)) = o at follows
  generalize (decide (avsMax s < need) || decide (need < avsMin s)) = p at follows ⊢
  generalize avsTarget s need = mv at follows ⊢
  have judged := loopJudged_thm s d gear o p
  have wanted : avsWanted (loopJudged s d gear o p) d = avsWanted s d := by rw [avsWanted, judged, avsWanted]
  obtain ⟨want, thermal⟩ := writeAvs_thm (loopJudged s d gear o p) d mv
  rw [judged] at thermal
  simp only [follows]
  refine ⟨avsWanted_writeAvs _ d mv, ?_, ?_, ?_, fun beyond => ?_⟩
  · rw [thermal]
    exact tabGet_set_same false s.thm.pinned d p
  · rw [avsAcked, thermal, avsAcked]
  · rw [writeAvs_emitted, wanted, loopJudged_emitted]
  · rw [thermal, ← guard, decide_eq_true beyond, Bool.true_or]
    exact tabGet_set_same false s.thm.overriding d true

/-! ## The answers of a regulator -/

theorem avsFailed_loop (s : State) (d : Nat) :
    avsFails (avsFailed s d) d = true ∧ tabGet false (avsFailed s d).thm.pinned d = true ∧
      ctr (avsFailed s d) (thmCtr 4) = ctr s (thmCtr 4) + 1 ∧ avsAcked (avsFailed s d) d = avsAcked s d := by
  unfold avsFailed
  extract_lets th s1
  have marked : tabGet false s1.thm.avsBad d = true := tabGet_set_same false s.thm.avsBad d true
  have acked : s1.thm.avs = s.thm.avs := rfl
  have counts : ctr s1 (thmCtr 4) = ctr s (thmCtr 4) := rfl
  clear_value s1
  have thermal := setPinned_thm (logEvent (bump s1 (thmCtr 4)) 0xB 0xFFFF d) d true
  refine ⟨?_, pinned_setPinned _ d true, ?_, ?_⟩
  · rw [avsFails, thermal]
    exact marked
  · rw [ctr_setPinned _ _ _ (by decide), ctr_logEvent, if_neg (by decide), ctr_bump_same, counts]
  · rw [avsAcked, thermal, avsAcked]
    exact congrArg (tabGet 750 · d) acked

theorem avsAnswered_good (living : alive s = true) (ready : s.clk.ready = true) :
    avsAcked (avsAnswered s d false) d = avsWanted s d ∧ avsFails (avsAnswered s d false) d = false ∧
      (avsAcked s d ≠ avsWanted s d → countsOne s (avsAnswered s d false) (thmCtr 3)) := by
  simp only [avsAnswered, living, ready, Bool.not_true, Bool.or_false, Bool.false_eq_true, if_false]
  by_cases same : avsAcked s d = avsWanted s d
  · rw [if_pos same]
    exact ⟨same, tabGet_set_same false s.thm.avsBad d false, fun differ => absurd same differ⟩
  · rw [if_neg same]
    exact ⟨tabGet_set_same 750 s.thm.avs d _, tabGet_set_same false s.thm.avsBad d false, fun _ => countsOne_bump _ (thmCtr 3)⟩

theorem avsAnswered_fault (living : alive s = true) (ready : s.clk.ready = true) : avsAnswered s d true = avsFailed s d := by
  simp only [avsAnswered, living, ready, Bool.not_true, Bool.or_false, Bool.false_eq_true, if_false, if_true]

theorem avsExpired_ready (living : alive s = true) (ready : s.clk.ready = true) (met : Bool) :
    avsExpired s d met = if met then bump s (obsCtr 9) else avsFailed s d := by
  simp only [avsExpired, living, ready, Bool.not_true, Bool.or_false, Bool.false_eq_true, if_false]

theorem avsRetried_ready (living : alive s = true) (ready : s.clk.ready = true) :
    avsRetried s d = if avsFails s d then emit s (.avs d (avsWanted s d)) else s := by
  cases fails : avsFails s d <;> simp [avsRetried, living, ready, fails]

end Loops

/-- Settles O52: each clause is the transition that a sample, a dwell or an answer of a regulator takes.  The pinning for each die on
its own (log 133) and the target written at once (log 134) are the model's choices. -/
theorem thermalAndVoltage : Obligations.ThermalAndVoltage := by
  unfold Obligations.ThermalAndVoltage
  intro s d die living v dead
  have unit (u : State) : onUnit (decide (d < 2)) u = .next u := onUnit_of (decide_eq_true die) u
  refine ⟨fun m T sample mild => ?_, fun m T sample limit => ?_, ?_, ?_, fun state hot below => ?_, fun state cool => ?_,
    fun state cool => ?_, fun ready => ⟨fun need sound => ?_, ?_, ?_, ?_, ?_⟩⟩
  · have read := sensorsRead_sampled s d m
    have sampled : exec (.sensorSample d m) s = .next (thermStep (readSensors (advanceConvs s) d m) d T) := by
      rw [← sensorSample_steps living sample]
      exact unit _
    generalize readSensors (advanceConvs s) d m = r at read sampled
    refine ⟨fun state cool => ⟨_, sampled, ?_⟩, fun state warm below => ⟨_, sampled, ?_⟩, fun state hot => ⟨_, sampled, ?_⟩⟩
    · rw [thermStep_cool (read.st.trans state) cool, dieTherm_tempTaken]
      exact ⟨read.st.trans state, rfl⟩
    · obtain ⟨taken, counted⟩ := bump_thGear_thState (tempTaken r d T) d (Nat.min 5 (gearInForce r d + 1)) .throttle (k := 0) (by decide)
      rw [thermStep_warm (read.st.trans state) warm below, taken, counted, read.gearInForce]
      exact ⟨rfl, rfl, congrArg (· + 1) (read.counts 0 (by decide))⟩
    · obtain ⟨taken, counted⟩ := bump_thGear_thState (tempTaken r d T) d 5 .trip (k := 1) (by decide)
      rw [thermStep_hot (by rw [read.st]; exact state) hot mild, taken, counted]
      exact ⟨rfl, rfl, congrArg (· + 1) (read.counts 1 (by decide))⟩
  · refine ⟨critical (tempTaken (readSensors (advanceConvs s) d m) d T) d, ?_, critical_dead _ d⟩
    rw [← thermStep_critical limit, ← sensorSample_steps living sample]
    exact unit _
  · refine ⟨critical s d, (unit _).trans (congrArg Host.Outcome.next ?_), critical_dead s d⟩
    simp only [sensorsLost, living, Bool.not_true, Bool.false_eq_true, if_false]
  · refine ⟨bump s (obsCtr 9), (unit _).trans (congrArg Host.Outcome.next ?_), countsOne_bump s _, rfl⟩
    simp only [sensorsLost, living, Bool.not_true, Bool.false_eq_true, if_false, if_true]
  · exact ⟨_, unit _, by rw [dwell_heat living state hot below, dieTherm_thGear]⟩
  · exact ⟨_, unit _, dieTherm_dwell_cool living state cool⟩
  · exact ⟨_, unit _, by rw [dwell_trip living state cool, dieTherm_thState]⟩
  · obtain ⟨wanted, pin, acked, sent, overriding⟩ := marginSample_asks living ready sound need
    have target : avsTarget s need = if avsMax s < need then Nat.min need 850 else Nat.max (avsMin s) need := rfl
    refine ⟨fun low high => ⟨_, unit _, ?_⟩, fun low high => ⟨_, unit _, ?_⟩, fun high => ⟨⟨_, unit _, ?_⟩, _, unit _, overriding high⟩⟩
    · rw [if_neg (Nat.not_lt.2 high), show Nat.max (avsMin s) need = need from Nat.max_eq_right low] at target
      rw [decide_eq_false (Nat.not_lt.2 high), decide_eq_false (Nat.not_lt.2 low)] at pin
      rw [target] at wanted sent
      exact ⟨wanted, pin, acked, sent⟩
    · rw [if_neg (Nat.not_lt.2 high), show Nat.max (avsMin s) need = avsMin s from Nat.max_eq_left (Nat.le_of_lt low)] at target
      rw [decide_eq_true low, Bool.or_true] at pin
      rw [target] at wanted sent
      exact ⟨wanted, pin, acked, sent⟩
    · rw [if_pos high] at target
      rw [decide_eq_true high, Bool.true_or] at pin
      rw [target] at wanted sent
      exact ⟨wanted, pin, acked, sent⟩
  · exact ⟨_, unit _, avsAnswered_good living ready⟩
  · intro i among
    have failed : ∃ u, exec i s = .next u ∧ u = avsFailed s d := by
      simp only [List.mem_cons, List.not_mem_nil, or_false] at among
      rcases among with rfl | rfl
      · exact ⟨_, unit _, avsAnswered_fault living ready⟩
      · exact ⟨_, unit _, avsExpired_ready living ready false⟩
    obtain ⟨u, run, rfl⟩ := failed
    exact ⟨_, run, avsFailed_loop s d⟩
  · exact ⟨_, unit _, by rw [avsExpired_ready living ready]; exact countsOne_bump s _, by rw [avsExpired_ready living ready]; rfl⟩
  · exact (unit _).trans (congrArg Host.Outcome.next (avsRetried_ready living ready))

end Sys2Proof.Machine
end

section
/-! The family of JTAG and the trace port (R386, R499–R503, R505), with what a move of the debug levels leaves as it is (R406, R407). -/

namespace Sys2Proof.Machine
open Sys2Proof

/-! ## The debug levels -/

section Levels
variable {s t u : State}

/-- A move of the debug levels: the levels, their record, the registers that they close, and the tap change. -/
structure LevelsFrame (s u : State) : Prop where
  rest : { u with sec := s.sec, regs := s.regs, rng := s.rng, ret := s.ret, ctrs := s.ctrs } = s
  sec : ∃ since view, u.sec = { s.sec with levels := u.sec.levels, openSince := since, mview := view }
  words : ∀ o, o ≠ dbgOff + 4 → o ≠ rngOff + 0x10 → ∀ d, tabGet d u.regs o = tabGet d s.regs o
  counts : ∀ i, i ≠ obsCtr 7 → i ≠ secCtr 14 → ctr u i = ctr s i

namespace LevelsFrame

theorem refl (s : State) : LevelsFrame s s := ⟨rfl, ⟨s.sec.openSince, s.sec.mview, rfl⟩, fun _ _ _ _ => rfl, fun _ _ _ => rfl⟩

theorem trans (first : LevelsFrame s t) (second : LevelsFrame t u) : LevelsFrame s u := by
  obtain ⟨_, _, moved⟩ := first.sec
  obtain ⟨since, view, again⟩ := second.sec
  refine ⟨?_, ⟨since, view, ?_⟩, fun o data tap d => (second.words o data tap d).trans (first.words o data tap d),
    fun i log opens => (second.counts i log opens).trans (first.counts i log opens)⟩
  · exact (congrArg (fun v : State => { v with sec := s.sec, regs := s.regs, rng := s.rng, ret := s.ret, ctrs := s.ctrs }) second.rest).trans
      first.rest
  · rw [moved] at again
    exact again

theorem dbg (h : LevelsFrame s u) : u.dbg = s.dbg := (congrArg State.dbg h.rest :)
theorem emitted (h : LevelsFrame s u) : u.emitted = s.emitted := (congrArg State.emitted h.rest :)

theorem of_sec (rest : { u with regs := s.regs, rng := s.rng, ret := s.ret, ctrs := s.ctrs } = s)
    (words : ∀ o, o ≠ dbgOff + 4 → o ≠ rngOff + 0x10 → ∀ d, tabGet d u.regs o = tabGet d s.regs o)
    (counts : ∀ i, i ≠ obsCtr 7 → i ≠ secCtr 14 → ctr u i = ctr s i) : LevelsFrame s u := by
  have sec : u.sec = s.sec := (congrArg State.sec rest :)
  refine ⟨?_, ⟨s.sec.openSince, s.sec.mview, by rw [sec]⟩, words, counts⟩
  rw [← sec]
  exact rest

theorem flagOn (h : LevelsFrame s u) {f : Flag} (data : f.off ≠ dbgOff + 4) (tap : f.off ≠ rngOff + 0x10) :
    flagOn u f = flagOn s f := by rw [Machine.flagOn, h.words f.off data tap, Machine.flagOn]

end LevelsFrame

theorem setTapEn_rest (s : State) (on : Bool) : { setTapEn s on with regs := s.regs, rng := s.rng } = s := by
  rw [setTapEn]
  dsimp only
  split
  · split <;> rfl
  · split <;> rfl

theorem setTapEn_words (s : State) (on : Bool) {o : Nat} (other : o ≠ rngOff + 0x10) (d : BitVec 32) :
    tabGet d (setTapEn s on).regs o = tabGet d s.regs o := by
  rw [setTapEn]
  dsimp only
  have written (v : Nat) : tabGet d (setRegField s (rngOff + 0x10) 0 0 v).regs o = tabGet d s.regs o := tabGet_set_other _ _ _ _ _ _ other
  split
  · split <;> exact written 1
  · split <;> exact written 0

theorem setLevels_levels (s : State) (v : BitVec 5) : (setLevels s v).sec.levels = v := by
  rw [setLevels]
  split
  next same => exact same.symm
  next =>
    extract_lets sec s1 s2 s3
    have now : s1.sec.levels = v := rfl
    have data : s2.sec = s1.sec := by
      unfold s2
      split
      · rfl
      · rfl
    have tap : s3.sec = s2.sec := by
      unfold s3
      split
      · rfl
      · exact (congrArg State.sec (setTapEn_rest s2 false) :)
    clear_value s3 s2 s1
    exact (congrArg Sec.levels (tap.trans data)).trans now

theorem setLevels_frame (s : State) (v : BitVec 5) : LevelsFrame s (setLevels s v) := by
  unfold setLevels
  split
  next => exact .refl s
  next =>
    extract_lets sec s1 s2 s3
    have opened : LevelsFrame s s1 := ⟨rfl, ⟨_, _, rfl⟩, fun _ _ _ _ => rfl, fun _ _ _ => rfl⟩
    have data : LevelsFrame s1 s2 := by
      unfold s2
      split
      · exact .refl s1
      · exact .of_sec rfl (fun o data _ d => tabGet_set_other _ d _ _ _ _ data) fun _ _ _ => rfl
    have tap : LevelsFrame s2 s3 := by
      unfold s3
      split
      · exact .refl s2
      · exact .of_sec (congrArg (fun v : State => { v with ret := s2.ret, ctrs := s2.ctrs }) (setTapEn_rest s2 false))
          (fun o _ tap d => setTapEn_words s2 false tap d) fun i _ _ => ctr_of_ctrs (congrArg State.ctrs (setTapEn_rest s2 false) :) i
    clear_value s3 s2 s1
    exact ((opened.trans data).trans tap).trans (.of_sec rfl (fun _ _ _ _ => rfl) fun i log _ => (ctr_logEvent s3 _ _ _ i).trans (if_neg log))

theorem openLevels_frame (s : State) (l : BitVec 5) : LevelsFrame s (openLevels s l) := by
  unfold openLevels
  extract_lets fresh n s1
  have counted : LevelsFrame s { s1 with ret := memPutBytes s1.ret 0x1200 (natLe (dbgOpens s1 + n) 4) } :=
    .of_sec rfl (fun _ _ _ _ => rfl) fun i _ opens => ctr_addCtr_other s _ _ _ opens
  exact counted.trans (setLevels_frame _ _)

theorem openLevels_levels (s : State) (l : BitVec 5) : (openLevels s l).sec.levels = s.sec.levels ||| l := setLevels_levels _ _

/-- Nothing holds up levels that are asked for, unless a bound tenant asks for a teardown. -/
theorem askLevels_open (at_once : s.sec.tenancy = .bound ∧ s.sec.dbgTeardown = true → False) (l : BitVec 5) :
    askLevels s l = openLevels s l := if_neg fun ⟨bound, asks, _⟩ => at_once ⟨bound, asks⟩

theorem closeLevels_levels (s : State) (l : BitVec 5) : (closeLevels s l).sec.levels = s.sec.levels &&& ~~~ l := setLevels_levels _ _

theorem closeLevels_dbg (s : State) (l : BitVec 5) : (closeLevels s l).dbg = { s.dbg with byJtag := s.dbg.byJtag &&& ~~~ l } := by
  have kept := (setLevels_frame s (s.sec.levels &&& ~~~ l)).dbg
  unfold closeLevels
  extract_lets s1
  exact congrArg (fun g : Dbg => { g with byJtag := g.byJtag &&& ~~~ l }) kept

end Levels

/-! ## EXTEST (R499) -/

section Extest
variable {s : State}

theorem setTdi_host (s : State) (t : Tdi) : (setTdi s t).host = s.host := by
  rw [setTdi]
  split <;> rfl

theorem tdiError_host (s : State) : (tdiError s).host = s.host := by
  unfold tdiError
  split
  · extract_lets s1
    have moved : s1.host = s.host := setTdi_host s _
    split
    · exact (teardown_host s1).1.trans moved
    · exact moved
  · rfl

theorem linkReset_down (s : State) : (linkReset s .linkDown).host.linkUp = false := by
  unfold linkReset
  extract_lets sec host s1 torn s2
  have down : s1.host.linkUp = false := rfl
  have kept : s2.host.linkUp = false := (congrArg HostLink.linkUp (tdiError_host s1)).trans down
  clear_value s2
  split
  · exact kept
  · have reset : Outside s2 _ := .foldl (fun s (e : Nat × Client) => .branch (p := s.sec.tenancy = .teardown)
      (.resetNow s (BitVec.ofNat 10 e.1)) (.resetClient s (BitVec.ofNat 10 e.1))) s2.clients s2
    rw [reset.host]
    exact kept

/-- The I/O is stopped; the ports go down with it. -/
def ioEnded (s : State) : State := stopPorts { s with dbg := { s.dbg with ioStopped := true } }

theorem ioEnded_keeps (s : State) : (ioEnded s).dbg.ioStopped = true ∧ (ioEnded s).host = s.host := by
  have ended : Outside { s with dbg := { s.dbg with ioStopped := true } } (ioEnded s) := .stopPorts _
  exact ⟨ended.io, ended.host⟩

theorem extest_eq (opens : jtagOpen s = true) (running : s.dbg.ioStopped = false) :
    extest s = ioEnded (if s.clk.ready then linkReset s .linkDown else s) := by
  rw [extest, opens, running, if_neg (by decide), ioEnded]

end Extest

/-! ## CHALLENGE and RESPONSE (R386, R500, R505) -/

section Unlock
variable {s : State} {mask : BitVec 8} {ok : Bool}

theorem challenge_answered {t : State} {k : BitVec 256} (living : alive s = true) (drawn : genRequest s hubGen = (t, .key k)) :
    (challenge s).dbg.nonce = some k ∧
      (challenge s).emitted = .jtag (natLe k.toNat 32 ++ natLe Config.serial.toNat 16) :: s.emitted ∧ sameMemories s (challenge s) := by
  have draws := DrawsKey.genRequest s hubGen
  rw [drawn] at draws
  have rest : { t with rng := s.rng, ctrs := s.ctrs } = s := draws.rest
  have emitted : t.emitted = s.emitted := (congrArg State.emitted rest :)
  have memories : sameMemories s t := ⟨(congrArg State.store rest :), (congrArg State.pm rest :), (congrArg State.ret rest :)⟩
  rw [challenge, if_pos living, giveNonce, drawn]
  refine ⟨rfl, ?_, memories⟩
  exact congrArg (Emit.jtag (natLe k.toNat 32 ++ natLe Config.serial.toNat 16) :: ·) emitted

/-- A good response has used its nonce up, and names its levels. -/
def responseTaken (s : State) (l : BitVec 5) : State := { s with dbg := { s.dbg with nonce := none, byJtag := s.dbg.byJtag ||| l } }

theorem judgeResponse_good (good : responseGood s mask ok = true) (at_once : s.sec.tenancy = .bound ∧ s.sec.dbgTeardown = true → False) :
    judgeResponse s mask ok = openLevels (responseTaken s (mask.setWidth 5)) (mask.setWidth 5) := by
  rw [judgeResponse, if_pos good]
  exact askLevels_open (s := responseTaken s (mask.setWidth 5)) at_once _

theorem openLevels_responseTaken (s : State) (l : BitVec 5) :
    let u := openLevels (responseTaken s l) l
    u.sec.levels = s.sec.levels ||| l ∧ u.dbg.byJtag = s.dbg.byJtag ||| l ∧ u.dbg.nonce = none := by
  have kept := (openLevels_frame (responseTaken s l) l).dbg
  exact ⟨openLevels_levels _ _, (congrArg Dbg.byJtag kept :), (congrArg Dbg.nonce kept :)⟩

theorem judgeResponse_bad (bad : responseGood s mask ok = false) : judgeResponse s mask ok =
    setFlag { s with dbg := { s.dbg with nonce := none, refusals := s.dbg.refusals + 1 } } fUnlockFail := by
  rw [judgeResponse, if_neg (by rw [bad]; decide)]

theorem response_serving (living : alive s = true) (ready : s.clk.ready = true) : response s mask ok =
    if s.fw.wd.phase = .window then { s with sec := { s.sec with cwHeld := s.sec.cwHeld ++ [.response mask ok] } }
    else judgeResponse s mask ok := by
  rw [response, living, ready, if_neg (by decide)]

end Unlock

/-! ## The trace port (R501, R505) -/

section Trace
variable {s : State}

theorem sendTrace_overflow (living : alive s = true) (on : trcOn s = true) (dropped : 0 < s.dbg.trcLost) (room : s.dbg.trc.length < 4096) :
    sendTrace s = bump (emit { s with dbg := { s.dbg with trcLost := 0 } } (.trace (natLe 0xF 1 ++ natLe trcHub 1 ++ [0, 0] ++
      natLe s.tick.toNat 6 ++ natLe s.dbg.trcLost 6))) (obsCtr 5) := by
  rw [sendTrace, living, on, if_neg (by decide), if_pos ⟨dropped, room⟩]

theorem sendTrace_oldest (living : alive s = true) (on : trcOn s = true) (whole : s.dbg.trcLost = 0) {r : List (BitVec 8)}
    {rest : List (List (BitVec 8))} (waits : s.dbg.trc = r :: rest) :
    sendTrace s = bump (emit { s with dbg := { s.dbg with trc := rest } } (.trace r)) (obsCtr 5) := by
  rw [sendTrace, living, on, if_neg (by decide), if_neg (by simp [whole]), waits]

theorem sendTrace_empty (living : alive s = true) (on : trcOn s = true) (whole : s.dbg.trcLost = 0) (empty : s.dbg.trc = []) :
    sendTrace s = useFree (emit s (.trace (0 :: freeBytes s 15))) := by
  rw [sendTrace, living, on, if_neg (by decide), if_neg (by simp [whole]), empty]

end Trace

/-- Settles O54: each instruction has the effect that its own equation gives.  A level that is closed answers nothing (log 123), and the
zeros of a cluster out of service (log 177) are the model's choices. -/
theorem jtagAndTrace : Obligations.JtagAndTrace := by
  unfold Obligations.JtagAndTrace
  intro s
  refine ⟨rfl, rfl, rfl, fun closed => congrArg Host.Outcome.next ?_, fun opens running => ⟨extest s, rfl, ?_⟩,
    fun u k living drawn => ⟨challenge s, rfl, challenge_answered living drawn⟩, fun mask ok living ready => ?_, ?_, fun o there => ?_,
    fun living on => ⟨fun r rest whole waits => ⟨_, rfl, ?_⟩, fun dropped room => ⟨_, rfl, ?_⟩, fun whole empty => ?_⟩⟩
  · exact if_pos (by rw [closed]; rfl)
  · rw [extest_eq opens running]
    obtain ⟨stopped, host⟩ := ioEnded_keeps (if s.clk.ready then linkReset s .linkDown else s)
    refine ⟨stopped, fun ready => ?_⟩
    rw [host, if_pos ready, linkReset_down]
  · have judged := response_serving (mask := mask) (ok := ok) living ready
    refine ⟨fun window => congrArg Host.Outcome.next (judged.trans (if_pos window)), fun outside => ⟨fun good at_once => ⟨response s mask ok, rfl, ?_⟩,
      fun bad => ⟨response s mask ok, rfl, ?_⟩⟩⟩
    · rw [judged, if_neg outside, judgeResponse_good good at_once]
      exact openLevels_responseTaken s _
    · rw [judged, if_neg outside, judgeResponse_bad bad, flagOn_setFlag_same _ _ (by decide), setFlag_dbg, setFlag_sec]
      exact ⟨rfl, rfl, rfl⟩
  · by_cases none : s.dbg.byJtag = 0
    · refine ⟨s, congrArg Host.Outcome.next (if_pos none), ?_, none⟩
      rw [none]
      exact BitVec.and_allOnes.symm
    · refine ⟨closeLevels s s.dbg.byJtag, congrArg Host.Outcome.next (if_neg none), closeLevels_levels s _, ?_⟩
      rw [closeLevels_dbg]
      exact BitVec.and_not_self _
  · refine ⟨fun normal closed => ?_, fun jtag reads => ?_⟩
    · refine (onUnit_of there _).trans (congrArg Host.Outcome.next ?_)
      have shut : (testBypass s || (jtagOpen s && s.sec.levels.getLsbD 2)) = false := by
        rw [jtagOpen, normal]
        rcases closed with closed | closed
        · rw [closed]
          rfl
        · rw [closed, Bool.and_false]
          rfl
      rw [dbgAccess.eq_def, shut]
      rfl
    · refine (onUnit_of there _).trans (congrArg Host.Outcome.next ?_)
      have open_ : (testBypass s || (jtagOpen s && s.sec.levels.getLsbD 2)) = true := by
        rw [jtagOpen, jtag, reads]
        exact Bool.or_true _
      rw [dbgAccess.eq_def, open_]
      cases o <;> rfl
  · rw [show sendTrace s = _ from sendTrace_oldest living on whole waits]
    exact ⟨rfl, rfl, countsOne_bump _ _⟩
  · rw [show sendTrace s = _ from sendTrace_overflow living on dropped room]
    exact ⟨rfl, countsOne_bump _ _, rfl⟩
  · refine ⟨_, freeBytes s 15, congrArg Host.Outcome.next (sendTrace_empty living on whole empty), rfl, ?_, rfl⟩
    simp [freeBytes, upTo]

end Sys2Proof.Machine
end

section
/-! The family of secured sessions and what runs in them (R376, R380–R383, R391–R394): IDE, the interface, tenancies and keys. -/

namespace Sys2Proof.Machine
open Sys2Proof

/-! ## A request within a live session (R381) -/

section Session
variable {s u : State} {sn st : Nat} {set : Bool}

theorem inSession_live (up : answers s) (lives : live s sn = true) (run : State → State) : inSession s sn run = run s := by
  rw [inSession, onSpdm_answers up, if_pos lives]

/-- The session has ended: it is gone, no tenancy is taken, and the other sessions stay. -/
theorem endSession_ends (s : State) (sn : Nat) :
    sessionOf (endSession s sn) sn = none ∧ (endSession s sn).sec.tsess ≠ some sn ∧ (endSession s sn).sec.tenancy = s.sec.tenancy ∧
      (∀ j, j ≠ sn → sessionOf (endSession s sn) j = sessionOf s j) ∧ (endSession s sn).ctrs = s.ctrs := by
  refine ⟨tabFind_erase_same s.sec.sessions sn, ?_, rfl, fun j other => tabFind_erase_other s.sec.sessions sn j other, rfl⟩
  show (if s.sec.tsess = some sn then none else s.sec.tsess) ≠ some sn
  split
  · exact (Option.some_ne_none sn).symm
  next other => exact other

theorem heartbeatLapse_eq (lives : live s sn = true) (met : Bool) : exec (.heartbeatLapse sn met) s =
    .next (if met then bump s (obsCtr 9) else endSession s sn) :=
  congrArg Host.Outcome.next (if_neg (by rw [lives]; decide))

/-! ## IDE streams (R393) -/

theorem ideOf_setIde (s : State) (st : Nat) (v : Ide) : ideOf (setIde s st v) st = v := tabGet_set_same ({} : Ide) s.sec.ide st v
theorem ideOf_setIde_other (s : State) (st : Nat) (v : Ide) {j : Nat} (other : j ≠ st) : ideOf (setIde s st v) j = ideOf s j :=
  tabGet_set_other ({} : Ide) {} s.sec.ide st j v other
theorem ideOf_answer (s : State) (a : SpdmAnswer) (st : Nat) : ideOf (answer s a) st = ideOf s st := rfl

theorem keyedSet_putSet (v : Ide) (set on : Bool) : keyedSet (putSet v set on) set = on := by cases set <;> rfl
theorem keyedSet_putSet_other (v : Ide) (set on : Bool) : keyedSet (putSet v set on) (!set) = keyedSet v (!set) := by cases set <;> rfl
theorem putSet_go (v : Ide) (set on : Bool) : (putSet v set on).go = v.go := by cases set <;> rfl
/-- Whether a set holds a key does not rest on which one is in use. -/
theorem keyedSet_withGo (v : Ide) (set : Bool) (n : Nat) : keyedSet { v with go := n } set = keyedSet v set := by cases set <;> rfl

theorem setTdi_sec (s : State) (t : Tdi) (moves : s.sec.tdi ≠ t) : (setTdi s t).sec = { s.sec with tdi := t, mview := s.sec.mview + 1 } := by
  rw [setTdi, if_neg moves]
  rfl
theorem setTdi_ide (s : State) (t : Tdi) : (setTdi s t).sec.ide = s.sec.ide := by
  rw [setTdi]
  split <;> rfl

/-- An error of the interface of a tenant bound without tdisp. -/
theorem tdiError_untied (apart : s.sec.tdisp = false) :
    tdiError s = if s.sec.tdi = .locked ∨ s.sec.tdi = .run then setTdi s .error else s := by
  rw [tdiError]
  refine ite_congr rfl (fun bound => ?_) fun _ => rfl
  have moves : s.sec.tdi ≠ .error := by
    rcases bound with state | state <;> rw [state] <;> decide
  exact if_neg (by rw [setTdi_sec s _ moves, apart]; decide)

/-- The number of a key set in use. -/
def setNo (set : Bool) : Nat := if set then 2 else 1

/-- The stream without its set `set`. -/
def setEnded (v : Ide) (set : Bool) : Ide := { putSet v set false with go := if v.go = setNo set then 0 else v.go }

theorem stopSet_eq (s : State) (st : Nat) (set : Bool) : stopSet s st set =
    if secure s st && decide ((setEnded (ideOf s st) set).go = 0) && decide (s.sec.tdiStream = st)
    then tdiError (setIde s st (setEnded (ideOf s st) set)) else setIde s st (setEnded (ideOf s st) set) := by
  have same : { putSet (ideOf s st) set false with go := if (putSet (ideOf s st) set false).go = (if set then 2 else 1) then 0 else
      (putSet (ideOf s st) set false).go } = setEnded (ideOf s st) set := by rw [putSet_go]; rfl
  have open_ : secure (setIde s st (setEnded (ideOf s st) set)) st = !decide ((setEnded (ideOf s st) set).go = 0) := by
    rw [secure, ideOf_setIde, ← decide_not]
  unfold stopSet
  extract_lets v s1
  have ended : s1 = setIde s st (setEnded (ideOf s st) set) := congrArg (setIde s st) same
  rw [ended, open_, Bool.not_not]

/-- A set that was in use goes, and with it the interface that is bound to its stream. -/
theorem stopSet_ends (apart : s.sec.tdisp = false) (st : Nat) (set : Bool) :
    ideOf (stopSet s st set) st = setEnded (ideOf s st) set ∧
      ((ideOf s st).go = setNo set → s.sec.tdiStream = st → s.sec.tdi = .locked ∨ s.sec.tdi = .run → (stopSet s st set).sec.tdi = .error) := by
  have ended := ideOf_setIde s st (setEnded (ideOf s st) set)
  have sec : (setIde s st (setEnded (ideOf s st) set)).sec = { s.sec with ide := tabSet {} s.sec.ide st (setEnded (ideOf s st) set) } := rfl
  rw [stopSet_eq]
  generalize setIde s st (setEnded (ideOf s st) set) = t at ended sec ⊢
  rw [tdiError_untied (by rw [sec]; exact apart)]
  have state : t.sec.tdi = s.sec.tdi := by rw [sec]
  refine ⟨?_, fun used bound interface => ?_⟩
  · split
    · split
      · rw [ideOf, setTdi_ide]
        exact ended
      · exact ended
    · exact ended
  · have going : (setEnded (ideOf s st) set).go = 0 := if_pos used
    have secured : secure s st = true := by
      rw [secure, used]
      cases set <;> rfl
    have moves : t.sec.tdi ≠ .error := by
      rw [state]
      rcases interface with now | now <;> rw [now] <;> decide
    rw [secured, going, bound, if_pos (by simp), if_pos (by rw [state]; exact interface), setTdi_sec t _ moves]

/-! ## The interface (R394) -/

theorem stopInterface_untied (apart : s.sec.tdisp = false) (held : s.sec.tdi ≠ .unlocked) (untorn : s.sec.tenancy ≠ .teardown) :
    (stopInterface s).sec = { s.sec with tdi := .unlocked, mview := s.sec.mview + 1 } := by
  have still : (if s.sec.tdisp then teardown s else s) = s := if_neg (by rw [apart]; decide)
  rw [stopInterface, if_neg held, still]
  exact (congrArg State.sec (if_neg untorn)).trans (setTdi_sec s _ held)

theorem stopInterface_tied (tied : s.sec.tdisp = true) (held : s.sec.tdi ≠ .unlocked) (bound : s.sec.tenancy = .bound) :
    (stopInterface s).sec.tenancy = .teardown ∧ (stopInterface s).sec.tdiStop = true := by
  have tears := (teardown_tears bound).tenancy
  rw [stopInterface, if_neg held, tied, if_pos rfl]
  dsimp only
  rw [if_pos tears]
  exact ⟨tears, rfl⟩

end Session

/-- Settles O43: each request runs in its live session, and its own equation gives the rest.  Which stream a LOCK names (log 89) and a stop
that tears down at once in a window of harbourmaster (log 92) are the model's choices. -/
theorem sessionsIdeTdisp : Obligations.SessionsIdeTdisp := by
  unfold Obligations.SessionsIdeTdisp
  intro s sn st set ready apart lives tells v ended'
  have runs (run : State → State) : inSession s sn run = run s := inSession_live ⟨ready, apart⟩ lives run
  have next {run : State → State} : Host.Outcome.next (inSession s sn run) = (.next (run s) : Host.Outcome State Fault Refusal) :=
    congrArg Host.Outcome.next (runs run)
  refine ⟨⟨_, next, rfl, endSession_ends s sn⟩, ⟨_, heartbeatLapse_eq lives false, endSession_ends s sn, rfl⟩,
    ⟨_, heartbeatLapse_eq lives true, countsOne_bump s _, rfl⟩, next, ⟨_, next, rfl, rfl⟩, fun stream => ⟨?_, fun keyed => ?_, fun untied => ?_,
    ?_, fun unlocked secured => ?_, fun refused => ?_⟩, fun locked bound tied => ?_, fun held => ⟨fun untied untorn => ?_, fun tied bound => ?_⟩,
    fun held => ?_⟩
  · refine ⟨answer (setIde s st (putSet v set true)) .ok, next.trans (congrArg Host.Outcome.next (if_pos stream)), rfl, ?_⟩
    rw [ideOf_answer, ideOf_setIde, keyedSet_putSet, keyedSet_putSet_other, putSet_go]
    exact ⟨rfl, rfl, rfl, fun j other => ideOf_setIde_other s st _ other⟩
  · refine ⟨answer (setIde s st { v with go := setNo set }) .ok, next.trans (congrArg Host.Outcome.next (if_pos ?_)), rfl,
      ideOf_setIde s st _, fun j other => ideOf_setIde_other s st _ other⟩
    rw [decide_eq_true stream]
    exact keyed
  · refine ⟨answer (stopSet s st set) .ok, next.trans (congrArg Host.Outcome.next (if_pos stream)), rfl, ?_⟩
    obtain ⟨gone, error⟩ := stopSet_ends untied st set
    rw [ideOf_answer, gone]
    refine ⟨(keyedSet_withGo _ set _).trans (keyedSet_putSet v set false), rfl, error⟩
  · exact next.trans (congrArg Host.Outcome.next (if_pos stream))
  · refine ⟨answer (setTdi { s with sec := { s.sec with tdiStream := st } } .locked) .ok,
      next.trans (congrArg Host.Outcome.next (if_pos ⟨unlocked, stream, secured⟩)), rfl, ?_⟩
    rw [answer_sec, setTdi_sec _ _ (by rw [unlocked]; decide)]
  · refine next.trans (congrArg Host.Outcome.next (if_neg fun ⟨unlocked, _, secured⟩ => ?_))
    rcases refused with other | insecure
    · exact other unlocked
    · rw [insecure] at secured
      exact Bool.noConfusion secured
  · refine ⟨answer (setTdi s .run) .ok, next.trans (congrArg Host.Outcome.next (if_pos ⟨locked, bound, tied⟩)), rfl, ?_⟩
    rw [answer_sec, setTdi_sec _ _ (by rw [locked]; decide)]
  · exact ⟨_, next, rfl, stopInterface_untied untied held untorn⟩
  · exact ⟨_, next, rfl, stopInterface_tied tied held bound⟩
  · exact next.trans (congrArg Host.Outcome.next (if_pos held))

/-! ## Tenant messages (R380–R383) -/

section Messages
variable {s : State} {sn : Nat}

/-- A message of a live session to a device that is not torn down, with its reserved bytes 0. -/
theorem onTenant_live (up : answers s) (lives : live s sn = true) (untorn : s.sec.tenancy ≠ .teardown) (code : Nat) (run : State → State) :
    onTenant s sn code 0 run = run s := by
  rw [onTenant, inSession_live up lives, if_neg untorn, if_neg (by decide)]

theorem asTenant_own (up : answers s) (lives : live s sn = true) (bound : s.sec.tenancy = .bound) (own : s.sec.tsess = some sn) (code : Nat)
    (run : State → State) : asTenant s sn code 0 run = run s := by
  rw [asTenant, onTenant_live up lives (by rw [bound]; decide), if_pos ⟨bound, own⟩]

theorem tenantAnswer_ok (s : State) (code : Nat) (body : List (BitVec 8)) :
    tenantAnswer s code stOk body = emit s (.tenant code stOk s.sec.tEpoch body) := rfl

theorem bindTenant_binds (s : State) (sn : Nat) (id flags : BitVec 32) :
    let u := bindTenant s sn id flags
    u.sec.tenancy = .bound ∧ u.sec.tenantId = id ∧ u.sec.tEpoch = 1 ∧ u.sec.tsess = some sn ∧ u.sec.tdisp = flags.getLsbD 0 ∧
      ctr u (secCtr 0) = ctr s (secCtr 0) + 1 ∧ u.emitted = s.emitted := by
  refine ⟨rfl, rfl, rfl, rfl, rfl, ?_, rfl⟩
  unfold bindTenant
  extract_lets pub sec s1
  have counts : ctr s1 (secCtr 0) = ctr s (secCtr 0) := rfl
  clear_value s1
  rw [ctr_logEvent, if_neg (by decide), ctr_bump_same, counts]

end Messages

/-! ## A write of td_req (R396, R408) -/

section Request
variable {s : State}

theorem levelsMoved_sec (s t : State) : ∃ since view, (levelsMoved s t).sec = { t.sec with openSince := since, mview := view } := by
  rw [levelsMoved]
  split
  · exact ⟨t.sec.openSince, t.sec.mview, rfl⟩
  · exact ⟨_, _, rfl⟩

theorem Tears.levelsMoved {t u : State} (tears : Tears t u) (s : State) : Tears t (levelsMoved s u) := by
  obtain ⟨since, view, sec⟩ := levelsMoved_sec s u
  have frame := levelsMoved_frame s u
  exact ⟨by rw [sec]; exact tears.tenancy, by rw [sec]; exact tears.start, (congrArg State.streams frame :).trans tears.streams,
    (congrArg State.guardOpen frame :).trans tears.guard, (congrArg State.host frame :).trans tears.host,
    (congrArg (fun v : State => v.dbg.ioStopped) frame :).trans tears.io⟩

/-- The guard closes at the write that it lets through. -/
def guardTaken (s : State) : State := { s with guardOpen := false }

theorem applyWord_tdReq (ready : s.clk.ready = true) (opens : s.guardOpen = true) : applyWord s false none (secOff + 0xC) 1 =
    if s.sec.tenancy = .bound then .done (teardownAsked (guardTaken s)) else .ignored (guardTaken s) := by
  have block : (secOff + 0xC) / 0x10000 = 2 ∧ (secOff + 0xC) % 0x10000 = 0xC := by decide
  simp only [applyWord, block, ready, Bool.not_true, Bool.false_and, Bool.false_eq_true, if_false, writeSec, guarded, opens]
  rfl

theorem tdReq_tears (living : alive s = true) (ready : s.clk.ready = true) (opens : s.guardOpen = true) (bound : s.sec.tenancy = .bound)
    (shut : windowOpen s = false) : ∃ u, exec .tdReq s = .next u ∧ Tears (guardTaken s) u := by
  have applied := applyWord_tdReq ready opens
  rw [if_pos bound, teardownAsked_now (s := guardTaken s) shut] at applied
  exact ⟨_, congrArg Host.Outcome.next (hostWord_moved living applied), (teardown_tears (s := guardTaken s) bound).levelsMoved s⟩

theorem tdReq_ignored (living : alive s = true) (ready : s.clk.ready = true) (opens : s.guardOpen = true) (unbound : s.sec.tenancy ≠ .bound) :
    exec .tdReq s = .next (setFlag (guardTaken s) fSecWign) := by
  have applied := applyWord_tdReq ready opens
  rw [if_neg unbound] at applied
  exact congrArg Host.Outcome.next (hostWord_ignored living applied)

end Request

/-! ## Step 5: the keys (R396, R505) -/

section Zeroise
variable {s : State}

theorem zeroise_keys (s : State) : (zeroise s).sec.keys = [] ∧ (zeroise s).sec.tsess = none ∧ (zeroise s).sec.tdStep = 6 ∧
    (zeroise s).sec.tenancy = s.sec.tenancy ∧ sameMemories s (zeroise s) := by
  unfold zeroise
  extract_lets s1 fifo sec dbg
  have sent : s1.sec.tenancy = s.sec.tenancy ∧ sameMemories s s1 := by
    unfold s1
    split
    · exact List.foldlRecOn (motive := fun t : State => t.sec.tenancy = s.sec.tenancy ∧ sameMemories s t) s.dbg.trc _ ⟨rfl, rfl, rfl, rfl⟩
        fun t kept r _ => kept
    · exact ⟨rfl, rfl, rfl, rfl⟩
  clear_value s1
  exact ⟨rfl, rfl, rfl, sent⟩

end Zeroise

/-! ## Steps 6 and 7 (R396–R398) -/

section Scrubbed
variable {s : State}

theorem setTdi_rest (s : State) (t : Tdi) : { setTdi s t with sec := s.sec } = s := by
  rw [setTdi]
  split <;> rfl

/-- All but security, levels, their record, and the interrupt that tells is as it was. -/
def vacantRest (s u : State) : Prop :=
  { u with sec := s.sec, regs := s.regs, rng := s.rng, ret := s.ret, ctrs := s.ctrs, emitted := s.emitted } = s

theorem vacantRest.trans {t u : State} (first : vacantRest s t) (second : vacantRest t u) : vacantRest s u := by
  unfold vacantRest at *
  exact (congrArg (fun v : State => { v with sec := s.sec, regs := s.regs, rng := s.rng, ret := s.ret, ctrs := s.ctrs, emitted := s.emitted })
    second).trans first

theorem vacantRest.of_sec {t : State} (rest : { t with sec := s.sec } = s) : vacantRest s t := by
  unfold vacantRest
  exact congrArg (fun v : State => { v with regs := s.regs, rng := s.rng, ret := s.ret, ctrs := s.ctrs, emitted := s.emitted }) rest

theorem vacantRest.of_levels {t : State} (levels : LevelsFrame s t) : vacantRest s t := by
  unfold vacantRest
  exact congrArg (fun v : State => { v with emitted := s.emitted }) levels.rest

/-- The end of a teardown is told. -/
def vacancyTold (s : State) (us : Nat) : State := logEvent (bump (setIrqFlag s fTdDone) (secCtr 1)) 6 0xFFFF us

theorem vacancyTold_keeps (s : State) (us : Nat) : vacantRest s (vacancyTold s us) ∧ (vacancyTold s us).sec = s.sec ∧
    flagOn (vacancyTold s us) fTdDone = true ∧ ctr (vacancyTold s us) (secCtr 1) = ctr s (secCtr 1) + 1 := by
  refine ⟨rfl, rfl, flagOn_setFlag_same s fTdDone (by decide), ?_⟩
  rw [vacancyTold, ctr_logEvent, if_neg (by decide), ctr_bump_same, setIrqFlag, msix0, ctr_addCtr_other _ _ _ _ (by decide),
    ctr_of_ctrs (emit_ctrs _ _), ctr_setFlag, if_neg (by decide)]

/-- An interface that waited for the end of the teardown unlocks. -/
def tdiUnlocked (s : State) : State := if s.sec.tdiStop then setTdi s .unlocked else s

theorem tdiUnlocked_rest (s : State) : { tdiUnlocked s with sec := s.sec } = s := by
  rw [tdiUnlocked]
  split
  · exact setTdi_rest s _
  · rfl

/-- The device is VACANT from tick `now` on. -/
def madeVacant (s : State) (now : BitVec 64) : State :=
  bumpView { s with sec := { s.sec with
    tenancy := .vacant, tenantId := 0, tEpoch := 0, tdisp := false, dbgTeardown := false, tdStep := 0, tdTick := now, tdiStop := false } }

theorem madeVacant_vacant (s : State) (now : BitVec 64) : { madeVacant s now with sec := s.sec } = s ∧
    (madeVacant s now).sec.tenancy = .vacant ∧ (madeVacant s now).sec.tEpoch = 0 := ⟨rfl, rfl, rfl⟩

/-- Levels that waited for the end of the tenancy open. -/
def dueLevels (s : State) : State := if s.sec.levelsDue = 0 then s else setLevels s (s.sec.levels ||| s.sec.levelsDue)

theorem dueLevels_frame (s : State) : LevelsFrame s (dueLevels s) := by
  rw [dueLevels]
  split
  · exact .refl s
  · exact setLevels_frame s _

/-- No level waits any more. -/
def noneDue (s : State) : State := { s with sec := { s.sec with levelsDue := 0 } }

theorem vacate7_eq (s : State) : vacate7 s =
    noneDue (dueLevels (vacancyTold (madeVacant (tdiUnlocked s) s.tick) ((s.tick - s.sec.tdStart).toNat / 100))) := rfl

/-- The end of a teardown: the device is VACANT and says so. -/
structure Vacates (s u : State) : Prop where
  rest : vacantRest s u
  tenancy : u.sec.tenancy = .vacant
  epoch : u.sec.tEpoch = 0
  done : flagOn u fTdDone = true
  counts : ctr u (secCtr 1) = ctr s (secCtr 1) + 1

theorem Vacates.noneDue {t : State} (h : Vacates s t) : Vacates s (noneDue t) := ⟨h.rest, h.tenancy, h.epoch, h.done, h.counts⟩

theorem vacate7_vacates (s : State) : Vacates s (vacate7 s) := by
  rw [vacate7_eq]
  have unlocked := tdiUnlocked_rest s
  obtain ⟨cleared, tenancy, epoch⟩ := madeVacant_vacant (tdiUnlocked s) s.tick
  generalize madeVacant (tdiUnlocked s) s.tick = v at cleared tenancy epoch ⊢
  have counts : ctr v (secCtr 1) = ctr s (secCtr 1) :=
    (ctr_of_ctrs (congrArg State.ctrs cleared :) _).trans (ctr_of_ctrs (congrArg State.ctrs unlocked :) _)
  obtain ⟨told, sec, flagged, counted⟩ := vacancyTold_keeps v ((s.tick - s.sec.tdStart).toNat / 100)
  generalize vacancyTold v ((s.tick - s.sec.tdStart).toNat / 100) = t at told sec flagged counted ⊢
  have levels := dueLevels_frame t
  obtain ⟨since, view, moved⟩ := levels.sec
  refine Vacates.noneDue ⟨?_, ?_, ?_, (levels.flagOn (by decide) (by decide)).trans flagged, ?_⟩
  · exact (((vacantRest.of_sec unlocked).trans (.of_sec cleared)).trans told).trans (.of_levels levels)
  · rw [moved, sec]
    exact tenancy
  · rw [moved, sec]
    exact epoch
  · rw [levels.counts _ (by decide) (by decide), counted, counts]

/-- A scrub at the end of a teardown leaves nothing of the tenant's. -/
theorem scrub_empties (s : State) : let u := scrub s false
    u.berths = [] ∧ u.mods = [] ∧ u.threads = [] ∧ u.store = [] ∧ (∀ a, reserveAt a = false → memByte u.pm a = 0) ∧
      ctr u (secCtr 1) = ctr s (secCtr 1) := by
  obtain ⟨cs, r, scrubbed, counts⟩ := scrub_eq s false
  rw [scrubbed]
  refine ⟨rfl, rfl, rfl, rfl, fun a apart => ?_, counts _ ?_⟩
  · exact tabGet_filter_dropped 0 s.pm (fun k => reserveAt k || (false && inHeldSlot s k)) (by rw [apart]; rfl)
  · simp only [scrubCounts, secCtr, obsCtr, bthCtr]
    omega

end Scrubbed

/-! ## Records at step 3 (R396, R457) -/

section Records
variable {s : State} {c k : BitVec 10}

/-- The records of a client that waits for nothing else are gone. -/
def recordsGone (s : State) (c : BitVec 10) : State :=
  if (client s c).spill.isEmpty then s else resetNow (addCtr s (secCtr 2) (client s c).spill.length) c

/-- A client is in reset with no record left. -/
def cleared (s : State) (c : BitVec 10) : Prop := (client s c).st = .resetting ∧ (client s c).spill = []

theorem noWaiters_modClient (unwaited : ∀ j, noWaiters s j) (c : BitVec 10) (f : Client → Client) (items : ∀ k, (f k).items = k.items) :
    ∀ j, noWaiters (modClient s c f) j := by
  intro j i listed begun
  refine unwaited j i ?_ begun
  by_cases same : j = c
  · subst same
    rwa [modClient, client_setClient_same, items] at listed
  · rwa [modClient, client_setClient_other s c j _ same] at listed

theorem writable_serves {k : Client} (writes : writable k = true) : k.st ≠ .disabled ∧ k.st ≠ .resetting := by
  rcases of_decide_eq_true writes with st | st | st <;> rw [st] <;> decide

theorem client_resetClient_other (unwaited : ∀ j, noWaiters s j) (other : c ≠ k) : client (resetClient s k) c = client s c := by
  by_cases idle : (client s k).st = .disabled ∨ (client s k).st = .resetting
  · rw [resetClient_idle idle]
  · obtain ⟨on, notYet⟩ := not_or.1 idle
    obtain ⟨-, others, -⟩ := resetClient_client on notYet (unwaited k)
    exact others c other

theorem recordsGone_steps (unwaited : ∀ j, noWaiters s j) (k : BitVec 10) :
    (∀ j, noWaiters (recordsGone s k) j) ∧ (∀ c, c ≠ k → client (recordsGone s k) c = client s c) ∧
      (cleared s k → recordsGone s k = s) ∧ (writable (client s k) = true → (client s k).spill ≠ [] → cleared (recordsGone s k) k) := by
  by_cases none : (client s k).spill = []
  · have still : recordsGone s k = s := if_pos (by rw [none]; rfl)
    rw [still]
    exact ⟨unwaited, fun _ _ => rfl, fun _ => rfl, fun _ some => absurd none some⟩
  · have gone : recordsGone s k = resetNow (addCtr s (secCtr 2) (client s k).spill.length) k := if_neg (by simpa using none)
    rw [gone, resetNow]
    generalize counted : addCtr s (secCtr 2) (client s k).spill.length = t
    have clients (j : BitVec 10) : client t j = client s j := by rw [← counted]; rfl
    have before : ∀ j, noWaiters t j := by rw [← counted]; exact unwaited
    obtain ⟨only, -⟩ := onlyResets_resetClient before k
    refine ⟨noWaiters_modClient only.unwaited k _ fun _ => rfl, fun c other => ?_, fun done => absurd done.2 none, fun writes _ => ?_⟩
    · rw [modClient, client_setClient_other _ _ _ _ other, ← clients]
      exact client_resetClient_other before other
    · have serving : (client t k).st ≠ .disabled ∧ (client t k).st ≠ .resetting := by
        rw [clients]
        exact writable_serves writes
      obtain ⟨own, -⟩ := resetClient_client serving.1 serving.2 (before k)
      rw [cleared, modClient, client_setClient_same, own]
      exact ⟨rfl, rfl⟩

/-- A client with records at the time limit ends in reset with none, whatever else the list of clients holds. -/
theorem recordsGone_fold (c : BitVec 10) (l : List (Nat × Client)) (s : State) (unwaited : ∀ j, noWaiters s j) :
    let u := l.foldl (fun s e => recordsGone s (BitVec.ofNat 10 e.1)) s
    (cleared s c → cleared u c) ∧
      (writable (client s c) = true → (client s c).spill ≠ [] → (∃ e ∈ l, BitVec.ofNat 10 e.1 = c) → cleared u c) := by
  induction l generalizing s with
  | nil => exact ⟨id, fun _ _ ⟨_, listed, _⟩ => absurd listed List.not_mem_nil⟩
  | cons e l ih =>
    obtain ⟨later, others, still, own⟩ := recordsGone_steps unwaited (BitVec.ofNat 10 e.1)
    obtain ⟨done, resets⟩ := ih (recordsGone s (BitVec.ofNat 10 e.1)) later
    rw [List.foldl_cons]
    by_cases here : c = BitVec.ofNat 10 e.1
    · rw [← here] at still own done ⊢
      exact ⟨fun ended => done (by rw [still ended]; exact ended), fun writes some _ => done (own writes some)⟩
    · have same := others c here
      refine ⟨fun ended => done (by rw [cleared, same]; exact ended), fun writes some ⟨x, listed, names⟩ => ?_⟩
      refine resets (by rw [same]; exact writes) (by rw [same]; exact some) ⟨x, (List.mem_cons.1 listed).resolve_left ?_, names⟩
      exact fun first => here (by rw [← names, first])

end Records

/-- Settles O44: a bind, a resume and a release are each one answer; a teardown ends in `vacate7_vacates` after a scrub that leaves
nothing.  A guarded write that is ignored closes the guard (log 106), and the run-ahead streams end when a teardown starts (log 79): both are
the model's choices. -/
theorem tenancyLife : Obligations.TenancyLife := by
  unfold Obligations.TenancyLife
  intro s sn id flags up torn
  refine ⟨fun ⟨ready, apart, lives⟩ untorn => ?_, fun living ready opens => ⟨fun bound shut => ?_, fun unbound => ?_⟩, fun step idle => ?_,
    fun busy => ?_, fun teardown kept => ⟨fun step => ?_, fun step => ?_, ?_, fun unwaited => ?_⟩⟩
  · have runs (code : Nat) (run : State → State) : onTenant s sn code 0 run = run s := onTenant_live ⟨ready, apart⟩ lives untorn code run
    refine ⟨fun may found => ?_, fun mayNot => ?_, fun may => ?_, fun bound own => ?_⟩
    · obtain ⟨tenancy, tenant, epoch, session, tdisp, counted, sent⟩ := bindTenant_binds s sn id flags
      refine ⟨tenantAnswer (bindTenant s sn id flags) 1 stOk [], congrArg Host.Outcome.next ((runs 1 _).trans (if_pos (by rw [may, found]; rfl))),
        tenancy, tenant, epoch, session, tdisp, counted, ?_⟩
      rw [tenantAnswer_ok, emit_emitted, epoch, sent]
    · exact ⟨tenantAnswer s 1 stBadDesc [], congrArg Host.Outcome.next ((runs 1 _).trans (if_neg (by rw [mayNot, Bool.false_and]; decide))), rfl,
        countsOne_bump s _, rfl⟩
    · exact ⟨_, congrArg Host.Outcome.next ((runs 2 _).trans (if_pos may)), rfl, rfl, rfl⟩
    · have released : exec (.tenantRelease sn 0) s = .next (tenantAnswer (teardownAsked s) 3 stOk []) :=
        congrArg Host.Outcome.next (asTenant_own ⟨ready, apart⟩ lives bound own 3 _)
      refine ⟨fun shut => ⟨_, released, ?_⟩, fun opened => ⟨_, released, ?_⟩⟩
      · rw [teardownAsked_now shut]
        obtain ⟨tenancy, start, streams⟩ := teardown_tears bound
        exact ⟨tenancy, start, streams⟩
      · rw [teardownAsked_held bound opened]
        rfl
  · obtain ⟨u, run, tears⟩ := tdReq_tears living ready opens bound shut
    exact ⟨u, run, ⟨tears.tenancy, tears.start, tears.streams⟩, tears.guard⟩
  · exact ⟨_, tdReq_ignored living ready opens unbound, rfl, rfl, flagOn_setFlag_same _ _ (by decide)⟩
  · exact ⟨zeroise s, congrArg Host.Outcome.next (if_pos ⟨step, idle⟩), zeroise_keys s⟩
  · refine congrArg Host.Outcome.next (if_neg fun ⟨step, idle⟩ => ?_)
    rcases busy with other | busy
    · exact other step
    · rw [busy] at idle
      exact Bool.noConfusion idle
  · obtain ⟨berths, mods, threads, store, pm, counts⟩ := scrub_empties s
    refine ⟨vacate7 (scrub s false), congrArg Host.Outcome.next (if_pos ⟨teardown, step, by rw [kept]; rfl⟩), ?_⟩
    generalize scrub s false = t at berths mods threads store pm counts ⊢
    have vacates := vacate7_vacates t
    have rest := vacates.rest
    unfold vacantRest at rest
    have memory : (vacate7 t).pm = t.pm := (congrArg State.pm rest :)
    exact ⟨vacates.tenancy, vacates.epoch, (congrArg State.berths rest :).trans berths, (congrArg State.mods rest :).trans mods,
      (congrArg State.threads rest :).trans threads, (congrArg State.store rest :).trans store, by rw [memory]; exact pm, vacates.done,
      vacates.counts.trans (by rw [counts])⟩
  · exact congrArg Host.Outcome.next (if_neg fun ⟨_, now, _⟩ => step now)
  · refine ⟨bump s (obsCtr 9), congrArg Host.Outcome.next ?_, countsOne_bump s _, rfl⟩
    rw [recordsDropped, if_neg (by simp [teardown, kept]), if_pos rfl]
  · have dropped : recordsDropped s false = s.clients.foldl (fun s e => recordsGone s (BitVec.ofNat 10 e.1)) s := by
      rw [recordsDropped, if_neg (by simp [teardown, kept])]
      rfl
    refine ⟨_, congrArg Host.Outcome.next dropped, fun c writes some => (recordsGone_fold c s.clients s unwaited).2 writes some ?_⟩
    exact ⟨_, client_listed_of_on (writable_serves writes).1, by simp⟩

/-! ## The tenant's keys (R380, R382, R391, R392) -/

section Keys
variable {s t u : State} {sn : Nat} {id : BitVec 32} {ep : BitVec 8} {key : BitVec 256}

theorem keyPut_state (fresh : (keysOf s 1).any (fun k => decide (k.epoch = s.sec.tEpoch)) = false) (room : (keysOf s 1).length < 2) :
    keyPut s 1 id ep key = .inr (addKey s ⟨1, id, s.sec.tEpoch, key⟩) := by
  simp only [keyPut, fresh, Bool.false_eq_true, if_false, if_neg (Nat.not_le.2 room)]

/-- The keys but the bundle key of number `id` at the present epoch. -/
def otherBundles (s : State) (id : BitVec 32) : List TKey :=
  s.sec.keys.filter (fun k => !decide (k.kind = 2 ∧ k.id = id ∧ k.epoch = s.sec.tEpoch))

theorem keyPut_bundle (room : ((otherBundles s id).filter (fun k => decide (k.kind = 2))).length < 4096) :
    keyPut s 2 id ep key = .inr (addKey { s with sec := { s.sec with keys := otherBundles s id } } ⟨2, id, s.sec.tEpoch, key⟩) :=
  if_neg (Nat.not_le.2 room)

theorem keyPut_job (small : id.toNat < 2 ^ 16) (fresh : (jobKeys s id.toNat).any (fun k => decide (k.epoch = ep.setWidth 32)) = false)
    (room : (jobKeys s id.toNat).length < 2) (space : jobKeys s id.toNat ≠ [] ∨ (liveJobs s).length < 1024) :
    keyPut s 3 id ep key = .inr (addKey s ⟨3, id, ep.setWidth 32, key⟩) := by
  have fits : ¬((jobKeys s id.toNat).isEmpty = true ∧ 1024 ≤ (liveJobs s).length) := by
    rintro ⟨none, full⟩
    rcases space with some | free
    · exact some (List.isEmpty_iff.1 none)
    · omega
  simp only [keyPut, fresh, Bool.false_eq_true, or_false, if_neg (Nat.not_le.2 small), if_neg fits]
  match held : jobKeys s id.toNat with
  | [] => rfl
  | [_] => rfl
  | a :: b :: rest => simp [held] at room

/-- A key that is put joins the others, counts, and is answered. -/
theorem keyPut_adds (up : answers s) (lives : live s sn = true) (bound : s.sec.tenancy = .bound) (own : s.sec.tsess = some sn)
    {kind : BitVec 8} {old : List TKey} {k : TKey}
    (puts : keyPut s kind.toNat id ep key = .inr (addKey { s with sec := { s.sec with keys := old } } k)) :
    ∃ u, exec (.keyPut sn 0 kind id ep key) s = .next u ∧ u.sec = { s.sec with keys := old ++ [k] } ∧ countsOne s u (secCtr 7) ∧
      u.emitted = .tenant 4 stOk s.sec.tEpoch [] :: s.emitted := by
  refine ⟨tenantAnswer (bump (addKey { s with sec := { s.sec with keys := old } } k) (secCtr 7)) 4 stOk [], ?_, rfl,
    countsOne_bump (addKey { s with sec := { s.sec with keys := old } } k) _, rfl⟩
  refine congrArg Host.Outcome.next ((asTenant_own up lives bound own 4 _).trans ?_)
  rw [puts]

/-! ### KEY_ROLL (R382) -/

/-- Security stays, and the counters that no item, interrupt or load counts in. -/
structure LoadsEnd (s u : State) : Prop where
  sec : u.sec = s.sec
  counts : ∀ k, k < 0xA00 → k ∉ [hifCtr 1, hifCtr 2, hifCtr 19, memCtr 3, bthCtr 18] → ctr u k = ctr s k

namespace LoadsEnd

theorem refl (s : State) : LoadsEnd s s := ⟨rfl, fun _ _ _ => rfl⟩
theorem trans (first : LoadsEnd s t) (second : LoadsEnd t u) : LoadsEnd s u :=
  ⟨second.sec.trans first.sec, fun k low apart => (second.counts k low apart).trans (first.counts k low apart)⟩
theorem of_ctrs (sec : u.sec = s.sec) (ctrs : u.ctrs = s.ctrs) : LoadsEnd s u := ⟨sec, fun k _ _ => ctr_of_ctrs ctrs k⟩
theorem foldl {β : Type} {f : State → β → State} (each : ∀ s b, LoadsEnd s (f s b)) (l : List β) (s : State) : LoadsEnd s (l.foldl f s) :=
  List.foldlRecOn (motive := LoadsEnd s) l f (refl s) fun t kept b _ => kept.trans (each t b)
theorem of_answered {c : BitVec 10} (h : Answered s u c) : LoadsEnd s u :=
  ⟨h.sec, fun k low apart => h.counts k low fun listed => apart (List.mem_append_left [bthCtr 18] listed)⟩

theorem clearRecords (s : State) (slot : BitVec 8) (c : Copy) : LoadsEnd s (clearRecords s slot c) :=
  List.foldlRecOn (motive := LoadsEnd s) _ _ (refl s) fun _ kept _ _ => kept.trans (of_ctrs rfl rfl)

theorem endLoad (s : State) (slot : BitVec 8) (status : Nat) : LoadsEnd s (endLoad s slot status) := by
  unfold Machine.endLoad
  extract_lets m s1 s2 s3
  have copies : LoadsEnd s s1 :=
    foldl (β := Copy) (f := fun s c => storePut (Machine.clearRecords s slot c) c.lclu.toNat c.mw.base (List.replicate c.mw.len 0))
      (fun s c => (clearRecords s slot c).trans (of_ctrs rfl rfl)) _ s
  have images : LoadsEnd s1 s2 :=
    List.foldlRecOn (motive := LoadsEnd s1) _ _ (refl s1) fun _ kept _ _ => kept.trans (of_ctrs rfl rfl)
  have freed : LoadsEnd s2 s3 :=
    ⟨rfl, fun k _ apart => ctr_bump_other (setModule s2 slot {}) _ k fun same => apart (by simp [same])⟩
  clear_value s3 s2 s1
  have ended := (copies.trans images).trans freed
  split
  · exact ended.trans (of_answered (.completeItem s3 ..))
  · exact ended

end LoadsEnd

/-- The keys that a roll to epoch `now` leaves. -/
def rolledKeys (s : State) (now : BitVec 32) : List TKey :=
  s.sec.keys.filter (fun k => !decide (k.kind ≠ 3 ∧ k.epoch.toNat + 2 ≤ now.toNat))

theorem keyRoll_rolls (s : State) : (keyRoll s).sec = { s.sec with tEpoch := s.sec.tEpoch + 1, keys := rolledKeys s (s.sec.tEpoch + 1) } ∧
    ctr (keyRoll s) (secCtr 8) = ctr s (secCtr 8) + 1 := by
  unfold keyRoll
  extract_lets now old sec s1 cut
  have ends : LoadsEnd s1 (cut.foldl (fun s e => endLoad s (BitVec.ofNat 8 e.1) stKeyEpoch) s1) := .foldl (fun s e => .endLoad s _ _) cut s1
  have rolled : s1.sec = { s.sec with tEpoch := s.sec.tEpoch + 1, keys := rolledKeys s (s.sec.tEpoch + 1) } := rfl
  have counts : ctr s1 (secCtr 8) = ctr s (secCtr 8) := rfl
  clear_value cut s1
  exact ⟨(bump_sec _ _).trans (ends.sec.trans rolled),
    (ctr_bump_same _ _).trans (congrArg (· + 1) ((ends.counts _ (by decide) (by decide)).trans counts))⟩

/-! ### KEY_RETIRE (R391) -/

theorem faultRoute_kept (s : State) (rt cause : Nat) : keptMemories s (faultRoute s rt cause) := by
  unfold faultRoute
  extract_lets r s1 e
  have marked : keptMemories s s1 := keptMemories_of_same rfl rfl rfl
  split
  · exact keptMemories_refl
  · split
    · exact marked
    · exact keptMemories_trans marked (BerthFrame.drainBerth s1 _ _).memories

theorem faultRoutes_kept (s : State) (p : Route → Bool) (cause : Nat) : keptMemories s (faultRoutes s p cause) :=
  List.foldlRecOn (motive := keptMemories s) _ _ keptMemories_refl fun t kept e _ => by
    split
    · exact keptMemories_trans kept (faultRoute_kept t _ _)
    · exact kept

/-- The keys but that of one epoch of a job. -/
def retiredKeys (s : State) (job : Nat) (epoch : BitVec 32) : List TKey :=
  s.sec.keys.filter (fun k => !decide (k.kind = 3 ∧ k.id.toNat = job ∧ k.epoch = epoch))

theorem retireEpoch_retires (s : State) (job : Nat) (epoch : BitVec 32) :
    (retireEpoch s job epoch).sec.keys = retiredKeys s job epoch ∧ keptMemories s (retireEpoch s job epoch) := by
  unfold retireEpoch
  extract_lets current gone sec s1
  have retired : s1.sec.keys = retiredKeys s job epoch := rfl
  have kept : keptMemories s s1 := keptMemories_of_same rfl rfl rfl
  clear_value s1
  split
  · exact ⟨(congrArg Sec.keys (Outside.faultRoutes s1 _ _).sec).trans retired, keptMemories_trans kept (faultRoutes_kept s1 _ _)⟩
  · exact ⟨retired, kept⟩

/-- A key is found among those that a retirement leaves exactly where it is not the one that goes. -/
theorem jobKey_retired {job : Nat} {epoch : BitVec 32} (retired : u.sec.keys = retiredKeys s job epoch) :
    jobKey u job epoch.toNat = none ∧ ∀ j e, j ≠ job ∨ e ≠ epoch.toNat → jobKey u j e = jobKey s j e := by
  refine ⟨?_, fun j e other => ?_⟩
  · rw [jobKey, List.find?_eq_none]
    intro k listed
    rw [jobKeys, retired, retiredKeys, List.filter_filter, List.mem_filter] at listed
    obtain ⟨-, stays⟩ := listed
    simp only [Bool.and_eq_true, decide_eq_true_eq, Bool.not_eq_true', decide_eq_false_iff_not] at stays
    obtain ⟨⟨kind, named⟩, apart⟩ := stays
    rw [decide_eq_true_eq]
    exact fun same => apart ⟨kind, named, BitVec.eq_of_toNat_eq same⟩
  · rw [jobKey, jobKey, jobKeys, jobKeys, retired, retiredKeys, List.filter_filter, List.find?_filter, List.find?_filter]
    refine congrArg (List.find? · s.sec.keys) (funext fun k => ?_)
    have stays (named : k.id.toNat = j) (at_ : k.epoch.toNat = e) : ¬(k.kind = 3 ∧ k.id.toNat = job ∧ k.epoch = epoch) := by
      rintro ⟨-, same, gone⟩
      exact other.elim (fun other => other (named.symm.trans same)) fun other => other (by rw [← at_, gone])
    rw [Bool.eq_iff_iff]
    simp only [Bool.and_eq_true, Bool.not_eq_true', decide_eq_true_eq, decide_eq_false_iff_not]
    exact ⟨fun ⟨⟨⟨kind, named⟩, _⟩, at_⟩ => ⟨⟨kind, named⟩, at_⟩, fun ⟨⟨kind, named⟩, at_⟩ => ⟨⟨⟨kind, named⟩, stays named at_⟩, at_⟩⟩

end Keys

/-- Settles O45: each key that is put is added by `keyPut_adds`, and a roll and a retirement filter the keys.  A bundle key in place of the
one that it replaces (log 86) and the body of KEY_STATUS (log 87) are the model's choices. -/
theorem tenantKeys : Obligations.TenantKeys := by
  unfold Obligations.TenantKeys
  intro s sn id ep key job ready apart lives bound own now adds slots others
  have up : answers s := ⟨ready, apart⟩
  refine ⟨fun fresh room => ?_, fun room => ?_, fun small fresh room space => ?_, ⟨_, congrArg Host.Outcome.next (asTenant_own up lives bound own 5 _), ?_⟩,
    fun held => ?_, congrArg Host.Outcome.next (asTenant_own up lives bound own 7 _)⟩
  · exact keyPut_adds up lives bound own (keyPut_state fresh room)
  · exact keyPut_adds up lives bound own (keyPut_bundle room)
  · exact keyPut_adds up lives bound own (keyPut_job small fresh room space)
  · obtain ⟨sec, counted⟩ := keyRoll_rolls s
    exact ⟨congrArg Sec.tEpoch sec, counted, congrArg Sec.keys sec⟩
  · obtain ⟨retired, kept⟩ := retireEpoch_retires s job.toNat (ep.setWidth 32)
    have number : (ep.setWidth 32).toNat = ep.toNat := by
      rw [BitVec.toNat_setWidth]
      exact Nat.mod_eq_of_lt (by omega)
    obtain ⟨gone, stay⟩ := jobKey_retired (u := tenantAnswer (retireEpoch s job.toNat (ep.setWidth 32)) 6 stOk []) retired
    rw [number] at gone stay
    exact ⟨_, congrArg Host.Outcome.next ((asTenant_own up lives bound own 6 _).trans (if_pos held)), gone, stay, kept⟩

end Sys2Proof.Machine
end

section
/-! The family of Cewieb (R401–R407, R439, R442, R495). -/

namespace Sys2Proof.Machine
open Sys2Proof

/-! ## An operation is held, counted, or answered STALE_VIEW (R402, R404, R441) -/

section Operation
variable {s : State} {i : Instr}

theorem onCewieb_free (serves : cwServes s = true) (free : s.fw.wd.phase ≠ .window) (i : Instr) (run : State → State) :
    onCewieb s i run = run (bump s (secCtr 12)) := by
  rw [onCewieb, serves, if_neg (by decide), if_neg free]

theorem onCewieb_held (serves : cwServes s = true) (window : s.fw.wd.phase = .window) (i : Instr) (run : State → State) :
    onCewieb s i run = { s with sec := { s.sec with cwHeld := s.sec.cwHeld ++ [i] } } := by
  rw [onCewieb, serves, if_neg (by decide), if_pos window]

theorem onCewieb_out (out : cwServes s = false) (i : Instr) (run : State → State) : onCewieb s i run = s := if_pos (by rw [out]; rfl)

/-- An operation with the present view runs. -/
theorem onCewieb_now (serves : cwServes s = true) (free : s.fw.wd.phase ≠ .window) (i : Instr) (op : Nat) (run : State → State) :
    onCewieb s i (fun t => onView t op s.sec.mview run) = run (bump s (secCtr 12)) := by
  rw [onCewieb_free serves free, onView]
  exact if_pos rfl

/-- The answer to an operation with another view than the present one. -/
def staleAnswer (s : State) (op : Nat) : State := cwAnswer (bump (bump s (secCtr 12)) (secCtr 13)) op stStaleView []

theorem onCewieb_stale (serves : cwServes s = true) (free : s.fw.wd.phase ≠ .window) {v : BitVec 64} (stale : v ≠ s.sec.mview) (i : Instr)
    (op : Nat) (run : State → State) : onCewieb s i (fun s => onView s op v run) = staleAnswer s op := by
  rw [onCewieb_free serves free, onView]
  exact if_neg stale

theorem staleAnswer_answers (s : State) (op : Nat) : (staleAnswer s op).emitted = .cewieb op stStaleView s.sec.mview [] :: s.emitted ∧
    ctr (staleAnswer s op) (secCtr 12) = ctr s (secCtr 12) + 1 ∧ ctr (staleAnswer s op) (secCtr 13) = ctr s (secCtr 13) + 1 ∧
    { staleAnswer s op with ctrs := s.ctrs, emitted := s.emitted } = s := by
  refine ⟨?_, ?_, ?_, ?_⟩
  · rw [staleAnswer, cwAnswer, emit_emitted, bump_emitted, bump_emitted, bump_sec, bump_sec]
  · rw [staleAnswer, cwAnswer, ctr_of_ctrs (emit_ctrs _ _), ctr_bump_other _ _ _ (by decide), ctr_bump_same]
  · rw [staleAnswer, cwAnswer, ctr_of_ctrs (emit_ctrs _ _), ctr_bump_same, ctr_bump_other _ _ _ (by decide)]
  · simp only [staleAnswer, cwAnswer, emit, bump, addCtr]

end Operation

/-! ## A client's weight (R250, R403) -/

section Weight
variable {s : State}

theorem policyFields_weight (c : BitVec 10) : (policyFields (bthOff + 0x1000 + 4 * c.toNat)).contains (15, 0) = true := by
  have low := c.isLt
  have block : (bthOff + 0x1000 + 4 * c.toNat) / 0x10000 = 4 ∧ (bthOff + 0x1000 + 4 * c.toNat) % 0x10000 = 0x1000 + 4 * c.toNat := by
    simp only [bthOff]
    omega
  have place : 4096 + 4 * c.toNat = 0x24 ∨ (4096 ≤ 4096 + 4 * c.toNat ∧ 4096 + 4 * c.toNat < 0x2000 ∧ (4096 + 4 * c.toNat) % 4 = 0) :=
    .inr (by omega)
  simp only [policyFields, block]
  rw [if_neg (by omega), if_neg (by omega), if_neg (by omega), if_pos place]
  rfl

/-- A write of the weight of client `c`, as Cewieb makes it. -/
def weightStored (s : State) (c : BitVec 10) (v : Nat) : State := bumpView (putNat s (bthOff + 0x1000 + 4 * c.toNat) (Nat.max 1 v))

theorem applyWord_weight (ready : s.clk.ready = true) (c : BitVec 10) (w : BitVec 32) :
    applyWord s true none (bthOff + 0x1000 + 4 * c.toNat) w = .done (weightStored s c (bitsOf w.toNat 15 0)) := by
  have low := c.isLt
  have block : (bthOff + 0x1000 + 4 * c.toNat) / 0x10000 = 4 ∧ (bthOff + 0x1000 + 4 * c.toNat) % 0x10000 = 0x1000 + 4 * c.toNat := by
    simp only [bthOff]
    omega
  simp only [applyWord, block, ready, Bool.not_true, Bool.false_and, Bool.false_eq_true, if_false]
  unfold writeBth
  rw [if_neg (by omega), if_neg (by omega), if_neg (by omega), if_neg (by omega), if_neg (by omega), if_neg (by omega), if_neg (by omega),
    if_neg (by omega), if_pos (by omega)]
  simp only [policyWrite, lockHolds, Bool.not_true, Bool.and_false, Bool.false_eq_true, if_false, weightStored, Nat.add_assoc]

theorem fieldWord_weight (s : State) (c : BitVec 10) (val : BitVec 64) :
    bitsOf (fieldWord s (bthOff + 0x1000 + 4 * c.toNat) 15 0 val).toNat 15 0 = bitsOf val.toNat 15 0 := by
  have other : ¬ bthOff + 0x1000 + 4 * c.toNat = rngOff := by
    have low := c.isLt
    simp only [bthOff, rngOff]
    omega
  simp only [fieldWord, if_neg other]
  rw [BitVec.toNat_ofNat, Nat.mod_eq_of_lt (putBits_lt (by decide) (by decide) (BitVec.isLt _)), bitsOf_putBits_same (by decide)]
  simp [bitsOf]

theorem levelsNow_weightStored (s : State) (c : BitVec 10) (v : Nat) : levelsNow (weightStored s c v) = levelsNow s := by
  refine levelsNow_congr rfl fun o level => regWord_putNat_other s _ _ ?_
  have low := c.isLt
  simp only [levelReg, bthOff, rngOff, dbgOff, cluOff] at level ⊢
  omega

theorem writeField_weight (ready : s.clk.ready = true) (c : BitVec 10) (val : BitVec 64) :
    writeField s (bthOff + 0x1000 + 4 * c.toNat) 15 0 val = some (weightStored s c (bitsOf val.toNat 15 0)) := by
  have low := c.isLt
  have elsewhere : ¬(0x80100 ≤ bthOff + 0x1000 + 4 * c.toNat ∧ bthOff + 0x1000 + 4 * c.toNat < 0x80F00) := by
    simp only [bthOff]
    omega
  rw [writeField, policyFields_weight, if_neg (by decide), if_neg elsewhere, applyWord_weight ready, fieldWord_weight]
  exact congrArg some (if_pos (levelsNow_weightStored s c _))

theorem weight_weightStored (s : State) (c : BitVec 10) (v : Nat) (bound : v < 2 ^ 16) :
    regField (weightStored s c v) (bthOff + 0x1000 + 4 * c.toNat) 15 0 = Nat.max 1 v ∧
      ∀ j : BitVec 10, j ≠ c → regField (weightStored s c v) (bthOff + 0x1000 + 4 * j.toNat) 15 0 =
        regField s (bthOff + 0x1000 + 4 * j.toNat) 15 0 := by
  have small : Nat.max 1 v < 2 ^ 16 := Nat.max_lt.2 ⟨by decide, bound⟩
  refine ⟨?_, fun j other => ?_⟩
  · rw [weightStored, regField_of_regs (bumpView_regs _), regField_putNat_same (by omega), bitsOf, Nat.pow_zero, Nat.div_one]
    exact Nat.mod_eq_of_lt small
  · rw [weightStored, regField_of_regs (bumpView_regs _), regField_putNat_other]
    exact fun same => other (BitVec.eq_of_toNat_eq (by omega))

end Weight

/-! ## Answers (R402) -/

section Answers
variable {s t : State} {op status : Nat} {view : BitVec 64} {body : List (BitVec 8)}

/-- An operation is answered, and counts. -/
def cwAnswers (s u : State) (op status : Nat) (view : BitVec 64) (body : List (BitVec 8)) : Prop :=
  u.emitted = .cewieb op status view body :: s.emitted ∧ ctr u (secCtr 12) = ctr s (secCtr 12) + 1

theorem cwAnswer_answers (sent : t.emitted = s.emitted) (counts : ctr t (secCtr 12) = ctr s (secCtr 12) + 1) (seen : t.sec.mview = view)
    (op status : Nat) (body : List (BitVec 8)) : cwAnswers s (cwAnswer t op status body) op status view body := by
  refine ⟨?_, (ctr_of_ctrs (emit_ctrs _ _) _).trans counts⟩
  rw [cwAnswer, emit_emitted, sent, seen]

theorem unitAction_outOfService {n : Nat} (unit : n < 18) (waits : cluState s n = .quarantined) (k : Nat) :
    unitAction s 3 n k = cwAnswer (mapDue s (.cluster n .outOfService)) 3 stOk [] := by
  have asked : calRequest s 3 n k = some (mapDue s (.cluster n .outOfService)) := by
    simp only [calRequest, if_neg (show ¬17 < n by omega), if_pos waits]
  rw [unitAction, if_neg (by decide), asked]

theorem unitAction_spareless {n : Nat} (none : spareClu s (dieOf n) = none) (k : Nat) :
    unitAction s 2 n k = cwAnswer (setFlag s fReqRefused) 3 stBadDesc [] := by
  have refused : calRequest s 2 n k = Option.none := by simp [calRequest, none]
  rw [unitAction, if_neg (by decide), refused]

/-- The lock as it is set, which the view counts where it moves. -/
def lockSet (s : State) (on : Bool) : State :=
  if s.sec.polLock = on then { s with sec := { s.sec with polLock := on } } else bumpView { s with sec := { s.sec with polLock := on } }

theorem lockSet_sec (s : State) (on : Bool) : { lockSet s on with sec := s.sec } = s ∧ (lockSet s on).sec.polLock = on ∧
    (lockSet s on).sec.mview = if s.sec.polLock = on then s.sec.mview else s.sec.mview + 1 := by
  rw [lockSet]
  split
  · exact ⟨rfl, rfl, rfl⟩
  · exact ⟨rfl, rfl, rfl⟩

theorem setPolicyLock_eq (s : State) (on : Bool) : setPolicyLock s on = cwAnswer (lockSet s on) 4 stOk [] := rfl

theorem cwReport_eq (s : State) (nonce : BitVec 256) : cwReport s nonce =
    if windowOpen s then holdReport s { path := 2, nonce := nonce }
    else cwAnswer (signReport s false nonce).1 6 stOk (reportBytes s false nonce) := rfl

end Answers

section Requests
variable {s : State} {v val : BitVec 64} {nonce : BitVec 256} {on : Bool}

/-- The state in which an operation runs: it has counted. -/
def counted (s : State) : State := bump s (secCtr 12)

theorem counted_emitted (s : State) : (counted s).emitted = s.emitted := rfl
theorem counted_fw (s : State) : (counted s).fw = s.fw := rfl
theorem ctr_counted (s : State) : ctr (counted s) (secCtr 12) = ctr s (secCtr 12) + 1 := ctr_bump_same s _

theorem ready_of_serves (serves : cwServes s = true) : s.clk.ready = true := by
  rw [cwServes, Bool.and_eq_true, Bool.and_eq_true] at serves
  exact serves.1.2

theorem readObj_cluster (serves : cwServes s = true) (free : s.fw.wd.phase ≠ .window) {n : Nat} (unit : n < 18) (k : Nat) :
    exec (.readObj (.unit 0 n k)) s = .next (cwAnswer (counted s) 1 stOk (natLe (stateCode (cluState s n)) 8)) := by
  refine congrArg Host.Outcome.next ((onCewieb_free serves free _ _).trans ?_)
  have value : readObject (bump s (secCtr 12)) (.unit 0 n k) = some (stateCode (cluState s n)) := if_pos unit
  rw [readObj, value]
  rfl

theorem writeObj_weight (serves : cwServes s = true) (free : s.fw.wd.phase ≠ .window) (c : BitVec 10) (val : BitVec 64) :
    exec (.writeObj s.sec.mview (.field (bthOff + 0x1000 + 4 * c.toNat) 15 0) val) s =
      .next (cwAnswer (weightStored (counted s) c (bitsOf val.toNat 15 0)) 2 stOk []) := by
  refine congrArg Host.Outcome.next ((onCewieb_now serves free _ 2 _).trans ?_)
  have ready : (bump s (secCtr 12)).clk.ready = true := ready_of_serves serves
  rw [writeObj, writeField_weight ready]
  rfl

theorem report_runs (serves : cwServes s = true) (nonce : BitVec 256) : exec (.report nonce) s = .next (cwReport (counted s) nonce) :=
  congrArg Host.Outcome.next (if_pos serves)

/-- Every operation that names the view is answered STALE_VIEW with another one. -/
theorem stale_answered (serves : cwServes s = true) (free : s.fw.wd.phase ≠ .window) (stale : v ≠ s.sec.mview) (o : CwObject) (val : BitVec 64)
    (on : Bool) : ∀ i ∈ [Instr.writeObj v o val, .unitAction v 1 0 0, .policyLock v on, .debugLevels v on 1, .bindPolicy v on on,
      .stageChunk v 1 0 [], .commitImage v 1, .cancelImage v 1, .raiseFloor v 1], ∃ op, exec i s = .next (staleAnswer s op) := by
  have answered (i : Instr) (op : Nat) (run : State → State) :
      Host.Outcome.next (onCewieb s i (fun s => onView s op v run)) = (.next (staleAnswer s op) : Host.Outcome State Fault Refusal) :=
    congrArg Host.Outcome.next (onCewieb_stale serves free stale i op run)
  intro i among
  simp only [List.mem_cons, List.not_mem_nil, or_false] at among
  rcases among with rfl | rfl | rfl | rfl | rfl | rfl | rfl | rfl | rfl
  · exact ⟨2, answered _ 2 _⟩
  · exact ⟨3, answered _ 3 _⟩
  · exact ⟨4, answered _ 4 _⟩
  · exact ⟨7, answered _ 7 _⟩
  · exact ⟨8, answered _ 8 _⟩
  · exact ⟨0xA, answered _ 0xA _⟩
  · exact ⟨0xA, answered _ 0xA _⟩
  · exact ⟨0xA, answered _ 0xA _⟩
  · exact ⟨0xA, answered _ 0xA _⟩

/-- The operations that wait for the end of a window of the warden are run through `onCewieb`. -/
theorem exec_onCewieb (s : State) (v : BitVec 64) (o : CwObject) (val : BitVec 64) (on : Bool) :
    ∀ i ∈ [Instr.readObj o, .writeObj v o val, .unitAction v 1 0 0, .policyLock v on, .evict], ∃ run, exec i s = .next (onCewieb s i run) := by
  intro i among
  simp only [List.mem_cons, List.not_mem_nil, or_false] at among
  rcases among with rfl | rfl | rfl | rfl | rfl
  · exact ⟨_, rfl⟩
  · exact ⟨_, rfl⟩
  · exact ⟨_, rfl⟩
  · exact ⟨_, rfl⟩
  · exact ⟨_, rfl⟩

theorem teardownAsked_unbound (unbound : s.sec.tenancy ≠ .bound) : teardownAsked s = s := by
  rw [teardownAsked, if_neg fun ⟨bound, _⟩ => unbound bound, teardown, if_neg unbound]

end Requests

/-- Settles O46: an operation that runs is one answer after its work.  BAD_DESCRIPTOR for a refused UNIT_ACTION (log 119), the eight bytes of
an answer (log 118) and a cluster as what an action names (log 69) are the model's choices. -/
theorem cewiebRequests : Obligations.CewiebRequests := by
  unfold Obligations.CewiebRequests
  intro s v val nonce on now free o weight answers
  refine ⟨fun serves free => ⟨fun n t unit => ?_, fun c => ?_, fun stale i among => ?_, fun n t unit waits => ?_, fun n t unit active spareless => ?_,
    ?_, fun bound shut => ?_, fun unbound => ?_⟩, fun serves => ⟨fun shut => ?_, fun opened => ?_, fun window i among => ?_⟩, fun out i among => ?_⟩
  · refine ⟨_, readObj_cluster serves free unit t, cwAnswer_answers (s := s) (counted_emitted s) (ctr_counted s) rfl _ _ _, ?_⟩
    simp only [cwAnswer, emit, counted, bump, addCtr]
  · have stored := cwAnswer_answers (s := s) (t := weightStored (counted s) c (bitsOf val.toNat 15 0)) rfl (ctr_counted s) rfl 2 stOk []
    obtain ⟨own, others⟩ := weight_weightStored (counted s) c (bitsOf val.toNat 15 0) (bitsOf_lt _)
    exact ⟨_, writeObj_weight serves free c val, stored, own, others, rfl, rfl, rfl⟩
  · obtain ⟨op, run⟩ := stale_answered serves free stale (o 0) val on i among
    obtain ⟨sent, ops, stales, frame⟩ := staleAnswer_answers s op
    exact ⟨_, op, run, ⟨sent, ops⟩, stales, frame⟩
  · have run : exec (.unitAction now 3 n t) s = .next (unitAction (counted s) 3 n t) :=
      congrArg Host.Outcome.next (onCewieb_now serves free _ 3 _)
    rw [unitAction_outOfService (s := counted s) unit waits] at run
    have frame := mapDue_frame (counted s) (.cluster n .outOfService)
    exact ⟨_, run, cwAnswer_answers (s := s) (congrArg State.emitted frame :) ((ctr_of_ctrs (mapDue_ctrs _ _) _).trans (ctr_counted s))
      (congrArg Sec.mview (mapDue_sec _ _) :) _ _ _, mem_mapDue _ _⟩
  · have run : exec (.unitAction now 2 n t) s = .next (unitAction (counted s) 2 n t) :=
      congrArg Host.Outcome.next (onCewieb_now serves free _ 3 _)
    rw [unitAction_spareless (s := counted s) spareless] at run
    have flagged : flagOn (setFlag (counted s) fReqRefused) fReqRefused = true := flagOn_setFlag_same _ _ (by decide)
    have sent : (setFlag (counted s) fReqRefused).emitted = s.emitted := setFlag_emitted _ _
    have seen : (setFlag (counted s) fReqRefused).sec.mview = s.sec.mview := congrArg Sec.mview (setFlag_sec (counted s) fReqRefused)
    have ops := ctr_setFlag (counted s) fReqRefused (secCtr 12)
    rw [if_neg (by decide), ctr_counted] at ops
    have kept := And.intro (setFlag_map (counted s) fReqRefused) (setFlag_cal (counted s) fReqRefused)
    generalize setFlag (counted s) fReqRefused = u at run flagged sent seen ops kept
    exact ⟨_, run, cwAnswer_answers sent ops seen 3 stBadDesc [], flagged, kept⟩
  · have run : exec (.policyLock now on) s = .next (setPolicyLock (counted s) on) :=
      congrArg Host.Outcome.next (onCewieb_now serves free _ 4 _)
    rw [setPolicyLock_eq] at run
    obtain ⟨frame, lock, view⟩ := lockSet_sec (counted s) on
    have sent : (lockSet (counted s) on).emitted = s.emitted := (congrArg State.emitted frame :)
    have ops : ctr (lockSet (counted s) on) (secCtr 12) = ctr s (secCtr 12) + 1 :=
      (ctr_of_ctrs (congrArg State.ctrs frame :) _).trans (ctr_counted s)
    exact ⟨_, run, lock, cwAnswer_answers sent ops view 4 stOk []⟩
  · have run : exec .evict s = .next (cwAnswer (teardownAsked (counted s)) 5 stOk []) := congrArg Host.Outcome.next (onCewieb_free serves free _ _)
    rw [teardownAsked_now (s := counted s) shut] at run
    obtain ⟨tenancy, -, streams⟩ := teardown_tears (s := counted s) bound
    exact ⟨_, run, tenancy, streams⟩
  · have run : exec .evict s = .next (cwAnswer (teardownAsked (counted s)) 5 stOk []) := congrArg Host.Outcome.next (onCewieb_free serves free _ _)
    rw [teardownAsked_unbound (s := counted s) unbound] at run
    exact ⟨_, run, cwAnswer_answers (s := s) (counted_emitted s) (ctr_counted s) rfl _ _ _, rfl⟩
  · have run := report_runs serves nonce
    rw [cwReport_eq, windowOpen_congr (counted_fw s), shut, if_neg (by decide)] at run
    have sent : (signReport (counted s) false nonce).1.emitted = s.emitted := signReport_emitted (counted s) false nonce
    have seen : (signReport (counted s) false nonce).1.sec.mview = s.sec.mview := congrArg Sec.mview (signReport_sec (counted s) false nonce)
    have counts := ctr_signReport (counted s) false nonce
    have reports := counts (secCtr 5)
    have ops := counts (secCtr 12)
    rw [if_pos rfl, counted, ctr_bump_other _ _ _ (by decide)] at reports
    rw [if_neg (by decide), ctr_counted] at ops
    exact ⟨_, run, (ctr_of_ctrs (emit_ctrs _ _) _).trans reports, cwAnswer_answers sent ops seen 6 stOk _⟩
  · have run := report_runs serves nonce
    rw [cwReport_eq, windowOpen_congr (counted_fw s), opened, if_pos rfl] at run
    refine ⟨_, run, ?_, rfl, rfl⟩
    rw [holdReport, ctr_bump_same]
    exact congrArg (· + 1) (ctr_bump_other s _ _ (by decide))
  · obtain ⟨run, through⟩ := exec_onCewieb s v (o 0) val on i among
    rw [through, onCewieb_held serves window]
  · rcases List.mem_append.1 (show i ∈ [Instr.readObj (o 0), .writeObj v (o 0) val, .unitAction v 1 0 0, .policyLock v on, .evict] ++ [.report nonce]
      from among) with among | last
    · obtain ⟨run, through⟩ := exec_onCewieb s v (o 0) val on i among
      rw [through, onCewieb_out out]
    · rw [List.mem_singleton.1 last]
      exact congrArg Host.Outcome.next (if_neg (by rw [out]; decide))

/-! ## Debug levels, bind policy and counters (R403, R406, R407, R495) -/

section Settings
variable {s : State} {l : BitVec 5}

/-- Some answer to an operation. -/
def cwTells (s u : State) (op status : Nat) : Prop := ∃ view body, u.emitted = .cewieb op status view body :: s.emitted

theorem cwAnswer_tells {t : State} (sent : t.emitted = s.emitted) (op status : Nat) (body : List (BitVec 8)) :
    cwTells s (cwAnswer t op status body) op status := ⟨t.sec.mview, body, by rw [cwAnswer, emit_emitted, sent]⟩

theorem okOrBad_tells {t : State} (sent : t.emitted = s.emitted) (op : Nat) : cwTells s (okOrBad t op true) op stOk := cwAnswer_tells sent op stOk []

/-- An operation with the present view runs in the state that has counted it. -/
theorem onCewieb_counted (serves : cwServes s = true) (free : s.fw.wd.phase ≠ .window) (i : Instr) (op : Nat) (run : State → State) :
    Host.Outcome.next (onCewieb s i (fun t => onView t op s.sec.mview run)) = (.next (run (counted s)) : Host.Outcome State Fault Refusal) :=
  congrArg Host.Outcome.next (onCewieb_now serves free i op run)

theorem debugOp_opens (allowed : levelsAllowed s l = true) (at_once : s.sec.tenancy = .bound ∧ s.sec.dbgTeardown = true → False) :
    debugOp s true l = cwAnswer (openLevels s l) 7 stOk [] := by
  rw [debugOp, if_neg (by decide), if_pos allowed, askLevels_open at_once]

theorem debugOp_refuses (forbidden : levelsAllowed s l = false) : debugOp s true l = cwAnswer s 7 stBadDesc [] := by
  rw [debugOp, if_neg (by decide), if_neg (by rw [forbidden]; decide)]

theorem debugOp_closes (s : State) (l : BitVec 5) : debugOp s false l = cwAnswer (closeLevels s l) 7 stOk [] := by
  rw [debugOp, if_pos (by decide)]

theorem closeLevels_emitted (s : State) (l : BitVec 5) : (closeLevels s l).emitted = s.emitted := (setLevels_frame s _).emitted

/-- The policy of mutual authentication as it is set. -/
def mutualSet (s : State) (m : Bool) : State :=
  if s.sec.bindMutual = m then s else bumpView { s with sec := { s.sec with bindMutual := m } }
/-- The policy of tdisp as it is set. -/
def tdispSet (s : State) (t : Bool) : State :=
  if s.sec.tdispReq = t then s else bumpView { s with sec := { s.sec with tdispReq := t } }

theorem mutualSet_set (s : State) (m : Bool) : (mutualSet s m).sec.bindMutual = m ∧ (mutualSet s m).emitted = s.emitted := by
  rw [mutualSet]
  split
  next same => exact ⟨same, rfl⟩
  next => exact ⟨rfl, rfl⟩

theorem tdispSet_set (s : State) (t : Bool) : (tdispSet s t).sec.tdispReq = t ∧ (tdispSet s t).sec.bindMutual = s.sec.bindMutual ∧
    (tdispSet s t).emitted = s.emitted := by
  rw [tdispSet]
  split
  next same => exact ⟨same, rfl, rfl⟩
  next => exact ⟨rfl, rfl, rfl⟩

theorem bindPolicyOp_eq (s : State) (m t : Bool) : bindPolicyOp s m t = cwAnswer (tdispSet (mutualSet s m) t) 8 stOk [] := rfl

/-- The live counters of a range, from index `first` up. -/
def liveCounters (s : State) (first count : BitVec 16) : List (BitVec 8) :=
  natLe s.dbg.snapTick.toNat 8 ++ (upTo count.toNat).flatMap (fun j => natLe (ctrAt s (first.toNat + j)).toNat 8)

theorem readCtrsOp_live {first count : BitVec 16} (some_ : 1 ≤ count.toNat) (most : count.toNat ≤ 512) (within : first.toNat + count.toNat ≤ 65536) :
    readCtrsOp s first count 0 = cwAnswer s 9 stOk (liveCounters s first count) := by
  have fits : ¬((0 : BitVec 8).toNat / 4 ≠ 0 ∨ count = 0 ∨ 512 < count.toNat ∨ 65536 < first.toNat + count.toNat) := by
    rintro (flags | none | many | beyond)
    · exact flags rfl
    · rw [none] at some_
      exact absurd some_ (by decide)
    · omega
    · omega
  rw [readCtrsOp, if_neg fits]
  rfl

end Settings

/-! ## Images and the anchor (R401, R437–R439, R442) -/

section Firmware
variable {s : State} {wd : Bool}

theorem cwKind_code (s : State) (wd : Bool) (run : Bool → State) : cwKind s (fwCode wd) run = run wd := by cases wd <;> rfl

theorem stageBegin_emitted (s : State) (wd : Bool) (len : Nat) (cw : Bool) : (stageBegin s wd len cw).emitted = s.emitted :=
  ((FwFrame.modFw s wd _).trans (.setPhase _ wd _)).emitted

/-- The first chunk of a stage. -/
def stageBegun (s : State) (wd : Bool) (off : Nat) (data : List (BitVec 8)) : State :=
  modFw (stageBegin s wd (regWord s (clkOff + 0x10)).toNat true) wd
    (fun k => { k with chunks := k.chunks.filter (fun c => decide (c.1 ≠ off)) ++ [(off, data)] })

theorem stageChunk_begins {off : Nat} {data : List (BitVec 8)} (idle : (fwOf s wd).phase = .idle) (some_ : data ≠ []) (small : data.length ≤ 4096)
    (within : off + data.length ≤ (regWord s (clkOff + 0x10)).toNat) : stageChunk s wd off data = cwAnswer (stageBegun s wd off data) 0xA stOk [] := by
  have fits : ¬(data = [] ∨ 4096 < data.length ∨ (regWord s (clkOff + 0x10)).toNat < off + data.length) := by
    rintro (none | long | beyond)
    · exact some_ none
    · omega
    · omega
  simp only [stageChunk, idle, ne_eq, not_true, false_and, if_false, if_neg fits, if_true, stageBegun]

theorem fwOf_stageBegun (s : State) (wd : Bool) (off : Nat) (data : List (BitVec 8)) :
    (fwOf (stageBegun s wd off data) wd).phase = .staging ∧ (fwOf (stageBegun s wd off data) wd).chunks = [(off, data)] ∧
      (fwOf (stageBegun s wd off data) wd).byCewieb = true ∧ fwOf (stageBegun s wd off data) (!wd) = fwOf s (!wd) := by
  rw [stageBegun, fwOf_modFw, fwOf_modFw_other, fwOf_stageBegin, fwOf_stageBegin_other]
  exact ⟨rfl, rfl, rfl, rfl⟩

theorem raiseFloorOp_idle (idle : (fwOf s wd).phase = .idle) : raiseFloorOp s wd =
    cwAnswer { s with fw := { s.fw with fuseQ := s.fw.fuseQ ++ [.floor wd (fwOf s wd).running.ver] } } 0xA stOk [] := by
  rw [raiseFloorOp, if_neg (by rw [idle]; decide)]

theorem raiseFloorOp_busy (busy : (fwOf s wd).phase ≠ .idle) : raiseFloorOp s wd = cwAnswer (setImgErr s 6) 0xA stBadDesc [] := by
  rw [raiseFloorOp, if_pos busy]

/-- A fuse record of the anchor. -/
def isAnchor : FuseJob → Bool
  | .anchor _ => true
  | _ => false

theorem anchorOp_queues (none : s.sec.anchor = none) (first : s.fw.fuseQ.any isAnchor = false) (hash : BitVec 384) :
    anchorOp s hash true = cwAnswer { s with fw := { s.fw with fuseQ := s.fw.fuseQ ++ [.anchor hash] } } 0xB stOk [] := by
  unfold anchorOp
  extract_lets due
  have unasked : due = false := first
  rw [none, unasked]
  rfl

end Firmware

/-- Settles O47: each operation runs with the present view in the state that has counted it, and its own equation gives the rest.  That a
connection beside four others counts in tls_fail (log 122) is the model's choice. -/
theorem cewiebDebugAndImages : Obligations.CewiebDebugAndImages := by
  unfold Obligations.CewiebDebugAndImages
  intro s wd l now kind k answers
  have sent := counted_emitted s
  refine ⟨fun serves free => ⟨fun allowed at_once => ?_, fun forbidden => ?_, ?_, fun m t => ?_, fun first count some_ most within => ?_,
    fun off data idle some_ small within => ?_, fun staged causes other => ?_, fun staged => ?_, fun idle => ?_, fun busy => ?_⟩,
    fun hash living normal free none unasked => ?_, fun file waits valid => ?_, fun ok others living => ⟨fun ⟨good, few⟩ => ?_, fun refused => ?_⟩⟩
  · have run : exec (.debugLevels now true l) s = .next (debugOp (counted s) true l) := onCewieb_counted serves free _ 7 _
    rw [debugOp_opens (s := counted s) allowed at_once] at run
    exact ⟨_, run, openLevels_levels (counted s) l, cwAnswer_tells (openLevels_frame (counted s) l).emitted 7 stOk []⟩
  · have run : exec (.debugLevels now true l) s = .next (debugOp (counted s) true l) := onCewieb_counted serves free _ 7 _
    rw [debugOp_refuses (s := counted s) forbidden] at run
    exact ⟨_, run, rfl, cwAnswer_tells sent 7 stBadDesc []⟩
  · have run : exec (.debugLevels now false l) s = .next (debugOp (counted s) false l) := onCewieb_counted serves free _ 7 _
    rw [debugOp_closes] at run
    exact ⟨_, run, closeLevels_levels (counted s) l, cwAnswer_tells (closeLevels_emitted (counted s) l) 7 stOk []⟩
  · have run : exec (.bindPolicy now m t) s = .next (bindPolicyOp (counted s) m t) := onCewieb_counted serves free _ 8 _
    rw [bindPolicyOp_eq] at run
    obtain ⟨mutual_, first⟩ := mutualSet_set (counted s) m
    obtain ⟨tdisp, kept, second⟩ := tdispSet_set (mutualSet (counted s) m) t
    exact ⟨_, run, kept.trans mutual_, tdisp, cwAnswer_tells (second.trans (first.trans sent)) 8 stOk []⟩
  · have run : exec (.readCtrs first count 0) s = .next (readCtrsOp (counted s) first count 0) :=
      congrArg Host.Outcome.next (onCewieb_free serves free _ _)
    rw [readCtrsOp_live some_ most within] at run
    refine ⟨_, run, countsOne_bump s (secCtr 12), rfl, ?_⟩
    rw [cwAnswer, emit_emitted, sent]
    rfl
  · have run : exec (.stageChunk now kind off data) s = .next (cwKind (counted s) kind (fun wd => stageChunk (counted s) wd off data)) :=
      onCewieb_counted serves free _ 0xA _
    rw [cwKind_code, stageChunk_begins (s := counted s) idle some_ small within] at run
    obtain ⟨phase, chunks, own, other⟩ := fwOf_stageBegun (counted s) wd off data
    refine ⟨_, run, phase, chunks, own, other, cwAnswer_tells ?_ 0xA stOk []⟩
    exact (FwFrame.modFw _ wd _).emitted.trans (stageBegin_emitted (counted s) wd _ true)
  · have run : exec (.commitImage now kind) s =
        .next (cwKind (counted s) kind (fun wd => okOrBad (commitKind (counted s) wd).2 0xA (commitKind (counted s) wd).1)) :=
      onCewieb_counted serves free _ 0xA _
    rw [cwKind_code, commitKind_opens (s := counted s) staged causes other] at run
    have phase : (fwOf (setPhase (counted s) wd .window) wd).phase = .window := by rw [fwOf_setPhase]
    exact ⟨_, run, phase, okOrBad_tells (FwFrame.setPhase (counted s) wd _).emitted 0xA⟩
  · have run : exec (.cancelImage now kind) s =
        .next (cwKind (counted s) kind (fun wd => okOrBad (cancelKind (counted s) wd).2 0xA (cancelKind (counted s) wd).1)) :=
      onCewieb_counted serves free _ 0xA _
    rw [cwKind_code, cancelKind_staged (s := counted s) staged] at run
    have dropped : fwOf (setPhase (dropPending (counted s) wd) wd .idle) wd = { fwOf (dropPending (counted s) wd) wd with phase := .idle } :=
      fwOf_setPhase _ wd _
    rw [fwOf_dropPending] at dropped
    exact ⟨_, run, (congrArg FwKind.phase dropped :), (congrArg FwKind.pending dropped :),
      okOrBad_tells ((FwFrame.dropPending (counted s) wd).trans (.setPhase _ wd _)).emitted 0xA⟩
  · have run : exec (.raiseFloor now kind) s = .next (cwKind (counted s) kind (raiseFloorOp (counted s))) := onCewieb_counted serves free _ 0xA _
    rw [cwKind_code, raiseFloorOp_idle (s := counted s) idle] at run
    exact ⟨_, run, rfl, cwAnswer_tells sent 0xA stOk []⟩
  · have run : exec (.raiseFloor now kind) s = .next (cwKind (counted s) kind (raiseFloorOp (counted s))) := onCewieb_counted serves free _ 0xA _
    rw [cwKind_code, raiseFloorOp_busy (s := counted s) busy] at run
    exact ⟨_, run, rfl, cwAnswer_tells sent 0xA stBadDesc []⟩
  · have queued : s.fw.fuseQ.any isAnchor = false := by
      rw [List.any_eq_false]
      intro j listed
      have other := List.all_eq_true.1 unasked j listed
      cases j with
      | anchor h => exact Bool.noConfusion other
      | _ => exact Bool.false_ne_true
    have run : exec (.anchorSet hash true) s = .next (anchorOp (counted s) hash true) := by
      refine congrArg Host.Outcome.next ((if_neg ?_).trans (if_neg free))
      rw [living, normal, none]
      decide
    rw [anchorOp_queues (s := counted s) none queued] at run
    exact ⟨_, run, rfl, cwAnswer_tells sent 0xB stOk []⟩
  · have run : exec (.bootImage now kind file) s = .next (cwKind (counted s) kind
        (fun wd => okOrBad (supply (counted s) wd file) 0xA (imageValid (counted s) wd file))) :=
      congrArg Host.Outcome.next ((if_pos waits).trans (if_pos rfl))
    have good : imageValid (counted s) wd file = true := (imageValid_of_floors rfl rfl wd file).trans valid
    rw [cwKind_code, good] at run
    refine ⟨_, run, okOrBad_tells (FwFrame.supply (s := counted s) wd file).emitted 0xA, ?_⟩
    show (if wd then (supply (counted s) wd file).fw.bootWd else (supply (counted s) wd file).fw.bootHm) = some (fileImage file)
    rw [supply_valid good]
    cases wd <;> rfl
  · refine congrArg Host.Outcome.next (if_pos ?_)
    rw [living, good, decide_eq_true few]
    rfl
  · refine ⟨bump s (secCtr 11), congrArg Host.Outcome.next (if_neg ?_), countsOne_bump s _, rfl⟩
    rw [living]
    rcases refused with bad | many
    · rw [bad, Bool.false_and]
      decide
    · rw [decide_eq_false (Nat.not_lt.2 many), Bool.and_false]
      decide

end Sys2Proof.Machine
end
